-- ==== Sys2Proof/Word.lean ====
section
/-! DEFINITION. The word types of the Blupiric model and their plainest arithmetic (00 R10-R12). -/

namespace Sys2Proof

/-- A register or address of the module, 64 bits (00 R13). -/
abbrev Word := BitVec 64

/-- A 32-bit register, instruction word or mailbox word. -/
abbrev Word32 := BitVec 32

/-- A byte of any memory. -/
abbrev Byte := BitVec 8

end Sys2Proof
end

