-- ==== Sys2Proof/Machine/Regs.lean ====
section
/-! DEFINITION. Every register that the spec gives the module under BAR0 and on the tray sideband, by its own name, with its
width, its access masks and its reset value (R13-R16 and the register maps of every chapter). Registers of the unit windows
(ferry channels, pass ports, claim counters, sorters) are views of typed state: WinRef names them. -/

namespace Sys2Proof.Machine

/-- The registers by the spec's names (R19). An instance number tells apart the copies: the function for FN_ and SRV_FN_
registers, the island for ISL_, the channel for PLN_CH_, the unit for VID_ENG_, the die for PWR_VOFS and its neighbours. -/
inductive Reg where
  -- per function, 09 R349
  | FN_ID | FN_STATUS | FN_FW_VER | FN_FW_SLOT | FN_MBX_OWN
  | FN_MBX_VEC0 | FN_MBX_VEC1 | FN_MBX_VEC2 | FN_MBX_VEC3
  | FN_EVT_VEC0 | FN_EVT_VEC1 | FN_EVT_VEC2 | FN_EVT_VEC3 | FN_INT_COAL
  | FN_EVT_BASE | FN_EVT_PROD_ADDR | FN_EVT_SIZE | FN_EVT_CTL | FN_EVT_PROD | FN_EVT_ACK | FN_EVT_DROPPED
  | FN_EVT | FN_EVT_CNT | FN_DROPPED_WR | FN_POST_REFUSED | FN_BAR2_DROPPED | FN_THR_ACTIVE | FN_THR_TOTAL_US
  -- islands, 02 R89
  | ISL_WIN_SEL | ISL_ID | ISL_STATUS | ISL_SLOT_MAP | ISL_SPARE | ISL_EVT | ISL_EVT_CNT | ISL_RES_CORR | ISL_ARITH_FLT
  | ISL_SRAM_CORR | ISL_SRAM_UNC | ISL_TLB_HIT | ISL_TLB_MISS | ISL_DROOP_CFG | ISL_DROOP_FIRES | ISL_BUBBLE | ISL_PDM_CTL
  | ISL_PDM0 | ISL_PDM1 | ISL_PDM2 | ISL_PDM3 | ISL_PDM4 | ISL_PDM5 | ISL_PDM6 | ISL_PDM7 | ISL_HOTSPOT
  -- the plain, 04 R182
  | PLN_STATUS | PLN_EVT | PLN_EVT_CNT | PLN_CFG | PLN_CE_TOTAL | PLN_EDC_RETRY | PLN_UE_TOTAL | PLN_MAC_FAIL | PLN_RETIRED
  | PLN_QUARANTINED | PLN_BINDABLE | PLN_EPOCH | PLN_PATROL_LAST | PLN_PATROL_POS | PLN_CH_SEL | PLN_CH_STATUS | PLN_CH_EDC
  | PLN_CH_RETRAIN | PLN_CH_CE
  -- serving, 07 R313
  | SRV_STATUS | SRV_EVT | SRV_EVT_CNT | SRV_FN_SEL | SRV_LIVE | SRV_FN_SHARE | SRV_FN_LIVE | SRV_FN_ADMIT | SRV_FN_REJECT
  | SRV_FN_TTFT_MISS | SRV_FN_TBT_MISS | SRV_FN_ATRISK | SRV_FN_UNCOMP | SRV_FN_TOKENS | SRV_FN_STEPS | SRV_FN_PREEMPT
  | SRV_FN_BUCKETS
  -- video, 08 R345
  | VID_STATUS | VID_EVT | VID_EVT_CNT | VID_ENG_SEL | VID_ENG_STATUS | VID_ENG_LOAD | VID_ENG_PICS | VID_ENG_CONCEAL
  | VID_ENG_RESETS | VID_POOL_FREE
  -- power, 14 R533
  | PWR_STATUS | PWR_EVT | PWR_EVT_CNT | PWR_LIMIT | PWR_DRAW | PWR_INPUT | PWR_LEASE | PWR_LEASE_SEQ | PWR_SAFE | PWR_COOLANT
  | PWR_FLOW | PWR_FORECAST | PWR_TJ | PWR_OP | PWR_THR_SEL | PWR_THR_US | PWR_THR_LOST | PWR_DIE_SEL | PWR_VOFS | PWR_MARGIN
  | PWR_TC0 | PWR_TC1 | PWR_TC2 | PWR_LIFE | PWR_TRIPS | PWR_LEASE_REFUSED
  -- reliability, 15 R571 and 18 R638
  | RAS_STATUS | RAS_EVT | RAS_EVT_CNT | RAS_OOS | RAS_LOG_WR | RAS_LOG_ACK | RAS_DROP_TOTAL | RAS_DROP_SEL | RAS_DROP_CNT
  | RAS_HANGS | RAS_WDOG | RAS_CTX_RESETS | RAS_ENG_RESETS | RAS_PART_RESETS | RAS_LADDER | RAS_REPLAY | RAS_DUMP
  | RAS_LAST_RESET | RAS_LAST_RESET_T | RAS_SIG_STATUS | RAS_SIG_EVT | RAS_SIG_EVT_CNT
  -- security, 12 R469
  | SEC_STATUS | SEC_EVT | SEC_EVT_CNT | SEC_SVN | SEC_DEBUG | SEC_DEBUG_FIRST | SEC_BOOT_COUNT | SEC_SESSIONS | SEC_TRNG_FAIL
  -- twin link and pair, 11 R427 and 16 R605
  | TWN_STATUS | TWN_EVT | TWN_EVT_CNT | TWN_MAPOUT | TWN_FEC_CORR | TWN_FEC_UNC | TWN_CRC_FAIL | TWN_REPLAY | TWN_RETRAIN
  | TWN_HB_MISS | TWN_CBL_SEL | TWN_CBL_STATUS
  | TWN_PAIR_STATUS | TWN_PAIR_EVT | TWN_PAIR_EVT_CNT | TWN_LOCK_MV | TWN_SYNC | TWN_DIVERGE | TWN_DIVERGE_WIN | TWN_UNCOMP
  | TWN_HOLDER_CHG | TWN_HOLD_MAX | TWN_RESYNC_BYTES
  -- timebase, 17 R624
  | TIM_STATUS | TIM_EVT | TIM_EVT_CNT | TIM_CLK_LOCK | TIM_NOW | TIM_PTM_OFS | TIM_PAIR_OFS | TIM_PPS_ERR | TIM_SLEW | TIM_STEP
  | TIM_VALLEY_CNT | TIM_VALLEY_LAST
  -- tray sideband, 14 R494, 15 R557, 18 R634
  | PWR_SB_LEASE | PWR_SB_COOLANT | PWR_SB_DEMAND | PWR_SB_FLOWREQ | PWR_SB_LSTAT | RAS_SB_CYCLE | RAS_SB_IDENT | RAS_SB_SERIAL
  | RAS_SB_STATE | RAS_SB_SIGFLT
  -- phase and ramp CSR mirrors of a partition, 14 R508
  | PWR_PH_PHASE | PWR_PH_TABLE | PWR_PH_OPNOW | PWR_PH_RAMP | PWR_PH_DUTY | PWR_PH_THR | PWR_PH_SWITCH_T | PWR_PH_SHARE
  deriving DecidableEq, Repr

/-- What the register maps say of one register: its width in bits, the bits software may write (RW), the bits a written 1
clears (W1C) or sets (W1S), its reset value, and whether the value stands in fuses or the non-volatile store and so
survives a chip reset. Every other bit is RO (R15, R16). -/
structure RegInfo where
  width : Nat := 32
  rw    : Word := 0
  w1c   : Word := 0
  w1s   : Word := 0
  reset : Word := 0
  store : Bool := false
  deriving DecidableEq, Repr

/-- The register maps of the chapters as one table. A "from store" or "from fuses" value is what log entry 11 names for a
module as shipped. -/
def Reg.info : Reg → RegInfo
  | .FN_ID => { reset := 0x0000_0100 }
  | .FN_MBX_VEC0 => { rw := 0xFFFF_FFFF, reset := 0x0403_0201 }
  | .FN_MBX_VEC1 => { rw := 0xFFFF_FFFF, reset := 0x0807_0605 }
  | .FN_MBX_VEC2 => { rw := 0xFFFF_FFFF, reset := 0x0C0B_0A09 }
  | .FN_MBX_VEC3 => { rw := 0xFFFF_FFFF, reset := 0x100F_0E0D }
  | .FN_EVT_VEC0 | .FN_EVT_VEC1 | .FN_EVT_VEC2 | .FN_EVT_VEC3 => { rw := 0xFFFF_FFFF }
  | .FN_INT_COAL => { rw := 0x00FF_FFFF, reset := 0x0001_0000 }
  | .FN_EVT_BASE | .FN_EVT_PROD_ADDR | .FN_EVT_ACK => { width := 64, rw := 0xFFFF_FFFF_FFFF_FFFF }
  | .FN_EVT_SIZE => { rw := 0x1F, reset := 6 }
  | .FN_EVT_CTL => { rw := 1 }
  | .FN_EVT_PROD | .FN_EVT_DROPPED | .FN_THR_TOTAL_US => { width := 64 }
  | .FN_EVT => { w1c := 0xFF }
  | .ISL_WIN_SEL => { rw := 0x3F }
  | .ISL_SLOT_MAP => { width := 64, reset := 0xFFFF_FFFF_FFFF_FFFF, store := true }
  | .ISL_SPARE => { store := true }
  | .ISL_EVT => { w1c := 0x7FF }
  | .ISL_TLB_HIT | .ISL_TLB_MISS => { width := 64 }
  | .ISL_DROOP_CFG => { rw := 0xF, reset := 3 }
  | .ISL_PDM_CTL => { w1s := 1 }
  | .PLN_EVT => { w1c := 0x7FF }
  | .PLN_CFG => { rw := 0x3FFFF, reset := 0x10 }
  | .PLN_CE_TOTAL | .PLN_EDC_RETRY | .PLN_PATROL_LAST => { width := 64 }
  | .PLN_RETIRED => { store := true }
  | .PLN_BINDABLE => { reset := 1802240, store := true }
  | .PLN_EPOCH => { reset := 1 }
  | .PLN_CH_SEL => { rw := 0x1F }
  | .SRV_EVT => { w1c := 0xFF }
  | .SRV_FN_SEL => { rw := 0x1F, reset := 1 }
  | .SRV_FN_ADMIT | .SRV_FN_REJECT | .SRV_FN_TTFT_MISS | .SRV_FN_TBT_MISS | .SRV_FN_ATRISK | .SRV_FN_UNCOMP | .SRV_FN_TOKENS
  | .SRV_FN_STEPS | .SRV_FN_PREEMPT | .SRV_FN_BUCKETS => { width := 64 }
  | .VID_EVT => { w1c := 0xFF }
  | .VID_ENG_SEL => { rw := 0xF }
  | .VID_ENG_PICS | .VID_ENG_CONCEAL => { width := 64 }
  | .VID_POOL_FREE => { reset := 0x200 }
  | .PWR_EVT => { w1c := 0xFFF }
  | .PWR_LIMIT => { reset := 0x0001_02BC }
  | .PWR_SAFE => { reset := 0x0000_02BC }
  | .PWR_TJ => { width := 64 }
  | .PWR_OP => { reset := 0x0000_5555 }
  | .PWR_THR_SEL => { rw := 0x1F }
  | .PWR_THR_US => { width := 64 }
  | .PWR_DIE_SEL => { rw := 0x7 }
  | .PWR_VOFS => { width := 64, store := true }
  | .PWR_MARGIN => { width := 64 }
  | .PWR_TC0 | .PWR_TC1 | .PWR_TC2 | .PWR_LIFE | .PWR_TRIPS => { store := true }
  | .RAS_STATUS => { reset := 1 }
  | .RAS_EVT => { w1c := 0x1FFF }
  | .RAS_OOS | .RAS_LADDER | .RAS_DUMP => { store := true }
  | .RAS_DROP_TOTAL | .RAS_LAST_RESET_T => { width := 64 }
  | .RAS_DROP_SEL => { rw := 0xFF }
  | .RAS_SIG_EVT => { w1c := 0x3FFF }
  | .SEC_STATUS => { reset := 1, store := true }
  | .SEC_EVT => { w1c := 0xFF }
  | .SEC_SVN | .SEC_BOOT_COUNT => { store := true }
  | .SEC_DEBUG_FIRST => { width := 64 }
  | .TWN_EVT => { w1c := 0xFF }
  | .TWN_MAPOUT => { store := true }
  | .TWN_FEC_CORR | .TWN_RESYNC_BYTES => { width := 64 }
  | .TWN_CBL_SEL => { rw := 1 }
  | .TWN_PAIR_STATUS => { reset := 0x800 }
  | .TWN_PAIR_EVT => { w1c := 0x3FF }
  | .TIM_EVT => { w1c := 0xFF }
  | .TIM_NOW | .TIM_PTM_OFS | .TIM_PAIR_OFS | .TIM_STEP => { width := 64 }
  | .PWR_SB_LEASE | .PWR_SB_COOLANT | .PWR_SB_DEMAND | .PWR_SB_FLOWREQ | .PWR_SB_LSTAT | .RAS_SB_CYCLE => { width := 64 }
  | .RAS_SB_IDENT => { width := 64, reset := 0x0000_010B_0000_0B40, store := true }
  | .RAS_SB_SERIAL => { width := 64, reset := 1, store := true }
  | .RAS_SB_STATE | .RAS_SB_SIGFLT => { width := 64 }
  | .PWR_PH_PHASE => { width := 64, rw := 0x7 }
  | .PWR_PH_OPNOW => { width := 64, reset := 0xFFFF }
  | .PWR_PH_RAMP => { width := 64, reset := 256 }
  | .PWR_PH_TABLE | .PWR_PH_DUTY | .PWR_PH_THR | .PWR_PH_SWITCH_T | .PWR_PH_SHARE => { width := 64 }
  | _ => {}

/-- The reset value of one copy of a register (FN_ID and ISL_ID carry their own number, R351 and R89). -/
def Reg.resetVal (r : Reg) (inst : Nat) : Word :=
  match r with
  | .FN_ID => 0x0000_0100 ||| BitVec.ofNat 64 inst
  | .ISL_ID => BitVec.ofNat 64 (inst + (inst / 16) * 64 + (inst % 16) * 256 + 66 * 65536)
  | _ => r.info.reset

/-- The event counter beside a W1C status register (R547). -/
def Reg.counterOf : Reg → Option Reg
  | .FN_EVT => some .FN_EVT_CNT
  | .ISL_EVT => some .ISL_EVT_CNT
  | .PLN_EVT => some .PLN_EVT_CNT
  | .SRV_EVT => some .SRV_EVT_CNT
  | .VID_EVT => some .VID_EVT_CNT
  | .PWR_EVT => some .PWR_EVT_CNT
  | .RAS_EVT => some .RAS_EVT_CNT
  | .RAS_SIG_EVT => some .RAS_SIG_EVT_CNT
  | .SEC_EVT => some .SEC_EVT_CNT
  | .TWN_EVT => some .TWN_EVT_CNT
  | .TWN_PAIR_EVT => some .TWN_PAIR_EVT_CNT
  | .TIM_EVT => some .TIM_EVT_CNT
  | _ => none

/-- One copy of one register. -/
structure RegKey where
  reg  : Reg
  inst : Nat
  deriving DecidableEq, Repr

end Sys2Proof.Machine
end

