-- ==== Sys2Proof/Machine/Tab.lean ====
section
/-! DEFINITION. Tables keyed by number, byte memories in one canonical form, and the bit-field helpers of every chapter. -/

namespace Sys2Proof.Machine

/-- A table from a key to a value; a key that is not listed has the reader's default. -/
abbrev Tab (α : Type) := List (Nat × α)

/-- The value at key k, or d where none is listed. -/
def tabGet {α : Type} (t : Tab α) (d : α) (k : Nat) : α :=
  match t with
  | [] => d
  | (j, v) :: r => if j = k then v else tabGet r d k

/-- The value at key k, if one is listed. -/
def tabFind {α : Type} (t : Tab α) (k : Nat) : Option α :=
  match t with
  | [] => none
  | (j, v) :: r => if j = k then some v else tabFind r k

/-- Set the value at key k. -/
def tabSet {α : Type} (t : Tab α) (k : Nat) (v : α) : Tab α :=
  match t with
  | [] => [(k, v)]
  | (j, w) :: r => if j = k then (k, v) :: r else (j, w) :: tabSet r k v

/-- Remove key k. -/
def tabDel {α : Type} (t : Tab α) (k : Nat) : Tab α :=
  t.filter fun e => !decide (e.1 = k)

/-- Change the value at key k. -/
def tabUpd {α : Type} (t : Tab α) (d : α) (k : Nat) (f : α → α) : Tab α :=
  tabSet t k (f (tabGet t d k))

/-- Set one value at every key of a list. -/
def tabSetAll {α : Type} (t : Tab α) (ks : List Nat) (v : α) : Tab α :=
  ks.foldl (fun a k => tabSet a k v) t

/-- Change every value of a table. -/
def tabMap {α : Type} (f : α → α) (t : Tab α) : Tab α := List.map (fun e => (e.1, f e.2)) t

/-- A byte memory: (address, byte) pairs with rising addresses, no byte 0; an unlisted address reads 0 (log entry 2). -/
abbrev Memory := List Host.Cell

/-- What an unlisted address of every memory reads as (log entry 2; R164 for the plain). -/
def memDefault : Byte := 0

/-- The byte at an address. -/
def memGet : Memory → Nat → Byte
  | [], _ => memDefault
  | (c, b) :: r, a => if c = a then b else memGet r a

/-- Store one byte, keeping the canonical form. -/
def memSet : Memory → Nat → Byte → Memory
  | [], a, b => if b = memDefault then [] else [(a, b)]
  | (c, d) :: r, a, b =>
    if a < c then (if b = memDefault then (c, d) :: r else (a, b) :: (c, d) :: r)
    else if a = c then (if b = memDefault then r else (a, b) :: r)
    else (c, d) :: memSet r a b

/-- The bytes at n addresses from a on. -/
def memRead (m : Memory) (a : Nat) : Nat → List Byte
  | 0 => []
  | n + 1 => memGet m a :: memRead m (a + 1) n

/-- Store bytes from address a on. -/
def memWrite (m : Memory) (a : Nat) : List Byte → Memory
  | [] => m
  | b :: r => memWrite (memSet m a b) (a + 1) r

/-- Zero the addresses lo to lo + n − 1. -/
def memClear (m : Memory) (lo n : Nat) : Memory :=
  m.filter fun c => !(decide (lo ≤ c.1) && decide (c.1 < lo + n))

/-- Every listed address is above lo, addresses rise, and no byte is 0. -/
def memWfFrom (lo : Nat) : Memory → Bool
  | [] => true
  | (a, b) :: r => decide (lo ≤ a) && decide (b ≠ memDefault) && memWfFrom (a + 1) r

/-- The canonical form of a memory. -/
def Memory.wf (m : Memory) : Bool := memWfFrom 0 m

/-- Little-endian bytes as a number (R12). -/
def leNat : List Byte → Nat
  | [] => 0
  | b :: r => b.toNat + 256 * leNat r

/-- A number as n little-endian bytes (R12). -/
def natLe (v : Nat) : Nat → List Byte
  | 0 => []
  | n + 1 => BitVec.ofNat 8 v :: natLe (v / 256) n

/-- One byte of the reflected CRC-32 of IEEE 802.3. -/
def crcByte (c : Nat) (b : Byte) : Nat :=
  (List.range 8).foldl (fun c _ => if c % 2 = 1 then Nat.xor (c / 2) 0xEDB8_8320 else c / 2) (Nat.xor c b.toNat)

/-- CRC-32 (IEEE 802.3). -/
def crc32 (l : List Byte) : Nat := Nat.xor (l.foldl crcByte 0xFFFF_FFFF) 0xFFFF_FFFF

/-- The n-byte little-endian number at address a. -/
def memNat (m : Memory) (a n : Nat) : Nat := leNat (memRead m a n)

/-- Store a number as n little-endian bytes. -/
def memPut (m : Memory) (a n v : Nat) : Memory := memWrite m a (natLe v n)

/-- The field of len bits from bit lo of a number. -/
def bits (v lo len : Nat) : Nat := v / 2 ^ lo % 2 ^ len

/-- The field of len bits from bit lo of a register. -/
def fld (w : Word) (lo len : Nat) : Nat := bits w.toNat lo len

/-- A register with the field of len bits from bit lo replaced. -/
def setFld (w : Word) (lo len v : Nat) : Word :=
  BitVec.ofNat 64 (w.toNat - fld w lo len * 2 ^ lo + v % 2 ^ len * 2 ^ lo)

/-- Bit i of a number. -/
def bitAt (v i : Nat) : Bool := bits v i 1 = 1

/-- The set bits below n of a mask, ascending. -/
def maskBits (m n : Nat) : List Nat := (List.range n).filter (bitAt m)

/-- The mask with the named bits set. -/
def maskOf (l : List Nat) : Nat := l.foldl (fun m i => if bitAt m i then m else m + 2 ^ i) 0

/-- Ceiling division. -/
def ceilDiv (a b : Nat) : Nat := (a + b - 1) / b

/-- Two's complement reading of the low n bits. -/
def signed (n v : Nat) : Int := if bits v (n - 1) 1 = 1 then (bits v 0 n : Int) - 2 ^ n else (bits v 0 n : Int)

/-- An integer as n bits, modulo 2^n. -/
def unsignedOf (n : Nat) (v : Int) : Nat := (v % (2 ^ n : Int)).toNat

/-- A Bool as a bit. -/
def b2n (b : Bool) : Nat := if b then 1 else 0

/-- The 64-bit register value of a number. -/
def w64 (n : Nat) : Word := BitVec.ofNat 64 n

/-- The 32-bit value of a number. -/
def w32 (n : Nat) : Word32 := BitVec.ofNat 32 n

end Sys2Proof.Machine
end

