-- ==== Sys2Proof/Machine/TypesMedia.lean ====
section
/-! DEFINITION. The state of the serving engine (07) and of the media die (08). -/

namespace Sys2Proof.Machine

/-- Request states (R269); FREE is the absence of an entry. -/
inductive ReqState where
  | queued | prefill | decode | held | ending
  deriving DecidableEq, Repr

/-- A request table entry (R268), with the request's written tokens and KV pages. -/
structure Req where
  reqId : Nat
  st : ReqState := .queued
  strict : Bool := false
  uncomp : Bool := false
  bucket : Nat := 0
  model : Nat := 0
  adapter : Nat := 0xFFF
  ttft : Nat := 1
  tbt : Nat := 1
  tArrive : Nat := 0
  tFirst : Nat := 0
  tLast : Nat := 0
  promptLen : Nat := 1
  tokens : Nat := 0
  maxTokens : Nat := 1
  stopset : Nat := 0xFFFF
  evtEvery : Nat := 0
  prefillDone : Nat := 0
  slack : Int := 0
  outAddr : Nat := 0
  promptAddr : Nat := 0
  seed : Nat := 0
  tbtMiss : Nat := 0
  ttftMiss : Bool := false
  matched : List Nat := []
  stopReason : Nat := 0
  temp : Nat := 0
  topP : Nat := 0
  topK : Nat := 0
  deadline : Nat := 0
  kv : List Nat := []
  prompt : List Nat := []
  toks : List Nat := []
  uncompRecs : Nat := 0
  recs : List (List Byte) := []
  atRisk : Bool := false
  cancel : Bool := false
  wasPrefill : Bool := false
  deriving DecidableEq, Repr

/-- A row of a step (R288). -/
structure Row where
  lslot : Nat
  tag : Nat
  prefill : Bool
  sample : Bool
  pos : Nat
  ntok : Nat
  deriving DecidableEq, Repr

/-- A step record in flight (R287). work adds up, over the time since the post and up to since, the clock in tenths of GHz times 64 less
the bubble duty (R276); mw adds up the power of the partition's islands over ticks microseconds (R497). -/
structure Stp where
  no : Nat
  tPost : Nat
  rows : List Row
  phase : Nat
  replay : Bool := false
  solo : Bool := false
  done : Bool := false
  work : Nat := 0
  since : Nat := 0
  mw : Nat := 0
  ticks : Nat := 0
  deriving DecidableEq, Repr

/-- A serving configuration (R270) with its time model (R275) and its step state. -/
structure SCfg where
  stepPass : Nat
  donePass : Nat
  stepRing : Nat
  resultRing : Nat
  kvBase : Nat
  kvPages : Nat
  kvIdx : Nat
  maxp : Nat
  tokPerPage : Nat
  kvFmt : Nat
  maxContext : Nat
  vocab : Nat
  chunk : Nat
  maxStepTokens : Nat
  maxRows : Nat
  aUs : Nat
  bNs : Nat
  phasePrefill : Nat
  phaseDecode : Nat
  bucketUs : Nat
  atRiskUs : Nat
  kvFree : List Nat := []
  kvBad : List Nat := []
  nextStep : Nat := 1
  step : Option Stp := none
  interrupted : Nat := 0
  solos : List Row := []
  lastTpred : Nat := 0
  doneGen : Nat := 0
  deriving DecidableEq, Repr

/-- A stop set (R300). -/
structure StopSet where
  eos : List Nat
  seqs : List (List Nat)
  deriving DecidableEq, Repr

/-- One layer of an adapter (R292): add or multiply, channels per value, channel count, FP32 values. -/
structure AdLayer where
  layer : Nat
  mul : Bool
  gshift : Nat
  channels : Nat
  vals : List Nat
  deriving DecidableEq, Repr

/-- A loaded adapter slot (R294). -/
structure Adapter where
  fn : Nat
  model : Nat
  size : Nat
  pages : List Nat := []
  layers : List AdLayer
  deriving DecidableEq, Repr

/-- The serving engine. Requests are keyed by function × 65,536 + LSLOT, models by function × 65,536 + MODEL, stop sets by
function × 256 + number, adapters by slot. -/
structure Srv where
  reqs : Tab Req := []
  models : Tab SCfg := []
  stops : Tab StopSet := []
  adapters : Tab Adapter := []
  deriving DecidableEq, Repr

/-- Reference marks of a picture slot (R330). -/
inductive RefMark where
  | unused | short | long
  deriving DecidableEq, Repr

/-- A picture buffer slot of a stream (R330): ord numbers the pictures in decode order from 1, pic in output order. -/
structure PicSlot where
  ord : Nat := 0
  mark : RefMark := .unused
  hold : Bool := false
  pic : Nat := 0
  concealed : Bool := false
  damaged : Bool := false
  deriving DecidableEq, Repr

/-- A queued access unit, or input picture of an encode stream (R325, R321): its address, length and stamp, and for an
encode picture its crop, skew and rotation. -/
structure AU where
  addr : Nat
  len : Nat
  pts : Nat
  geom : List Nat := []
  deriving DecidableEq, Repr

/-- An error the decoder met: the class of R331, the failing CTU, and the CTU where decoding resumed (R332). -/
structure DecErr where
  cls : Nat
  first : Nat
  resume : Nat
  deriving DecidableEq, Repr

/-- A decoded picture that has not been output: its access unit, what decoding found, and its lost CTUs. -/
structure Decoded where
  au : AU
  slot : Nat
  key : Bool
  lost : Bool
  damaged : Bool
  errs : List DecErr
  ctus : List Nat
  deriving DecidableEq, Repr

/-- A block that the encoder predicts from the reference in a slot: its luma rectangle, and its vector in quarter samples (R337). -/
structure EncBlock where
  slot : Nat
  x : Nat
  y : Nat
  w : Nat
  h : Nat
  mx : Int
  my : Int
  deriving DecidableEq, Repr

/-- The search window that an encode engine holds on chip: the CTU row, and the 64-sample columns of it that are loaded, counted in CTUs
from the picture's left edge (R337). -/
structure EncWin where
  row : Nat := 0
  cols : List Int := []
  deriving DecidableEq, Repr

/-- A coded access unit waiting for ring space (R327), with the predictions that it was coded with (R337). -/
structure Coded where
  pic : Nat
  len : Nat
  qp : Nat
  flags : Nat
  blocks : List EncBlock := []
  deriving DecidableEq, Repr

/-- A video stream (R320, R325 to R330, R338). params are the words of its open command. For an encode stream, off and full are
the offset and fullness of its rate control, last the bits and quantiser of the last picture of each type (0 key, 1 other), and
sinceKey counts pictures from the last key picture. waitKey asks for a key picture after an engine reset, lastOut is the slot of
the last output picture, and closing the close command that waits for its last outputs. -/
structure VStream where
  fn : Nat
  eng : Nat
  enc : Bool
  codec : Nat
  w : Nat
  h : Nat
  depth : Nat
  cost : Nat
  params : List Nat
  area : Nat
  ring : Nat
  ringLen : Nat := 0
  q : Nat := 0
  maxbr : Nat := 0
  window : Nat := 0
  keyInt : Nat := 1
  queue : List AU := []
  count : Nat := 0
  pics : Nat := 0
  concealed : Nat := 0
  slots : List PicSlot := []
  decoded : List Decoded := []
  lastOut : Option Nat := none
  wp : Nat := 0
  rp : Nat := 0
  waiting : List Coded := []
  off : Nat := 0
  full : Nat := 0
  last : Tab (Nat × Nat) := []
  sinceKey : Nat := 0
  waitKey : Bool := false
  closing : Option (Nat × Nat) := none
  deriving DecidableEq, Repr

/-- A picture queued at a conversion job: its number, its buffer in the plain view with its size and bit depth, the output rows
made (R343), and the output bytes already taken. -/
structure CPic where
  pic : Nat
  buf : Nat
  w : Nat
  h : Nat
  depth : Nat
  made : Nat := 0
  taken : Nat := 0
  deriving DecidableEq, Repr

/-- A conversion job (R340); stream 0xFFFF is the JPEG queue, planar is LAYOUT NCHW. -/
structure CJob where
  stream : Nat
  outW : Nat
  outH : Nat
  channels : Nat
  ebytes : Nat
  params : List Nat
  planar : Bool
  drop : Bool
  queue : List CPic := []
  deriving DecidableEq, Repr

/-- A queued JPEG image (R323). -/
structure JImg where
  fn : Nat
  no : Nat
  addr : Nat
  len : Nat
  dst : Nat
  pts : Nat
  strips : Nat := 0
  lostStrips : Nat := 0
  errors : Nat := 0
  firstCls : Nat := 0
  deriving DecidableEq, Repr

/-- The media die. Streams are keyed by id, jobs by function × 256 + job, engines by 0 to 7 decode, 8 to 11 encode; rr is the stream that an
engine served last, win the search window of an encode engine, 8 to 11 (R337). closed holds the pool slots of closed streams whose last
descriptor has not ended. -/
structure Vid where
  streams : Tab VStream := []
  closed : Tab Nat := []
  jobs : Tab CJob := []
  jpeg : List JImg := []
  jpegNo : Tab Nat := []
  jpegLast : Nat := 0
  rr : Tab Nat := []
  win : Tab EncWin := []
  deriving DecidableEq, Repr

end Sys2Proof.Machine
end

