-- ==== Sys2Proof/Machine/TypesFabric.lean ====
section
/-! DEFINITION. The state of the island dies: threads, tensor units, islands, contexts (02, 03), the plain (04), ferries,
passes and the ramp governor (05), and the score sorters (06). Thread g is island × 512 + slot × 8 + thread (R17). -/

namespace Sys2Proof.Machine

/-- Thread states (02, Thread states). -/
inductive ThState where
  | idle | run | passWait | halted | exited
  deriving DecidableEq, Repr

/-- Where the data of a load goes, and how it is widened; a vector load lists its elements with their addresses. -/
inductive LdKind where
  | int (bytes : Nat) (sext : Bool)
  | fp
  | vec (eew : Nat) (elems : List (Nat × Nat))
  deriving DecidableEq, Repr

/-- A plain or store load in flight (R54): ord orders it among the thread's instructions, and dead is that a later instruction has
written its register, which its data then leaves alone. -/
structure PLoad where
  pc : Word
  rd : Nat
  addr : Nat
  kind : LdKind
  ord : Nat := 0
  dead : Bool := false
  deriving DecidableEq, Repr

/-- A plain store in flight, in pieces of address and bytes (R167). -/
structure PStore where
  pc : Word
  ord : Nat := 0
  parts : List (Nat × List Byte)
  deriving DecidableEq, Repr

/-- What a thread in RUN or PASS_WAIT waits for; len is the length of the store that waits for a queue entry, and stamp that of the
release that ended the wait (R223). -/
inductive Stall where
  | none
  | post (ch addr len : Nat)
  | sort (s addr len : Nat)
  | arrive (pass : Nat)
  | wait (pass gen rd : Nat) (stamp : Option Nat)
  | icache (until_ : Nat)
  deriving DecidableEq, Repr

/-- One hardware thread (R52, R69, R96). Integer register 0 is never stored. -/
structure Thread where
  st : ThState := .idle
  ctx : Nat := 0
  exiting : Bool := false
  pc : Word := 0
  x : Tab Word := []
  f : Tab Word32 := []
  v : Tab (BitVec 512) := []
  fflags : Nat := 0
  frm : Nat := 0
  vstart : Nat := 0
  vxsat : Nat := 0
  vxrm : Nat := 0
  vl : Nat := 0
  vtype : Word := 0x8000_0000_0000_0000
  tcfg : Word := 0
  scaleA : Word := 0
  scaleB : Word := 0
  layer : Word := 0xFFFF
  instret : Nat := 0
  acc : Tab Word32 := []
  tags : Tab Nat := []
  latch : Option (Nat × Nat) := none
  loads : List PLoad := []
  store : Option PStore := none
  stall : Stall := .none
  lastIssue : Option Nat := none
  deriving DecidableEq, Repr

/-- A queued Xyt instruction (R97, R98). -/
inductive TOp where
  | tmma (a b : Nat)
  | tmmas (a b : Nat)
  | tzero (all : Bool)
  | tepi (desc : List Byte)
  | tred (op : Nat) (col : Bool) (vd : Nat)
  deriving DecidableEq, Repr

/-- An entry of a tensor issue queue, with the values in force at its issue (R98); ord orders a thread's entries. -/
structure TEntry where
  gid : Nat
  acc : Nat
  op : TOp
  tcfg : Word
  scaleA : Word
  scaleB : Word
  layer : Nat
  tags : List Nat
  pc : Word
  ord : Nat
  deriving DecidableEq, Repr

/-- One tensor unit: issue queue, array and epilogue stage (R141, R142), and its standing with the ramp governor (R235). -/
structure Tensor where
  queue : List TEntry := []
  arr : Option TEntry := none
  reexec : Bool := false
  epi : Option TEntry := none
  issuing : Bool := false
  waiting : Bool := false
  admitted : Bool := false
  deriving DecidableEq, Repr

/-- One physical core's record for the spare rules (R79, R559 rules 8 to 10). -/
structure CoreHealth where
  sram : List (Nat × Nat) := []
  suspect : Bool := false
  failing : Option Nat := none
  deriving DecidableEq, Repr

/-- Page states (R162, R163). -/
inductive PgState where
  | unwritten | written | retired | quarantined
  deriving DecidableEq, Repr

/-- A page state entry (R162); owner 0 none, 1 to 16 VFs, 0x1E PF0, 0x1F firmware. -/
structure Page where
  owner : Nat := 0
  st : PgState := .unwritten
  kvc : Bool := false
  migrating : Bool := false
  ce : Nat := 0
  epoch : Nat := 0
  deriving DecidableEq, Repr

/-- A translation held in a translation cache, with its copy of the page's OWNER, STATE and EPOCH (R85, R165). -/
structure TlbEnt where
  fn : Nat
  vpn : Nat
  ppn : Nat
  write : Bool
  owner : Nat
  st : PgState
  epoch : Nat
  deriving DecidableEq, Repr

/-- A claim counter (R62). -/
structure Claim where
  value : Nat := 0
  addend : Nat := 0
  limit : Nat := 0
  deriving DecidableEq, Repr

/-- One island beside its registers: the physical core behind each exposed slot, TLB, adapter cache lines (slot, layer, group), claim
counters, fence counters, SRAM words found uncorrectable (slot, address / 8; or 64 for the store, address / 16), the cycle at its last
engine reset, and whether a remap's engine reset is due (R81). bubbles counts the bubble cycles since that reset (R88), droopAt is the cycle
of the last droop crossing (R87), droopUs that droop bubbles have come since the last duty tick, and winNo and winUsed are the ramp window
of the last admission and the admissions in it (R236). -/
structure Island where
  phys : List Nat := List.range 64
  tlb : List TlbEnt := []
  lines : List (Nat × Nat × Nat) := []
  claims : Tab Claim := []
  fences : Tab Nat := []
  cyc0 : Nat := 0
  lastAdmit : Nat := 63
  badWords : List (Nat × Nat) := []
  remapDue : Bool := false
  bubbles : Nat := 0
  droopAt : Option Nat := none
  droopUs : Bool := false
  switchAt : Option Nat := none
  winNo : Nat := 0
  winUsed : Nat := 0
  deriving DecidableEq, Repr

/-- The record of a thread exception (R72). -/
structure FaultRec where
  cause : Nat
  pc : Word
  addr : Word
  gid : Nat
  time : Nat
  deriving DecidableEq, Repr

/-- Why a context ends or is reset (R66, R72, R218, R266, R552 to R554). -/
inductive CtxEnd where
  | fault (f : FaultRec)
  | ferry (ch seq tag code addr : Nat)
  | sorter (s seq tag code addr : Nat)
  | abort (code : Nat)
  | stopped
  | hang (charged : Option Nat)
  | watchdog
  | engine (cause : Nat)
  | trip
  deriving DecidableEq, Repr

/-- One context (R52, R53, R646): its start record, and why it stops once it does; charge is the source of the engine that its
reset is charged to (R558), restart that its reset is complete and the MCP will start it again (R650, R563), reported that its fault
event is posted, and slots the contents of the adapter slots at its start (R122). -/
structure Ctx where
  fn : Nat
  prog : Nat
  islands : List Nat
  arg : Nat
  startT : Nat
  seq : Nat
  serving : Option Nat := none
  replayable : Bool := false
  why : Option CtxEnd := none
  charge : Option Nat := none
  done : Bool := false
  restart : Bool := false
  reported : Bool := false
  slotBase : Nat := 0
  slotCount : Nat := 0
  slots : Tab Adapter := []
  deriving DecidableEq, Repr

/-- The island compute fabric. Cores are keyed by island × 64 + slot, physical cores by island × 66 + number; rr is the slot's
last issuing thread, used the cycle of a core's last issue (R47), vbusy the count of cycles without bubbles up to which its vector unit
is occupied (R50, R51), traceT the time of each thread's last TRACE event, and traceDrops counts each function's dropped TRACE calls
(R67). -/
structure Fab where
  threads : Tab Thread := []
  tens : Tab Tensor := []
  rr : Tab Nat := []
  used : Tab Nat := []
  vbusy : Tab Nat := []
  cores : Tab CoreHealth := []
  islands : Tab Island := []
  ctxs : Tab Ctx := []
  nextCtx : Nat := 1
  starts : Nat := 0
  lsram : Memory := []
  istore : Memory := []
  dieCyc : Tab Nat := []
  straitFails : Tab Nat := []
  straitDown : List Nat := []
  straitTrain : List Nat := []
  straitCorr : Tab Nat := []
  traceT : Tab Nat := []
  traceDrops : Tab Nat := []
  deriving DecidableEq, Repr

/-- A level-2 map entry (R170). -/
structure MapEnt where
  ppn : Nat
  write : Bool
  deriving DecidableEq, Repr

/-- Who asked for a sector (R174). -/
inductive Consumer where
  | thread (gid : Nat)
  | ferry (ch : Nat)
  | host (fn : Nat)
  | patrol
  deriving DecidableEq, Repr

/-- The plain beside its registers (04). The data memory is keyed by PSN × 256 + byte; secEpoch and secFmt are the EPOCH and
FMT fields of each sector's metadata block, and secKey the owner and generation of the key set that wrote it last; maps are keyed by
function × 2^21 + VPN; caches are the translation caches of the long ferries, 0 to 15, and of the hub, 16 (R172). draws counts the epoch
values issued, drawsAtStart and drawsAtPass those issued before the present patrol pass and before the last complete one began; drawWait
lists the mailboxes whose command waits for a value. migr names the new page of each page under migration (R176), noTest the pages that a
full retirement list quarantined (R177), and patrolDone the sectors of its page that the patrol has visited. -/
structure Pln where
  data : Memory := []
  pages : Tab Page := []
  bootEpoch : Nat := 0
  secEpoch : Tab Nat := []
  secFmt : Tab Nat := []
  secKey : Tab (Nat × Nat) := []
  maps : Tab MapEnt := []
  caches : Tab (List TlbEnt) := []
  draws : Nat := 0
  drawsAtPass : Nat := 0
  drawSec : Nat := 0
  drawCnt : Nat := 0
  drawsAtStart : Nat := 0
  drawWait : List (Nat × Nat) := []
  rereads : List (Nat × Consumer) := []
  edcTries : Tab Nat := []
  retired : List Nat := []
  freeUe : List Nat := []
  migr : Tab Nat := []
  noTest : List Nat := []
  patrolDone : List Nat := []
  keyGen : Tab Nat := []
  rate : Nat := 0
  rateOk : Nat := 7
  tempRate : Bool := false
  coolSince : Option Nat := none
  hotSince : Option Nat := none
  warmSince : Option Nat := none
  deriving DecidableEq, Repr

/-- Where a byte that a ferry moves lies: local SRAM, island store, a physical page, host memory, or the converter's output. -/
inductive FLoc where
  | lsram (core off : Nat)
  | istore (island off : Nat)
  | plain (ppn off : Nat)
  | host (addr : Nat)
  | conv (off : Nat)
  deriving DecidableEq, Repr

/-- A ferry descriptor in a channel's queue (R196), with its poster; raced lists its destination bytes that another descriptor
wrote while both ran (R201), stale the bytes that its source held before another wrote them while both ran (R201, R214), ended the
stream whose conversion job, its FRAME source, has ended (R344), long that a long ferry runs it (R187), and own the bytes that the MCP
writes with it (R289). -/
structure Desc where
  seq : Nat
  raw : List Byte
  param : List Byte
  fn : Nat
  ctx : Option Nat
  gid : Nat
  island : Nat
  cmd : Option (Nat × Nat)
  started : Bool := false
  raced : List FLoc := []
  stale : List (FLoc × Byte) := []
  ended : Option Nat := none
  long : Bool := false
  own : Option (List Byte) := none
  deriving DecidableEq, Repr

/-- A ferry channel (R190, R191): its counts, its queue and its last error; haltCtx is the context whose descriptor halted
it. -/
structure Chan where
  posted : Nat := 0
  done : Nat := 0
  halted : Bool := false
  haltCtx : Option Nat := none
  errCode : Nat := 0
  errAddr : Nat := 0
  queue : List Desc := []
  deriving DecidableEq, Repr

/-- Ferry channels, keyed by the code of R371: island × 8 + ferry × 4 + channel, or 0x8000 + g. -/
structure Fry where
  chans : Tab Chan := []
  deriving DecidableEq, Repr

/-- A pass record at its home port (R221, R222), with the stamps of its last four releases, newest first (R223). -/
structure Pass where
  target : Nat := 0
  count : Nat := 0
  gen : Nat := 0
  last : Nat := 0
  stamps : List Nat := []
  deriving DecidableEq, Repr

/-- Passes, and the arrivals and acknowledgements in flight between islands and home ports. -/
structure Pas where
  recs : Tab Pass := []
  inflight : List (Nat × Option Nat) := []
  acks : List (Nat × Nat × Nat) := []
  deriving DecidableEq, Repr

/-- A sorter job (R261), with the marks of R201 as for a descriptor. -/
structure SJob where
  seq : Nat
  raw : List Byte
  fn : Nat
  ctx : Nat
  gid : Nat
  started : Bool := false
  raced : List FLoc := []
  stale : List (FLoc × Byte) := []
  deriving DecidableEq, Repr

/-- A score sorter (R259, R260); haltCtx is the context whose job halted it. -/
structure Sorter where
  posted : Nat := 0
  done : Nat := 0
  halted : Bool := false
  haltCtx : Option Nat := none
  errCode : Nat := 0
  errAddr : Nat := 0
  queue : List SJob := []
  deriving DecidableEq, Repr

/-- The four score sorters. -/
structure Srt where
  units : Tab Sorter := []
  deriving DecidableEq, Repr

end Sys2Proof.Machine
end

