-- ==== Sys2Proof/Machine/TypesModule.lean ====
section
/-! DEFINITION. The state of power and ageing (14), reliability (15), the pair (16), clocks and time (17) and the board (18). -/

namespace Sys2Proof.Machine

/-- A throttle ring entry (R524). -/
structure ThrEnt where
  time : Nat
  fn : Nat
  reason : Nat
  fin : Bool
  duty : Nat
  op : Nat
  limit : Nat
  draw : Nat
  islands : Nat
  deriving DecidableEq, Repr

/-- A step as the power controller sees it: its start, token count, row mix, T_pred and phase (R286). -/
structure StepMix where
  start : Nat
  tokens : Nat
  prefills : Nat
  decodes : Nat
  tpred : Nat
  phase : Nat
  deriving DecidableEq, Repr

/-- Power, thermal and ageing state. Duties, powers (mW) and temperatures are keyed by island; granted points, slow
(steps below the requested point under R505, and the reason charged) and preset (a raised rail's point and its time) by die. lateLease
is the lease term that stays in L while the supply floor holds, hubDrop the watts that hub or media junction control takes from L,
coolT since when every die is at or below 90 °C, outSince and thrMask (by function × 16 + reason) when a reason went out of force and
the islands it was in force on, drawAcc, islAcc and drawN the 1-ms average, rain the turning points of each die, newest first, and
lowMargin (by die × 8 + point) the lowest margin of the week. mean is the power model: the mean power of one busy island (mW) by
(function × 8 + phase) × 8 + point (R497); draws holds the 1-ms draws of the last 10 s that no later one exceeds (time, W); hist the
budget duty of an island over the last 50 ms as runs of (duty, µs), newest first (R505); lifeKept the counts of R530 as the store holds
them, by die × 4 + count, and lifeT when they were written. -/
structure Pwr where
  leaseW : Nat := 0
  leaseEnd : Nat := 0
  leased : Bool := false
  lastSeq : Option Nat := none
  decayW : Nat := 0
  decayT : Option Nat := none
  holdW : Option Nat := none
  lateLease : Option Nat := none
  limit : Nat := 700
  bind : Nat := 1
  hubDrop : Nat := 0
  hubT : Nat := 0
  inlet : Int := 720
  flow : Nat := 0
  flowCap : Bool := false
  flowReq : Nat := 0
  reqLow : Option (Nat × Nat) := none
  powerI : Tab Nat := []
  budget : Tab Nat := []
  temps : Tab Int := []
  junction : Tab Nat := []
  pairHold : Tab Nat := []
  inForce : Tab Nat := []
  granted : Tab Nat := [(0, 5), (1, 5), (2, 5), (3, 5)]
  slow : Tab (Nat × Nat) := []
  preset : Tab (Nat × Nat) := []
  plans : Tab (List StepMix) := []
  mean : Tab Nat := []
  draws : List (Nat × Nat) := []
  hist : Tab (List (Nat × Nat)) := []
  lifeKept : Tab Nat := []
  lifeT : Nat := 0
  phase : Tab Nat := []
  table : Tab (List Nat) := []
  reasons : Tab Nat := []
  outSince : Tab Nat := []
  thrMask : Tab Nat := []
  ring : List ThrEnt := []
  lastThr : Tab Nat := []
  warn : Bool := false
  warnMin : Bool := false
  floor : Bool := false
  trip : Bool := false
  supply : Bool := false
  tripT : Nat := 0
  coolT : Option Nat := none
  stale : Bool := false
  mv : Nat := 54000
  drawAcc : Nat := 0
  islAcc : Nat := 0
  drawN : Nat := 0
  lowMargin : Tab Nat := []
  rain : Tab (List Int) := []
  retired : List Nat := []
  exhausted : Bool := false
  lifeWarn : Bool := false
  deriving DecidableEq, Repr

/-- An error log entry (R539): source is DIE, UNIT, INST and SUB. -/
structure LogEnt where
  time : Nat
  die : Nat
  unit : Nat
  inst : Nat
  sub : Nat
  cls : Nat
  count : Nat
  func : Nat
  sev : Nat
  prior : Bool
  addr : Nat
  synd : Nat
  ctx : Nat
  deriving DecidableEq, Repr

/-- Reset domains (R554). -/
inductive Domain where
  | context | engine | partition | chip | cycle
  deriving DecidableEq, Repr

/-- What the last-words record holds (R604): TIME_NS, the cause (0 power loss, 1 tray pull), the mode and role, the newest log
entries, and REQ_ID, FUNC, LSLOT and COUNT of live requests. -/
structure LastWords where
  time : Nat
  cause : Nat
  mirrored : Bool
  role : Nat
  log : List LogEnt
  reqs : List (Nat × Nat × Nat × Nat)
  deriving DecidableEq, Repr

/-- A crash dump slot (R570). sections are the sources whose section is not OK, with their status; seed numbers the free values that
stand for the rest of its contents. -/
structure Dump where
  st : Nat := 0
  chip : Bool := false
  partialDump : Bool := false
  t : Nat := 0
  trigger : Nat := 0
  domain : Nat := 0
  order : Nat := 0
  second : List (Nat × Nat) := []
  sections : List (Nat × Nat) := []
  fw : Nat := 0
  boot : Nat := 0
  seed : Nat := 0
  words : Option LastWords := none
  deriving DecidableEq, Repr

/-- A reset that waits for its dump. -/
inductive ResetReq where
  | engine (src cause : Nat)
  | part (fn cause : Nat)
  | chip (cause : Nat)
  | cycle
  deriving DecidableEq, Repr

/-- Reliability state: the held log entries, oldest first, the ladder's event times, suspects and dumps. Ladder counts are
keyed by rule × 2^40 + scope; powBase is the powered time before TIME_NS 0. waits holds the closed waits of the last scan,
suspects the contexts that wait for their replay in start order with the sources of their engine resets, replayHung that the
replayed one hung again, hungAgain that some suspect did, and needDump the domains whose reset waits for a dump to begin. -/
structure Ras where
  log : List LogEnt := []
  firstDrop : Option Nat := none
  dropsSince : Nat := 0
  drops : Tab Nat := []
  lastEvt : Tab Nat := []
  nvFatal : List LogEnt := []
  nvNew : Nat := 0
  counts : Tab (List Nat) := []
  policy : Tab (Nat × Nat) := []
  waits : List Nat := []
  suspects : List Nat := []
  replaying : Option Nat := none
  suspectSrcs : List Nat := []
  hungAgain : Bool := false
  replayHung : Bool := false
  dumps : Tab Dump := []
  dumpOrder : Nat := 0
  collecting : Option Nat := none
  resets : List ResetReq := []
  needDump : List Nat := []
  powBase : Int := 0
  cycSeq : Nat := 0
  deriving DecidableEq, Repr

/-- What a digest names (R585): the key of the output and the decisions in it. -/
structure Dig where
  fn : Nat
  step : Bool
  k1 : Nat
  k2 : Nat
  kind : Nat
  iou : Nat
  ents : List (List Nat)
  time : Nat := 0
  deriving DecidableEq, Repr

/-- An output held for its digest (R36, R587): a step's sampled rows (LSLOT, TOKEN, NUMERIC), or the host address of a decision record with
the host bytes of its descriptor and the payload of its FERRY_DONE event; matched is that the digest came while a known-answer test held the
output. -/
structure HeldOut where
  dig : Dig
  since : Nat
  diverged : Bool := false
  matched : Bool := false
  addr : Nat := 0
  data : List (Nat × Byte) := []
  evt : List Nat := []
  rows : List (Nat × Nat × Bool) := []
  deriving DecidableEq, Repr

/-- The state of the pair (16) beside TWN_PAIR_STATUS and TWN_SYNC. fault is a line fault; indet is when the line's samples began to fall
between the ranges, freeSince when it began to read Free. local_ holds digests of outputs that have been written and may still be compared,
early digests that came before their output. drained is that a drain is complete, stepHold lists the VFs whose next step boundary a resync
holds. yieldDue is the reason of a yield that waits for a step boundary, reason that of the next change of role. emitted and peerKeys name
the last outputs that this module and its yielding partner wrote. divFns are the VFs under a known-answer test, divRows the requests of
their diverged steps (function, local slot). On a standby, inputs are forwarded posts (function, opcode, words) that wait, admits the
results of admissions by function (LSLOT, SEED, RESULT), and steps the step records (function × 65,536 + model, STEP_NO, rows) that wait;
doneT is the last completion of each model (STEP_NO, TIME_NS). -/
structure PairS where
  mirrored : Bool := false
  modeNext : Option Bool := none
  modeCmd : Option (Nat × Nat) := none
  primary : Bool := true
  holder : Bool := false
  claiming : Option Nat := none
  backoff : Bool := false
  fault : Bool := false
  indet : Option Nat := none
  freeSince : Option Nat := none
  keyGen : Nat := 0
  peerFw : Nat := 0
  partnerYielded : Bool := false
  yieldDue : Option Nat := none
  reason : Nat := 0
  failover : Bool := false
  local_ : List Dig := []
  early : List Dig := []
  held : List HeldOut := []
  divFns : List Nat := []
  divRows : List (Nat × Nat) := []
  katLocal : Option Bool := none
  katPeer : Option Bool := none
  katFailed : List Nat := []
  mism : List Nat := []
  drained : Bool := false
  drainCmd : Option (Nat × Nat) := none
  resyncLeft : Tab (List Nat) := []
  resyncCmd : Option (Nat × Nat) := none
  stepHold : List Nat := []
  inputs : List (Nat × Nat × List Nat) := []
  admits : Tab (List (Nat × Nat × Nat)) := []
  steps : List (Nat × Nat × List (List Nat)) := []
  doneT : Tab (Nat × Nat) := []
  emitted : List Nat := []
  peerKeys : List Nat := []
  deriving DecidableEq, Repr

/-- Timebase and clock state (17). good counts offsets in a row within the bound of the source, badT is since when the offset has
exceeded 10 µs, ptm and partner that those sources give results, refBad the bad reference windows in a row, refLost that REFCLK is gone,
and relock the domains whose PLL relocks, with the time of the loss. hostFull and twinFull keep the links from before the valley
state. -/
structure Clk where
  good : Nat := 0
  badT : Option Nat := none
  ppsEdges : List Nat := []
  ptm : Bool := false
  partner : Bool := false
  refBad : Nat := 0
  refLost : Bool := false
  relock : List (Nat × Nat) := []
  valleyCmd : Option (Nat × Nat) := none
  valleyT : Nat := 0
  entering : Bool := false
  exiting : Bool := false
  hostFull : Nat × List Nat := (0, [])
  twinFull : Nat := 0
  deriving DecidableEq, Repr

/-- Board state (18): PULL_WARN_N's arming, the reverse latch, the sideband address, the end of LED_IDENTIFY, the hold-up bank, power,
PAIR_ROLE_SEL, the last-words area, In-Band Interrupts raised and the JTAG TAP in Test-Logic-Reset. -/
structure Brd where
  armed : Bool := false
  pullIgnored : Bool := false
  reverse : Bool := false
  addr : Nat := 0x2C
  assigned : Bool := false
  identify : Nat := 0
  holdupLow : Bool := false
  powered : Bool := false
  strapSec : Bool := false
  lastWords : Option LastWords := none
  ibi : Nat := 0
  jtagTlr : Bool := true
  deriving DecidableEq, Repr

end Sys2Proof.Machine
end

