-- ==== Sys2Proof/Syntax.lean ====
section
/-! DEFINITION. The commands of the module: one constructor for each row of the opcode table, with the operands that the row's
rule names. A command that a function posts carries the function and the mailbox, and takes its arguments from the payload
words there (R362). What a step of the module meets from outside it (a check that fails, data that host memory or a bitstream
supplies, a measured value) is an operand. -/

namespace Sys2Proof

open Sys2Proof.Machine

/-- Integer operations of RV64IM; w is the 32-bit form. -/
inductive AluOp where
  | add | sub | sll | slt | sltu | xor | srl | sra | or | and
  | mul | mulh | mulhsu | mulhu | div | divu | rem | remu
  deriving DecidableEq, Repr

/-- Branch conditions. -/
inductive BrCond where
  | eq | ne | lt | ge | ltu | geu
  deriving DecidableEq, Repr

/-- Operations of the F extension (R41). -/
inductive FpOp where
  | add | sub | mul | div | sqrt | madd | msub | nmsub | nmadd | sgnj | sgnjn | sgnjx | min | max
  | eq | lt | le | cls | mvXW | mvWX | cvtWS | cvtWUS | cvtLS | cvtLUS | cvtSW | cvtSWU | cvtSL | cvtSLU
  deriving DecidableEq, Repr

/-- The scalar instruction that a thread issues, as its word or halfword decodes under the RISC-V standard (R41); parity stands for an
instruction of any kind whose register read meets a parity error (R71). -/
inductive ScalarOp where
  | lui (rd imm : Nat)
  | auipc (rd imm : Nat)
  | alu (op : AluOp) (w : Bool) (rd rs1 rs2 : Nat)
  | alui (op : AluOp) (w : Bool) (rd rs1 : Nat) (imm : Int)
  | load (rd rs1 : Nat) (imm : Int) (bytes : Nat) (sext : Bool)
  | flw (rd rs1 : Nat) (imm : Int)
  | store (rs2 rs1 : Nat) (imm : Int) (bytes : Nat)
  | fsw (rs2 rs1 : Nat) (imm : Int)
  | jal (rd : Nat) (off : Int)
  | jalr (rd rs1 : Nat) (off : Int)
  | branch (c : BrCond) (rs1 rs2 : Nat) (off : Int)
  | fp (op : FpOp) (rd rs1 rs2 rs3 rm : Nat)
  | nop
  | wfi
  | illegal (word : Nat)
  | parity
  deriving DecidableEq, Repr

/-- The second operand of a vector instruction: a vector register, an x register, an immediate of five bits or an f register. -/
inductive VSrc where
  | v (n : Nat)
  | x (n : Nat)
  | i (imm : Int)
  | f (n : Nat)
  deriving DecidableEq, Repr

/-- Element-wise operations of two operands of one width. -/
inductive VBin where
  | add | sub | rsub | and | or | xor | minu | min | maxu | max | mul | mulh | mulhu | mulhsu | divu | div | remu | rem
  | sll | srl | sra | saddu | sadd | ssubu | ssub | aaddu | aadd | asubu | asub | smul | ssrl | ssra
  | fadd | fsub | frsub | fmul | fdiv | frdiv | fmin | fmax | fsgnj | fsgnjn | fsgnjx
  deriving DecidableEq, Repr

/-- Multiply-add operations of one width. -/
inductive VMac where
  | macc | nmsac | madd | nmsub | fmacc | fnmacc | fmsac | fnmsac | fmadd | fnmadd | fmsub | fnmsub
  deriving DecidableEq, Repr

/-- Comparisons, whose result is a mask. -/
inductive VCmp where
  | eq | ne | ltu | lt | leu | le | gtu | gt | feq | fne | flt | fle | fgt | fge
  deriving DecidableEq, Repr

/-- Widening operations. -/
inductive VWid where
  | addu | add | subu | sub | mulu | mul | mulsu | fadd | fsub | fmul
  deriving DecidableEq, Repr

/-- Widening multiply-add operations. -/
inductive VWMac where
  | maccu | macc | maccsu | maccus | fmacc | fnmacc | fmsac | fnmsac
  deriving DecidableEq, Repr

/-- Narrowing shifts and clips. -/
inductive VNar where
  | srl | sra | clipu | clip
  deriving DecidableEq, Repr

/-- Operations of one operand; ext is from a width k times smaller. -/
inductive VUn where
  | ext (k : Nat) (sext : Bool)
  | fsqrt | frsqrt7 | frec7 | fclass
  deriving DecidableEq, Repr

/-- Conversions: to an integer (unsigned, and truncating or not), from one, between floating-point widths (round to odd or not), and
those of Zvfbfmin. -/
inductive VCvt where
  | toInt (unsigned rtz : Bool)
  | ofInt (unsigned : Bool)
  | float (rod : Bool)
  | bf16
  deriving DecidableEq, Repr

/-- Reductions. -/
inductive VRed where
  | sum | and | or | xor | minu | min | maxu | max | wsumu | wsum | fosum | fusum | fmin | fmax | fwosum | fwusum
  deriving DecidableEq, Repr

/-- Logical operations on masks. -/
inductive VLog where
  | and | nand | andn | or | nor | orn | xor | xnor
  deriving DecidableEq, Repr

/-- Set-before-first, set-including-first and set-only-first. -/
inductive VFirst where
  | sbf | sif | sof
  deriving DecidableEq, Repr

/-- How a vector memory instruction forms its element addresses: one after the other, in segments of nf fields; the same, but a fault
beyond the first element shortens vl; by a stride register; by the offsets in a vector register; the bits of a mask; or whole
registers. -/
inductive VMode where
  | unit
  | first
  | strided (rs2 : Nat)
  | indexed (vs2 ieew : Nat)
  | mask
  | whole
  deriving DecidableEq, Repr

/-- The requested vl of a vset instruction: an x register or an immediate. -/
inductive VAvl where
  | reg (rs1 : Nat)
  | imm (n : Nat)
  deriving DecidableEq, Repr

/-- The vtype of a vset instruction: an immediate or an x register. -/
inductive VType where
  | imm (n : Nat)
  | reg (rs2 : Nat)
  deriving DecidableEq, Repr

/-- A vector instruction of V 1.0, Zvfh or Zvfbfmin (R41), as its word decodes under the standard; vm is true where it is not masked. -/
inductive VecOp where
  | vset (rd : Nat) (avl : VAvl) (vt : VType)
  | bin (op : VBin) (vd vs2 : Nat) (src : VSrc) (vm : Bool)
  | carry (sub out : Bool) (vd vs2 : Nat) (src : VSrc) (vm : Bool)
  | mac (op : VMac) (vd : Nat) (src : VSrc) (vs2 : Nat) (vm : Bool)
  | cmp (op : VCmp) (vd vs2 : Nat) (src : VSrc) (vm : Bool)
  | wide (op : VWid) (wideA : Bool) (vd vs2 : Nat) (src : VSrc) (vm : Bool)
  | wmac (op : VWMac) (vd : Nat) (src : VSrc) (vs2 : Nat) (vm : Bool)
  | narrow (op : VNar) (vd vs2 : Nat) (src : VSrc) (vm : Bool)
  | un (op : VUn) (vd vs2 : Nat) (vm : Bool)
  | cvt (op : VCvt) (vd vs2 : Nat) (vm : Bool)
  | wcvt (op : VCvt) (vd vs2 : Nat) (vm : Bool)
  | ncvt (op : VCvt) (vd vs2 : Nat) (vm : Bool)
  | red (op : VRed) (vd vs2 vs1 : Nat) (vm : Bool)
  | mlog (op : VLog) (vd vs2 vs1 : Nat)
  | cpop (rd vs2 : Nat) (vm : Bool)
  | vfirst (rd vs2 : Nat) (vm : Bool)
  | mset (op : VFirst) (vd vs2 : Nat) (vm : Bool)
  | iota (vd vs2 : Nat) (vm : Bool)
  | id (vd : Nat) (vm : Bool)
  | merge (vd vs2 : Nat) (src : VSrc)
  | mv (vd : Nat) (src : VSrc)
  | mvXS (rd vs2 : Nat)
  | mvSX (vd rs1 : Nat)
  | mvFS (fd vs2 : Nat)
  | mvSF (vd fs1 : Nat)
  | slide (up : Bool) (vd vs2 : Nat) (src : VSrc) (vm : Bool)
  | slide1 (up : Bool) (vd vs2 : Nat) (src : VSrc) (vm : Bool)
  | gather (vd vs2 : Nat) (src : VSrc) (vm : Bool)
  | gather16 (vd vs2 vs1 : Nat) (vm : Bool)
  | compress (vd vs2 vs1 : Nat)
  | mvR (vd vs2 n : Nat)
  | load (vd rs1 eew : Nat) (mode : VMode) (nf : Nat) (vm : Bool)
  | store (vs3 rs1 eew : Nat) (mode : VMode) (nf : Nat) (vm : Bool)
  deriving DecidableEq, Repr

/-- CSR instruction forms. -/
inductive CsrOp where
  | rw | rs | rc | rwi | rsi | rci
  deriving DecidableEq, Repr

/-- What SEC-DED or parity found on an access (R56, R71); part names the element of a load, or the operand range of an Xyt
instruction, in which it was. -/
inductive SramErr where
  | none
  | correctable (part : Nat)
  | uncorrectable (part : Nat)
  | parity
  deriving DecidableEq, Repr

/-- What the decode engine meets in an access unit (R316, R331, R332): key picture, unreadable headers, bitstream reference
marks of the stream's slots afterwards, missing references, and the errors with the CTUs where decoding resumed. motions
gives the list-0 vector of each CTU that has one, in quarter samples. -/
structure PicIn where
  key : Bool
  lost : Bool
  missing : Bool
  marks : List RefMark
  refs : List Nat
  errs : List DecErr
  motions : List (Nat × Int × Int)
  samples : List Byte
  deriving DecidableEq, Repr

/-- A program image as PROG_LOAD finds it (R647, R52, R226): active is the mask of slot × 8 + thread, stackTops the stack top of each
thread of a core. -/
structure ProgImage where
  wellFormed : Bool
  text : List Byte
  entry : Nat
  gp : Nat
  active : Nat
  stackTops : List Nat
  zeroSram : Bool
  replayable : Bool
  passes : List (Nat × Nat)
  digest : Nat
  deriving DecidableEq, Repr

/-- IDE key management (R404). -/
inductive IdeOp where
  | program | setGo | setStop | switch
  deriving DecidableEq, Repr

/-- What an open debug session reaches (R463): n bytes of a core's local SRAM, of an island store or of a function's plain view, an integer
register, floating-point register, vector register or the pc of a thread, a thread's trace time and its function's count of dropped traces,
and a BAR0 register or counter of a function. Keys and the state of the TRNG are no such place. -/
inductive DbgRef where
  | sram (core off n : Nat)
  | store (island off n : Nat)
  | plain (fn addr n : Nat)
  | x (gid r : Nat)
  | f (gid r : Nat)
  | v (gid r : Nat)
  | pc (gid : Nat)
  | trace (gid : Nat)
  | reg (fn off : Nat)
  deriving DecidableEq, Repr

/-- JTAG instructions (R462, R463). -/
inductive JtagOp where
  | idcode | bypass | other
  | read (r : DbgRef)
  | write (r : DbgRef) (data : List Byte)
  deriving DecidableEq, Repr

/-- A report to the error log (R539, R542). -/
structure Rep where
  die : Nat
  unit : Nat
  inst : Nat
  sub : Nat
  cls : Nat
  func : Nat
  sev : Nat
  addr : Nat
  synd : Nat
  ctx : Nat
  deriving DecidableEq, Repr

/-- What a read of a plain sector met beside what was written there (R155, R161): flips are bytes in error among the 288 of a sector, the
metadata block from 256 on, each with its XOR mask; moved is a sector whose stored bytes stand in the place of this one's; forged is that
someone has replaced ciphertext or MAC in the devices, with check bytes to match. -/
structure Seen where
  flips : List (Nat × Nat) := []
  moved : Option Nat := none
  forged : Bool := false
  deriving DecidableEq, Repr

/-- What a boot meets (R440, R151, R80, R374): the two slots' checks, failed physical cores, the channels that train at no
rate, the rates whose eye margin passes, TRNG tests, PAIR_ROLE_SEL in mV and the resources now FAILED. eyes are the channels' worst-lane
margins in % UI at the rate at which they trained (R186). -/
structure BootIn where
  eyes : List Nat
  slotA : Bool
  slotB : Bool
  failed : List Nat
  badChans : List Nat
  rates : Nat
  trng : Bool
  roleMv : Nat
  layoutOk : Bool
  badStraits : List Nat
  deriving DecidableEq, Repr

/-- A MIRROR_CTL message (R579, R386, R520, R577, R588, R591, R620). -/
inductive CtlMsg where
  | admission (fn lslot seed result : Nat)
  | stepRec (fn model no : Nat) (rows : List (List Nat))
  | doneAt (fn model no time : Nat)
  | rebind (fn : Nat)
  | layout (fn : Nat) (args : List Nat)
  | mode (mirrored : Bool)
  | kat (passed : Bool)
  | tokens (fn lslot : Nat) (toks : List Nat) (recs : List (List Byte))
  | takeback (on : Bool)
  | valley (enter : Bool)
  | written (keys : List Nat)
  deriving DecidableEq, Repr

/-- The commands of the module. -/
inductive Instr where
  /-- REGISTER_WRITE (R16). -/
  | registerWrite (fn off width value : Nat)
  /-- BAR0_BAD_ACCESS (R13). -/
  | bar0BadAccess (fn off width : Nat) (write : Bool) (value : Nat)
  /-- SPLIT_LOW_READ (R14). -/
  | splitLowRead (fn off : Nat)
  /-- SPLIT_LOW_WRITE (R14). -/
  | splitLowWrite (fn off value : Nat)
  /-- SPLIT_HIGH_WRITE (R14). -/
  | splitHighWrite (fn off value : Nat)
  /-- W1C_CLEAR_WRITE (R547). -/
  | w1cClearWrite (fn off value hw : Nat)
  /-- STRAIT_FLIT_FAIL (R26). -/
  | straitFlitFail (strait : Nat) (ok : Bool)
  /-- STRAIT_RETRAIN_DONE (R27). -/
  | straitRetrainDone (strait : Nat) (ok : Bool)
  /-- THREAD_ISSUE (R47). -/
  | threadIssue (island slot : Nat) (op : ScalarOp) (len : Nat)
  /-- VECTOR_INSTRUCTION (R50). -/
  | vectorInstruction (gid : Nat) (op : VecOp)
  /-- THREAD_LOAD_RETURN (R174). -/
  | threadLoadReturn (gid n : Nat) (err : SramErr)
  /-- THREAD_STORE_COMPLETE (R167). -/
  | threadStoreComplete (gid : Nat)
  /-- FENCE (R231). -/
  | fence (gid pred succ : Nat)
  /-- FENCE_I (R46). -/
  | fenceI (gid : Nat)
  /-- EBREAK (R74). -/
  | ebreak (gid len : Nat)
  /-- CSR_ACCESS (R69). -/
  | csrAccess (gid csr : Nat) (op : CsrOp) (rd src : Nat)
  /-- YPHASE_WRITE (R70). -/
  | yphaseWrite (gid value : Nat)
  /-- PWR_PH_PHASE_STORE (R508). -/
  | pwrPhPhaseStore (gid value : Nat)
  /-- EXIT (R66). -/
  | exit (gid : Nat)
  /-- TRACE (R67). -/
  | trace (gid : Nat)
  /-- ABORT (R66). -/
  | abort (gid : Nat)
  /-- ECALL_UNKNOWN (R66). -/
  | ecallUnknown (gid : Nat)
  /-- CONTEXT_RESET (R72). -/
  | contextReset (ctx : Nat)
  /-- CONTEXT_DONE (R53). -/
  | contextDone (ctx : Nat)
  /-- CLAIM_FETCH_INC (R62). -/
  | claimFetchInc (gid n k rd : Nat)
  /-- CLAIM_FETCH_ADD (R62). -/
  | claimFetchAdd (gid n k rd : Nat)
  /-- CLAIM_BOUNDED_INC (R62). -/
  | claimBoundedInc (gid n k rd : Nat)
  /-- TENSOR_REEXEC_DONE (R77). -/
  | tensorReexecDone (island slot : Nat) (mismatch : Bool)
  /-- REMAP_DEADLINE (R81). -/
  | remapDeadline (island : Nat)
  /-- REMAP_FORCE_MIDSTEP (R81). -/
  | remapForceMidstep (island : Nat)
  /-- TLB_FILL (R169). -/
  | tlbFill (cache fn vpn : Nat)
  /-- DROOP_CROSSING (R87). -/
  | droopCrossing (island drop : Nat)
  /-- DROOP_BUBBLE_END (R87). -/
  | droopBubbleEnd (island : Nat)
  /-- ISL_WIN_SEL_WRITE (R89). -/
  | islWinSelWrite (value : Nat)
  /-- PDM_START (R95). -/
  | pdmStart (island : Nat)
  /-- PDM_DONE (R94). -/
  | pdmDone (island : Nat) (margins : List Nat)
  /-- TCFG (R103). -/
  | tcfg (gid word : Nat)
  /-- TROWTAG (R119). -/
  | trowtag (gid word : Nat)
  /-- TMMA (R112). -/
  | tmma (gid word : Nat)
  /-- TMMAS (R116). -/
  | tmmas (gid word : Nat)
  /-- TZERO (R118). -/
  | tzero (gid word : Nat)
  /-- TEPI (R124). -/
  | tepi (gid word : Nat)
  /-- TRED (R132). -/
  | tred (gid word : Nat)
  /-- PASS_ARRIVE (R223). -/
  | passArrive (gid word : Nat)
  /-- PASS_WAIT (R223). -/
  | passWait (gid word : Nat)
  /-- FENCE_F (R134). -/
  | fenceF (gid word : Nat)
  /-- TENSOR_DISPATCH (R142). -/
  | tensorDispatch (island slot : Nat)
  /-- TMMA_COMPLETE (R75). -/
  | tmmaComplete (island slot : Nat) (mismatch : Bool) (err : SramErr)
  /-- TEPI_COMPLETE (R130). -/
  | tepiComplete (island slot : Nat) (err : SramErr) (bad : List Nat)
  /-- TRED_COMPLETE (R132). -/
  | tredComplete (island slot : Nat) (parity : Bool)
  /-- ADAPTER_CACHE_FILL (R127). -/
  | adapterCacheFill (island slot adapter layer group : Nat) (ue : Bool)
  /-- TENSOR_IDLE_TIMEOUT (R235). -/
  | tensorIdleTimeout (island slot : Nat)
  /-- RAMP_WINDOW (R236). -/
  | rampWindow (island : Nat)
  /-- PLAIN_SECTOR_READ (R173). -/
  | plainSectorRead (psn : Nat) (who : Consumer) (seen : Seen)
  /-- SECTOR_REREAD (R173). -/
  | sectorReread (psn : Nat) (seen : Seen)
  /-- PLAIN_SECTOR_WRITE (R166). -/
  | plainSectorWrite (fn psn first : Nat) (data : List Byte) (kv : Bool) (seen again : Seen)
  /-- EDC_RETRY (R148). -/
  | edcRetry (channel : Nat) (ok : Bool)
  /-- CHANNEL_RETRAIN_DONE (R149). -/
  | channelRetrainDone (channel : Nat) (ok : Bool)
  /-- DATA_RATE_CHOICE (R150). -/
  | dataRateChoice (chans : List (Nat × Nat × Nat × Nat))
  /-- REFRESH_RATE_CHANGE (R153). -/
  | refreshRateChange (hot : Nat)
  /-- PAGE_MIGRATE (R176). -/
  | pageMigrate (ppn : Nat) (reads : List (Nat × Seen × Seen))
  /-- PAGE_TEST (R178). -/
  | pageTest (ppn : Nat) (bad : Bool)
  /-- PATROL_VISIT (R179). -/
  | patrolVisit (sector : Nat) (seen again : Seen)
  /-- SRAM_SCRUB_VISIT (R180). -/
  | sramScrubVisit (island : Nat) (core : Option Nat) (addr : Nat) (err : SramErr)
  /-- FRY_POST (R192). -/
  | fryPost (gid ch addr : Nat)
  /-- FERRY_POST_RESUME (R192). -/
  | ferryPostResume (gid : Nat)
  /-- FERRY_DESCRIPTOR_START (R214). -/
  | ferryDescriptorStart (ch : Nat)
  /-- FERRY_DESCRIPTOR_COMPLETE (R215). -/
  | ferryDescriptorComplete (ch : Nat) (host : List Byte)
  /-- FERRY_ERROR_COMPLETION (R218). -/
  | ferryErrorCompletion (ch code addr : Nat) (host : List Byte)
  /-- HOST_TIMEOUT (R217). -/
  | hostTimeout (ch addr : Nat) (host : List Byte)
  /-- PAS_TARGET_STORE (R225). -/
  | pasTargetStore (gid pass value : Nat)
  /-- PASS_ARRIVAL_COUNT (R222). -/
  | passArrivalCount (pass : Nat)
  /-- PASS_ARRIVE_ACK (R223). -/
  | passArriveAck (gid : Nat)
  /-- PASS_WAITER_RESUME (R227). -/
  | passWaiterResume (island pass : Nat)
  /-- ISL_SRT_POST (R261). -/
  | islSrtPost (gid k addr : Nat)
  /-- SORTER_POST_RESUME (R261). -/
  | sorterPostResume (gid : Nat)
  /-- SORTER_JOB_START (R264). -/
  | sorterJobStart (k : Nat)
  /-- SORTER_JOB_COMPLETE (R265). -/
  | sorterJobComplete (k : Nat)
  /-- SORTER_JOB_ERROR (R266). -/
  | sorterJobError (k code addr : Nat)
  /-- SERVE_CONFIG (R270). -/
  | serveConfig (fn mbx : Nat)
  /-- SERVE_SUBMIT (R273). -/
  | serveSubmit (fn mbx : Nat) (prompt : Option (List Nat))
  /-- SERVE_CANCEL (R312). -/
  | serveCancel (fn mbx : Nat)
  /-- SERVE_QUERY (R271). -/
  | serveQuery (fn mbx : Nat)
  /-- STOPSET_SET (R300). -/
  | stopsetSet (fn mbx : Nat) (fetched : Option (List Byte))
  /-- ADAPTER_LOAD (R294). -/
  | adapterLoad (fn mbx : Nat) (fetched : Option (List Byte))
  /-- ADAPTER_FREE (R294). -/
  | adapterFree (fn mbx : Nat)
  /-- SERVE_STATS (R315). -/
  | serveStats (fn mbx : Nat)
  /-- SERVE_UNCONFIG (R271). -/
  | serveUnconfig (fn mbx : Nat)
  /-- SLACK_RECOMPUTE (R278). -/
  | slackRecompute (fn model : Nat)
  /-- STEP_RESULT_PROCESS (R291). -/
  | stepResultProcess (fn model : Nat)
  /-- SERVING_CONTEXT_RESTART (R650). -/
  | servingContextRestart (ctx : Nat)
  /-- VID_STREAM_OPEN (R320). -/
  | vidStreamOpen (fn mbx : Nat)
  /-- VID_STREAM_CLOSE (R344). -/
  | vidStreamClose (fn mbx : Nat)
  /-- VID_DECODE_SUBMIT (R325). -/
  | vidDecodeSubmit (fn mbx : Nat)
  /-- VID_ENCODE_SUBMIT (R321). -/
  | vidEncodeSubmit (fn mbx : Nat)
  /-- VID_ENCODE_SET (R338). -/
  | vidEncodeSet (fn mbx : Nat)
  /-- VID_CONVERT_JOB (R340). -/
  | vidConvertJob (fn mbx : Nat)
  /-- VID_JOB_CANCEL (R344). -/
  | vidJobCancel (fn mbx : Nat)
  /-- VID_JPEG_SUBMIT (R323). -/
  | vidJpegSubmit (fn mbx : Nat)
  /-- VID_STREAM_QUERY (R324). -/
  | vidStreamQuery (fn mbx : Nat)
  /-- VID_OUTPUT_ACK (R327). -/
  | vidOutputAck (fn mbx : Nat)
  /-- DECODE_PICTURE (R321). -/
  | decodePicture (eng : Nat) (pic : PicIn)
  /-- PICTURE_OUTPUT (R326). -/
  | pictureOutput (stream which : Nat)
  /-- ENCODE_PICTURE_DONE (R339). -/
  | encodePictureDone (eng bits : Nat) (blocks : List EncBlock)
  /-- AU_RING_WRITE (R327). -/
  | auRingWrite (stream : Nat)
  /-- JPEG_STRIP (R322). -/
  | jpegStrip (w h : Nat) (samples : List Byte) (err : Option Nat)
  /-- CONVERTER_STRIP (R343). -/
  | converterStrip (fn job : Nat)
  /-- VIDEO_ENGINE_RESET (R344). -/
  | videoEngineReset (eng : Nat)
  /-- MAILBOX_POST (R354). -/
  | mailboxPost (fn mbx header : Nat)
  /-- MAILBOX_PAYLOAD_WRITE (R355). -/
  | mailboxPayloadWrite (fn mbx word value : Nat)
  /-- EVT_RING_ENABLE (R368). -/
  | evtRingEnable (fn value : Nat)
  /-- EVT_RING_CONFIG_WRITE (R368). -/
  | evtRingConfigWrite (fn off value : Nat)
  /-- FN_EVT_ACK_WRITE (R368). -/
  | fnEvtAckWrite (fn value : Nat)
  /-- VECTOR_MAP_WRITE (R370). -/
  | vectorMapWrite (fn off value : Nat)
  /-- INTERRUPT_COALESCE_TIMEOUT (R370). -/
  | interruptCoalesceTimeout (fn vec : Nat)
  /-- FUNCTION_LEVEL_RESET (R360). -/
  | functionLevelReset (fn : Nat)
  /-- MODULE_INFO (R364). -/
  | moduleInfo (fn mbx : Nat)
  /-- MODULE_STATUS (R364). -/
  | moduleStatus (fn mbx : Nat)
  /-- MODULE_DRAIN (R602). -/
  | moduleDrain (fn mbx : Nat)
  /-- MODULE_RESUME (R602). -/
  | moduleResume (fn mbx : Nat)
  /-- VALLEY_ENTER (R620). -/
  | valleyEnter (fn mbx : Nat) (peerOk : Bool)
  /-- VALLEY_EXIT (R623). -/
  | valleyExit (fn mbx : Nat)
  /-- TIME_GET (R619). -/
  | timeGet (fn mbx : Nat)
  /-- LINK_RESTORE (R436). -/
  | linkRestore (fn mbx : Nat) (upconfig : Bool)
  /-- LED_IDENTIFY (R643). -/
  | ledIdentify (fn mbx : Nat)
  /-- NOP (R364). -/
  | nop (fn mbx : Nat)
  /-- PART_QUERY (R364). -/
  | partQuery (fn mbx : Nat)
  /-- PART_BIND (R378). -/
  | partBind (fn mbx : Nat)
  /-- PART_UNBIND (R378). -/
  | partUnbind (fn mbx : Nat)
  /-- PART_REBIND (R379). -/
  | partRebind (fn mbx : Nat)
  /-- PART_RESET (R390). -/
  | partReset (fn mbx : Nat)
  /-- PART_SET_RAMP (R237). -/
  | partSetRamp (fn mbx : Nat)
  /-- PAGE_RELEASE (R377). -/
  | pageRelease (fn mbx : Nat)
  /-- PAGE_MAP (R377). -/
  | pageMap (fn mbx : Nat)
  /-- PAGE_REPLACE (R175). -/
  | pageReplace (fn mbx : Nat)
  /-- PROG_LOAD (R647). -/
  | progLoad (fn mbx : Nat) (image : Option ProgImage)
  /-- PROG_UNLOAD (R364). -/
  | progUnload (fn mbx : Nat)
  /-- CTX_START (R646). -/
  | ctxStart (fn mbx : Nat)
  /-- CTX_STOP (R364). -/
  | ctxStop (fn mbx : Nat)
  /-- CTX_QUERY (R364). -/
  | ctxQuery (fn mbx : Nat)
  /-- MEM_COPY_IN (R363). -/
  | memCopyIn (fn mbx : Nat)
  /-- MEM_COPY_OUT (R363). -/
  | memCopyOut (fn mbx : Nat)
  /-- PWR_STATUS (R364). -/
  | pwrStatus (fn mbx : Nat)
  /-- PWR_SET_PHASES (R502). -/
  | pwrSetPhases (fn mbx : Nat)
  /-- PWR_SET_SHARE (R499). -/
  | pwrSetShare (fn mbx : Nat)
  /-- PWR_SET_SAFE (R492). -/
  | pwrSetSafe (fn mbx : Nat)
  /-- PWR_OPERATOR_CAP (R492). -/
  | pwrOperatorCap (fn mbx : Nat)
  /-- PWR_THROTTLE_READ (R525). -/
  | pwrThrottleRead (fn mbx : Nat)
  /-- LIFE_QUERY (R531). -/
  | lifeQuery (fn mbx : Nat)
  /-- LOG_READ (R538). -/
  | logRead (fn mbx : Nat)
  /-- LOG_CLEAR (R538). -/
  | logClear (fn mbx : Nat)
  /-- DUMP_READ (R570). -/
  | dumpRead (fn mbx : Nat)
  /-- DUMP_CLEAR (R570). -/
  | dumpClear (fn mbx : Nat)
  /-- RAS_SET_POLICY (R561). -/
  | rasSetPolicy (fn mbx : Nat)
  /-- PAGE_STATE_READ (R162). -/
  | pageStateRead (fn mbx : Nat)
  /-- SELFTEST (R80). -/
  | selftest (fn mbx : Nat) (failed : List Nat)
  /-- CHIP_RESET (R558). -/
  | chipReset (fn mbx : Nat)
  /-- RAS_QUERY (R562). -/
  | rasQuery (fn mbx : Nat)
  /-- SEC_STATUS (R470). -/
  | secStatus (fn mbx : Nat)
  /-- SEC_CERT_GET (R444). -/
  | secCertGet (fn mbx : Nat) (cert : List Byte)
  /-- OWNER_LOCK (R466). -/
  | ownerLock (fn mbx : Nat) (token : Option (List Byte)) (sigOk : Bool)
  /-- OWNER_UNLOCK (R466). -/
  | ownerUnlock (fn mbx : Nat) (token : Option (List Byte)) (sigOk : Bool)
  /-- DEBUG_OPEN (R462). -/
  | debugOpen (fn mbx : Nat)
  /-- DEBUG_CLOSE (R462). -/
  | debugClose (fn mbx : Nat)
  /-- UPDATE_BEGIN (R475). -/
  | updateBegin (fn mbx : Nat) (fetched : Option (List Byte)) (sigOk keyOk : Bool)
  /-- UPDATE_BLOCK (R476). -/
  | updateBlock (fn mbx : Nat) (fetched : Option (List Byte)) (tagOk : Bool)
  /-- UPDATE_COMMIT (R482). -/
  | updateCommit (fn mbx : Nat)
  /-- COMMIT_COMPLETE (R482). -/
  | commitComplete (tagsOk rulesOk : Bool) (digests : List Nat)
  /-- UPDATE_ACTIVATE (R484). -/
  | updateActivate (fn mbx : Nat)
  /-- UPDATE_ABORT (R478). -/
  | updateAbort (fn mbx : Nat)
  /-- UPDATE_STATUS (R477). -/
  | updateStatus (fn mbx : Nat)
  /-- ROLLBACK_TIMER (R489). -/
  | rollbackTimer (recordOk : Bool)
  /-- PAIR_STATUS (R364). -/
  | pairStatus (fn mbx : Nat)
  /-- PAIR_SET_MODE (R577). -/
  | pairSetMode (fn mbx : Nat)
  /-- PAIR_TAKEBACK (R599). -/
  | pairTakeback (fn mbx : Nat)
  /-- PAIR_RESYNC (R590). -/
  | pairResync (fn mbx : Nat)
  /-- SCRUB_START (R381). -/
  | scrubStart (fn : Nat)
  /-- SCRUB_DRAIN_END (R382). -/
  | scrubDrainEnd (fn : Nat) (timedOut : Bool)
  /-- SCRUB_BOUND_EXPIRY (R383). -/
  | scrubBoundExpiry (fn : Nat)
  /-- UNEXPECTED_COMPLETION (R382). -/
  | unexpectedCompletion (fn : Nat)
  /-- PCIE_LINK_TRAIN (R393). -/
  | pcieLinkTrain (hostRate : Nat) (good : List Nat) (revOk : Bool) (worn : List Nat)
  /-- BAR2_READ (R397). -/
  | bar2Read (fn off len : Nat)
  /-- BAR2_WRITE (R397). -/
  | bar2Write (fn off : Nat) (data : List Byte)
  /-- MSIX_UNMASK (R399). -/
  | msixUnmask (fn vec addr data : Nat)
  /-- ATS_INVALIDATE (R402). -/
  | atsInvalidate (fn addr size : Nat)
  /-- PASID_WRITE (R403). -/
  | pasidWrite (fn value : Nat)
  /-- VF_BAR_RESIZE (R396). -/
  | vfBarResize (fn size : Nat) (mse : Bool)
  /-- NUMVFS_WRITE (R394). -/
  | numvfsWrite (numVfs : Nat) (vfEnable : Bool)
  /-- IDE_KM (R404). -/
  | ideKm (stream : Nat) (op : IdeOp)
  /-- IDE_STREAM_FAIL (R406). -/
  | ideStreamFail (stream : Nat)
  /-- TDI_UNSECURED_REQUEST (R410). -/
  | tdiUnsecuredRequest (fn : Nat) (onStream tBit : Bool)
  /-- USB_POST (R414). -/
  | usbPost (mbx : Nat) (words : List Nat)
  /-- USB_STAGE_WRITE (R414). -/
  | usbStageWrite (off : Nat) (data : List Byte)
  /-- USB_STAGE_READ (R414). -/
  | usbStageRead (off len : Nat)
  /-- TWIN_FLIT_RECEIVE (R421). -/
  | twinFlitReceive (seq ack : Nat) (ackv : Bool) (symbols : Nat) (fecOk crcOk aligned : Bool) (worn : List Nat)
  /-- TWIN_NAK (R421). -/
  | twinNak (ack : Nat)
  /-- HEARTBEAT (R426). -/
  | heartbeat (time count mode role health lockMv lanes : Nat)
  /-- CABLE_ATTACH (R432). -/
  | cableAttach (cable : Nat) (checksumOk typeOk : Bool) (retimers : Nat)
  /-- CABLE_HOT_JOIN (R432). -/
  | cableHotJoin (cable target : Nat)
  /-- SESSION_HEARTBEAT_TIMEOUT (R454). -/
  | sessionHeartbeatTimeout (session : Nat)
  /-- LEASE_WRITE (R495). -/
  | leaseWrite (bytes watts dur seq : Nat)
  /-- COOLANT_WRITE (R510). -/
  | coolantWrite (bytes inlet outlet flow : Nat) (motion holdup : Bool)
  /-- DUTY_TICK (R500). -/
  | dutyTick (draw islandDraw : Nat) (powers : List Nat) (amps : Nat)
  /-- THROTTLE_END_TIMEOUT (R524). -/
  | throttleEndTimeout (fn reason : Nat)
  /-- OP_GRANT_CHANGE (R504). -/
  | opGrantChange (die op : Nat)
  /-- RAIL_PRESET_EXPIRY (R506). -/
  | railPresetExpiry (die : Nat)
  /-- POWER_FORECAST (R497). -/
  | powerForecast (next : Option (Nat × Nat))
  /-- JUNCTION_SCAN (R515). -/
  | junctionScan (islands : List Int) (hub media : Int)
  /-- TRIP_EXIT (R517). -/
  | tripExit (failed : List Nat)
  /-- INPUT_OUT_OF_RANGE (R519). -/
  | inputOutOfRange (mv : Nat)
  /-- SUPPLY_STOP_EXIT (R519). -/
  | supplyStopExit (mv : Nat) (failed : List Nat)
  /-- POWER_LOSS (R604). -/
  | powerLoss (mv : Nat)
  /-- MARGIN_MEASURE (R527). -/
  | marginMeasure (die : Nat) (taps : List Nat)
  /-- WEEKLY_CHECK (R528). -/
  | weeklyCheck (eye24 eye20 eye16 : Bool)
  /-- RAINFLOW_SAMPLE (R530). -/
  | rainflowSample (temps : List Int) (hourHot : List Nat)
  /-- ERROR_REPORT (R542). -/
  | errorReport (rep : Rep)
  /-- HANG_SCAN (R549). -/
  | hangScan (moved : List Nat)
  /-- CORE_PROGRESS_WATCHDOG (R553). -/
  | coreProgressWatchdog (gid : Nat)
  /-- UNIT_STOP_WATCHDOG (R553). -/
  | unitStopWatchdog (src : Nat)
  /-- VIDEO_ENGINE_WATCHDOG (R553). -/
  | videoEngineWatchdog (eng : Nat)
  /-- ENGINE_RESET (R554). -/
  | engineReset (src cause : Nat) (failed : List Nat)
  /-- CHIP_RESET_SEQUENCE (R556). -/
  | chipResetSequence (boot : BootIn)
  /-- CRASH_DUMP_START (R567). -/
  | crashDumpStart (trigger domain : Nat)
  /-- DUMP_UNIT_TIMEOUT (R568). -/
  | dumpUnitTimeout (src : Nat)
  /-- DUMP_DEADLINE (R568). -/
  | dumpDeadline (left : List Nat)
  /-- DUMP_WRITE_DONE (R569). -/
  | dumpWriteDone (slot : Nat)
  /-- PAIR_HELLO (R576). -/
  | pairHello (chainOk sigOk : Bool) (fwVer serial certHash : Nat) (secondary : Bool)
  /-- MIRROR_INPUT (R578). -/
  | mirrorInput (fn opcode : Nat) (words : List Nat)
  /-- MIRROR_CTL (R579). -/
  | mirrorCtl (msg : CtlMsg)
  /-- DIGEST (R586). -/
  | digest (dig : Dig)
  /-- KNOWN_ANSWER_TEST_DONE (R589). -/
  | knownAnswerTestDone (passed : Bool) (failed : List Nat)
  /-- RESYNC_BULK (R591). -/
  | resyncBulk (fn : Nat) (pages : List (Nat × Bool × List Byte)) (last : Bool)
  /-- RESYNC_HOLD_TIMEOUT (R591). -/
  | resyncHoldTimeout (fn : Nat)
  /-- YIELD (R598). -/
  | yield (request : Bool) (reason : Nat) (keys : List Nat)
  /-- HOLDER_YIELD (R598). -/
  | holderYield (reason : Nat)
  /-- POWER_ON (R613). -/
  | powerOn (boot : BootIn)
  /-- REFCLK_WINDOW (R609). -/
  | refclkWindow (bad : Bool)
  /-- PLL_LOSS_OF_LOCK (R610). -/
  | pllLossOfLock (domain : Nat)
  /-- PLL_RELOCK_TIMEOUT (R610). -/
  | pllRelockTimeout (domain : Nat)
  /-- PPS_IN_EDGE (R616). -/
  | ppsInEdge (time : Nat)
  /-- TIME_SYNC (R616). -/
  | timeSync (offset : Int)
  /-- VALLEY_ENTRY_COMPLETE (R621). -/
  | valleyEntryComplete (us : Nat)
  /-- VALLEY_EXIT_COMPLETE (R623). -/
  | valleyExitComplete (us : Nat)
  /-- SUPPLY_EXCURSION (R519). -/
  | supplyExcursion (mv : Nat)
  /-- HOLDUP_BANK_CHECK (R640). -/
  | holdupBankCheck (percent : Nat)
  /-- PCIE_CONVENTIONAL_RESET (R400). -/
  | pcieConventionalReset (kind : Nat)
  /-- TDISP_GET_VERSION (R407). -/
  | tdispGetVersion (fn : Nat)
  /-- TDISP_GET_CAPABILITIES (R407). -/
  | tdispGetCapabilities (fn : Nat)
  /-- LOCK_INTERFACE_REQUEST (R408). -/
  | lockInterfaceRequest (fn : Nat)
  /-- GET_DEVICE_INTERFACE_REPORT (R461). -/
  | getDeviceInterfaceReport (fn : Nat)
  /-- GET_DEVICE_INTERFACE_STATE (R407). -/
  | getDeviceInterfaceState (fn : Nat)
  /-- START_INTERFACE_REQUEST (R407). -/
  | startInterfaceRequest (fn : Nat)
  /-- STOP_INTERFACE_REQUEST (R409). -/
  | stopInterfaceRequest (fn : Nat)
  /-- TDISP_UNSUPPORTED (R407). -/
  | tdispUnsupported (fn code : Nat)
  /-- TDISP_CONFIG_VIOLATION (R409). -/
  | tdispConfigViolation (fn : Nat)
  /-- PTM_DIALOGUE (R411). -/
  | ptmDialogue (offset : Int)
  /-- TWIN_TRAIN (R418). -/
  | twinTrain (peerMask inverted : Nat) (reversed : Bool) (failed : List Nat)
  /-- CABLE_POLL (R432). -/
  | cablePoll (cable : Nat) (answered : Bool) (hot : Nat) (eyes : List Nat)
  /-- SPDM_GET_VERSION (R451). -/
  | spdmGetVersion (doe : Bool)
  /-- SPDM_GET_CAPABILITIES (R452). -/
  | spdmGetCapabilities (doe : Bool)
  /-- NEGOTIATE_ALGORITHMS (R453). -/
  | negotiateAlgorithms (doe : Bool) (asym hash meas dhe aead sched : Bool)
  /-- GET_DIGESTS (R443). -/
  | getDigests (doe : Bool)
  /-- GET_CERTIFICATE (R443). -/
  | getCertificate (doe : Bool) (slot off len : Nat)
  /-- CHALLENGE (R453). -/
  | challenge (doe : Bool) (slot : Nat)
  /-- GET_MEASUREMENTS (R455). -/
  | getMeasurements (doe : Bool) (index : Nat)
  /-- KEY_EXCHANGE (R454). -/
  | keyExchange (doe : Bool)
  /-- FINISH (R452). -/
  | finish (doe : Bool) (session : Nat) (ok : Bool)
  /-- SPDM_HEARTBEAT (R454). -/
  | spdmHeartbeat (doe : Bool) (session : Nat)
  /-- KEY_UPDATE (R452). -/
  | keyUpdate (doe : Bool) (session : Nat)
  /-- END_SESSION (R452). -/
  | endSession (doe : Bool) (session : Nat)
  /-- CHUNK_SEND (R452). -/
  | chunkSend (doe : Bool) (seq : Nat) (last : Bool)
  /-- CHUNK_GET (R452). -/
  | chunkGet (doe : Bool) (seq : Nat)
  /-- RESPOND_IF_READY (R459). -/
  | respondIfReady (doe : Bool) (code : Nat)
  /-- VENDOR_DEFINED_REQUEST (R452). -/
  | vendorDefinedRequest (doe : Bool) (proto : Nat)
  /-- SPDM_UNSUPPORTED (R452). -/
  | spdmUnsupported (doe : Bool) (code : Nat)
  /-- JTAG_INSTRUCTION (R462). -/
  | jtagInstruction (code : JtagOp)
  /-- TRNG_RETEST (R468). -/
  | trngRetest (ok : Bool)
  /-- PAIR_LOCK_READING (R593). -/
  | pairLockReading (samples : List Nat)
  /-- PAIR_LOCK_PROBE (R594). -/
  | pairLockProbe (rise : Nat)
  /-- SIGNAL_LINE_MONITOR (R635). -/
  | signalLineMonitor (signal code : Nat)
  /-- SIDEBAND_ADDRESS_ASSIGN (R634). -/
  | sidebandAddressAssign (addr : Nat) (setdasa : Bool)
  /-- EPOCH_DRAW_RESUME (R160). -/
  | epochDrawResume
  /-- FIRMWARE_READY (R372). -/
  | firmwareReady
  /-- QUIESCENT_POINT (R486). -/
  | quiescentPoint
  /-- QUIESCENT_TIMEOUT (R485). -/
  | quiescentTimeout
  /-- HANDOVER_ADOPT_TIMEOUT (R486). -/
  | handoverAdoptTimeout
  /-- FW_CONFIRM (R488). -/
  | fwConfirm
  /-- SVN_COUNTER_BURN (R450). -/
  | svnCounterBurn
  /-- USB_ATTACH (R412). -/
  | usbAttach
  /-- USB_DETACH (R415). -/
  | usbDetach
  /-- USB_BAD_FRAME (R414). -/
  | usbBadFrame
  /-- TWIN_TRAIN_RETRY (R419). -/
  | twinTrainRetry
  /-- HEARTBEAT_SEND (R426). -/
  | heartbeatSend
  /-- PEER_SILENT (R426). -/
  | peerSilent
  /-- PEER_SILENT_LONG (R582). -/
  | peerSilentLong
  /-- ALIAS_KEY_READY (R439). -/
  | aliasKeyReady
  /-- JTAG_TLR_TIMEOUT (R462). -/
  | jtagTlrTimeout
  /-- JTAG_TAP_RESET (R612). -/
  | jtagTapReset
  /-- TRNG_HEALTH_FAIL (R468). -/
  | trngHealthFail
  /-- COOLANT_STALE (R510). -/
  | coolantStale
  /-- TRAY_FLAG_CLEAR (R510). -/
  | trayFlagClear
  /-- LEASE_EXPIRY (R496). -/
  | leaseExpiry
  /-- LEASE_DECAY_END (R496). -/
  | leaseDecayEnd
  /-- LIMIT_TICK (R491). -/
  | limitTick
  /-- FORECAST_STALE (R490). -/
  | forecastStale
  /-- TRIP_HOLD_TIMEOUT (R517). -/
  | tripHoldTimeout
  /-- PWR_WARN_ASSERT (R518). -/
  | pwrWarnAssert
  /-- PWR_WARN_DEASSERT (R518). -/
  | pwrWarnDeassert
  /-- WARN_FLOOR_END (R518). -/
  | warnFloorEnd
  /-- MCP_WATCHDOG (R553). -/
  | mcpWatchdog
  /-- POWER_CYCLE_REREQUEST (R557). -/
  | powerCycleRerequest
  /-- SUSPECT_REPLAY_START (R564). -/
  | suspectReplayStart
  /-- SUSPECT_REPLAY_END (R564). -/
  | suspectReplayEnd
  /-- PAIR_LINK_LOST (R576). -/
  | pairLinkLost
  /-- MODE_CHANGE_APPLY (R577). -/
  | modeChangeApply
  /-- DIGEST_KEEP_EXPIRY (R585). -/
  | digestKeepExpiry
  /-- OUTPUT_HOLD_TIMEOUT (R587). -/
  | outputHoldTimeout
  /-- KAT_RESULT_TIMEOUT (R588). -/
  | katResultTimeout
  /-- LINE_FAULT_SILENT (R595). -/
  | lineFaultSilent
  /-- PAIR_LOCK_CLAIM (R596). -/
  | pairLockClaim
  /-- CLAIM_SETTLE (R596). -/
  | claimSettle
  /-- CLAIM_BACKOFF_END (R596). -/
  | claimBackoffEnd
  /-- TAKEBACK_TIMER (R599). -/
  | takebackTimer
  /-- PULL_WARN_ASSERT (R603). -/
  | pullWarnAssert
  /-- PULL_WARN_ARM (R636). -/
  | pullWarnArm
  /-- PULL_WARN_OPEN (R636). -/
  | pullWarnOpen
  /-- REVERSE_POLARITY (R639). -/
  | reversePolarity
  /-- REFCLK_RETURN (R609). -/
  | refclkReturn
  /-- PPS_TIMEOUT (R616). -/
  | ppsTimeout
  /-- LED_IDENTIFY_EXPIRY (R643). -/
  | ledIdentifyExpiry
  /-- USB_IN_TRANSFER (R416). -/
  | usbInTransfer
  deriving DecidableEq, Repr

end Sys2Proof
end

