-- ==== Sys2Proof/Config.lean ====
section
/-! DEFINITION. What the spec leaves open to an implementation: opaque constants with no body, so that nothing in Lean can
learn a value of one (log entries 3 to 8). A claim about the model holds for every value of them. -/

namespace Sys2Proof.Config

/-- The n-th free value of a run: a fresh 64-bit value for every place where the spec gives a result no value (R113, R132,
R201, R217, R274). The step reads and advances the counter State.fresh. -/
opaque freeValue : Nat → Word

/-- The order in which the 64 issue cycles of an island become bubbles as the duty rises (R500): the spec gives how many of them are
bubbles, and not which. The argument names the island and the cycle. -/
opaque bubbleOrder : Nat → Nat

/-- A byte of a twin link message whose content the spec does not lay out, by class, MSG_SEQ and place (R424). -/
opaque twinBody : Nat → Nat → Nat → BitVec 8

/-- GELU of R128: one fixed function of its FP32 input on B0, whose bits the spec bounds and does not give. -/
opaque gelu : Word32 → Word32

/-- SiLU of R128: one fixed function of its FP32 input on B0. -/
opaque silu : Word32 → Word32

/-- The choice among the formats that a STRIPE's source elements may have, by element size and weight format (R208, R211): the parameter
block names no source format. -/
opaque padFormat : Nat → Nat → Nat

/-- A sample after the filters of R336, or a concealed sample at a fraction of a sample (R333): a fixed function of the samples that it
reads and the parameters (the spec names the filter lengths and gives no coefficients and no rounding). -/
opaque filtered : List Nat → Word32

/-- A component of the matrix of R341 before its clamp: matrix, component (0 R, 1 G, 2 B) and normalised Y, Cb and Cr in FP32 (the spec
names BT.601, BT.709 and BT.2020 and gives neither coefficients nor the order of the steps). -/
opaque colourMatrix : Nat → Nat → Word32 → Word32 → Word32 → Word32

/-- e^((l − l0) / TEMP) in FP32 of R296: the spec gives the formula and no rounding of the exponential. -/
opaque expRatio : Word32 → Word32 → Word32 → Word32

/-- A digest, tag or signature of the security engine over the named material (R443, R453, R455): key values exist only in
the engine (R467), so the model knows no number for one. -/
opaque digest : List Nat → BitVec 256

/-- The ciphertext of a plain sector under an owner's key set (R157): owner, generation of the key set, PSN, the 256 bytes of plaintext,
and the byte offset. -/
opaque sectorCipher : Nat → Nat → Nat → List Byte → Nat → Byte

/-- The integrity tag of a message under an owner's key set (R157): owner, generation of the key set, and the message. -/
opaque sectorMac : Nat → Nat → List Byte → Word

/-- A check byte of a Reed-Solomon codeword of R155, whose field and generator polynomials the spec does not give: the 128 data bytes and
the number of the check byte. -/
opaque rsCheck : List Byte → Nat → Byte

/-- Whether two boxes whose union is empty qualify as a pair under R586: the spec defines no IoU for them. -/
opaque emptyIou : List Nat → List Nat → Bool

/-- The quantiser step of a codec (1 H.265, 2 AV1) at a quantiser value (R339): the spec names the step and gives no table. -/
opaque quantStep : Nat → Nat → Nat

/-- The offset bound in ns that counts towards LOCKED while PPS_IN is the source (R617): R615 gives one for a partner and for PTM only. -/
opaque ppsBound : Nat

end Sys2Proof.Config
end

