-- ==== Sys2Proof/Machine/TypesControl.lean ====
section
/-! DEFINITION. The state of the control plane (09, 10), host links (11), security (12) and firmware update (13). -/

namespace Sys2Proof.Machine

/-- An asynchronous command that has answered ACCEPTED and owes a CMD_DONE (R362). -/
structure Async where
  fn : Nat
  mbx : Nat
  opcode : Nat
  tag : Nat
  deriving DecidableEq, Repr

/-- A frame that waits at the service port's bulk IN endpoint (R414). -/
inductive UsbFrame where
  | response (mbx : Nat) (words : List Nat)
  | event (bytes : List Byte)
  | stage (off : Nat) (bytes : List Byte)
  deriving DecidableEq, Repr

/-- Mailboxes, event rings and interrupts. Mailbox words are keyed by (function × 32 + mailbox) × 64 + word; function 17 is the service port
and mailbox 16 takes forwarded posts (log entry 9). Read latches and held low halves are keyed by function × 65,536 + offset (R14). -/
structure Mbx where
  words : Tab Word32 := []
  postT : Tab Nat := []
  latch : Tab Word32 := []
  heldLow : Tab Word32 := []
  dropped : Tab Nat := []
  coal : Tab Nat := []
  coalT : Tab Nat := []
  sent : Tab Nat := []
  async : List Async := []
  deferred : List (Nat × Nat) := []
  usbAttached : Bool := false
  usbOut : List UsbFrame := []
  usbDropped : Nat := 0
  staging : Memory := []
  console : Nat := 0
  deriving DecidableEq, Repr

/-- What one partition holds (R375), and its settings. Pages are the physical pages it holds; pool is the adapter pool. -/
structure Part where
  islands : Nat := 0
  hcores : Nat := 0
  npages : Nat := 0
  pages : List Nat := []
  dec : Nat := 0
  enc : Nat := 0
  srt : Nat := 0
  qbase : Nat := 0
  qcount : Nat := 0
  abase : Nat := 0
  acount : Nat := 0
  npool : Nat := 0
  pool : List Nat := []
  share : Nat := 0
  lf : Nat := 0
  budget : Nat := 0
  ramp : Nat := 256
  epoch : Nat := 0
  deriving DecidableEq, Repr

/-- Why a scrub runs (R390). -/
inductive ScrubKind where
  | bind | unbind | give | take | reset | flr | link | numvfs | ladder | mirror
  deriving DecidableEq, Repr

/-- A scrub (R381): waiting, draining, then the rest in one step; next is the layout it installs, issuer the command that waits
for it, peer the other VF of a re-bind, reads the host reads that were outstanding when it began, engine the source of the engine whose reset
it replaces, and epoch the value that it draws at its start (R456). -/
structure Scrub where
  kind : ScrubKind
  issuer : Option (Nat × Nat)
  peer : Nat := 0
  next : Part
  started : Bool := false
  drained : Bool := false
  missed : Bool := false
  reads : Nat := 0
  joinFlr : Bool := false
  engine : Option Nat := none
  epoch : Option Nat := none
  deriving DecidableEq, Repr

/-- A loaded program image (R647, R364): text length, base offset in the island store, absolute entry, and what the image declares:
active is the mask of slot × 8 + thread, stackTops the stack top of each thread of a core. -/
structure Prog where
  len : Nat
  base : Nat
  entry : Nat
  gp : Nat
  text : List Byte
  active : Nat
  stackTops : List Nat
  zeroSram : Bool
  replayable : Bool
  passes : List (Nat × Nat)
  digest : Nat
  deriving DecidableEq, Repr

/-- Partitions, scrubs, programs and the stored layout. Programs are keyed by function × 64 + slot. -/
structure Parts where
  parts : Tab Part := []
  stored : Tab Part := []
  scrubs : Tab Scrub := []
  progs : Tab Prog := []
  deriving DecidableEq, Repr

/-- TDISP interface states (R407, R409). -/
inductive Tdi where
  | unlocked | locked | run | error
  deriving DecidableEq, Repr

/-- An IDE stream (R404, R406): 0 link, 1 PF0, 1 + n VFn. prog is that the next K-set has its keys; keyed without secure is Insecure. -/
structure IdeStream where
  secure : Bool := false
  keyed : Bool := false
  prog : Bool := false
  kset : Nat := 0
  deriving DecidableEq, Repr

/-- The stream has lost its keys or failed a check (R406). -/
def IdeStream.insecure (x : IdeStream) : Bool := x.keyed && !x.secure

/-- One MSI-X table entry (R399). -/
structure MsixEnt where
  addr : Nat := 0
  data : Nat := 0
  masked : Bool := true
  deriving DecidableEq, Repr

/-- A cached ATS translation of a 4-KiB page (R402). -/
structure AtcEnt where
  fn : Nat
  pasid : Nat
  page : Nat
  deriving DecidableEq, Repr

/-- The cable at one link (R431, R432): low lists the lanes whose eye margin was low at the last check, daddr the dynamic addresses
assigned to its targets, and wrong is that its type does not match the port. -/
structure Cable where
  present : Bool := false
  valid : Bool := false
  fault : Bool := false
  retimers : Nat := 0
  hot : Nat := 0
  eye : Nat := 0
  misses : Nat := 0
  wrong : Bool := false
  daddr : Tab Nat := []
  low : List Nat := []
  deriving DecidableEq, Repr

/-- A DATA flit held for replay (R420, R421): its SEQ, its message by class and MSG_SEQ, and whether it is the message's last. -/
structure TwinFlit where
  seq : Nat
  cls : Nat
  msg : Nat := 0
  som : Bool := true
  eom : Bool := true
  payload : List Byte := []
  resent : Nat := 0
  deriving DecidableEq, Repr

/-- A message that waits for flit slots (R423): class, FUNC, MSG_SEQ, the flits it still needs, the bytes of its body, and the words of
the body that the model gives it. -/
structure TwinMsg where
  cls : Nat
  fn : Nat
  msg : Nat
  left : Nat
  len : Nat
  body : List Nat
  deriving DecidableEq, Repr

/-- What the partner's last HEARTBEAT carried (R426). -/
structure Peer where
  time : Nat := 0
  count : Nat := 0
  mode : Nat := 0
  role : Nat := 0
  health : Nat := 0
  lockMv : Nat := 0
  lanes : Nat := 0
  deriving DecidableEq, Repr

/-- What the device security manager answers (R407). -/
inductive TdispResp where
  | version
  | capabilities
  | locked
  | report (ranges : List (Nat × Nat)) (layout programs : List Byte)
  | state (t : Tdi)
  | started
  | stopped
  | error
  | unsupportedRequest
  deriving DecidableEq, Repr

/-- Host link, MSI-X, ATS, IDE, TDISP and twin link. MSI-X entries are keyed by function × 256 + vector, bar2 holds sizes. ats names
the functions with ATS enabled, inval the Invalidate Requests that wait for requests in flight (function, address, size), tdiStop the
VFs whose STOP_INTERFACE_REQUEST waits for a scrub. restore holds the LINK_RESTORE under way on a link: lanes in use before it, function
and mailbox; train is that the host link trains, twinWasUp that the twin link has come up since it was last DOWN. The lane tables count
trainings in a row that a lane failed. -/
structure Lnk where
  up : Bool := false
  rate : Nat := 0
  lanes : List Nat := []
  train : Bool := false
  numVfs : Nat := 0
  vfEnable : Bool := false
  bme : Tab Bool := []
  ats : List Nat := []
  atc : List AtcEnt := []
  inval : List (Nat × Nat × Nat) := []
  pasid : Tab Nat := []
  hostReads : Tab Nat := []
  bar2 : Tab Nat := []
  msix : Tab MsixEnt := []
  pba : List Nat := []
  ide : Tab IdeStream := []
  tdi : Tab Tdi := []
  tdiStop : List Nat := []
  hostLaneFail : Tab Nat := []
  cables : Tab Cable := []
  txSeq : Nat := 0
  rxSeq : Nat := 0
  unacked : List TwinFlit := []
  txq : List TwinMsg := []
  msgSeq : Tab Nat := []
  bulkSlots : Nat := 0
  sent : Tab (List Nat) := []
  wire : List Byte := []
  nakSent : Bool := false
  twinLaneFail : Tab Nat := []
  hbSent : Nat := 0
  peer : Peer := {}
  twinDropped : Nat := 0
  twinWasUp : Bool := false
  restore : Tab (Nat × Nat × Nat) := []
  deriving DecidableEq, Repr

/-- A firmware slot of the non-volatile store (R445, R458): state, FW_VER, SVN, KEY_INDEX, whether it passes its checks, IMAGE_LEN, the
digests of its MCP firmware, island microcode and media firmware, 0 for one that is absent; then its areas as they were received: bytes
0x0000 to 0x2FFF, and the GCM tag (four words) and ciphertext of each block. -/
structure FwSlot where
  st : Nat := 0
  ver : Nat := 0
  svn : Nat := 0
  keyIdx : Nat := 0
  ok : Bool := false
  len : Nat := 0
  digests : List Nat := []
  head : List Byte := []
  tags : Tab (List Nat) := []
  cipher : Tab (List Byte) := []
  deriving DecidableEq, Repr

/-- An SPDM session (R454): its transport is DOE or MCTP, and done is that FINISH has completed it. -/
structure Session where
  id : Nat
  doe : Bool
  done : Bool := false
  keyGen : Nat := 0
  deriving DecidableEq, Repr

/-- SPDM requests (R452): ok is that every row of R453 has a common value, or that the finish verifies. -/
inductive SpdmReq where
  | version
  | capabilities
  | algorithms (ok : Bool)
  | digests
  | certificate (slot off len : Nat)
  | challenge (slot : Nat)
  | measurements (index : Nat)
  | keyExchange
  | finish (session : Nat) (ok : Bool)
  | heartbeat (session : Nat)
  | keyUpdate (session : Nat)
  | endSession (session : Nat)
  | chunkSend (seq : Nat) (last : Bool)
  | chunkGet (seq : Nat)
  | respondIfReady (code : Nat)
  | vendor (proto : Nat)
  | unsupported
  deriving DecidableEq, Repr

/-- Errors of the SPDM responder (R438, R451 to R454, R459); largeResponse stands for an answer that goes in chunks. -/
inductive SpdmErr where
  | invalidRequest
  | busy
  | unspecified
  | unsupportedRequest
  | sessionLimitExceeded
  | responseNotReady (rdtExponent rdtm : Nat)
  | largeResponse
  deriving DecidableEq, Repr

/-- What the SPDM responder answers. wait is a DOE request that waits with the Busy bit set; chain and signer name the alias key of
slot 0 by its number. -/
inductive SpdmResp where
  | wait
  | version (vs : List Nat)
  | capabilities (transfer msg : Nat)
  | algorithms
  | digests (chain : Nat)
  | certificate (chain : Nat) (ext : List Byte) (off len : Nat)
  | challengeAuth (signer : Nat)
  | measurements (blocks : List (Nat × List Byte)) (signer : Nat)
  | keyExchange (session heartbeat signer : Nat)
  | finished (session : Nat)
  | heartbeatAck
  | keyUpdateAck
  | endSessionAck
  | chunkAck (seq : Nat)
  | chunk (seq : Nat) (body : SpdmReq)
  | vendor (proto : Nat)
  | error (e : SpdmErr)
  deriving DecidableEq, Repr

/-- Trust state (12) beside the SEC_ registers. aliasGen numbers the alias key of slot 0, aliasExt is the extension in its certificate
(R443), staged is that one is made for a committed image. waiting holds requests that wait for READY or the TRNG, deferred those of a
handover window; chunkIn is the next chunk of a large request and large a large answer, by transport (1 DOE). resp holds what the last step
answered, with the transport (DOE or not). -/
structure Sec where
  aliasGen : Nat := 0
  aliasReady : Bool := false
  aliasExt : List Byte := []
  staged : Bool := false
  sessions : List Session := []
  nextSession : Nat := 1
  waiting : List (Bool × SpdmReq) := []
  deferred : List (Bool × SpdmReq) := []
  chunkIn : Tab Nat := []
  large : Tab SpdmReq := []
  resp : List (Bool × SpdmResp) := []
  ownerKey : Option Nat := none
  ownerSeq : Nat := 0
  trngFailed : Bool := false
  recovery : Bool := false
  partnerCert : Nat := 0
  deriving DecidableEq, Repr

/-- Update states (R474). -/
inductive UpdState where
  | idle | receiving | committing | committed | activating | confirming
  deriving DecidableEq, Repr

/-- The stage of an activation: preparing, in the handover window, or watched until it is confirmed (R485, R486, R488). -/
inductive ActStage where
  | none | preparing | window | watching
  deriving DecidableEq, Repr

/-- Firmware update state (13): slots A and B, the boot record (active, trial, trialBooted and the received blocks) and the update in
progress. owner is the command that waits, windowT when the window opened, reverse that the window goes back to the old image, viaReset
that the image started by a chip reset, and fatal that a fatal error came before confirmation. -/
structure Upd where
  st : UpdState := .idle
  slotA : FwSlot := { st := 4, ok := true }
  slotB : FwSlot := {}
  active : Nat := 0
  trial : Bool := false
  trialBooted : Bool := false
  blocks : List Nat := []
  running : Nat := 0
  confirmed : Bool := true
  stage : ActStage := .none
  reverse : Bool := false
  viaReset : Bool := false
  owner : Option (Nat × Nat) := none
  windowT : Nat := 0
  fatal : Bool := false
  deriving DecidableEq, Repr

end Sys2Proof.Machine
end

