-- ==== Sys2Proof/Machine/State.lean ====
section
/-! DEFINITION. The whole state of the module as plain data, what can stop a step, and the module right after reset. -/

namespace Sys2Proof.Machine

open Sys2Proof

/-- Why a step faults. -/
inductive Fault where
  /-- Raised by no meaning: a command whose operand names a unit that R3 does not give the module changes nothing (log entry 20).
  Safe: nothing stops. -/
  | noSuchUnit
  deriving DecidableEq, Repr

/-- Why a step refuses. -/
inductive Refusal where
  /-- Raised only by an arm of exec that has no meaning yet. Safe. -/
  | notModelled (mnemonic : String)
  deriving DecidableEq, Repr

/-- An endpoint of the service port: its address, whether it is an interrupt endpoint, its packet bytes and its bMaxBurst (R413). -/
structure UsbEp where
  addr : Nat
  interrupt : Bool := false
  bytes : Nat
  burst : Nat := 0
  deriving DecidableEq, Repr

/-- An interface of the service port, with the first interface of its association, if any (R413). -/
structure UsbIface where
  number : Nat
  cls : Nat
  sub : Nat
  proto : Nat
  iad : Option Nat := none
  eps : List UsbEp
  deriving DecidableEq, Repr

/-- The device capabilities of the BOS descriptor (R413). -/
inductive UsbCap where
  | usb2Lpm | superSpeed | superSpeedPlus
  deriving DecidableEq, Repr

/-- The descriptors of the service port (R413). -/
structure UsbDesc where
  bcdUsb : Nat
  cls : Nat
  sub : Nat
  proto : Nat
  maxPacket0 : Nat
  vendor : Nat
  product : Nat
  bcdDevice : Nat
  manufacturer : String
  productName : String
  serial : String
  attributes : Nat
  maxPower : Nat
  ifaces : List UsbIface
  bos : List UsbCap
  deriving DecidableEq, Repr

/-- What the last read or request through a host interface was answered with. -/
inductive Reply where
  | none
  | bytes (l : List Byte)
  | word (w : Nat)
  | completerAbort
  | unsupported
  | tdisp (r : TdispResp)
  | invalidated (fn addr size : Nat)
  | jtag (w : Nat)
  | usb (d : UsbDesc)
  deriving DecidableEq, Repr

/-- The register file: an entry for each copy that does not hold its reset value by default. -/
abbrev RegFile := List (RegKey × Word)

/-- The state of the module. host holds the host memory that the module has written, keyed by function × 2^65 + I/O virtual
address; fresh counts the free values that the run has taken (the model's own field). -/
structure State where
  regs : RegFile := []
  time : Nat := 0
  fresh : Nat := 0
  pending : List Instr := []
  reply : Reply := .none
  host : Memory := []
  fab : Fab := {}
  pln : Pln := {}
  fry : Fry := {}
  pas : Pas := {}
  srt : Srt := {}
  srv : Srv := {}
  vid : Vid := {}
  mbx : Mbx := {}
  part : Parts := {}
  lnk : Lnk := {}
  sec : Sec := {}
  upd : Upd := {}
  pwr : Pwr := {}
  ras : Ras := {}
  pair : PairS := {}
  clk : Clk := {}
  brd : Brd := {}
  deriving DecidableEq, Repr

/-- The module right after reset: every register at its Reset column, TIME_NS 0, no partition bound, memories empty. A module
runs work after POWER_ON, a bind, PROG_LOAD and CTX_START (log entry 10). -/
def State.reset : State := {}

end Sys2Proof.Machine
end

