-- ==== Sys2Proof/Machine/Flags.lean ====
section
/-! DEFINITION. Registers and the flags in them: reading, writing, saturating counters, and the W1C status registers with their
event counters (R16, R547). -/

namespace Sys2Proof.Machine

open Sys2Proof

/-- The outcome of a command. -/
abbrev Out := Host.Outcome State Fault Refusal

/-- Carry on to t where the units that the operands name exist; a command that names none of the module's units reaches nothing and
changes nothing (R3; log entry 20). -/
def onUnit (s : State) (ok : Bool) (t : State) : Out := .next (if ok then t else s)

/-- A register of the file, or its reset value where it is not listed. -/
def regGet (f : RegFile) (r : Reg) (i : Nat) : Word :=
  match f with
  | [] => r.resetVal i
  | (k, v) :: t => if k.reg = r ∧ k.inst = i then v else regGet t r i

/-- Set a register of the file. -/
def regSet (f : RegFile) (r : Reg) (i : Nat) (v : Word) : RegFile :=
  match f with
  | [] => [(⟨r, i⟩, v)]
  | (k, w) :: t => if k.reg = r ∧ k.inst = i then (k, v) :: t else (k, w) :: regSet t r i v

/-- Read copy i of register r. -/
def State.rd (s : State) (r : Reg) (i : Nat) : Word := regGet s.regs r i

/-- The bits of a value that a register has. -/
def Reg.fit (r : Reg) (v : Word) : Word := if r.info.width = 32 then v &&& 0xFFFF_FFFF else v

/-- Write copy i of register r; a 32-bit register holds 32 bits (R15). -/
def State.wr (s : State) (r : Reg) (i : Nat) (v : Word) : State := { s with regs := regSet s.regs r i (r.fit v) }

/-- Read a register as a number. -/
def State.rdN (s : State) (r : Reg) (i : Nat) : Nat := (s.rd r i).toNat

/-- Write a register from a number. -/
def State.wrN (s : State) (r : Reg) (i v : Nat) : State := s.wr r i (w64 v)

/-- Read the field of len bits from bit lo of a register. -/
def State.rdF (s : State) (r : Reg) (i lo len : Nat) : Nat := fld (s.rd r i) lo len

/-- Write the field of len bits from bit lo of a register. -/
def State.wrF (s : State) (r : Reg) (i lo len v : Nat) : State := s.wr r i (setFld (s.rd r i) lo len v)

/-- Add n to a counter register that saturates at its width (R89, R182 and every other map). -/
def State.count (s : State) (r : Reg) (i n : Nat) : State :=
  s.wrN r i (min (s.rdN r i + n) (2 ^ r.info.width - 1))

/-- Hardware sets bits of a W1C status register; its event counter adds 1, saturating at 255 (R547). -/
def State.hwSet (s : State) (r : Reg) (i mask : Nat) : State :=
  let t := s.wr r i (s.rd r i ||| w64 mask)
  match r.counterOf with
  | none => t
  | some c => t.wrN c i (min (s.rdN c i + 1) 255)

/-- A software write v to a W1C register in a cycle in which hardware sets the bits hw: bits written 1 that read 1 clear, hw
ends set, and the counter follows R547. -/
def State.w1cWrite (s : State) (r : Reg) (i : Nat) (v hw : Word) : State :=
  let old := s.rd r i
  let clr := old &&& v &&& r.info.w1c
  let set := hw &&& r.info.w1c
  let t := s.wr r i ((old &&& ~~~clr) ||| set)
  match r.counterOf with
  | none => t
  | some c =>
    let base := if clr = 0 then s.rdN c i else 0
    t.wrN c i (if set = 0 then base else min (base + 1) 255)

/-- A software write of a register by its access masks: RW bits take the value, W1C bits clear, W1S bits set, every other bit
keeps its value (R15, R16). -/
def accessWrite (inf : RegInfo) (old v : Word) : Word :=
  (old &&& ~~~inf.rw &&& ~~~(v &&& inf.w1c)) ||| (v &&& inf.rw) ||| (v &&& inf.w1s)

/-- Draw a free value (log entry 3). -/
def State.free (s : State) : Word × State := (Config.freeValue s.fresh, { s with fresh := s.fresh + 1 })

end Sys2Proof.Machine
end

