-- ==== Sys2Proof/Machine/Operands.lean ====
section
/-! DEFINITION. Operand forms: the number formats of 03 R105 and the arithmetic on them, the integer operations of RV64IM, the
F operations (02 R41), and the fields of Xyt words (03 R99, R100). A finite number is kept as a sign and a magnitude in units
of 2^-400, which holds every value, exact product and block term of these formats. -/

namespace Sys2Proof.Machine

open Sys2Proof

/-- The unit of exact magnitudes is 2^-400. -/
abbrev unitExp : Nat := 400

/-- A number: NaN (signalling or not), an infinity, or a finite value. -/
inductive FVal where
  | nan (signalling : Bool)
  | inf (neg : Bool)
  | fin (neg : Bool) (mag : Nat)
  deriving DecidableEq, Repr

/-- A binary format (R105): exponent and mantissa bits, bias, and which special values it has: 0 infinities and NaNs, 1 the one
NaN of E4M3, 2 none. -/
structure FFmt where
  eb : Nat
  mb : Nat
  bias : Nat
  special : Nat
  deriving DecidableEq, Repr

def fp32 : FFmt := ⟨8, 23, 127, 0⟩
def fp16 : FFmt := ⟨5, 10, 15, 0⟩
def bf16 : FFmt := ⟨8, 7, 127, 0⟩
def e4m3 : FFmt := ⟨4, 3, 7, 1⟩
def e5m2 : FFmt := ⟨5, 2, 15, 0⟩
def e2m1 : FFmt := ⟨2, 1, 1, 2⟩

/-- Read bits of a format (R105). -/
def FFmt.read (f : FFmt) (v : Nat) : FVal :=
  let m := bits v 0 f.mb
  let e := bits v f.mb f.eb
  let neg := bitAt v (f.mb + f.eb)
  if f.special = 0 ∧ e = 2 ^ f.eb - 1 then (if m = 0 then .inf neg else .nan (m < 2 ^ (f.mb - 1)))
  else if f.special = 1 ∧ e = 2 ^ f.eb - 1 ∧ m = 2 ^ f.mb - 1 then .nan false
  else if e = 0 then .fin neg (m * 2 ^ (unitExp + 1 - f.bias - f.mb))
  else .fin neg ((2 ^ f.mb + m) * 2 ^ (unitExp + e - f.bias - f.mb))

/-- Number of bits of a number. -/
def bitLen (n : Nat) : Nat := if n = 0 then 0 else Nat.log2 n + 1

/-- Rounding modes as RISC-V codes them; 5 is the round to odd of the V standard's narrowing conversion. -/
abbrev rne : Nat := 0
abbrev rtz : Nat := 1
abbrev rod : Nat := 5

/-- Round the magnitude v (plus less than one unit where sticky) down or up to a multiple of 2^sh (mode rm, sign neg): the
quotient, and whether it is inexact. -/
def roundShift (rm : Nat) (neg : Bool) (v sh : Nat) (sticky : Bool) : Nat × Bool :=
  let q := v / 2 ^ sh
  let r := v % 2 ^ sh
  let half := 2 ^ sh / 2
  let inexact := r != 0 || sticky
  let above := decide (r > half) || (r == half && sticky)
  let tie := sh != 0 && r == half && !sticky
  let up := match rm with
    | 0 => sh != 0 && (above || (tie && q % 2 == 1))
    | 1 => false
    | 2 => neg && inexact
    | 3 => !neg && inexact
    | 4 => sh != 0 && (above || tie)
    | _ => inexact && q % 2 == 0
  (if up then q + 1 else q, inexact)

/-- The sign bit of a format. -/
def FFmt.sign (f : FFmt) (neg : Bool) : Nat := if neg then 2 ^ (f.mb + f.eb) else 0

/-- The largest finite magnitude of a format as bits. -/
def FFmt.maxBits (f : FFmt) : Nat :=
  if f.special = 0 then (2 ^ f.eb - 1) * 2 ^ f.mb - 1 else if f.special = 1 then 2 ^ (f.mb + f.eb) - 2 else 2 ^ (f.mb + f.eb) - 1

/-- Bits of a rounded magnitude without overflow handling, and inexactness: subnormals are kept (R107). -/
def FFmt.roundBits (f : FFmt) (rm : Nat) (neg : Bool) (v : Nat) (sticky : Bool) : Nat × Bool :=
  let emin := unitExp + 1 - f.bias - f.mb
  let lsb := max (bitLen v - (f.mb + 1)) emin
  let (q, ix) := roundShift rm neg v lsb sticky
  (q + (lsb - emin) * 2 ^ f.mb, ix)

/-- RISC-V accrued exception flags: NX 1, UF 2, OF 4, DZ 8, NV 16. A result and the flags it raises; overflow goes to infinity
or the largest finite value by mode. -/
def FFmt.round (f : FFmt) (rm : Nat) (neg : Bool) (v : Nat) (sticky : Bool) : Nat × Nat :=
  let (b, ix) := f.roundBits rm neg v sticky
  if b > f.maxBits then
    let toMax := rm = 1 || rm = 5 || (rm = 2 && !neg) || (rm = 3 && neg)
    (f.sign neg + (if toMax then f.maxBits else f.maxBits + 1), 5)
  else
    let emin := unitExp + 1 - f.bias - f.mb
    let lsb := bitLen v - (f.mb + 1)
    let tiny := decide (lsb < emin) && decide ((roundShift rm neg v lsb sticky).1 * 2 ^ lsb < 2 ^ (emin + f.mb))
    (f.sign neg + b, if ix then (if tiny then 3 else 1) else 0)

/-- The canonical NaN of a format. -/
def FFmt.nanBits (f : FFmt) : Nat :=
  if f.special = 1 then 2 ^ (f.mb + f.eb) - 1 else (2 ^ f.eb - 1) * 2 ^ f.mb + 2 ^ (f.mb - 1)

/-- Write a number with its flags (rounding mode rm). -/
def FFmt.write (f : FFmt) (rm : Nat) (x : FVal) : Nat × Nat :=
  match x with
  | .nan _ => (f.nanBits, 0)
  | .inf n => (f.sign n + f.maxBits + 1, 0)
  | .fin n v => f.round rm n v false

/-- FP32 bits of a number rounded to nearest even (R107). -/
def toF32 (x : FVal) : Nat := (fp32.write rne x).1

/-- FP32 bits as a number. -/
def f32 (v : Nat) : FVal := fp32.read v

/- Exact arithmetic. -/

/-- Signed magnitude. -/
def signedMag (neg : Bool) (m : Nat) : Int := if neg then -(m : Int) else (m : Int)

/-- The sum of two numbers, exact; a zero sum of opposite signs is −0 only in mode 2 (RDN). -/
def FVal.add (rm : Nat) : FVal → FVal → FVal
  | .nan _, _ | _, .nan _ => .nan false
  | .inf a, .inf b => if a = b then .inf a else .nan false
  | .inf a, _ => .inf a
  | _, .inf b => .inf b
  | .fin a m, .fin b n =>
    let s := signedMag a m + signedMag b n
    if s = 0 then .fin (if m = 0 ∧ n = 0 ∧ a = b then a else rm == 2) 0 else .fin (decide (s < 0)) s.natAbs

/-- The negation. -/
def FVal.neg : FVal → FVal
  | .nan s => .nan s
  | .inf a => .inf (!a)
  | .fin a m => .fin (!a) m

/-- The product, exact. -/
def FVal.mul : FVal → FVal → FVal
  | .nan _, _ | _, .nan _ => .nan false
  | .inf a, .inf b => .inf (a != b)
  | .inf a, .fin b n | .fin b n, .inf a => if n = 0 then .nan false else .inf (a != b)
  | .fin a m, .fin b n => .fin (a != b) (m * n / 2 ^ unitExp)

/-- A NaN operand that signals. -/
def FVal.signals : FVal → Bool
  | .nan s => s
  | _ => false

/-- A NaN. -/
def FVal.isNan : FVal → Bool
  | .nan _ => true
  | _ => false

/-- A zero. -/
def FVal.isZero : FVal → Bool
  | .fin _ m => m == 0
  | _ => false

/-- An infinity. -/
def FVal.isInf : FVal → Bool
  | .inf _ => true
  | _ => false

/-- The sign. -/
def FVal.negative : FVal → Bool
  | .nan _ => false
  | .inf a => a
  | .fin a _ => a

/-- The value of an order key: infinities beyond every finite value. -/
def FVal.key : FVal → Int
  | .nan _ => 0
  | .inf a => if a then -(2 ^ 4000) else 2 ^ 4000
  | .fin a m => signedMag a m

/-- x < y by value, for two numbers. -/
def FVal.lt (x y : FVal) : Bool := !x.isNan && !y.isNan && decide (x.key < y.key)

/-- x < y with −0.0 below +0.0 (R128). -/
def FVal.ltz (x y : FVal) : Bool := x.lt y || (x.isZero && y.isZero && x.negative && !y.negative)

/-- Integer square root of n, by k binary digits. -/
def isqrt (n : Nat) : Nat → Nat
  | 0 => 0
  | k + 1 => let r := isqrt (n / 4) k * 2; if (r + 1) * (r + 1) ≤ n then r + 1 else r

/-- An integer as a number. -/
def ofInt (v : Int) : FVal := .fin (decide (v < 0)) (v.natAbs * 2 ^ unitExp)

/-- Round to an integer, saturating at lo and hi; NaN gives nanVal. The flags follow RISC-V. -/
def FVal.toInt (rm : Nat) (lo hi nanVal : Int) : FVal → Int × Nat
  | .nan _ => (nanVal, 16)
  | .inf a => (if a then lo else hi, 16)
  | .fin a m =>
    let (q, ix) := roundShift rm a m unitExp false
    let v := signedMag a q
    if v < lo then (lo, 16) else if hi < v then (hi, 16) else (v, b2n ix)

/- The formats of R105 by code. -/

/-- The element width in bits of a format code. -/
def fmtBits (c : Nat) : Nat :=
  match c with
  | 0 => 8 | 1 => 4 | 2 => 16 | 3 => 16 | 4 => 8 | 5 => 8 | 6 => 4 | 7 => 32 | 8 => 32 | _ => 0

/-- A floating-point format code. -/
def fmtOf (c : Nat) : Option FFmt :=
  match c with
  | 2 => some fp16 | 3 => some bf16 | 4 => some e4m3 | 5 => some e5m2 | 6 => some e2m1 | 7 => some fp32 | _ => none

/-- Read an element of a format code (R105). -/
def readFmt (c v : Nat) : FVal :=
  match fmtOf c with
  | some f => f.read v
  | none => ofInt (signed (fmtBits c) v)

/-- Round to nearest even and saturate to a format code (R129). -/
def saturate (c : Nat) (x : FVal) : Nat :=
  match fmtOf c with
  | none =>
    let w := fmtBits c
    unsignedOf w (x.toInt rne (-(2 ^ (w - 1))) (2 ^ (w - 1) - 1) 0).1
  | some f => match x with
    | .nan _ => f.nanBits
    | .inf n => if f.special = 0 then f.sign n + f.maxBits + 1 else f.sign n + f.maxBits
    | .fin n v =>
      let (b, _) := f.roundBits rne n v false
      if b > f.maxBits then f.sign n + (if c = 7 then f.maxBits + 1 else f.maxBits) else f.sign n + b

/-- The value of an E8M0 byte (R106): none for NaN. -/
def e8m0 (e : Nat) : Option Nat := if e % 256 = 255 then none else some (2 ^ (unitExp + e % 256 - 127))

/- The F extension on FP32 (R41). -/

/-- The effective rounding mode: field 7 takes frm; none where it is reserved. -/
def effRm (rm frm : Nat) : Option Nat :=
  let r := if rm = 7 then frm else rm
  if r < 5 then some r else none

/-- NV of a sum or product that makes a NaN from numbers. -/
def nvOf (r : FVal) (ops : List FVal) : Nat :=
  if ops.any (·.signals) then 16 else if r.isNan && !(ops.any (·.isNan)) then 16 else 0

/-- A sum, product or fused result rounded once. -/
def FFmt.finish (f : FFmt) (rm : Nat) (r : FVal) (ops : List FVal) : Nat × Nat :=
  let (v, fl) := f.write rm r
  (v, Nat.lor fl (nvOf r ops))

/-- FCLASS. -/
def FFmt.fclass (f : FFmt) (v : Nat) : Nat :=
  let e := bits v f.mb f.eb
  let m := bits v 0 f.mb
  let n := bitAt v (f.mb + f.eb)
  if e = 2 ^ f.eb - 1 then (if m = 0 then (if n then 1 else 128) else if m < 2 ^ (f.mb - 1) then 256 else 512)
  else if e = 0 then (if m = 0 then (if n then 8 else 16) else if n then 4 else 32)
  else if n then 2 else 64

/-- A fused multiply-add: a × b + c rounded once; Inf × 0 is invalid even with a NaN addend. -/
def FFmt.fma (f : FFmt) (rm : Nat) (a b c : FVal) : Nat × Nat :=
  let p := a.mul b
  let (v, fl) := f.finish rm (p.add rm c) [a, b, c]
  (v, if p.isNan && !a.isNan && !b.isNan then Nat.lor fl 16 else fl)

/-- Division. -/
def FFmt.div (f : FFmt) (rm : Nat) (a b : FVal) : Nat × Nat :=
  match a, b with
  | .nan _, _ | _, .nan _ => (f.nanBits, nvOf (.nan false) [a, b])
  | .inf _, .inf _ => (f.nanBits, 16)
  | .inf x, .fin y _ => f.write rne (.inf (x != y))
  | .fin x _, .inf y => f.write rne (.fin (x != y) 0)
  | .fin x m, .fin y n =>
    if n = 0 then (if m = 0 then (f.nanBits, 16) else ((f.write rne (.inf (x != y))).1, 8))
    else f.round rm (x != y) (m * 2 ^ unitExp / n) (m * 2 ^ unitExp % n != 0)

/-- Square root. -/
def FFmt.sqrt (f : FFmt) (rm : Nat) (a : FVal) : Nat × Nat :=
  match a with
  | .nan s => (f.nanBits, if s then 16 else 0)
  | .inf n => if n then (f.nanBits, 16) else f.write rne a
  | .fin n m =>
    if m = 0 then f.write rne a else if n then (f.nanBits, 16) else
    let r := isqrt (m * 2 ^ unitExp) 600
    f.round rm false r (r * r != m * 2 ^ unitExp)

/-- Minimum or maximum under the F extension: a NaN gives the other operand. -/
def FFmt.minmax (f : FFmt) (mx : Bool) (x y : Nat) : Nat × Nat :=
  let a := f.read x
  let b := f.read y
  let nv := if a.signals || b.signals then 16 else 0
  if a.isNan && b.isNan then (f.nanBits, nv)
  else if a.isNan then (y, nv) else if b.isNan then (x, nv)
  else (if mx then (if a.ltz b then y else x) else if b.ltz a then y else x, nv)

/-- a with the sign of b, its complement, or the exclusive or of both signs. -/
def FFmt.signed (f : FFmt) (mode a b : Nat) : Nat :=
  let k := f.mb + f.eb
  bits a 0 k + 2 ^ k * (match mode with | 0 => bits b k 1 | 1 => 1 - bits b k 1 | _ => (bits a k 1 + bits b k 1) % 2)

/-- A comparison: its truth, and the invalid flag, which a quiet one raises for a signalling NaN only. -/
def cmpFlag (quiet : Bool) (x y : FVal) (r : Bool) : Bool × Nat :=
  (r, if x.signals || y.signals || (!quiet && (x.isNan || y.isNan)) then 16 else 0)

/-- Equal by value. -/
def FVal.eqv (x y : FVal) : Bool := !x.isNan && !y.isNan && x.key == y.key

/-- At most, by value. -/
def FVal.le (x y : FVal) : Bool := !x.isNan && !y.isNan && decide (x.key ≤ y.key)

/-- An F operation that writes an f register: result bits and flags (R41). a, b and c are the source bits; xs is the integer
source. -/
def fpResult (op : FpOp) (rm a b c : Nat) (xs : Word) : Nat × Nat :=
  let x := f32 a
  let y := f32 b
  let z := f32 c
  match op with
  | .add => fp32.finish rm (x.add rm y) [x, y]
  | .sub => fp32.finish rm (x.add rm y.neg) [x, y]
  | .mul => fp32.finish rm (x.mul y) [x, y]
  | .div => fp32.div rm x y
  | .sqrt => fp32.sqrt rm x
  | .madd => fp32.fma rm x y z
  | .msub => fp32.fma rm x y z.neg
  | .nmsub => fp32.fma rm x.neg y z
  | .nmadd => fp32.fma rm x.neg y z.neg
  | .sgnj => (fp32.signed 0 a b, 0)
  | .sgnjn => (fp32.signed 1 a b, 0)
  | .sgnjx => (fp32.signed 2 a b, 0)
  | .min => fp32.minmax false a b
  | .max => fp32.minmax true a b
  | .mvWX => (xs.toNat % 2 ^ 32, 0)
  | .cvtSW => fp32.write rm (ofInt (signed 32 xs.toNat))
  | .cvtSWU => fp32.write rm (ofInt (xs.toNat % 2 ^ 32 : Nat))
  | .cvtSL => fp32.write rm (ofInt (signed 64 xs.toNat))
  | .cvtSLU => fp32.write rm (ofInt (xs.toNat : Nat))
  | _ => (0, 0)

/-- An F operation that writes an x register: result and flags. -/
def fpToInt (op : FpOp) (rm a b : Nat) : Word × Nat :=
  let x := f32 a
  let y := f32 b
  let cmp := fun (r quiet : Bool) => let (t, fl) := cmpFlag quiet x y r; (w64 (b2n t), fl)
  match op with
  | .eq => cmp (x.eqv y) true
  | .lt => cmp (x.lt y) false
  | .le => cmp (x.le y) false
  | .cls => (w64 (fp32.fclass a), 0)
  | .mvXW => (w64 (unsignedOf 64 (signed 32 a)), 0)
  | .cvtWS => let (v, f) := x.toInt rm (-(2 ^ 31)) (2 ^ 31 - 1) (2 ^ 31 - 1); (w64 (unsignedOf 64 v), f)
  | .cvtWUS => let (v, f) := x.toInt rm 0 (2 ^ 32 - 1) (2 ^ 32 - 1); (w64 (unsignedOf 64 (signed 32 v.toNat)), f)
  | .cvtLS => let (v, f) := x.toInt rm (-(2 ^ 63)) (2 ^ 63 - 1) (2 ^ 63 - 1); (w64 (unsignedOf 64 v), f)
  | .cvtLUS => let (v, f) := x.toInt rm 0 (2 ^ 64 - 1) (2 ^ 64 - 1); (w64 v.toNat, f)
  | _ => (0, 0)

/-- The F operation writes an x register. -/
def FpOp.toX : FpOp → Bool
  | .eq | .lt | .le | .cls | .mvXW | .cvtWS | .cvtWUS | .cvtLS | .cvtLUS => true
  | _ => false

/-- The F operation reads its first operand from an x register. -/
def FpOp.fromX : FpOp → Bool
  | .mvWX | .cvtSW | .cvtSWU | .cvtSL | .cvtSLU => true
  | _ => false

/-- The F operation has a rounding mode field. -/
def FpOp.rounds : FpOp → Bool
  | .sgnj | .sgnjn | .sgnjx | .min | .max | .eq | .lt | .le | .cls | .mvXW | .mvWX => false
  | _ => true

/- RV64IM. -/

/-- Sign-extend the low 32 bits. -/
def sext32 (v : Nat) : Word := w64 (unsignedOf 64 (signed 32 v))

/-- A 64-bit operation of RV64IM; a division by zero gives all ones and the dividend, an overflow the dividend and 0. -/
def alu64 (op : AluOp) (a b : Word) : Word :=
  let x := a.toInt
  let y := b.toInt
  let sh := b.toNat % 64
  match op with
  | .add => a + b
  | .sub => a - b
  | .sll => a <<< sh
  | .slt => w64 (b2n (decide (x < y)))
  | .sltu => w64 (b2n (decide (a.toNat < b.toNat)))
  | .xor => a ^^^ b
  | .srl => a >>> sh
  | .sra => w64 (unsignedOf 64 (x / 2 ^ sh))
  | .or => a ||| b
  | .and => a &&& b
  | .mul => a * b
  | .mulh => w64 (unsignedOf 64 (x * y / 2 ^ 64))
  | .mulhsu => w64 (unsignedOf 64 (x * (b.toNat : Int) / 2 ^ 64))
  | .mulhu => w64 (a.toNat * b.toNat / 2 ^ 64)
  | .div => if b = 0 then w64 (2 ^ 64 - 1) else w64 (unsignedOf 64 (x.tdiv y))
  | .divu => if b = 0 then w64 (2 ^ 64 - 1) else w64 (a.toNat / b.toNat)
  | .rem => if b = 0 then a else w64 (unsignedOf 64 (x.tmod y))
  | .remu => if b = 0 then a else w64 (a.toNat % b.toNat)

/-- A 32-bit operation: the low halves, the result sign-extended. -/
def alu32 (op : AluOp) (a b : Word) : Word :=
  let u := a.toNat % 2 ^ 32
  let v := b.toNat % 2 ^ 32
  let x := signed 32 u
  let y := signed 32 v
  let sh := v % 32
  match op with
  | .add => sext32 (u + v)
  | .sub => sext32 (u + 2 ^ 32 - v)
  | .sll => sext32 (u * 2 ^ sh)
  | .srl => sext32 (u / 2 ^ sh)
  | .sra => sext32 (unsignedOf 32 (x / 2 ^ sh))
  | .mul => sext32 (u * v)
  | .div => if v = 0 then w64 (2 ^ 64 - 1) else sext32 (unsignedOf 32 (x.tdiv y))
  | .divu => if v = 0 then w64 (2 ^ 64 - 1) else sext32 (u / v)
  | .rem => if v = 0 then sext32 u else sext32 (unsignedOf 32 (x.tmod y))
  | .remu => if v = 0 then sext32 u else sext32 (u % v)
  | _ => sext32 (alu64 op (sext32 u) (sext32 v)).toNat

/-- The operations that RV64 gives a 32-bit form. -/
def AluOp.hasW : AluOp → Bool
  | .add | .sub | .sll | .srl | .sra | .mul | .div | .divu | .rem | .remu => true
  | _ => false

/-- A branch condition. -/
def BrCond.holds (c : BrCond) (a b : Word) : Bool :=
  match c with
  | .eq => a = b
  | .ne => a ≠ b
  | .lt => decide (a.toInt < b.toInt)
  | .ge => decide (b.toInt ≤ a.toInt)
  | .ltu => decide (a.toNat < b.toNat)
  | .geu => decide (b.toNat ≤ a.toNat)

/- Xyt words (R99, R100). -/

/-- The fields of a 32-bit R-type word. -/
def fOp (w : Nat) : Nat := bits w 0 7
def fRd (w : Nat) : Nat := bits w 7 5
def fF3 (w : Nat) : Nat := bits w 12 3
def fRs1 (w : Nat) : Nat := bits w 15 5
def fRs2 (w : Nat) : Nat := bits w 20 5
def fF7 (w : Nat) : Nat := bits w 25 7

/-- The word has this opcode and funct3. -/
def isXyt (w op f3 : Nat) : Bool := fOp w == op && fF3 w == f3 && decide (w < 2 ^ 32)

/-- custom-0 and custom-1 (R99). -/
abbrev custom0 : Nat := 0b0001011
abbrev custom1 : Nat := 0b0101011

/-- ACC of a word (R100). -/
def fAcc (w : Nat) : Nat := bits w 25 1

/- tcfg (R101, R102). -/

def tAfmt (t : Word) : Nat := fld t 0 4
def tBfmt (t : Word) : Nat := fld t 4 4
def tAcck (t : Word) : Nat := fld t 8 1
def tSmode (t : Word) : Nat := fld t 9 2
def tAlay (t : Word) : Nat := fld t 11 1
def tBlay (t : Word) : Nat := fld t 12 1

/-- The combinations of R102 with reserved bits zero (R103). -/
def tcfgValid (t : Word) : Bool :=
  let a := tAfmt t
  let b := tBfmt t
  let k := tAcck t
  let m := tSmode t
  fld t 13 51 == 0 &&
  ((a == 1 && b == 1 && k == 0 && m == 0) || (a == 6 && b == 6 && k == 1 && m == 3) || (a == 0 && b == 0 && k == 0 && m == 0) ||
   ((a == 4 || a == 5) && (b == 4 || b == 5) && k == 1) || ((a == 2 || a == 3) && (b == 2 || b == 3) && k == 1 && m == 0) ||
   (a == 7 && b == 7 && k == 1 && m == 0))

/-- K per TMMA by element width (R102). -/
def kOf (t : Word) : Nat := match fmtBits (tAfmt t) with | 4 => 64 | 8 => 32 | 16 => 16 | _ => 4

/-- Bytes of an operand block (R108). -/
def blockBytes (t : Word) : Nat := 16 * kOf t * fmtBits (tAfmt t) / 8

/-- An element of a byte list at an element index, low nibble first for 4-bit elements (R109). -/
def elemAt (w : Nat) (l : List Byte) (i : Nat) : Nat :=
  if w = 4 then bits (l[i / 2]?.getD 0).toNat (4 * (i % 2)) 4
  else leNat ((l.drop (i * w / 8)).take (w / 8))

/- Sums in an unspecified order. -/

/-- The exact sum of finite and special numbers: NaN, an infinity, or a finite value (R114). -/
def exactSum (l : List FVal) : FVal := l.foldl (·.add 0) (match l with | [] => .fin false 0 | x :: _ => (match x with | .fin n _ => .fin n 0 | _ => .fin false 0))

/-- The sum of the finite magnitudes. -/
def absSum (l : List FVal) : Nat := (l.map fun x => match x with | .fin _ m => m | _ => 0).sum

/-- The largest finite FP32 magnitude in units of 2^-400, and the least magnitude that rounds beyond it. -/
def maxMag : Nat := (2 ^ 24 - 1) * 2 ^ (unitExp + 104)
def infMag : Nat := (2 ^ 25 - 1) * 2 ^ (unitExp + 103)

/-- FP32 +Inf; −Inf has the sign bit set. -/
def infBits : Nat := 0x7F80_0000

/-- The sum of the magnitudes of the finite terms of one sign. -/
def sideSum (neg : Bool) (l : List FVal) : Nat :=
  (l.map fun x => match x with | .fin n m => if n == neg then m else 0 | _ => 0).sum

/-- Every sum of some of the terms is an FP32 number: all are multiples of one power of two, and their magnitudes add up to at most 2^24
of it. -/
def exactAnyOrder (l : List FVal) : Bool :=
  let ms := l.filterMap fun x => match x with | .fin _ m => if m = 0 then none else some m | _ => none
  let p := Nat.gcd (ms.foldl Nat.gcd 0) (2 ^ 2000)
  decide (ms.length ≤ 1) || decide (2 ^ (unitExp - 149) ≤ p ∧ absSum l ≤ 2 ^ 24 * p ∧ absSum l ≤ maxMag)

/-- The distance of an FP32 bit pattern from an exact finite value lies within n × 2^-24 × sum (R113). -/
def withinBound (n sum : Nat) (exact : FVal) (cand : Nat) : Bool :=
  match exact, f32 cand with
  | .fin a m, .fin b k => decide ((signedMag a m - signedMag b k).natAbs * 2 ^ 24 ≤ n * sum)
  | _, _ => false

/-- A sum in an unspecified order (R113, R114, R132). Special values are as R114 says. A sum whose every order is exact, or that lies
beyond the range in every order, has one value. Any other is the FP32 value within the bound that a free value w names, or the exact sum
rounded to nearest even; an infinity, or NaN, is among the values only where the terms of its sign, or of both signs, may overflow on the
way (log entry 29). -/
def floatSum (w : Word) (n : Nat) (l : List FVal) : Nat :=
  let e := exactSum l
  let cand := w.toNat % 2 ^ 32
  let slack := absSum l * n / 2 ^ 24 + 1
  let up := decide (maxMag < sideSum false l + slack)
  let down := decide (maxMag < sideSum true l + slack)
  match e with
  | .nan _ => fp32.nanBits
  | .inf neg => if (if neg then up else down) && bitAt cand 0 then fp32.nanBits else toF32 e
  | .fin neg m =>
    if exactAnyOrder l then toF32 e
    else if !(if neg then up else down) && decide (infMag + slack ≤ m) then toF32 (.inf neg)
    else if (up && cand == infBits) || (down && cand == infBits + 2 ^ 31) || (up && down && cand == fp32.nanBits) then cand
    else if withinBound n (absSum l) e cand && cand != 2 ^ 31 then cand else toF32 e

end Sys2Proof.Machine
end

