-- ==== Sys2Proof/Machine/Ops.lean ====
section
/-! DEFINITION. The operations that every chapter shares: error log (15), event rings, interrupts and mailbox responses (09),
partitions and function state (10), and access to the structures of State. -/

namespace Sys2Proof.Machine

open Sys2Proof

/- Access to structures. -/

/-- Thread g. -/
def State.th (s : State) (g : Nat) : Thread := tabGet s.fab.threads {} g

/-- Replace thread g. -/
def State.setTh (s : State) (g : Nat) (t : Thread) : State :=
  { s with fab := { s.fab with threads := tabSet s.fab.threads g t } }

/-- Change thread g. -/
def State.updTh (s : State) (g : Nat) (f : Thread → Thread) : State := s.setTh g (f (s.th g))

/-- The island of a thread (R17). -/
def thIsl (g : Nat) : Nat := g / 512

/-- The core key island × 64 + slot of a thread (R17). -/
def thCore (g : Nat) : Nat := g / 8

/-- Tensor unit of core key c. -/
def State.ten (s : State) (c : Nat) : Tensor := tabGet s.fab.tens {} c

/-- Replace a tensor unit. -/
def State.setTen (s : State) (c : Nat) (t : Tensor) : State :=
  { s with fab := { s.fab with tens := tabSet s.fab.tens c t } }

/-- Island i. -/
def State.isl (s : State) (i : Nat) : Island := tabGet s.fab.islands {} i

/-- Replace island i. -/
def State.setIsl (s : State) (i : Nat) (v : Island) : State :=
  { s with fab := { s.fab with islands := tabSet s.fab.islands i v } }

/-- Change island i. -/
def State.updIsl (s : State) (i : Nat) (f : Island → Island) : State := s.setIsl i (f (s.isl i))

/-- Context c, if it exists. -/
def State.ctx (s : State) (c : Nat) : Option Ctx := tabFind s.fab.ctxs c

/-- Replace context c. -/
def State.setCtx (s : State) (c : Nat) (x : Ctx) : State :=
  { s with fab := { s.fab with ctxs := tabSet s.fab.ctxs c x } }

/-- The entry of a page that nothing has changed since a boot: the firmware's pages and the free ones (R163, R168). -/
def bootPage (epoch p : Nat) : Page := { owner := if p < 1802240 then 0 else 0x1F, epoch := epoch }

/-- The page state entry of a physical page. -/
def State.page (s : State) (p : Nat) : Page := tabGet s.pln.pages (bootPage s.pln.bootEpoch p) p

/-- A cached translation shows a page's OWNER, STATE and EPOCH (R165). -/
def TlbEnt.show (e : TlbEnt) (v : Page) : TlbEnt := { e with owner := v.owner, st := v.st, epoch := v.epoch }

/-- Every copy of a page's state in the translation caches follows the page state table (R165, R172). -/
def State.showPage (s : State) (p : Nat) (v : Page) : State :=
  let f := fun (l : List TlbEnt) => l.map fun e => if e.ppn = p then e.show v else e
  { s with
    fab := { s.fab with islands := tabMap (fun x => { x with tlb := f x.tlb }) s.fab.islands }
    pln := { s.pln with caches := tabMap f s.pln.caches } }

/-- Replace a page state entry; the copies of its owner, state and epoch change with it (R165). -/
def State.setPage (s : State) (p : Nat) (v : Page) : State :=
  let o := s.page p
  let t := { s with pln := { s.pln with pages := tabSet s.pln.pages p v } }
  if o.owner = v.owner ∧ o.st = v.st ∧ o.epoch = v.epoch then t else t.showPage p v

/-- Change a page state entry. -/
def State.updPage (s : State) (p : Nat) (f : Page → Page) : State := s.setPage p (f (s.page p))

/-- A ferry channel by its code (R371). -/
def State.chan (s : State) (c : Nat) : Chan := tabGet s.fry.chans {} c

/-- Replace a ferry channel. -/
def State.setChan (s : State) (c : Nat) (v : Chan) : State :=
  { s with fry := { s.fry with chans := tabSet s.fry.chans c v } }

/-- A pass record. -/
def State.pass (s : State) (p : Nat) : Pass := tabGet s.pas.recs {} p

/-- Replace a pass record. -/
def State.setPass (s : State) (p : Nat) (v : Pass) : State :=
  { s with pas := { s.pas with recs := tabSet s.pas.recs p v } }

/-- A sorter. -/
def State.sorter (s : State) (k : Nat) : Sorter := tabGet s.srt.units {} k

/-- Replace a sorter. -/
def State.setSorter (s : State) (k : Nat) (v : Sorter) : State :=
  { s with srt := { s.srt with units := tabSet s.srt.units k v } }

/-- The partition of a VF. -/
def State.prt (s : State) (fn : Nat) : Part := tabGet s.part.parts {} fn

/-- Replace the partition of a VF. -/
def State.setPrt (s : State) (fn : Nat) (p : Part) : State :=
  { s with part := { s.part with parts := tabSet s.part.parts fn p } }

/-- The islands of a function in ascending global id; the n-th is its partition island n (R58). -/
def State.islandsOf (s : State) (fn : Nat) : List Nat := maskBits (s.prt fn).islands 64

/-- The global id of the partition's n-th island, if it is bound (R58). -/
def State.nthIsland (s : State) (fn n : Nat) : Option Nat := (s.islandsOf fn)[n]?

/-- The partition index of an island (R58). -/
def State.islIndex (s : State) (fn i : Nat) : Nat := ((s.islandsOf fn).filter (· < i)).length

/-- The owner of an island (R90 OWNER). -/
def State.islOwner (s : State) (i : Nat) : Nat := s.rdF .ISL_STATUS i 8 5

/-- A partition holds at least one resource (R373). -/
def Part.bound (p : Part) : Bool :=
  p.islands != 0 || p.hcores != 0 || p.npages != 0 || p.dec != 0 || p.enc != 0 || p.srt != 0 || p.qcount != 0 ||
  p.acount != 0 || p.npool != 0 || p.share != 0 || p.lf != 0 || p.budget != 0

/- The error log. -/

/-- Held entries that a report may join: the newest 64, created within 1 ms (R542). -/
def coalesces (now : Nat) (r : Rep) (e : LogEnt) : Bool :=
  decide (e.die = r.die ∧ e.unit = r.unit ∧ e.inst = r.inst ∧ e.sub = r.sub ∧ e.cls = r.cls ∧ e.sev = r.sev ∧
    e.synd = r.synd ∧ now < e.time + 1000000)

/- The twin link's sender. -/

/-- Priority of a message class (R424). -/
def clsPrio (cls : Nat) : Nat := cls - 2

/-- The class that takes the next flit slot: RESYNC_BULK every 16th slot in which it has a flit ready, else the lowest-numbered priority
with one ready, and within it the oldest message (R425). -/
def slotClass (bulk : Nat) (q : List TwinMsg) : Option Nat :=
  if bulk % 16 = 15 && q.any (·.cls == 6) then some 6
  else q.foldl (fun a m => match a with
    | none => some m.cls
    | some c => if clsPrio m.cls < clsPrio c then some m.cls else some c) none

/-- Take one flit of the oldest message of a class: whether it is its last, its MSG_SEQ, and the queue after it (R423). -/
def takeFlit (cls : Nat) : List TwinMsg → Option (TwinMsg × List TwinMsg)
  | [] => none
  | m :: r =>
    if m.cls = cls then some (m, if m.left ≤ 1 then r else ({ m with left := m.left - 1 } : TwinMsg) :: r)
    else (takeFlit cls r).map fun (x : TwinMsg × List TwinMsg) => (x.1, m :: x.2)

/-- Flits of a message with a body of n bytes (R423): its header and body, 248 bytes in each. -/
def flitsOf (n : Nat) : Nat := ceilDiv (8 + n) 248

/-- A flit of 256 bytes: TYPE (0 IDLE, 1 DATA, 2 NAK), CLASS, SOM, EOM, SEQ, a valid ACK, the payload and the CRC (R420). -/
def flitBytes (typ cls : Nat) (som eom : Bool) (seq ack : Nat) (payload : List Byte) : List Byte :=
  let l := natLe (typ + 4 * cls + 32 * b2n som + 64 * b2n eom + 128 + 2 ^ 8 * seq + 2 ^ 20 * ack) 4 ++
    (payload ++ List.replicate 248 0).take 248
  l ++ natLe (crc32 l) 4

/-- Bytes of a message: its header, the words of the body that the model gives, and free bytes where the spec lays none out (R423). -/
def TwinMsg.bytes (m : TwinMsg) : List Byte :=
  let b := m.body.flatMap fun w => natLe w 4
  natLe (m.fn + 2 ^ 16 * m.msg + 2 ^ 32 * m.len) 8 ++
  ((b ++ (List.range (m.len - b.length)).map fun i => Config.twinBody m.cls m.msg (b.length + i)).take m.len)

/-- The payload of the flit of a message that goes next (R423). -/
def TwinMsg.chunk (m : TwinMsg) : List Byte := (m.bytes.drop (248 * (flitsOf m.len - m.left))).take 248

/-- The ACK that a flit carries: the last SEQ in order (R420). -/
def Lnk.ack (l : Lnk) : Nat := (l.rxSeq + 4095) % 4096

/-- A flit with no data goes out: IDLE to acknowledge, or NAK (R420, R421). -/
def Lnk.answer (l : Lnk) (nak : Bool) : Lnk := { l with wire := flitBytes (if nak then 2 else 0) 0 false false 0 l.ack [] }

/-- A DATA flit goes out (R420). -/
def Lnk.transmit (l : Lnk) (f : TwinFlit) : Lnk := { l with wire := flitBytes 1 f.cls f.som f.eom f.seq l.ack f.payload }

/-- One flit slot: a flit leaves the queue for the replay buffer and the wire (R420, R421, R425). -/
def Lnk.flitSlot (l : Lnk) : Lnk :=
  match slotClass l.bulkSlots l.txq with
  | none => l
  | some c => match takeFlit c l.txq with
    | none => l
    | some (m, q) =>
      let f : TwinFlit := { seq := l.txSeq, cls := c, msg := m.msg, som := m.left == flitsOf m.len, eom := decide (m.left ≤ 1)
                            payload := m.chunk }
      Lnk.transmit { l with
        txq := q, bulkSlots := l.bulkSlots + b2n (l.txq.any (·.cls == 6))
        unacked := l.unacked ++ [f]
        txSeq := (l.txSeq + 1) % 4096 } f

/-- Flit slots while flits are ready and fewer than 1,024 are outstanding (R421). -/
def Lnk.flitSlots : Nat → Lnk → Lnk
  | 0, l => l
  | n + 1, l => if l.txq.isEmpty || decide (1024 ≤ l.unacked.length) then l else l.flitSlot.flitSlots n

/-- Flits that wait. -/
def Lnk.flitsLeft (l : Lnk) : Nat := (l.txq.map (·.left)).sum

/-- The sender uses its flit slots while the link is UP; the slots between two commands all pass (log entry 17). -/
def State.twinPump (s : State) : State :=
  if s.rdF .TWN_STATUS 0 0 2 = 2 then { s with lnk := Lnk.flitSlots s.lnk.flitsLeft s.lnk } else s

/-- Send a message of a class about a function to the partner, with a body of n bytes that holds some words: it waits for its flit slots,
then in the replay buffer for its acknowledgement, and is discarded and counted while the link is DOWN (R421 to R425). -/
def State.twinMsg (s : State) (cls fn n : Nat) (body : List Nat) : State :=
  if s.rdF .TWN_STATUS 0 0 2 = 0 then { s with lnk := { s.lnk with twinDropped := s.lnk.twinDropped + 1 } }
  else
    let m : TwinMsg := { cls := cls, fn := fn, msg := tabGet s.lnk.msgSeq 0 cls, left := flitsOf n, len := n, body := body }
    State.twinPump { s with lnk := { s.lnk with
      txq := s.lnk.txq ++ [m], msgSeq := tabSet s.lnk.msgSeq cls ((m.msg + 1) % 65536), sent := tabSet s.lnk.sent cls body } }

/-- Send a message of a class whose body the spec does not lay out (log entry 17). -/
def State.twinSend (s : State) (cls : Nat) : State := s.twinMsg cls 0 0 []

/-- Add 1 to the COUNT of the entry that a report joins, among the newest n of a list (R542). -/
def joinEntry (now : Nat) (r : Rep) (n : Nat) (l : List LogEnt) : Option (List LogEnt) :=
  let old := l.take (l.length - n)
  let new := l.drop (l.length - n)
  match new.findIdx? (coalesces now r) with
  | none => none
  | some i => some (old ++ new.modify i fun e => { e with count := min (e.count + 1) 65535 })

/-- Entries held: the difference of the two indices modulo 2^32 (R537). -/
def State.logHeld (s : State) : Nat := (s.rdN .RAS_LOG_WR 0 + 2 ^ 32 - s.rdN .RAS_LOG_ACK 0) % 2 ^ 32

/-- The log is full (R537). -/
def State.logFull (s : State) : Bool := decide (s.logHeld ≥ 4096)

/-- Keep RAS_STATUS.LOG_FULL with the log (R572). -/
def State.syncLogFull (s : State) : State := s.wrF .RAS_STATUS 0 3 1 (b2n s.logFull)

/-- Create one entry; a FATAL entry also goes to the stored ring of 256, and the console gets a line for an entry of severity
correctable or above; one before the confirmation of new firmware counts against it (R537, R545, R573, R417, R489). -/
def State.pushLog (s : State) (e : LogEnt) : State :=
  let t := { s with
   mbx := { s.mbx with console := s.mbx.console + (if e.sev = 0 then 0 else 1) }
   upd := if e.sev == 3 && s.upd.st == UpdState.confirming then { s.upd with fatal := true } else s.upd
   ras := { s.ras with
    log := s.ras.log ++ [e]
    nvFatal := if e.sev = 3 then (s.ras.nvFatal ++ [e]).drop ((s.ras.nvFatal.length + 1) - 256) else s.ras.nvFatal
    nvNew := if e.sev = 3 then s.ras.nvNew + 1 else s.ras.nvNew } }
  let t := (t.wrN .RAS_LOG_WR 0 ((t.rdN .RAS_LOG_WR 0 + 1) % 2 ^ 32)).syncLogFull
  if e.sev = 3 then t.hwSet .RAS_EVT 0 1 else if e.sev = 2 then t.hwSet .RAS_EVT 0 2 else t

/-- Count a dropped report (R543). -/
def State.dropReport (s : State) (cls : Nat) : State :=
  let t := { s with ras := { s.ras with
    drops := tabUpd s.ras.drops 0 cls (· + 1)
    dropsSince := s.ras.dropsSince + 1
    firstDrop := some (s.ras.firstDrop.getD cls) } }
  (t.count .RAS_DROP_TOTAL 0 1).hwSet .RAS_EVT 0 4

/-- The OVERRUN entry that precedes the first entry after drops (R543). -/
def State.overrunEntry (s : State) : LogEnt :=
  { time := s.time, die := 4, unit := 0x1B, inst := 0, sub := 0, cls := 0xF0, count := min s.ras.dropsSince 65535, func := 0x1F,
    sev := 0, prior := false, addr := s.ras.dropsSince, synd := s.ras.firstDrop.getD 0, ctx := 0 }

/-- A report that made no entry coalesces, creates an entry, or is dropped; the flag says that an entry was created
(R542, R543). -/
def State.logRep (s : State) (r : Rep) : State × Bool :=
  match joinEntry s.time r 64 s.ras.log with
  | some l => ({ s with ras := { s.ras with log := l } }, false)
  | none =>
    if s.logFull then (s.dropReport r.cls, false) else
    let t := if s.ras.dropsSince = 0 then s else
      { (s.pushLog s.overrunEntry) with
        ras := { (s.pushLog s.overrunEntry).ras with dropsSince := 0, firstDrop := none } }
    if t.logFull then (t.dropReport r.cls, false) else
    (t.pushLog { time := t.time, die := r.die, unit := r.unit, inst := r.inst, sub := r.sub, cls := r.cls, count := 1,
                 func := r.func, sev := r.sev, prior := false, addr := r.addr, synd := r.synd, ctx := r.ctx }, true)

/- Host memory, interrupts and event rings. -/

/-- The function in whose name the module writes: PF0 for function 18, its commands from before a function-level reset (R360). -/
def hostFn (fn : Nat) : Nat := if fn = 18 then 0 else fn

/-- The stream that a TLP of a function goes on: its selective stream, else the link stream, where that is Secure, else none; a VF in RUN
uses its selective stream alone (R405). -/
def State.tlpStream (s : State) (fn : Nat) : Option Nat :=
  if (tabGet s.lnk.ide {} (fn + 1)).secure then some (fn + 1)
  else if (tabGet s.lnk.ide {} 0).secure && tabGet s.lnk.tdi .unlocked fn != .run then some 0 else none

/-- A TLP of a function can go: on a Secure stream, or without IDE where no stream that it would take is Insecure (R405, R406; log entry
109). -/
def State.tlpOk (s : State) (fn : Nat) : Bool :=
  !(tabGet s.lnk.ide {} (fn + 1)).insecure &&
  ((s.tlpStream fn).isSome || (tabGet s.lnk.tdi .unlocked fn != .run && !(tabGet s.lnk.ide {} 0).insecure))

/-- The module can issue requests to a function's host memory (R406, R648). -/
def State.hostOk (s : State) (fn : Nat) : Bool := tabGet s.lnk.bme true (hostFn fn) && s.tlpOk (hostFn fn)

/-- Log a host write that cannot be issued (R648). -/
def State.logHostWrite (s : State) (fn : Nat) : State :=
  (s.logRep { die := 4, unit := 0x0C, inst := fn, sub := 0, cls := 0x46, func := if fn = 0 then 0x1E else fn, sev := 1,
              addr := 0, synd := 0, ctx := 0 }).1

/-- The memory key of a function's I/O virtual address. -/
def hostKey (fn addr : Nat) : Nat := hostFn fn * 2 ^ 65 + addr % 2 ^ 64

/-- The cache keeps the translation of a page that a function with ATS enabled accesses; the oldest of 1,024 leaves (R402). -/
def Lnk.touchAtc (x : Lnk) (fn addr : Nat) : Lnk :=
  let e : AtcEnt := { fn := fn, pasid := tabGet x.pasid 0 fn, page := addr / 4096 }
  if x.ats.contains fn then { x with atc := (e :: x.atc.erase e).take 1024 } else x

/-- Write host memory of a function (R216). The service port's addresses are staging offsets (R415). -/
def State.hostPut (s : State) (fn addr : Nat) (l : List Byte) : State :=
  if fn = 17 then { s with mbx := { s.mbx with staging := memWrite s.mbx.staging addr l } }
  else { s with host := memWrite s.host (hostKey fn addr) l, lnk := s.lnk.touchAtc fn addr }

/-- The table key of a mailbox word. Mailbox 16 of a function takes the posts that the active forwards to a standby (R578). -/
def mbxKey (fn mbx w : Nat) : Nat := (fn * 32 + mbx) * 64 + w

/-- A mailbox word (R353). -/
def State.mbxW (s : State) (fn mbx w : Nat) : Nat := (tabGet s.mbx.words 0 (mbxKey fn mbx w)).toNat

/-- Store a mailbox word. -/
def State.setMbxW (s : State) (fn mbx w v : Nat) : State :=
  { s with mbx := { s.mbx with words := tabSet s.mbx.words (mbxKey fn mbx w) (w32 v) } }

/-- The module owns the mailbox (R353). -/
def State.owned (s : State) (fn mbx : Nat) : Bool := bitAt (s.mbxW fn mbx 63) 31

/-- A bulk result: written, or none where the host write cannot be issued or leaves the staging area (R363, R415, R648). A forwarded
post writes no host memory (R578, R597). -/
def State.bulkPut (s : State) (fn addr : Nat) (l : List Byte) : Option State :=
  if fn = 17 then (if addr + l.length ≤ 32 * 2 ^ 20 then some (s.hostPut fn addr l) else none)
  else if s.owned fn 16 then some s
  else if s.hostOk fn then some (s.hostPut fn addr l) else none

/-- Vectors of a function (R370). -/
def vecCount (fn : Nat) : Nat := if fn = 0 then 256 else 32

/-- Send an MSI-X message, or hold it pending while its entry is masked or names address 0 (R399). -/
def State.raiseVec (s : State) (fn v : Nat) : State :=
  let k := fn * 256 + v
  let e := tabGet s.lnk.msix {} k
  if e.masked || e.addr = 0 then { s with lnk := { s.lnk with pba := if s.lnk.pba.contains k then s.lnk.pba else k :: s.lnk.pba } }
  else { s with mbx := { s.mbx with sent := tabUpd s.mbx.sent 0 k (· + 1) } }

/-- Event vector of group g (R349). -/
def State.evtVec (s : State) (fn g : Nat) : Nat :=
  let r := if g / 4 = 0 then Reg.FN_EVT_VEC0 else if g / 4 = 1 then .FN_EVT_VEC1 else if g / 4 = 2 then .FN_EVT_VEC2 else .FN_EVT_VEC3
  s.rdF r fn (8 * (g % 4)) 8

/-- Count an event towards its vector, and raise the vector once COAL_CNT events wait (R370). -/
def State.signal (s : State) (fn v : Nat) : State :=
  let k := fn * 256 + v
  let n := tabGet s.mbx.coal 0 k + 1
  if n ≥ max 1 (s.rdF .FN_INT_COAL fn 16 8) then
    { s with mbx := { s.mbx with coal := tabSet s.mbx.coal k 0 } }.raiseVec fn v
  else { s with mbx := { s.mbx with
    coal := tabSet s.mbx.coal k n
    coalT := if n = 1 then tabSet s.mbx.coalT k s.time else s.mbx.coalT } }

/-- Records in a ring: 2^FN_EVT_SIZE, values outside 6 to 16 acting as 6 (R349). -/
def State.ringSize (s : State) (fn : Nat) : Nat :=
  let z := s.rdF .FN_EVT_SIZE fn 0 5
  2 ^ (if 6 ≤ z ∧ z ≤ 16 then z else 6)

/-- Free records of an enabled ring; 0 while it is disabled (R368). -/
def State.ringRoom (s : State) (fn : Nat) : Nat :=
  if s.rdF .FN_EVT_CTL fn 0 1 = 0 then 0 else s.ringSize fn - (s.rdN .FN_EVT_PROD fn - s.rdN .FN_EVT_ACK fn)

/-- Records that an event of n payload words takes (R369). -/
def recsFor (n : Nat) : Nat := max 1 (ceilDiv n 12)

/-- One 64-byte record (R369). -/
def recBytes (typ nrec idx time : Nat) (ws : List Nat) : List Byte :=
  natLe (typ % 65536 + nrec % 8 * 65536) 4 ++ natLe (idx % 2 ^ 32) 4 ++ natLe time 8 ++
  ((ws.take 12).flatMap fun w => natLe w 4) ++ List.replicate (4 * (12 - min 12 ws.length)) 0

/-- The records of one event from producer count p (R369). -/
def evtRecs (typ p time : Nat) (ws : List Nat) : Nat → Nat → List (List Byte)
  | 0, _ => []
  | n + 1, k => recBytes (if k = 0 then typ else 6) (if k = 0 then recsFor ws.length else 0) (p + k) time (ws.drop (12 * k)) ::
      evtRecs typ p time ws n (k + 1)

/-- Write records to ring slots from producer count p on. -/
def State.putRecs (s : State) (fn p : Nat) : List (List Byte) → State
  | [] => s
  | r :: rs => (s.hostPut fn (s.rdN .FN_EVT_BASE fn + 64 * (p % s.ringSize fn)) r).putRecs fn (p + 1) rs

/-- Write one event to a ring that has room: its records, FN_EVT_PROD, the shadow, and the vector (R368, R370). -/
def State.ringWrite (s : State) (fn typ time : Nat) (ws : List Nat) : State :=
  let p := s.rdN .FN_EVT_PROD fn
  let n := recsFor ws.length
  let t := (s.putRecs fn p (evtRecs typ p time ws n 0)).wrN .FN_EVT_PROD fn (p + n)
  let a := t.rdN .FN_EVT_PROD_ADDR fn
  let t := if a = 0 then t else t.hostPut fn a (natLe (p + n) 8)
  t.signal fn (t.evtVec fn (bits typ 8 4))

/-- Drop an event (R368). -/
def State.dropEvt (s : State) (fn : Nat) : State :=
  ({ s with mbx := { s.mbx with dropped := tabUpd s.mbx.dropped 0 fn (· + 1) } }.count .FN_EVT_DROPPED fn 1).hwSet .FN_EVT fn 2

/-- Event records that wait at the service port's IN endpoint (R416). -/
def State.usbRecs (s : State) : Nat := (s.mbx.usbOut.map fun f => match f with | .event l => l.length / 64 | _ => 0).sum

/-- Queue an event record for the service port's IN endpoint, or drop it where 256 wait (R416). -/
def State.usbEvt (s : State) (typ time : Nat) (ws : List Nat) : State :=
  if !s.mbx.usbAttached then s else
  if s.usbRecs + recsFor ws.length > 256 then { s with mbx := { s.mbx with usbDropped := s.mbx.usbDropped + 1 } } else
  { s with mbx := { s.mbx with
    usbOut := s.mbx.usbOut ++ [.event (evtRecs typ 0 time ws (recsFor ws.length) 0).flatten] } }

/-- The outputs of a module that does not hold the line: a standby posts no tenant event but READY, FN_STATE, RESET and
PAIR_ROLE (R580, R597). -/
def State.emits (s : State) (fn typ : Nat) : Bool :=
  s.rdF .FN_STATUS fn 3 2 != 2 || fn = 0 || [0x0001, 0x0005, 0x0602, 0x0901].contains typ

/-- Write the EVT_OVERRUN record that is due, where the ring has room (R368). -/
def State.flushOverrun (s : State) (fn : Nat) : State :=
  let d := tabGet s.mbx.dropped 0 fn
  if d = 0 || s.ringRoom fn = 0 || !s.hostOk fn then s else
  let t := s.ringWrite fn 4 s.time [d % 2 ^ 32, d / 2 ^ 32]
  { t with mbx := { t.mbx with dropped := tabSet t.mbx.dropped fn 0 } }

/-- Post an event to a function's ring, with EVT_OVERRUN first after drops (R368, R648). -/
def State.postAt (s : State) (fn typ time : Nat) (ws : List Nat) : State :=
  if fn = 17 then s.usbEvt typ time ws else
  if !s.emits fn typ then s else
  if s.ringRoom fn = 0 then s.dropEvt fn else
  if !s.hostOk fn then (s.logHostWrite fn).dropEvt fn else
  let t := s.flushOverrun fn
  if t.ringRoom fn < recsFor ws.length then t.dropEvt fn else t.ringWrite fn typ time ws

/-- Post an event stamped now. An event to PF0 also goes to the service port's event stream, which carries PF0's rights
(R361, DEDUCED, log entry 12). -/
def State.post (s : State) (fn typ : Nat) (ws : List Nat) : State :=
  let t := s.postAt fn typ s.time ws
  if fn = 0 then t.usbEvt typ s.time ws else t

/-- Low and high words of a 64-bit payload field (R362). -/
def lohi (v : Nat) : List Nat := [v % 2 ^ 32, v / 2 ^ 32 % 2 ^ 32]

/-- Report to the error log; a created UNCORRECTABLE or FATAL entry posts RAS_ERROR, at most once per class and severity in
1 ms (R546). -/
def State.report (s : State) (r : Rep) : State :=
  let (t, made) := s.logRep r
  let k := r.cls * 4 + r.sev
  if made && decide (2 ≤ r.sev) && (match tabFind t.ras.lastEvt k with | none => true | some x => decide (x + 1000000 ≤ t.time)) then
    { t with ras := { t.ras with lastEvt := tabSet t.ras.lastEvt k t.time } }.post 0 0x0601
      [(t.rdN .RAS_LOG_WR 0 + 2 ^ 32 - 1) % 2 ^ 32, r.cls, r.sev]
  else t

/-- The FUNC field of a log entry for a function (R162 OWNER encoding). -/
def ownerCode (fn : Nat) : Nat := if fn = 0 ∨ 17 ≤ fn then 0x1E else fn

/-- A report from a unit (R539, R540). -/
def State.log (s : State) (die unit inst sub cls func sev addr synd ctx : Nat) : State :=
  s.report ⟨die, unit, inst, sub, cls, func, sev, addr, synd, ctx⟩

/- Mailboxes. -/

/-- Store consecutive mailbox words. -/
def State.setMbxWs (s : State) (fn mbx w : Nat) : List Nat → State
  | [] => s
  | v :: vs => (s.setMbxW fn mbx w v).setMbxWs fn mbx (w + 1) vs

/-- Load the next forwarded post into its mailbox, once the one before it has ended and no resync of its VF runs (R578, R591). -/
def State.loadMirror (s : State) : State :=
  if (List.range 17).any fun f => s.owned f 16 then s else
  match s.pair.inputs with
  | [] => s
  | (f, op, ws) :: r =>
    if f ≠ 0 ∧ s.rdF .TWN_SYNC 0 (2 * (f - 1)) 2 = 1 then s else
    let t := { s with pair := { s.pair with inputs := r }, mbx := { s.mbx with postT := tabSet s.mbx.postT (f * 32 + 16) s.time } }
    (t.setMbxWs f 16 0 ws).setMbxW f 16 63 (op % 4096 + ws.length % 64 * 2 ^ 12 + 2 ^ 31)

/-- Write a response: RESULT and response words, then the header with DONE set and OWN clear, then the interrupt or the
RESPONSE frame (R357, R414). A forwarded post gets none (R578). -/
def State.respond (s : State) (fn mbx result : Nat) (ws : List Nat) : State :=
  if mbx = 16 then (s.setMbxW fn 16 63 0).loadMirror else
  let h := s.mbxW fn mbx 63
  let t := s.setMbxWs fn mbx 0 (result % 65536 :: ws)
  let h' := bits h 0 12 + (1 + ws.length) % 64 * 2 ^ 12 + bits h 18 8 * 2 ^ 18 + bits h 26 1 * 2 ^ 26 + 2 ^ 30
  let t := t.setMbxW fn mbx 63 h'
  if fn = 17 then
    (if t.mbx.usbAttached then { t with mbx := { t.mbx with
      usbOut := t.mbx.usbOut ++ [.response mbx ((List.range 64).map (t.mbxW fn mbx))] } } else t)
  else if bitAt h 26 then
    t.raiseVec fn (t.rdF (if mbx / 4 = 0 then .FN_MBX_VEC0 else if mbx / 4 = 1 then .FN_MBX_VEC1 else
      if mbx / 4 = 2 then .FN_MBX_VEC2 else .FN_MBX_VEC3) fn (8 * (mbx % 4)) 8)
  else t

/-- Payload word i of a mailbox. -/
def State.arg (s : State) (fn mbx i : Nat) : Nat := s.mbxW fn mbx i

/-- The 64-bit argument in payload words i and i + 1 (R362). -/
def State.arg64 (s : State) (fn mbx i : Nat) : Nat := s.mbxW fn mbx i + 2 ^ 32 * s.mbxW fn mbx (i + 1)

/-- What a command acts on (R359): items lo to hi of one kind, of one function; a module-wide object has function 32, and a whole
partition is kind 0. -/
structure CmdObj where
  kind : Nat
  fn : Nat
  lo : Nat := 0
  hi : Nat := 0
  deriving DecidableEq, Repr

/-- Two commands act on the same object: items in common, or a partition and something of it (R359). -/
def CmdObj.meets (a b : CmdObj) : Bool :=
  a.fn == b.fn && (a.kind == 0 || b.kind == 0 || (a.kind == b.kind && decide (a.lo ≤ b.hi) && decide (b.lo ≤ a.hi)))

/-- The objects that a posted command names (R359, R364): partitions, page ranges, program slots, contexts, models, requests, stop sets,
adapter slots, streams, jobs, dump slots, the owner lock, the update and the pair. -/
def State.cmdObjs (s : State) (fn mbx op : Nat) : List CmdObj :=
  let w := s.arg fn mbx
  let one := fun k v => (⟨k, fn, v, v⟩ : CmdObj)
  let own : CmdObj := ⟨0, if fn = 0 ∨ 17 ≤ fn then w 0 else fn, 0, 0⟩
  match op with
  | 0x100 | 0x104 | 0x500 | 0x505 => [own]
  | 0x101 | 0x102 | 0x105 | 0x502 => [⟨0, w 0, 0, 0⟩]
  | 0x103 => [⟨0, w 0, 0, 0⟩, ⟨0, w 1, 0, 0⟩]
  | 0x106 | 0x107 => [⟨1, fn, w 0, w 0 + w 1 - 1⟩]
  | 0x108 => [one 1 (w 0)]
  | 0x200 | 0x201 | 0x202 => [one 2 (w 0)]
  | 0x203 | 0x204 => [one 3 (w 0)]
  | 0x300 | 0x307 | 0x308 => [one 4 (w 0)]
  | 0x301 => [one 5 (s.arg64 fn mbx 0), one 4 (w 2)]
  | 0x302 | 0x303 => [one 5 (s.arg64 fn mbx 0)]
  | 0x304 => [one 6 (w 0)]
  | 0x305 | 0x306 => [one 7 (w 0)]
  | 0x401 | 0x402 | 0x403 | 0x404 | 0x408 | 0x409 => [one 8 (w 0)]
  | 0x405 => [one 9 (w 0), one 8 (w 1)]
  | 0x406 => [one 9 (w 0)]
  | 0x602 | 0x603 => [⟨10, 32, w 0, w 0⟩]
  | 0x702 | 0x703 => [⟨11, 32, 0, 0⟩]
  | _ => if op / 256 = 8 then [⟨12, 32, 0, 0⟩] else if 0x901 ≤ op ∧ op ≤ 0x903 then [⟨13, 32, 0, 0⟩] else []

/-- A command posted earlier waits to act on an object of this one, which is to see its effects (R359). -/
def State.afterOther (s : State) (fn mbx opcode : Nat) : Bool :=
  let t := tabGet s.mbx.postT 0 (fn * 32 + mbx)
  s.mbx.postT.any fun e =>
    let f := e.1 / 32
    let m := e.1 % 32
    decide (e.2 < t) && s.owned f m &&
    (s.cmdObjs f m (bits (s.mbxW f m 63) 0 12)).any fun a => (s.cmdObjs fn mbx opcode).any a.meets

/-- A posted command that the firmware may execute now: owned, of this opcode, not held by a handover window (R358), and with no earlier
command on its object still to execute (R359). -/
def State.executes (s : State) (fn mbx opcode : Nat) : Bool :=
  s.owned fn mbx && decide (bits (s.mbxW fn mbx 63) 0 12 = opcode) && !s.mbx.deferred.contains (fn, mbx) &&
  !s.afterOther fn mbx opcode

/-- Execute a posted command: nothing happens where no such command waits in the mailbox. -/
def State.cmd (s : State) (fn mbx opcode : Nat) (f : State → State) : Out :=
  onUnit s (decide (fn ≤ 18 ∧ mbx ≤ 16)) (if s.executes fn mbx opcode then f s else s)

/-- Answer ACCEPTED and owe a CMD_DONE (R362). -/
def State.accept (s : State) (fn mbx : Nat) : State :=
  let h := s.mbxW fn mbx 63
  let t := s.respond fn mbx 1 []
  { t with mbx := { t.mbx with async := t.mbx.async ++ [⟨fn, mbx, bits h 0 12, bits h 18 8⟩] } }

/-- Complete the oldest command of a mailbox that owes a CMD_DONE with this opcode (R362). -/
def State.cmdDone (s : State) (fn mbx opcode result : Nat) (ws : List Nat) : State :=
  match s.mbx.async.find? fun a => decide (a.fn = fn ∧ a.mbx = mbx ∧ a.opcode = opcode) with
  | none => s
  | some a =>
    let t := { s with mbx := { s.mbx with async := s.mbx.async.erase a } }
    if mbx = 16 then t else t.postAt fn 3 s.time ([a.mbx, a.opcode, a.tag, result] ++ ws.take 8)

/- Function state and role. -/

/-- STATE codes of FN_STATUS (R351). -/
abbrev fnBooting : Nat := 0
abbrev fnReady : Nat := 1
abbrev fnScrubbing : Nat := 2
abbrev fnDraining : Nat := 3
abbrev fnHandover : Nat := 4
abbrev fnOos : Nat := 5
abbrev fnUnbound : Nat := 6

/-- The STATE of a function. -/
def State.fnState (s : State) (fn : Nat) : Nat := s.rdF .FN_STATUS (if 17 ≤ fn then 0 else fn) 0 3

/-- Change a function's STATE: STATE_CHANGE in FN_EVT and an FN_STATE event (R352, R371). -/
def State.setFnState (s : State) (fn st : Nat) : State :=
  let old := s.fnState fn
  if old = st then s else
  ((s.wrF .FN_STATUS fn 0 3 st).hwSet .FN_EVT fn 16).post fn 5 [old, st, s.rdF .FN_STATUS fn 3 2]

/-- Do something for every function PF0 to VF16. -/
def State.allFns (s : State) (f : State → Nat → State) : State := (List.range 17).foldl f s

/-- The bound VFs. -/
def State.boundVfs (s : State) : List Nat := (List.range 17).filter fun v => decide (1 ≤ v) && (s.prt v).bound

/-- Count a register write that is ignored (R13, R352). -/
def State.dropWr (s : State) (fn : Nat) : State :=
  let f := if fn = 17 then 0 else fn
  (s.count .FN_DROPPED_WR f 1).hwSet .FN_EVT f 4

/-- The ring of a VF's owner: an event to an owning function is posted only where one exists. -/
def State.postOwner (s : State) (fn typ : Nat) (ws : List Nat) : State :=
  if 1 ≤ fn ∧ fn ≤ 16 then s.post fn typ ws else s

/-- RAS_LAST_RESET and the RESET log entry of a reset (R555, R571). -/
def State.resetLog (s : State) (domain target cause owner : Nat) : State :=
  let v := domain + cause * 256 + target % 65536 * 65536
  let t := s.log 4 0x1B 0 0 0x70 (if owner = 0 then 0x1F else owner) 0 0 v 0
  (t.wrN .RAS_LAST_RESET 0 v).wrN .RAS_LAST_RESET_T 0 t.time

/-- A RESET event to PF0 and the affected owner (R371, R555). -/
def State.resetEvent (s : State) (domain target cause owner : Nat) : State :=
  (s.post 0 0x0602 [domain, target, cause]).postOwner owner 0x0602 [domain, target, cause]

/-- The event and the log entry of a reset (R555). The event of a reset that a ladder rule asked for was posted by the rule's
action (R560). -/
def State.resetRecord (s : State) (domain target cause owner : Nat) : State :=
  (if cause = 4 then s else s.resetEvent domain target cause owner).resetLog domain target cause owner

/-- The exposed cores of an island (R90). -/
def State.exposed (s : State) (i : Nat) : Nat := s.rdF .ISL_STATUS i 16 7

/-- The physical core behind an exposed slot (R18). -/
def State.physOf (s : State) (i slot : Nat) : Nat := ((s.isl i).phys[slot]?).getD slot

/-- The share S_i of the ramp governor for an island of a partition (R236). -/
def State.rampShare (s : State) (fn i : Nat) : Nat :=
  let e := ((s.islandsOf fn).map s.exposed).sum
  max 1 ((s.prt fn).ramp * s.exposed i / e)

/-- The die of an island (R17). -/
def islDie (i : Nat) : Nat := i / 16

/-- ISL_CLK cycles of an island's die since reset, in whole cycles. -/
def State.dieCycles (s : State) (d : Nat) : Nat := tabGet s.fab.dieCyc 0 d / 10

/-- The cycle CSR of an island: ISL_CLK cycles since its last engine reset (R69). -/
def State.islCycle (s : State) (i : Nat) : Nat := s.dieCycles (islDie i) - (s.isl i).cyc0

/-- A context holds its islands: it runs, stops, or waits to be started again. -/
def Ctx.active (c : Ctx) : Bool := !c.done || c.restart

/-- The active context of an island (R646). -/
def State.islCtx (s : State) (i : Nat) : Option Nat :=
  (s.fab.ctxs.find? fun e => e.2.active && e.2.islands.contains i).map (·.1)

/-- The events of a ladder or spare rule kept per scope. -/
def ruleKey (rule scope : Nat) : Nat := rule * 2 ^ 40 + scope

/-- Powered time: the windows of rules 3 and 4 run over it (R560). -/
def State.powTime (s : State) : Nat := (s.ras.powBase + s.time).toNat

/-- Count and window (s) of a rule: its policy, or the default of R559. -/
def State.policy (s : State) (rule : Nat) : Nat × Nat :=
  tabGet s.ras.policy (match rule with
    | 0 => (4, 10) | 1 => (3, 60) | 2 => (3, 600) | 3 => (2, 3600) | 4 => (2, 86400)
    | 8 => (2, 86400) | 9 => (16, 3600) | 10 => (2, 86400) | _ => (1, 1)) rule

/-- Times of a list within the last w seconds (R560). -/
def within (now w : Nat) (l : List Nat) : List Nat := l.filter fun t => decide (now < t + w * 1000000000)

end Sys2Proof.Machine
end

