-- ==== Sys2Proof/Machine/Access.lean ====
section
/-! DEFINITION. Where an address leads (02 R57, R58, R171), how the plain is read and written (04 R164 to R166), epochs, free
pages and quarantine. -/

namespace Sys2Proof.Machine

open Sys2Proof

/-- Bytes of local SRAM per core (R57). -/
abbrev lsBytes : Nat := 0x30000

/-- Bytes of an island store (R3). -/
abbrev isBytes : Nat := 0x400000

/-- First byte of the plain view (R57). -/
abbrev plainBase : Nat := 0x0100_0000_0000

/-- First byte of the unit windows (R57, R60). -/
abbrev winBase : Nat := 0x0F00_0000_0000

/-- What a partition-virtual address names (R57). -/
inductive Loc where
  | lsram (core off : Nat)
  | istore (island off : Nat)
  | plain (vpn off : Nat)
  | window (off : Nat)
  | outside
  deriving DecidableEq, Repr

/-- The target of an address that a thread of an island and core key of function fn names (R57, R58). -/
def State.locate (s : State) (fn island core a : Nat) : Loc :=
  if a < lsBytes then .lsram core a
  else if 0x0100_0000 ≤ a ∧ a < 0x0140_0000 then .istore island (a - 0x0100_0000)
  else if 0x1_0000_0000 ≤ a ∧ a < plainBase then
    match s.nthIsland fn ((a - 0x1_0000_0000) / isBytes) with
    | some i => .istore i ((a - 0x1_0000_0000) % isBytes)
    | none => .outside
  else if plainBase ≤ a ∧ a < winBase then .plain ((a - plainBase) / 65536) (a % 65536)
  else if winBase ≤ a ∧ a < 2 ^ 48 then .window (a - winBase)
  else .outside

/-- A range of the partition's plain view. -/
def State.inView (s : State) (fn a n : Nat) : Bool :=
  decide (plainBase ≤ a ∧ a + n ≤ plainBase + 65536 * (s.prt fn).npages)

/-- Replace a physical page by another in a partition's lists. -/
def swapPage (p q : Nat) (l : List Nat) : List Nat := l.map fun x => if x = p then q else x

/-- The key of a map entry. -/
def mapKey (fn vpn : Nat) : Nat := fn * 2 ^ 21 + vpn

/-- The address of a function's level-2 table in the firmware reservation, which the firmware chooses (R169; log entry 101). -/
def levelTable (fn idx : Nat) : Nat := 1802240 * 65536 + (fn * 256 + idx) * 32768

/-- A level-1 entry: the tables that cover the function's view are VALID (R169). -/
def State.level1 (s : State) (fn idx : Nat) : Nat := if idx * 8192 < (s.prt fn).npages then 2 ^ 63 + levelTable fn idx else 0

/-- The word of a level-2 entry that maps a page (R170). -/
def MapEnt.word (e : MapEnt) : Nat := e.ppn + 2 ^ 21 + 2 ^ 22 * b2n e.write

/-- A level-2 entry; 0 where it maps no page (R170). -/
def State.level2 (s : State) (fn vpn : Nat) : Nat :=
  match tabFind s.pln.maps (mapKey fn vpn) with
  | some e => e.word
  | none => 0

/-- Translate a VPN: the page, or none where R171 gives an access fault. -/
def State.xlate (s : State) (fn vpn : Nat) (write : Bool) : Option Nat :=
  match tabFind s.pln.maps (mapKey fn vpn) with
  | none => none
  | some e =>
    if bitAt (s.level1 fn (vpn / 8192)) 63 = true ∧ vpn < (s.prt fn).npages ∧ (write = true → e.write = true) ∧
        (s.page e.ppn).owner = fn then some e.ppn else none

/-- The plain channel of sector index i of page p (R146). -/
def plainChannel (p i : Nat) : Nat := Nat.xor (i % 32) (p % 32)

/-- The channel-local number of sector index i of page p (R146). -/
def chanSector (p i : Nat) : Nat := 8 * p + i / 32

/-- The channel byte offset of the row block of a channel-local sector, and the sector's slot in it (R145, R146). -/
def rowBlock (l : Nat) : Nat × Nat := (l / 7 * 2048, l % 7)

/-- The PSN of the channel-local sector l of a channel: the mapping of R146 read backwards. -/
def sectorAt (c l : Nat) : Nat := l / 8 * 256 + l % 8 * 32 + Nat.xor c (l / 8 % 32)

/-- The sector holds data of its page's epoch (R164). -/
def State.fresh? (s : State) (psn : Nat) : Bool :=
  let p := s.page (psn / 256)
  p.st == .written && tabGet s.pln.secEpoch 0 psn == p.epoch

/-- A byte of a physical page as a consumer sees it: zero from an UNWRITTEN page or a stale sector (R164). -/
def State.plainByte (s : State) (ppn off : Nat) : Byte :=
  let psn := ppn * 256 + off / 256
  if s.fresh? psn then memGet s.pln.data (psn * 256 + off % 256) else 0

/-- The FMT field a consumer sees (R154, R164). -/
def State.plainFmt (s : State) (psn : Nat) : Nat := if s.fresh? psn then tabGet s.pln.secFmt 0 psn else 0

/-- An owner's key set: the owner and the generation of its keys (R157). -/
def State.keySet (s : State) (owner : Nat) : Nat × Nat := (owner, tabGet s.pln.keyGen 0 (if owner = 0x1E then 0 else owner))

/-- Make a sector current before a write: the first write moves the page to WRITTEN, and the other bytes of a stale sector
merge as zeros (R165, R166). The sector is encrypted and tagged under its owner's keys (R157). -/
def State.touch (s : State) (psn : Nat) (kv : Bool) : State :=
  let p := s.page (psn / 256)
  let data := if s.fresh? psn then s.pln.data else memClear s.pln.data (psn * 256) 256
  let t := s.setPage (psn / 256) { p with st := if p.st == .unwritten then .written else p.st, kvc := p.kvc || kv }
  { t with pln := { t.pln with
    data := data
    secEpoch := tabSet t.pln.secEpoch psn p.epoch
    secFmt := tabSet t.pln.secFmt psn (b2n kv)
    secKey := tabSet t.pln.secKey psn (s.keySet p.owner) } }

/-- A page written while a resync of its VF runs is sent again (R591). -/
def State.resend (s : State) (p : Nat) : State :=
  let fn := (s.page p).owner
  match tabFind s.pair.resyncLeft fn with
  | some l => if l.contains p then s else { s with pair := { s.pair with resyncLeft := tabSet s.pair.resyncLeft fn (p :: l) } }
  | none => s

/-- Write bytes of one physical page from an offset on (R166). -/
def State.plainPut (s : State) (ppn off : Nat) (kv : Bool) : List Byte → State
  | [] => s.resend ppn
  | b :: r =>
    let psn := ppn * 256 + off / 256
    let t := if s.fresh? psn && s.plainFmt psn == b2n kv then s else s.touch psn kv
    let t := { t with pln := { t.pln with data := memSet t.pln.data (psn * 256 + off % 256) b } }
    t.plainPut ppn (off + 1) kv r

/-- A byte of the partition space as a ferry, sorter or thread reads it; zero where nothing answers. -/
def State.readByte (s : State) (fn island core a : Nat) : Byte :=
  match s.locate fn island core a with
  | .lsram c o => memGet s.fab.lsram (c * 2 ^ 18 + o)
  | .istore i o => memGet s.fab.istore (i * isBytes + o)
  | .plain v o => match s.xlate fn v false with
    | some p => s.plainByte p o
    | none => 0
  | _ => 0

/-- Read n bytes of the partition space. -/
def State.readBytes (s : State) (fn island core a : Nat) : Nat → List Byte
  | 0 => []
  | n + 1 => s.readByte fn island core a :: s.readBytes fn island core (a + 1) n

/-- Write a byte of the partition space; nothing where nothing answers. -/
def State.writeByte (s : State) (fn island core a : Nat) (kv : Bool) (b : Byte) : State :=
  match s.locate fn island core a with
  | .lsram c o => { s with fab := { s.fab with lsram := memSet s.fab.lsram (c * 2 ^ 18 + o) b } }
  | .istore i o => { s with fab := { s.fab with istore := memSet s.fab.istore (i * isBytes + o) b } }
  | .plain v o => match s.xlate fn v true with
    | some p => s.plainPut p o kv [b]
    | none => s
  | _ => s

/-- Write bytes of the partition space from address a on. -/
def State.writeBytes (s : State) (fn island core a : Nat) (kv : Bool) : List Byte → State
  | [] => s
  | b :: r => (s.writeByte fn island core a kv b).writeBytes fn island core (a + 1) kv r

/- Routes between the dies (01 R24 to R29). -/

/-- The hub and the media die as nodes of the routes, beside island dies 0 to 3. -/
abbrev hubNode : Nat := 4
abbrev mediaNode : Nat := 5

/-- The ring strait that joins two adjacent dies. -/
def ringStrait (a b : Nat) : Nat := if b = (a + 1) % 4 then a else b

/-- The ring straits from die a to die b: the strait that joins them or the other way round where it is down; opposite dies go through
the die of higher number for an even index, of lower number for an odd one, and through the other where that way is down (R27, R28). -/
def State.ringRoute (s : State) (a b k : Nat) : List Nat :=
  let up := fun (l : List Nat) => l.all fun x => !s.fab.straitDown.contains x
  let via := fun m => [ringStrait a m, ringStrait m b]
  if a = b then []
  else if b = (a + 2) % 4 then
    let hi := max ((a + 1) % 4) ((a + 3) % 4)
    let lo := min ((a + 1) % 4) ((a + 3) % 4)
    let p := via (if k % 2 = 0 then hi else lo)
    if up p then p else via (if k % 2 = 0 then lo else hi)
  else if up [ringStrait a b] then [ringStrait a b]
  else [0, 1, 2, 3].filter (· != ringStrait a b)

/-- The straits from an island die to the hub: its own hub strait, or a neighbour's where it is down (R27, R29). -/
def State.hubRoute (s : State) (a : Nat) : List Nat :=
  let down := fun k => s.fab.straitDown.contains k
  if !down (4 + a) then [4 + a] else
  match [(a + 1) % 4, (a + 3) % 4].find? fun n => !down (4 + n) && !down (ringStrait a n) with
  | some n => [ringStrait a n, 4 + n]
  | none => [4 + a]

/-- The straits that traffic of an index crosses between two nodes (R28, R29). -/
def State.route (s : State) (a b k : Nat) : List Nat :=
  let lo := min a b
  let hi := max a b
  if hi < 4 then s.ringRoute lo hi k
  else if lo < 4 then s.hubRoute lo ++ (if hi = 5 then [8] else [])
  else if lo = hi then [] else [8]

/-- The traffic waits for a strait that trains (R26). -/
def State.routeTrains (s : State) (a b k : Nat) : Bool := (s.route a b k).any s.fab.straitTrain.contains

/-- The node that holds a location. -/
def FLoc.node (l : FLoc) : Nat :=
  match l with
  | .lsram c _ => islDie (c / 64)
  | .istore i _ => islDie i
  | .plain p o => plainChannel p (o / 256) / 8
  | .host _ => hubNode
  | .conv _ => mediaNode

/-- The sector index by which traffic to a location is routed (R28). -/
def FLoc.index (l : FLoc) : Nat := match l with | .lsram _ o | .istore _ o | .plain _ o => o / 256 % 256 | _ => 0

/-- A channel retrains: its traffic waits (R148, R186). -/
def State.chanTrains (s : State) (c : Nat) : Bool := s.rdF .PLN_CH_STATUS c 17 1 == 1

/-- A channel is FAILED (R149, R186). -/
def State.chanFailed (s : State) (c : Nat) : Bool := s.rdF .PLN_CH_STATUS c 16 1 == 1

/-- An access to a location of the plain fails: its page is QUARANTINED (R174), or its channel is FAILED (R149) and it does reach the
devices, as a read of an UNWRITTEN page does not (R164). -/
def State.locFails (s : State) (l : FLoc) (write : Bool) : Bool :=
  match l with
  | .plain p o => (s.page p).st == .quarantined || ((write || (s.page p).st == .written) && s.chanFailed (plainChannel p (o / 256)))
  | _ => false

/-- A write to a location waits for the migration of its page (R176). -/
def State.locMoves (s : State) (l : FLoc) : Bool := match l with | .plain p _ => (s.page p).migrating | _ => false

/-- An access from a node to a location waits for a strait or a plain channel that trains (R26, R148). -/
def State.locTrains (s : State) (node : Nat) (l : FLoc) : Bool :=
  s.routeTrains node l.node l.index || (match l with | .plain p o => s.chanTrains (plainChannel p (o / 256)) | _ => false)

/-- The location of a partition-virtual address, none where translation fails or no memory answers. -/
def State.locOf (s : State) (fn island core a : Nat) (write : Bool) : Option FLoc :=
  match s.locate fn island core a with
  | .lsram c o => some (.lsram c o)
  | .istore i o => some (.istore i o)
  | .plain v o => (s.xlate fn v write).map fun p => .plain p o
  | _ => none

/-- The location lies in a SRAM word that the scrub found uncorrectable (R180). -/
def State.badLoc (s : State) (l : FLoc) : Bool :=
  match l with
  | .lsram c o => (s.isl (c / 64)).badWords.contains (c % 64, o / 8)
  | .istore i o => (s.isl i).badWords.contains (64, o / 16)
  | _ => false

/-- The first address of a list whose access fails in the plain. -/
def State.plainBad (s : State) (fn : Nat) (as : List Nat) (write : Bool) : Option Nat :=
  as.find? fun a => (s.locOf fn 0 0 a false).any (s.locFails · write)

/-- Some address of a list lies in a page under migration (R176). -/
def State.addrsMove (s : State) (fn : Nat) (as : List Nat) : Bool := as.any fun a => (s.locOf fn 0 0 a false).any s.locMoves

/-- Some address of a list waits for a strait or a channel that trains. -/
def State.addrsTrain (s : State) (fn island core : Nat) (as : List Nat) : Bool :=
  as.any fun a => (s.locOf fn island core a false).any (s.locTrains (islDie island))

/-- Read n bytes of a core's local SRAM. -/
def State.lsRead (s : State) (core a n : Nat) : List Byte := memRead s.fab.lsram (core * 2 ^ 18 + a) n

/-- Write bytes of a core's local SRAM. -/
def State.lsWrite (s : State) (core a : Nat) (l : List Byte) : State :=
  { s with fab := { s.fab with lsram := memWrite s.fab.lsram (core * 2 ^ 18 + a) l } }

/-- A little-endian number in a core's local SRAM. -/
def State.lsNat (s : State) (core a n : Nat) : Nat := leNat (s.lsRead core a n)

/-- Draw the next epoch value, or none where the rate limit or a patrol pass holds the draw back (R159, R160). -/
def State.drawEpoch (s : State) : Option (Nat × State) :=
  let sec := s.time / 1000000000
  let cnt := if s.pln.drawSec = sec then s.pln.drawCnt else 0
  let d := s.pln.draws
  if 10000 ≤ cnt then none
  else if 2 ^ 32 - 1 ≤ d ∧ s.pln.drawsAtPass ≤ d - (2 ^ 32 - 1) then none
  else
    let v := s.rdN .PLN_EPOCH 0
    some (v, { s with pln := { s.pln with draws := d + 1, drawSec := sec, drawCnt := cnt + 1 } }.wrN .PLN_EPOCH 0
      (if v = 0xFFFF_FFFF then 1 else v + 1))

/-- The command of a mailbox waits for an epoch value (R160). -/
def State.waitDraw (s : State) (fn mbx : Nat) : State :=
  if s.pln.drawWait.contains (fn, mbx) then s else { s with pln := { s.pln with drawWait := s.pln.drawWait ++ [(fn, mbx)] } }

/-- A bindable page that no owner holds and that may be given out (R162, R163). -/
def State.pageFree (s : State) (p : Nat) : Bool :=
  let e := s.page p
  e.owner == 0 && e.st == .unwritten && !e.migrating && !s.pln.freeUe.contains p && decide (p < 1802240)

/-- The lowest n free pages, from page p on (the firmware's choice, R377; log entry 13). -/
def State.allocFrom (s : State) (p : Nat) : Nat → Nat → List Nat
  | 0, _ => []
  | _, 0 => []
  | f + 1, n + 1 => if s.pageFree p then p :: s.allocFrom (p + 1) f n else s.allocFrom (p + 1) f (n + 1)

/-- n free pages, or fewer where fewer are free. -/
def State.alloc (s : State) (n : Nat) : List Nat := s.allocFrom 0 1802240 n

/-- Pages that may still be given out. -/
def State.freePages (s : State) : Nat :=
  1802240 - (s.pln.pages.filter fun e => decide (e.1 < 1802240) && !s.pageFree e.1).length

/-- Move pages to UNWRITTEN of an owner under an epoch value (R163). -/
def State.freshPages (s : State) (owner epoch : Nat) (ps : List Nat) : State :=
  { s with pln := { s.pln with pages := ps.foldl (fun t p =>
      let e := tabGet t (bootPage s.pln.bootEpoch p) p
      tabSet t p (match e.st with
        | .retired => e
        | .quarantined => { e with owner := owner }
        | _ => { owner := owner, epoch := epoch })) s.pln.pages } }

/-- Invalidate a function's translations of a VPN in every island of its partition, and in the caches of the long ferries and the hub
(R85, R172). -/
def State.tlbDrop (s : State) (fn vpn : Nat) : State :=
  let keep := fun (l : List TlbEnt) => l.filter fun e => !decide (e.fn = fn ∧ e.vpn = vpn)
  let t := (s.islandsOf fn).foldl (fun t i => t.updIsl i fun x => { x with tlb := keep x.tlb }) s
  { t with pln := { t.pln with caches := tabMap keep t.pln.caches } }

/-- The VPN that maps a page, or 0. -/
def State.vpnOf (s : State) (fn ppn : Nat) : Nat :=
  match s.pln.maps.find? fun e => decide (e.1 / 2 ^ 21 = fn ∧ e.2.ppn = ppn) with
  | some e => e.1 % 2 ^ 21
  | none => 0

/-- Report a plain sector event against its channel (R174, R540): sub is the device, 0xFF where both or neither. -/
def State.logPlain (s : State) (psn cls sub func sev synd ctx : Nat) : State :=
  let c := plainChannel (psn / 256) (psn % 256)
  s.log (c / 8) 6 c sub cls func sev psn synd ctx

/-- A page becomes QUARANTINED: counted, logged with the device, syndrome and context of the event, and a QUARANTINE event to its owner
(R163, R174). -/
def State.quarantine (s : State) (psn cls dev synd ctx : Nat) : State :=
  let p := s.page (psn / 256)
  if p.st != .written then s else
  let t := s.setPage (psn / 256) { p with st := .quarantined, migrating := false }
  let t := (t.count .PLN_QUARANTINED 0 1).hwSet .PLN_EVT 0 64
  let t := t.logPlain psn 0x13 dev p.owner 2 synd ctx
  if p.owner = 0x1E then t else t.postOwner p.owner 0x0102 ([s.vpnOf p.owner (psn / 256)] ++ lohi psn ++ [cls])

/-- Bindable pages now: the bindable count less retired and quarantined free pages (R181). -/
def State.syncBindable (s : State) : State :=
  s.wrN .PLN_BINDABLE 0 (1802240 - (s.pln.pages.filter fun e => decide (e.1 < 1802240) &&
    (e.2.st == .retired || (e.2.st == .quarantined && e.2.owner == 0))).length)

/-- The stored list of retired pages is full (R177). -/
def State.retireFull (s : State) : Bool := decide (16384 ≤ s.pln.retired.length)

/-- RETIRE_FULL shows a full list; PLN_EVT tells that it became full (R177, R183, R184). -/
def State.showFull (s : State) : State := if s.retireFull then (s.wrF .PLN_STATUS 0 6 1 1).hwSet .PLN_EVT 0 512 else s

/-- A page that a full list cannot take is QUARANTINED with no owner for the rest of the boot, and no test frees it (R177). -/
def State.retireHold (s : State) (ppn : Nat) : State :=
  let p := s.page ppn
  let t := s.setPage ppn { p with owner := 0, st := .quarantined, migrating := false }
  let t := { t with pln := { t.pln with noTest := if t.pln.noTest.contains ppn then t.pln.noTest else ppn :: t.pln.noTest
                                        freeUe := t.pln.freeUe.erase ppn } }
  let t := if p.st == .quarantined then t
    else ((t.count .PLN_QUARANTINED 0 1).hwSet .PLN_EVT 0 64).logPlain (ppn * 256) 0x13 0xFF p.owner 2 0 0
  t.showFull.syncBindable

/-- Retire a page, or quarantine it where the stored list of 16,384 is full (R177). -/
def State.retire (s : State) (ppn : Nat) : State :=
  if s.retireFull then s.retireHold ppn else
  let p := s.page ppn
  let t := s.setPage ppn { p with owner := 0, st := .retired, migrating := false }
  let t := { t with pln := { t.pln with retired := t.pln.retired ++ [ppn], freeUe := t.pln.freeUe.erase ppn } }
  let t := ((t.wrF .PLN_RETIRED 0 0 16 t.pln.retired.length).hwSet .PLN_EVT 0 256).log
    (plainChannel ppn 0 / 8) 6 (plainChannel ppn 0) 0xFF 0x15 p.owner 0 (ppn * 256) 0 0
  t.showFull.syncBindable

/-- Perform the pieces of a store that has left its core; a piece whose access fails leaves its sector unchanged (R167). -/
def State.landParts (s : State) (fn island core : Nat) (ps : List (Nat × List Byte)) : State :=
  ps.foldl (fun t e => if (t.plainBad fn [e.1] true).isSome then t else t.writeBytes fn island core e.1 false e.2) s

end Sys2Proof.Machine
end

