-- ==== Sys2Proof/Machine/Codes.lean ====
section
/-! DEFINITION. The result codes of R366, the event types of R371 and the error classes of R541 by name, and pass records
(R220 to R226). -/

namespace Sys2Proof.Machine

open Sys2Proof

abbrev rOk : Nat := 0x0000
abbrev rNotReady : Nat := 0x0002
abbrev rBusy : Nat := 0x0003
abbrev rBadOpcode : Nat := 0x0004
abbrev rDenied : Nat := 0x0005
abbrev rBadLen : Nat := 0x0006
abbrev rLimit : Nat := 0x0007
abbrev rNotFound : Nat := 0x0008
abbrev rNoSpace : Nat := 0x0009
abbrev rHostAccess : Nat := 0x000A
abbrev rAlreadyDone : Nat := 0x000B
abbrev rAborted : Nat := 0x000C
abbrev rOos : Nat := 0x000D
abbrev rVerifyFail : Nat := 0x000E
abbrev rTaken : Nat := 0x0100
abbrev rRebind : Nat := 0x0101
abbrev rPartReset : Nat := 0x0102
abbrev rChipReset : Nat := 0x0103
abbrev rBadImage : Nat := 0x0200
abbrev rProgram : Nat := 0x0201
abbrev rHang : Nat := 0x0202
abbrev rNotServing : Nat := 0x0300
abbrev rDupId : Nat := 0x0301
abbrev rBadAdapter : Nat := 0x0302
abbrev rBadStopset : Nat := 0x0303
abbrev rShareFull : Nat := 0x0304
abbrev rRejectSlo : Nat := 0x0305
abbrev rAdapterFormat : Nat := 0x0306
abbrev rAdapterBusy : Nat := 0x0307
abbrev rNumeric : Nat := 0x0308
abbrev rCapacity : Nat := 0x0400
abbrev rQueueFull : Nat := 0x0401
abbrev rNoPool : Nat := 0x0402
abbrev rMediaDown : Nat := 0x0403
abbrev rBadToken : Nat := 0x0700
abbrev rMotion : Nat := 0x0800
abbrev rHoldup : Nat := 0x0801
abbrev rOwnerLock : Nat := 0x0802
abbrev rPairFailover : Nat := 0x0803
abbrev rThermal : Nat := 0x0804
abbrev rBlockTag : Nat := 0x0805
abbrev rIncomplete : Nat := 0x0806
abbrev rNoUpdate : Nat := 0x0807
abbrev rRollback : Nat := 0x0808
abbrev rNotPaired : Nat := 0x0900
abbrev rPairDegraded : Nat := 0x0901

/-- The pass id lies in the function's quota (R220). -/
def State.inQuota (s : State) (fn p : Nat) : Bool :=
  decide ((s.prt fn).qbase ≤ p ∧ p < (s.prt fn).qbase + (s.prt fn).qcount)

/-- The VF whose quota holds a pass. -/
def State.passOwner (s : State) (p : Nat) : Option Nat := s.boundVfs.find? fun v => s.inQuota v p

/-- The home island of a pass (R222). -/
def State.passHome (s : State) (fn p : Nat) : Option Nat :=
  let l := s.islandsOf fn
  l[(p - (s.prt fn).qbase) % l.length]?

/-- A pass releases: stamp, generation, COUNT 0 (R222); the stamps of the last four releases stay (R223). -/
def Pass.release (p : Pass) (now : Nat) : Pass :=
  { p with count := 0, gen := p.gen + 1, last := now, stamps := (now :: p.stamps).take 4 }

/-- Count one arrival (R222). A disabled pass counts and never releases (R224). -/
def Pass.arrival (p : Pass) (now : Nat) : Pass :=
  let q := { p with count := (p.count + 1) % 2 ^ 20 }
  if q.target != 0 && decide (q.target ≤ q.count) then q.release now else q

/-- Store a target (R225). -/
def Pass.setTarget (p : Pass) (v now : Nat) : Pass :=
  let q := { p with target := v % 2 ^ 20 }
  if q.target != 0 && decide (q.target ≤ q.count) then q.release now else q

/-- The stamp of generation g's release, or the oldest kept stamp with bit 63 set (R223). -/
def Pass.stampOf (p : Pass) (g : Nat) : Nat :=
  match p.stamps[p.gen - 1 - g]? with
  | some t => t
  | none => (p.stamps.getLast?.getD 0) % 2 ^ 63 + 2 ^ 63

/-- An arrival sets out for the home port (R223, R215). -/
def State.arrive (s : State) (p : Nat) (gid : Option Nat) : State :=
  { s with pas := { s.pas with inflight := s.pas.inflight ++ [(p, gid)] } }

/-- The pass record returns to reset, stamps included (R226). -/
def State.clearPasses (s : State) (fn : Nat) : State :=
  { s with pas := { s.pas with
    recs := s.pas.recs.filter fun e => !s.inQuota fn e.1
    inflight := s.pas.inflight.filter fun e => !s.inQuota fn e.1
    acks := s.pas.acks.filter fun e => !s.inQuota fn e.2.1 } }

/-- Threads now in PASS_WAIT on a pass. -/
def State.waiters (s : State) (p : Nat) : List Nat :=
  (s.fab.threads.filter fun e => e.2.st == .passWait && (match e.2.stall with | .wait q _ _ _ => q == p | _ => false)).map (·.1)

/-- Change a pass record. A release gives its stamp to the waiters whose wait it ends: those that no earlier one has ended (R222,
R223). -/
def State.movePass (s : State) (p : Nat) (f : Pass → Pass) : State :=
  let x := f (s.pass p)
  let t := s.setPass p x
  if x.gen = (s.pass p).gen then t else
  (t.waiters p).foldl (fun t g => t.updTh g fun y => match y.stall with
    | .wait q gen rd none => { y with stall := .wait q gen rd (some x.last) }
    | _ => y) t

end Sys2Proof.Machine
end

