-- ==== Sys2Proof/Machine/ServeOps.lean ====
section
/-! DEFINITION. The serving engine's shared operations (07): request table, step time model, step building and hand-off, stop
unit and token stream. -/

namespace Sys2Proof.Machine

open Sys2Proof

/-- The key of a request, or of a model. -/
def reqKey (fn l : Nat) : Nat := fn * 65536 + l

/-- A live request by its local slot. -/
def State.req (s : State) (fn l : Nat) : Option Req := tabFind s.srv.reqs (reqKey fn l)

/-- Replace a request. -/
def State.setReq (s : State) (fn l : Nat) (r : Req) : State :=
  { s with srv := { s.srv with reqs := tabSet s.srv.reqs (reqKey fn l) r } }

/-- The live requests of a function with their local slots. -/
def State.live (s : State) (fn : Nat) : List (Nat × Req) :=
  (s.srv.reqs.filter fun e => e.1 / 65536 == fn).map fun e => (e.1 % 65536, e.2)

/-- The live requests of one model. -/
def State.liveOf (s : State) (fn m : Nat) : List (Nat × Req) := (s.live fn).filter fun e => e.2.model == m

/-- The local slot of a live REQ_ID. -/
def State.findReq (s : State) (fn id : Nat) : Option (Nat × Req) := (s.live fn).find? fun e => e.2.reqId == id

/-- A serving configuration. -/
def State.model (s : State) (fn m : Nat) : Option SCfg := tabFind s.srv.models (reqKey fn m)

/-- Replace a serving configuration. -/
def State.setModel (s : State) (fn m : Nat) (c : SCfg) : State :=
  { s with srv := { s.srv with models := tabSet s.srv.models (reqKey fn m) c } }

/-- The module holds no line in its role and so writes no output (R597, R581). -/
def State.standby (s : State) (fn : Nat) : Bool := s.rdF .FN_STATUS fn 3 2 == 2

/- The step time model (R275). -/

/-- OP0 to OP5 in force on the slowest island of a function (R275). -/
def State.slowOp (s : State) (fn : Nat) : Nat :=
  (s.islandsOf fn).foldl (fun m i => max m (tabGet s.pwr.granted 5 (islDie i))) 0

/-- The bubble duty of an island as the power controller reports it, droop bubbles included (R275, R87). -/
def State.dutyNow (s : State) (i : Nat) : Nat :=
  let d := tabGet s.pwr.inForce 0 i
  if s.rdF .ISL_BUBBLE i 7 1 = 1 then max d 32 else d

/-- The highest bubble duty on a function's islands. -/
def State.dutyMax (s : State) (fn : Nat) : Nat := (s.islandsOf fn).foldl (fun m i => max m (s.dutyNow i)) 0

/-- T_pred(n) in ns: (A + B × n) × (2.2 GHz / f) × 64 / (64 − d), rounded down; a duty of 64 lets no step end (R275). -/
def tPred (c : SCfg) (op d n : Nat) : Nat :=
  if 64 ≤ d then 2 ^ 62 else (c.aUs * 1000 + c.bNs * n) * (22 * 64) / (opTenthsOf op * (64 - d))
where
  /-- Tenths of GHz at an operating point (R501). -/
  opTenthsOf (op : Nat) : Nat := match op with | 0 => 22 | 1 => 20 | 2 => 18 | 3 => 16 | 4 => 12 | _ => 8

/-- The clock in tenths of GHz times 64 less the bubble duty, as they are on a partition now (R276). -/
def State.stepRate (s : State) (fn : Nat) : Nat := tPred.opTenthsOf (s.slowOp fn) * (64 - s.dutyMax fn)

/-- A step's work up to a time, at a rate that has held since it was last added up (R276). -/
def Stp.accrue (st : Stp) (rate until_ : Nat) : Stp :=
  { st with work := st.work + rate * (until_ - st.since), since := max st.since until_ }

/-- Add up the work of every step in flight before a clock or a duty changes; a step whose DONE_PASS has released has ended then (R276). -/
def State.accrueSteps (s : State) : State :=
  let until_ := fun (c : SCfg) => if c.doneGen < (s.pass c.donePass).gen then (s.pass c.donePass).last else s.time
  let add := fun (e : Nat × SCfg) =>
    (e.1, { e.2 with step := e.2.step.map fun st => st.accrue (s.stepRate (e.1 / 65536)) (until_ e.2) })
  { s with srv := { s.srv with models := s.srv.models.map add } }

/-- The largest n with T_pred(n) at or below half of a TBT in µs (R284). -/
def budgetFor (c : SCfg) (op d tbtUs : Nat) : Nat :=
  if 64 ≤ d then 0 else
  let room := tbtUs * 500 * (tPred.opTenthsOf op * (64 - d)) / (22 * 64)
  if room < c.aUs * 1000 then 0 else (room - c.aUs * 1000) / max 1 c.bNs

/- Building a step (R283, R284). -/

/-- A request as the scheduler sees it: decode, or prefill with positions left. -/
structure Cand where
  lslot : Nat
  strict : Bool
  decode : Bool
  left : Nat
  tbt : Nat
  bucket : Nat
  deadline : Nat
  slack : Int
  deriving DecidableEq, Repr

/-- Bucket order: bucket, then T_DEADLINE, then LSLOT (R279). -/
def Cand.before (a b : Cand) : Bool :=
  decide (a.bucket < b.bucket ∨ a.bucket = b.bucket ∧ (a.deadline < b.deadline ∨ a.deadline = b.deadline ∧ a.lslot < b.lslot))

/-- Insert in bucket order. -/
def insertCand (c : Cand) : List Cand → List Cand
  | [] => [c]
  | d :: r => if c.before d then c :: d :: r else d :: insertCand c r

/-- Strict before best-effort, each group in bucket order (R283). -/
def orderCands (l : List Cand) : List Cand :=
  let sorted := l.foldl (fun a c => insertCand c a) []
  sorted.filter (·.strict) ++ sorted.filter (!·.strict)

/-- Token budget of a step beside its decode rows (R284). -/
def stepBudget (c : SCfg) (op d : Nat) (dec : List Cand) : Nat :=
  match dec with
  | [] => c.maxStepTokens
  | x :: r => min c.maxStepTokens (budgetFor c op d (r.foldl (fun m y => min m y.tbt) x.tbt))

/-- Add prefill rows in order: each as long as CHUNK and the budget left allow, never cut below 64 tokens or the rest of the
prompt (R283, R284). -/
def prefillRows (chunk : Nat) : List Cand → Nat → Nat → List (Nat × Nat)
  | [], _, _ => []
  | c :: r, left, rows =>
    let n := min c.left (min chunk left)
    if rows = 0 then [] else
    if n = 0 || decide (n < min 64 c.left) then prefillRows chunk r left rows
    else (c.lslot, n) :: prefillRows chunk r (left - n) (rows - 1)

/-- The rows of the next step: local slots of decode rows, then local slots and lengths of prefill rows (R283). -/
def planStep (c : SCfg) (op d : Nat) (dec pre : List Cand) : List Nat × List (Nat × Nat) :=
  let dr := dec.take c.maxRows
  let left := stepBudget c op d dr - dr.length
  (dr.map (·.lslot), prefillRows c.chunk pre left (c.maxRows - dr.length))

/-- Positions that a request's prefill must write: its prompt and the tokens already written (R285). -/
def Req.prefillLen (r : Req) : Nat := r.promptLen + r.tokens

/-- The rows that have still to run: those of the step in flight and of the solo steps after it. -/
def SCfg.pendRows (c : SCfg) : List Row := (match c.step with | some st => st.rows | none => []) ++ c.solos

/-- Positions of a local slot that are written once the rows in flight have run. -/
def SCfg.writtenBy (c : SCfg) (l done : Nat) : Nat :=
  (c.pendRows.filter (·.lslot == l)).foldl (fun m r => max m (r.pos + r.ntok)) done

/-- A live request as a candidate for the steps after those in flight (R277, R283). -/
def candOf (c : SCfg) (l : Nat) (r : Req) : Cand :=
  { lslot := l, strict := r.strict, decode := r.st == .decode, left := r.prefillLen - c.writtenBy l r.prefillDone, tbt := r.tbt,
    bucket := r.bucket, deadline := r.deadline, slack := r.slack }

/-- Steps until one candidate's last prefill position is written, as the scheduler would build them: the sum of their T_pred
(R277). -/
def predictRun (c : SCfg) (op d lslot : Nat) : Nat → List Cand → List Cand → Nat → Nat
  | 0, _, _, acc => acc + 2 ^ 62
  | fuel + 1, dec, pre, acc =>
    let (dr, pr) := planStep c op d dec pre
    let n := dr.length + (pr.map (·.2)).sum
    let acc := acc + tPred c op d n
    let took := fun (x : Cand) => ((pr.filter fun e => e.1 == x.lslot).map (·.2)).sum
    let pre' := pre.map fun x => { x with left := x.left - took x }
    match pre'.find? (·.lslot == lslot) with
    | none => acc
    | some x =>
      if x.left = 0 then acc else
      if pr.isEmpty then acc + 2 ^ 62 else
      predictRun c op d lslot fuel (dec ++ (pre'.filter fun y => y.left == 0).map fun y => { y with decode := true })
        (pre'.filter fun y => y.left != 0) acc

/-- Where a new request stands among the prefill rows (R277). -/
def placeNew (new : Cand) (ttd : Int) (l : List Cand) : List Cand :=
  let cls := l.filter fun x => x.strict == new.strict
  let idx := (cls.zipIdx.filter fun e => decide (e.1.slack ≤ ttd)).foldl (fun m e => max m (e.2 + 1)) 0
  let cls' := cls.take idx ++ [new] ++ cls.drop idx
  if new.strict then cls' ++ l.filter (!·.strict) else l.filter (·.strict) ++ cls'

/-- T_pred of the solo steps that follow the step in flight (R310). -/
def State.solosTime (s : State) (fn : Nat) (c : SCfg) : Nat :=
  (c.solos.map fun r => tPred c (s.slowOp fn) (s.dutyMax fn) r.ntok).sum

/-- T_pred of the step in flight. -/
def State.flightTime (s : State) (fn : Nat) (c : SCfg) : Nat :=
  match c.step with
  | some st => tPred c (s.slowOp fn) (s.dutyMax fn) (st.rows.map (·.ntok)).sum
  | none => 0

/-- The time at which the step in flight of a model, and the solo steps after it, are predicted to end (R277). -/
def State.stepEnd (s : State) (fn : Nat) (c : SCfg) : Nat :=
  (match c.step with
  | some st => max s.time (st.tPost + s.flightTime fn c)
  | none => s.time) + s.solosTime fn c

/-- Decode and prefill candidates of a model in scheduling order, without one local slot: requests as the rows in flight leave them, but
for one whose final outcome is decided (R269). -/
def State.candidates (s : State) (fn m skip : Nat) : List Cand × List Cand :=
  match s.model fn m with
  | none => ([], [])
  | some c =>
    let l := ((s.liveOf fn m).filter fun e => e.1 != skip && e.2.st != .ending).map fun e => (candOf c e.1 e.2, e.2)
    let isDec := fun (e : Cand × Req) => e.2.st == .decode || (e.2.st == .held && !e.2.wasPrefill) ||
      (e.1.left == 0 && c.pendRows.any fun r => r.lslot == e.1.lslot && r.sample)
    (orderCands ((l.filter isDec).map (·.1)), orderCands ((l.filter fun e => !isDec e && e.1.left != 0).map (·.1)))

/-- The time of the steps after those in flight until a request's last prompt position is written; none are needed where a row in flight
writes it (R277). -/
def State.stepsTo (s : State) (fn : Nat) (c : SCfg) (l : Nat) (dec pre : List Cand) : Nat :=
  if pre.any (·.lslot == l) then
    predictRun c (s.slowOp fn) (s.dutyMax fn) l (c.maxContext * (pre.length + 1) + 1) dec pre 0 else 0

/-- The predicted remaining time to a request's first token, in ns (R277). -/
def State.predictFirst (s : State) (fn : Nat) (c : SCfg) (m lslot : Nat) (new : Cand) (ttd : Int) : Nat :=
  let (dec, pre) := s.candidates fn m lslot
  (s.stepEnd fn c - s.time) + s.stepsTo fn c lslot dec (placeNew new ttd pre) + 20000

/-- SLACK_US of R268: signed µs, saturating. -/
def satSlack (ns : Int) : Int := max (-(2 ^ 31 - 1)) (min (2 ^ 31 - 1) (ns / 1000))

/-- BUCKET of R279. -/
def bucketOf (c : SCfg) (slack : Int) : Nat := if slack ≤ 0 then 0 else min 63 (1 + slack.toNat / c.bucketUs)

/-- Deadline and slack of a live request; one that is HELD waits for the replay's steps (R278). -/
def State.slackOf (s : State) (fn m l : Nat) (c : SCfg) (r : Req) : Nat × Int :=
  let (dec, pre) := s.candidates fn m 70000
  let pend := r.st == .decode || (r.st == .held && !r.wasPrefill)
  let extra : Nat := s.flightTime fn c + s.solosTime fn c
  if pend then
    let dl := r.tLast + r.tbt * 1000
    let (dr, pr) := planStep c (s.slowOp fn) (s.dutyMax fn) dec pre
    let n := dr.length + (pr.map (·.2)).sum
    (dl, satSlack ((dl : Int) - s.time - (tPred c (s.slowOp fn) (s.dutyMax fn) n + (if r.st == .held then extra else 0) : Nat)))
  else
    let dl := r.tArrive + r.ttft * 1000
    let rem := (if r.st == .held then extra else s.stepEnd fn c - s.time) + s.stepsTo fn c l dec pre + 20000
    (dl, satSlack ((dl : Int) - s.time - (rem : Nat)))

/- The token stream. -/

/-- Saturate at 32 bits. -/
def sat32 (n : Nat) : Nat := min n (2 ^ 32 - 1)

/-- The stream buffer header of R304. -/
def streamHeader (r : Req) (outcome trail result : Nat) : List Byte :=
  natLe r.tokens 4 ++ natLe (outcome + r.stopReason * 256 + trail * 65536) 4 ++
  natLe (result + min r.uncompRecs 65535 * 65536) 4 ++ natLe 0 4 ++ natLe r.tFirst 8 ++ natLe r.tLast 8 ++
  natLe (if r.tFirst = 0 then 0 else sat32 ((r.tFirst - r.tArrive) / 1000)) 4 ++ natLe r.tbtMiss 4 ++ List.replicate 24 0

/-- A token record (R304). -/
def tokenRecord (seq tok : Nat) (final uncomp eos stop : Bool) (dt : Nat) : List Byte :=
  natLe seq 4 ++ natLe tok 4 ++ natLe (b2n final + 2 * b2n uncomp + 4 * b2n eos + 8 * b2n stop) 4 ++ natLe (sat32 dt) 4

/-- Post a request event (R306). -/
def State.reqEvent (s : State) (fn typ l : Nat) (r : Req) (outcome : Nat) (more : List Nat) : State :=
  s.post fn typ (lohi r.reqId ++ [l, r.tokens, outcome] ++ more)

/-- Give a request's KV pages back to its model's pool, but for pages dropped from it (R307, R310). -/
def State.returnKv (s : State) (fn : Nat) (r : Req) : State :=
  match s.model fn r.model with
  | none => s
  | some c => s.setModel fn r.model { c with kvFree := c.kvFree ++ r.kv.filter fun p => !c.kvBad.contains p }

/-- Free an entry. -/
def State.freeReq (s : State) (fn l : Nat) (r : Req) : State :=
  { (s.returnKv fn r) with srv := { (s.returnKv fn r).srv with reqs := tabDel (s.returnKv fn r).srv.reqs (reqKey fn l) } }

/-- A request ends: its final header, the entry FREE, REQ_DONE (R305 to R307); a header that cannot be written makes the
outcome FAILED with HOST_ACCESS (R648). The standby writes none (R581). -/
def State.endReq (s : State) (fn l outcome result trail : Nat) : State :=
  match s.req fn l with
  | none => s
  | some r =>
    let bad := !s.standby fn && !s.hostOk fn
    let o := if bad then 3 else outcome
    let t := if s.standby fn then s else if bad then s.logHostWrite fn
      else s.hostPut fn r.outAddr (streamHeader r o trail (if o = 3 then result else 0))
    let t := if o = 3 then t.hwSet .SRV_EVT 0 32 else t
    (t.freeReq fn l r).reqEvent fn 0x0303 l r o []

/-- End every live request of a function (R311). -/
def State.endAll (s : State) (fn result : Nat) : State :=
  (s.live fn).foldl (fun t e => t.endReq fn e.1 3 result 0) s

/-- The longest suffix of the written tokens that is a prefix of a stop sequence (R300). -/
def matchLen (seq toks : List Nat) : Nat :=
  (List.range (seq.length + 1)).foldl (fun a k =>
    if k ≤ toks.length ∧ toks.drop (toks.length - k) = seq.take k then k else a) 0

/-- The stop unit's verdict on a request's written tokens: reason and TRAIL (R301). -/
def stopVerdict (set : Option StopSet) (r : Req) (tok : Nat) : Nat × Nat :=
  let ss := set.getD ⟨[], []⟩
  if ss.eos.contains tok then (1, 0) else
  match ss.seqs.find? fun q => decide (matchLen q r.toks = q.length) with
  | some q => (2, q.length)
  | none => if r.maxTokens ≤ r.tokens then (3, 0) else (0, 0)

/-- A function's stop set by number. -/
def State.stopsOf (s : State) (fn n : Nat) : Option StopSet := if n = 0xFFFF then none else tabFind s.srv.stops (fn * 256 + n)

/-- The stop unit's verdict on a request's next token (R301). -/
def State.verdictOn (s : State) (fn : Nat) (r : Req) (tok : Nat) : Nat × Nat :=
  stopVerdict (s.stopsOf fn r.stopset) { r with tokens := r.tokens + 1, toks := r.toks ++ [tok] } tok

/-- Write one sampled token: record, MATCH fields, stop conditions, header, events (R301, R305, R306). -/
def State.writeToken (s : State) (fn l tok : Nat) (uncomp : Bool) : State :=
  match s.req fn l with
  | none => s
  | some r =>
    if !s.standby fn && !s.hostOk fn then s.endReq fn l 3 rHostAccess 0 else
    let first := r.tFirst = 0
    let late := !first && decide (s.time > r.tLast + r.tbt * 1000)
    let set := s.stopsOf fn r.stopset
    let r1 := { r with
      tokens := r.tokens + 1, toks := r.toks ++ [tok], tFirst := if first then s.time else r.tFirst, tLast := s.time,
      tbtMiss := if late then min 65535 (r.tbtMiss + 1) else r.tbtMiss,
      ttftMiss := r.ttftMiss || (first && decide (s.time > r.tArrive + r.ttft * 1000)),
      uncomp := r.uncomp || uncomp, uncompRecs := r.uncompRecs + b2n uncomp, st := .decode }
    let r1 := { r1 with matched := (set.getD ⟨[], []⟩).seqs.map fun q => matchLen q r1.toks }
    let (reason, trail) := stopVerdict set r1 tok
    let full := (set.getD ⟨[], []⟩).seqs.any fun q => decide (matchLen q r1.toks = q.length)
    let rec_ := tokenRecord r1.tokens tok (reason != 0) uncomp (reason == 1) full ((s.time - r.tArrive) / 1000)
    let r1 := { r1 with stopReason := reason, recs := r1.recs ++ [rec_] }
    let t := s.setReq fn l r1
    let t := if s.standby fn then t else t.hostPut fn (r.outAddr + 64 + 16 * (r1.tokens - 1)) rec_
    let t := if s.standby fn || reason != 0 then t else t.hostPut fn r.outAddr (streamHeader r1 0 0 0)
    let t := t.count .SRV_FN_TOKENS fn 1
    let t := if first && r1.ttftMiss then (t.count .SRV_FN_TTFT_MISS fn 1).hwSet .SRV_EVT 0 4 else t
    let t := if late then (t.count .SRV_FN_TBT_MISS fn 1).hwSet .SRV_EVT 0 8 else t
    let t := if uncomp then ((t.count .SRV_FN_UNCOMP fn 1).hwSet .SRV_EVT 0 64).count .TWN_UNCOMP 0 1 else t
    let t := if first then t.reqEvent fn 0x0301 l r1 (if reason = 0 then 0 else 1) []
      else if reason = 0 && r1.evtEvery != 0 && decide (r1.tokens % r1.evtEvery = 0) then t.reqEvent fn 0x0302 l r1 0 [] else t
    if reason = 0 then t else t.endReq fn l 1 0 trail

/- Step hand-off. -/

/-- The bytes of a step record (R287, R288). -/
def stepBytes (m : Nat) (c : SCfg) (st : Stp) (tag : Nat → Nat) (toks : Row → List Nat) : List Byte :=
  let phase := if st.rows.any (·.prefill) then c.phasePrefill else c.phaseDecode
  let n := (st.rows.map (·.ntok)).sum
  let head := natLe st.no 8 ++ natLe st.tPost 8 ++ natLe (st.rows.length + m * 65536) 4 ++ natLe n 4 ++
    natLe (phase + 8 * b2n st.replay + 16 * b2n st.solo) 4 ++ List.replicate 36 0
  let rows := (st.rows.foldl (fun (a : List Byte × Nat) r =>
    (a.1 ++ natLe (r.lslot + tag r.lslot * 65536 + b2n r.prefill * 2 ^ 28 + b2n r.sample * 2 ^ 29) 4 ++ natLe r.pos 4 ++
      natLe r.ntok 4 ++ natLe a.2 4, a.2 + r.ntok)) ([], 0)).1
  head ++ rows ++ st.rows.flatMap fun r => (toks r).flatMap fun x => natLe x 4

/-- Write the partition's plain view as the MCP does for a tenant (R199, R289). -/
def State.mcpWrite (s : State) (fn a : Nat) (l : List Byte) : State :=
  match (s.islandsOf fn)[0]? with
  | some i => s.writeBytes fn i (i * 64) a false l
  | none => s

/-- The tokens of a row's positions: the prompt, then the written tokens (R288). -/
def rowTokens (r : Option Req) (x : Row) : List Nat :=
  match r with
  | some q => ((q.prompt ++ q.toks).drop x.pos).take x.ntok
  | none => []

/-- The bytes of a COPY descriptor of the MCP (R196 to R198): n1 runs of n0 elements of 2^(esize − 1) bytes, with the runs 32,768 bytes
apart, between the partition space and host space as sasp and dasp say, and its completion action. -/
def copyRaw (src dst n0 n1 esize sasp dasp action target : Nat) : List Byte :=
  natLe src 8 ++ natLe dst 8 ++ natLe n0 2 ++ natLe n1 2 ++ natLe 1 2 ++ natLe 1 2 ++ natLe 32768 4 ++ natLe 0 8 ++ natLe 32768 4 ++ natLe 0 8 ++
  natLe (16 * esize + sasp * 256 + dasp * 1024) 4 ++ natLe (action + 16 * target) 4 ++ natLe 0 8

/-- Channel 3 of the first long ferry on the die of the partition's first island (R289; log entry 17). -/
def State.stepChan (s : State) (fn : Nat) : Nat := 0x8003 + 16 * islDie ((s.islandsOf fn).headD 0)

/-- The MCP posts a descriptor that writes bytes of its own, a multiple of 4, to a tenant's space, for a step of a model (R289, R199);
with a pass the completion counts one arrival there. -/
def State.mcpPost (s : State) (fn m a : Nat) (l : List Byte) (pass : Option Nat) : State :=
  if l.isEmpty then s else
  let ch := s.stepChan fn
  let c := s.chan ch
  s.setChan ch { c with posted := c.posted + 1, queue := c.queue ++ [
    { seq := c.posted + 1, raw := copyRaw 0 a (l.length / 4) 1 3 0 0 (b2n pass.isSome) (pass.getD 0), param := [], fn := fn, ctx := none
      gid := reqKey fn m, island := (s.islandsOf fn).headD 0, cmd := none, long := true, own := some l }] }

/-- Descriptors of a model's step that have not completed are discarded, and FRY_DONE counts them (R219). -/
def State.dropStep (s : State) (fn m : Nat) : State :=
  { s with fry := { s.fry with chans := tabMap (fun (c : Chan) =>
      let q := c.queue.filter fun x => !(x.own.isSome && x.gid == reqKey fn m)
      { c with queue := q, done := c.done + (c.queue.length - q.length) }) s.fry.chans } }

/-- The steps that the scheduler would build over the next 500 ms, from a time on, as the power controller sees them (R286). -/
def planAhead (c : SCfg) (op d stop : Nat) : Nat → Nat → List Cand → List Cand → List StepMix
  | 0, _, _, _ => []
  | fuel + 1, at_, dec, pre =>
    let (dr, pr) := planStep c op d dec pre
    let n := dr.length + (pr.map (·.2)).sum
    if n = 0 || decide (stop ≤ at_) then [] else
    let took := fun (x : Cand) => ((pr.filter fun e => e.1 == x.lslot).map (·.2)).sum
    let pre' := pre.map fun x => { x with left := x.left - took x }
    { start := at_, tokens := n, prefills := pr.length, decodes := dr.length, tpred := tPred c op d n
      phase := if pr.isEmpty then c.phaseDecode else c.phasePrefill } ::
      planAhead c op d stop fuel (at_ + tPred c op d n)
        (dec ++ (pre'.filter fun y => y.left == 0).map fun y => { y with decode := true }) (pre'.filter fun y => y.left != 0)

/-- The phase of a step: that of prefill where it holds a prefill row (R287). -/
def Stp.phaseOf (st : Stp) (c : SCfg) : Nat := if st.rows.any (·.prefill) then c.phasePrefill else c.phaseDecode

/-- The power model's key of a partition, phase and operating point (R497). -/
def meanKey (fn phase op : Nat) : Nat := (fn * 8 + phase % 8) * 8 + op

/-- After a step the power model moves its mean power of one busy island with weight 1/16 (R497; log entry 110). -/
def State.learnPower (s : State) (fn : Nat) (c : SCfg) (st : Stp) : State :=
  let n := st.ticks * (s.islandsOf fn).length
  if n = 0 then s else
  let k := meanKey fn (st.phaseOf c) (s.slowOp fn)
  let x : Int := st.mw / n
  let v := match tabFind s.pwr.mean k with
    | some old => ((old : Int) + (x - old) / 16).toNat
    | none => x.toNat
  { s with pwr := { s.pwr with mean := tabSet s.pwr.mean k v } }

/-- The step in flight as the power controller sees it (R286). -/
def State.stepMix (s : State) (fn : Nat) (c : SCfg) (st : Stp) : StepMix :=
  let pre := (st.rows.filter (·.prefill)).length
  { start := s.time, tokens := (st.rows.map (·.ntok)).sum, prefills := pre, decodes := st.rows.length - pre
    tpred := tPred c (s.slowOp fn) (s.dutyMax fn) (st.rows.map (·.ntok)).sum
    phase := st.phaseOf c }

/-- The MCP gives the power controller the step and the plan for the next 500 ms (R286). A step takes at least 1 µs (R270). -/
def State.tellPower (s : State) (fn m : Nat) (c : SCfg) (st : Stp) : State :=
  let x := s.stepMix fn c st
  let (dec, pre) := s.candidates fn m 70000
  { s with pwr := { s.pwr with plans := tabSet s.pwr.plans (reqKey fn m) (x ::
      planAhead c (s.slowOp fn) (s.dutyMax fn) (s.time + 500000000) 500000 (s.time + x.tpred) dec pre) } }

/-- Post a step record: the KV index entries, the record, then one arrival at STEP_PASS (R286, R289, R308). -/
def State.postStep (s : State) (fn m : Nat) (c : SCfg) (st : Stp) : State :=
  let st := { st with tPost := s.time, done := false, work := 0, since := s.time }
  let t := st.rows.foldl (fun t r => match t.req fn r.lslot with
    | some q => t.mcpPost fn m (c.kvIdx + r.lslot * c.maxp * 4) (q.kv.flatMap fun p => natLe p 4) none
    | none => t) s
  let bytes := stepBytes m c st (fun l => (s.req fn l).elim 0xFFF (·.adapter)) fun x => rowTokens (s.req fn x.lslot) x
  let t := t.mcpPost fn m (c.stepRing + 65536 * (st.no % 2)) bytes (some c.stepPass)
  let t := t.setModel fn m { c with
    step := some st, doneGen := (s.pass c.donePass).gen
    lastTpred := tPred c (s.slowOp fn) (s.dutyMax fn) (st.rows.map (·.ntok)).sum }
  t.tellPower fn m { c with step := some st } st

/-- KV pages that a request needs for its first n positions (R307). -/
def kvNeed (c : SCfg) (n : Nat) : Nat := ceilDiv n c.tokPerPage

/-- Give a row the pages its positions need, or none where the pool is short (R285). -/
def State.giveKv (s : State) (fn m l upto : Nat) : Option State :=
  match s.model fn m, s.req fn l with
  | some c, some r =>
    let need := kvNeed c upto - r.kv.length
    if c.kvFree.length < need then none
    else some ((s.setModel fn m { c with kvFree := c.kvFree.drop need }).setReq fn l { r with kv := r.kv ++ c.kvFree.take need })
  | _, _ => none

/-- Give every row the KV pages that its positions need; none where the pool is short (R285). -/
def State.giveRows (s : State) (fn m : Nat) : List Row → Option State
  | [] => some s
  | r :: rs => (s.giveKv fn m r.lslot (r.pos + r.ntok)).bind fun t => t.giveRows fn m rs

/-- Serve a step's rows: where the pool is short, prefill rows leave from the end of the step; none where even the decode rows find too
few pages (R285). -/
def State.serveRows (s : State) (fn m : Nat) (dec : List Row) : Nat → List Row → Option (State × List Row)
  | 0, _ => (s.giveRows fn m dec).map fun t => (t, dec)
  | n + 1, pre => match s.giveRows fn m (dec ++ pre) with
    | some t => some (t, dec ++ pre)
    | none => s.serveRows fn m dec n pre.dropLast

/-- The request that a KV shortage preempts, among those that hold pages: the best-effort one with the most slack, or the strict one
(R285). -/
def preemptPick (l : List (Nat × Req)) : Option Nat :=
  let best := fun (x : List (Nat × Req)) => x.foldl (fun (a : Option (Nat × Int)) e =>
    match a with
    | none => some (e.1, e.2.slack)
    | some (_, v) => if e.2.slack > v then some (e.1, e.2.slack) else a) none
  let l := l.filter fun e => !e.2.kv.isEmpty
  let be := l.filter fun e => !e.2.strict
  ((if be.isEmpty then best l else best be)).map (·.1)

/-- Preempt a request (R285). -/
def State.preempt (s : State) (fn l : Nat) : State :=
  match s.req fn l with
  | none => s
  | some r => (((s.returnKv fn r).setReq fn l { r with kv := [], st := .queued, prefillDone := 0 }).count
      .SRV_FN_PREEMPT fn 1).hwSet .SRV_EVT 0 128

/-- The rows of a planned step (R283, R288). -/
def State.rowsOf (s : State) (fn : Nat) (plan : List Nat × List (Nat × Nat)) : List Row :=
  (plan.1.filterMap fun l => (s.req fn l).map fun r =>
    { lslot := l, tag := r.adapter, prefill := false, sample := true, pos := r.prefillLen - 1, ntok := 1 }) ++
  (plan.2.filterMap fun e => (s.req fn e.1).map fun r =>
    { lslot := e.1, tag := r.adapter, prefill := true, sample := decide (r.prefillDone + e.2 = r.prefillLen)
      pos := r.prefillDone, ntok := e.2 })

/-- Serve the decode rows, preempting until the pool can (R285). -/
def State.planServed (s : State) (fn m : Nat) (c : SCfg) : Nat → State × List Row
  | 0 => (s, [])
  | fuel + 1 =>
    let (dec, pre) := s.candidates fn m 70000
    let plan := planStep c (s.slowOp fn) (s.dutyMax fn) dec pre
    let rows := s.rowsOf fn (plan.1, [])
    let more := s.rowsOf fn ([], plan.2)
    match s.serveRows fn m rows more.length more with
    | some x => x
    | none => match preemptPick (s.liveOf fn m) with
      | none => (s, [])
      | some l => (s.preempt fn l).planServed fn m c fuel

/-- A request whose first prefill row enters a step is in PREFILL (R269). -/
def State.enterRows (s : State) (fn : Nat) (rows : List Row) : State :=
  rows.foldl (fun t r => match t.req fn r.lslot with
    | some q => if q.st == .queued then t.setReq fn r.lslot { q with st := .prefill } else t
    | none => t) s

/-- A row of a forwarded step record. -/
def rowOf (l : List Nat) : Row :=
  { lslot := l[0]?.getD 0, tag := l[1]?.getD 0xFFF, prefill := l[2]?.getD 0 != 0, sample := l[3]?.getD 0 != 0, pos := l[4]?.getD 0
    ntok := l[5]?.getD 0 }

/-- A row as a step record sent to the standby carries it (R579). -/
def rowWords (r : Row) : List Nat := [r.lslot, r.tag, b2n r.prefill, b2n r.sample, r.pos, r.ntok]

/-- A standby posts the next step record that the active sent, with the active's STEP_NO (R579). -/
def State.mirrorStep (s : State) (fn m : Nat) : State :=
  match s.model fn m, s.pair.steps.find? fun e => e.1 == reqKey fn m with
  | some c, some e =>
    if c.step.isSome || !c.solos.isEmpty then s else
    let t := { s with pair := { s.pair with steps := s.pair.steps.erase e } }
    let rows := e.2.2.map rowOf
    let t := rows.foldl (fun t r => (t.giveKv fn m r.lslot (r.pos + r.ntok)).getD t) (t.enterRows fn rows)
    (match t.model fn m with
    | some c' => t.postStep fn m { c' with nextStep := e.2.1 + 1 } { no := e.2.1, tPost := t.time, rows := rows, phase := 0 }
    | none => t)
  | _, _ => s

/-- Build and post the next step of a model where none is in flight, the module is not a standby, no activation, handover window, mode
change, yield or resync holds the step boundary, and some row can run; a mirrored active sends the record first (R282, R283, R579, R311,
R485, R487, R577, R591, R598; log entry 50). -/
def State.nextStep (s : State) (fn m : Nat) : State :=
  if s.upd.stage == .preparing || s.upd.stage == .window then s else
  if s.standby fn && s.pair.mirrored then s.mirrorStep fn m else
  match s.model fn m with
  | none => s
  | some c =>
    if c.step.isSome || !c.solos.isEmpty || s.standby fn || s.pair.modeNext.isSome ||
        s.pair.yieldDue.isSome || s.pair.stepHold.contains fn then s else
    let (t, rows) := s.planServed fn m c ((s.liveOf fn m).length + 1)
    if rows.isEmpty then t else
    match t.model fn m with
    | none => t
    | some c' =>
      let t := t.enterRows fn rows
      let t := if t.pair.mirrored then t.twinMsg 4 fn (64 + 16 * rows.length) ([m, c'.nextStep] ++ rows.flatMap rowWords) else t
      t.postStep fn m { c' with nextStep := c'.nextStep + 1 } { no := c'.nextStep, tPost := t.time, rows := rows, phase := 0 }

/-- Every model goes on to its next step where nothing holds it. -/
def State.resumeSteps (s : State) : State := s.srv.models.foldl (fun t e => t.nextStep (e.1 / 65536) (e.1 % 65536)) s

/-- Recompute a model's slacks and buckets, and post REQ_AT_RISK where a slack has fallen below the threshold (R278 to
R280). -/
def State.reslack (s : State) (fn m : Nat) : State :=
  match s.model fn m with
  | none => s
  | some c => (s.liveOf fn m).foldl (fun t e =>
    let (dl, sl) := s.slackOf fn m e.1 c e.2
    let r := { e.2 with deadline := dl, slack := sl, bucket := bucketOf c sl
                        atRisk := if e.2.atRisk && decide (sl > 2 * c.atRiskUs) then false else e.2.atRisk }
    if decide (sl < c.atRiskUs) && !r.atRisk then
      (((t.setReq fn e.1 { r with atRisk := true }).reqEvent fn 0x0304 e.1 r 0 [unsignedOf 32 sl]).count .SRV_FN_ATRISK fn 1).hwSet
        .SRV_EVT 0 2
    else t.setReq fn e.1 r) s

/-- A step of a serving context is interrupted: nothing is written, its requests are HELD (R310 step 1). A solo step's request
ends FAILED with HANG (R310 step 4). A step that has lost every row to a dropped page is not rerun. -/
def State.interruptStep (s : State) (fn m : Nat) : State :=
  let s := s.dropStep fn m
  match s.model fn m with
  | none => s
  | some c => match c.step with
    | none => s
    | some st =>
      if st.solo then
        let t := st.rows.foldl (fun t r => t.endReq fn r.lslot 3 rHang 0) s
        match t.model fn m with
        | some c' => t.setModel fn m { c' with step := none }
        | none => t
      else
        let t := st.rows.foldl (fun t r => match t.req fn r.lslot with
          | some q => if q.st == .held then t else t.setReq fn r.lslot { q with st := .held, wasPrefill := q.st != .decode }
          | none => t) s
        let again := st.replay
        let t := t.setModel fn m { c with
          step := if again || st.rows.isEmpty then none else some { st with replay := true, tPost := s.time }
          solos := if again then st.rows else c.solos, interrupted := c.interrupted + 1 }
        t.wrF .SRV_STATUS 0 0 1 (b2n (!st.rows.isEmpty))

/-- Rerun a model's interrupted step: the same record with REPLAY, or the next row alone with SOLO (R310 steps 2 and 4). -/
def State.rerunStep (s : State) (fn m : Nat) : State :=
  match s.model fn m with
  | none => s
  | some c => match c.step, c.solos with
    | some st, _ => if st.replay then (s.postStep fn m c st).hwSet .SRV_EVT 0 16 else s
    | none, r :: rs =>
      let st : Stp := { no := c.nextStep - 1, tPost := s.time, rows := [r], phase := 0, replay := true, solo := true }
      (s.postStep fn m { c with solos := rs } st).hwSet .SRV_EVT 0 16
    | none, [] => s.nextStep fn m

/-- A result record is bad: the requests of its step end FAILED with PROGRAM, and the solo steps that wait go on (R291, R310). -/
def State.failRows (s : State) (fn m result : Nat) : State :=
  match s.model fn m with
  | none => s
  | some c => match c.step with
    | none => s
    | some st =>
      let t := st.rows.foldl (fun t r => t.endReq fn r.lslot 3 result 0) s
      match t.model fn m with
      | some c' =>
        let t := (t.setModel fn m { c' with step := none }).wrF .SRV_STATUS 0 0 1 (b2n (!c.solos.isEmpty))
        if c.solos.isEmpty then (t.reslack fn m).nextStep fn m else t.rerunStep fn m
      | none => t

/-- A serving context ends while its step is outstanding: that step's requests end FAILED with PROGRAM (R649). -/
def State.failStep (s : State) (fn m result : Nat) : State :=
  let s := s.dropStep fn m
  match s.model fn m with
  | none => s
  | some c =>
    let rows := c.pendRows
    let t := rows.foldl (fun t r => t.endReq fn r.lslot 3 result 0) s
    match t.model fn m with
    | some c' => (t.setModel fn m { c' with step := none, solos := [] }).wrF .SRV_STATUS 0 0 1 0
    | none => t

end Sys2Proof.Machine
end

