-- ==== Sys2Proof/Machine/Recover.lean ====
section
/-! DEFINITION. Stopping and resetting: contexts (R72, R219, R554), the escalation ladder and spare rules (R559, R79), resets
that wait, roles and the line (R597), OUT_OF_SERVICE (R562) and power-cycle requests (R557). -/

namespace Sys2Proof.Machine

open Sys2Proof

/-- The source of an engine in bits [15:0]: DIE, UNIT, INST (R555). -/
def srcOf (die unit inst : Nat) : Nat := die + unit * 8 + inst * 256

/-- The source of an island. -/
def srcIsland (i : Nat) : Nat := srcOf (i / 16) 0 (i % 16)

/-- The source of the engine behind a ferry channel code: its island, or its long ferry (R552). -/
def srcChan (c : Nat) : Nat :=
  if c < 0x8000 then srcIsland (c / 8) else srcOf ((c - 0x8000) / 16) 4 ((c - 0x8000) / 4 % 4)

/-- The source of a sorter. -/
def srcSorter (k : Nat) : Nat := srcOf k 5 0

/-- The source of a video engine: 0 to 7 decode, 8 to 11 encode. -/
def srcVideo (e : Nat) : Nat := if e < 8 then srcOf 5 0x13 e else srcOf 5 0x14 (e - 8)

/-- The island that a source names, if it is an island. -/
def islOfSrc (src : Nat) : Option Nat :=
  if bits src 3 5 = 0 ∧ bits src 0 3 < 4 ∧ bits src 8 8 < 16 then some (bits src 0 3 * 16 + bits src 8 8) else none

/-- The partition that holds an engine, 0 where no single one does (R560). -/
def State.srcOwner (s : State) (src : Nat) : Nat :=
  match islOfSrc src with
  | some i => s.islOwner i
  | none =>
    let u := bits src 3 5
    let n := bits src 8 8
    (s.boundVfs.find? fun v =>
      if u = 5 then bitAt (s.prt v).srt (bits src 0 3) else if u = 0x13 then bitAt (s.prt v).dec n
      else if u = 0x14 then bitAt (s.prt v).enc n else false).getD 0

/-- A report from a core (R540). -/
def State.logCore (s : State) (island slot cls sev addr synd ctx : Nat) : State :=
  s.log (islDie island) 1 (island % 16) (s.physOf island slot) cls (s.islOwner island) sev addr synd ctx

/-- Keep ISL_STATUS.CONTEXT with the contexts (R90). -/
def State.syncCtx (s : State) (is : List Nat) : State :=
  is.foldl (fun t i => t.wrF .ISL_STATUS i 23 1 (b2n (t.islCtx i).isSome)) s

/-- Begin to stop a context; only the first reason counts (R72). Its threads issue nothing from then on. -/
def State.stopCtx (s : State) (c : Nat) (why : CtxEnd) (charge : Option Nat) : State :=
  match s.ctx c with
  | none => s
  | some x => if x.done || x.why.isSome then s else s.setCtx c { x with why := some why, charge := charge }

/-- A thread raises an exception of the instruction at a pc: precise, the context begins to stop (R71, R72); causes 24, 26 and 27
charge the thread's island (R558). -/
def State.throwAt (s : State) (gid cause addr : Nat) (pc : Word) : State :=
  s.stopCtx (s.th gid).ctx (.fault ⟨cause, pc, w64 addr, gid, s.time⟩)
    (if cause = 24 ∨ cause = 26 ∨ cause = 27 then some (srcIsland (thIsl gid)) else none)

/-- Discard a context's descriptors on a channel; FRY_DONE counts them (R219). -/
def Chan.drop (x : Chan) (c : Nat) : Chan :=
  let keep := x.queue.filter fun d => d.ctx != some c
  let mine := x.haltCtx == some c
  { x with queue := keep, done := x.done + (x.queue.length - keep.length)
           halted := x.halted && !mine, haltCtx := if mine then none else x.haltCtx }

/-- Discard a context's jobs on a sorter (R266). -/
def Sorter.drop (x : Sorter) (c : Nat) : Sorter :=
  let keep := x.queue.filter fun d => d.ctx != c
  let mine := x.haltCtx == some c
  { x with queue := keep, done := x.done + (x.queue.length - keep.length)
           halted := x.halted && !mine, haltCtx := if mine then none else x.haltCtx }

/-- Stores of a context's threads that have left their cores are still performed (R167). -/
def State.landStores (s : State) (c fn : Nat) : State :=
  s.fab.threads.foldl (fun t e => if e.2.ctx = c then
    (match e.2.store with | some p => t.landParts fn (thIsl e.1) (thCore e.1) p.parts | none => t) else t) s

/-- Discard a context's threads, tensor state, descriptors and jobs (R554, R140, R219). -/
def State.discardCtx (s : State) (c : Nat) : State :=
  let isls := ((s.ctx c).map (·.islands)).getD []
  let s := s.landStores c (((s.ctx c).map (·.fn)).getD 0)
  let mine := fun g => (s.th g).ctx == c
  { s with
    fab := { s.fab with threads := s.fab.threads.filter fun e => e.2.ctx != c
                        tens := s.fab.tens.filter fun e => !isls.contains (e.1 / 64) }
    fry := { s.fry with chans := tabMap (·.drop c) s.fry.chans }
    srt := { s.srt with units := tabMap (·.drop c) s.srt.units }
    pas := { s.pas with acks := s.pas.acks.filter fun e => !mine e.1 } }

/-- Status code of CTX_DONE (R371). -/
def CtxEnd.status : CtxEnd → Nat
  | .fault _ | .ferry .. | .sorter .. => 2
  | .abort _ => 1
  | .stopped => 3
  | _ => 4

/-- Cause code of the RESET event (R555). -/
def CtxEnd.cause : CtxEnd → Nat
  | .fault _ | .ferry .. | .sorter .. | .trip => 1
  | .abort _ => 14
  | .stopped => 5
  | .hang _ => 2
  | .watchdog => 3
  | .engine c => c

/-- The fault event of a stopped context (R72, R218, R266); a THREAD_FAULT record carries the time of the fault. -/
def State.faultEvent (s : State) (c : Nat) (x : Ctx) (why : CtxEnd) : State :=
  match why with
  | .fault f => s.postAt x.fn 0x0202 f.time ([c, f.cause] ++ lohi f.pc.toNat ++ lohi f.addr.toNat ++ [f.gid])
  | .ferry ch seq tag code addr => s.post x.fn 0x0203 ([c, ch] ++ lohi seq ++ [tag, code] ++ lohi addr)
  | .sorter k seq tag code addr => s.post x.fn 0x0204 ([c, k] ++ lohi seq ++ [tag, code] ++ lohi addr)
  | _ => s

/-- The MCP restarts this context after a reset for this reason (R650). -/
def Ctx.restarts (x : Ctx) (why : CtxEnd) : Bool :=
  x.serving.isSome && (match why with | .abort _ | .stopped => false | _ => true)

/-- A page that a step faulted on leaves the KV pool. The requests that hold it give their KV pages back and are QUEUED, to be prefilled
again from position 0, and their rows leave the interrupted step, which is rerun without them (R310; log entry 100). -/
def State.dropKvPage (s : State) (fn m addr : Nat) : State :=
  match s.model fn m with
  | none => s
  | some c =>
    if addr < c.kvBase ∨ c.kvBase + c.kvPages * 65536 ≤ addr then s else
    let p := (addr - c.kvBase) / 65536
    let hit := ((s.liveOf fn m).filter fun e => e.2.kv.contains p)
    let rows := fun (l : List Row) => l.filter fun r => !hit.any (·.1 == r.lslot)
    let t := s.setModel fn m { c with kvBad := p :: c.kvBad, kvFree := c.kvFree.filter (· != p), solos := rows c.solos
                                      step := c.step.map fun st => { st with rows := rows st.rows } }
    hit.foldl (fun t e => (t.returnKv fn e.2).setReq fn e.1 { e.2 with kv := [], prefillDone := 0, st := .queued, wasPrefill := false }) t

/-- The address of a fault that a plain page caused. -/
def CtxEnd.plainAddr : CtxEnd → Option Nat
  | .fault f => if f.cause = 25 then some f.addr.toNat else none
  | .ferry _ _ _ code addr => if 2 ≤ code ∧ code ≤ 4 then some addr else none
  | _ => none

/-- Complete a context's reset: its work is discarded, and CTX_DONE and the RESET record follow; a serving context that the MCP
restarts gets no CTX_DONE, and its step is interrupted (R72, R310, R649, R650). replay keeps a start record for a suspect. -/
def State.finishCtx (s : State) (c : Nat) (why : CtxEnd) (replay : Bool) : State :=
  match s.ctx c with
  | none => s
  | some x =>
    let again := x.restarts why || replay
    let t := (s.discardCtx c).setCtx c { x with done := true, restart := again, why := if again then none else some why
                                                charge := none, reported := false }
    let t := t.syncCtx x.islands
    let t := match x.serving with
      | none => t
      | some m =>
        if x.restarts why then
          let t := match why.plainAddr with | some a => t.dropKvPage x.fn m a | none => t
          t.interruptStep x.fn m
        else t.failStep x.fn m rProgram
    let t := if again then t else t.post x.fn 0x0201 [c, why.status, match why with | .abort a => a | _ => 0]
    t.resetRecord 0 c why.cause x.fn

/- The ladder. -/

/-- Count an event for a rule and scope; the flag says that the rule acts, and its count then returns to zero (R559, R560). -/
def State.bumpRule (s : State) (rule scope : Nat) : State × Bool :=
  let (cnt, win) := s.policy rule
  let now := if rule = 3 ∨ rule = 4 then s.powTime else s.time
  let l := within now win (tabGet s.ras.counts [] (ruleKey rule scope)) ++ [now]
  let acts := if 8 ≤ rule then decide (cnt ≤ l.length) else decide (cnt < l.length)
  ({ s with ras := { s.ras with counts := tabSet s.ras.counts (ruleKey rule scope) (if acts then [] else l) } }, acts)

/-- The record of a ladder action: ESCALATION entry, RESET event with cause LADDER, ESCALATION in RAS_EVT (R560). -/
def State.escalate (s : State) (rule domain target owner : Nat) : State :=
  let t := (s.log 4 0x1B 0 0 0x71 (if owner = 0 then 0x1F else owner) 2 0 rule 0).hwSet .RAS_EVT 0 64
  t.resetEvent domain target 4 owner

/-- A reset waits for its turn and, where R567 asks for one, its dump. -/
def State.askReset (s : State) (r : ResetReq) : State :=
  { s with ras := { s.ras with resets := if s.ras.resets.contains r then s.ras.resets else s.ras.resets ++ [r] } }

/-- A reset of a domain waits for its crash dump (R567, R569). -/
def State.wantDump (s : State) (d : Nat) : State :=
  { s with ras := { s.ras with needDump := if s.ras.needDump.contains d then s.ras.needDump else s.ras.needDump ++ [d] } }

/-- The newest dump goes before a reset of another domain than the one that asked for it (R560, R570). -/
def State.redomain (s : State) (d : Nat) : State :=
  { s with ras := { s.ras with dumps := s.ras.dumps.map fun e =>
      if e.2.order = s.ras.dumpOrder then (e.1, { e.2 with domain := d, chip := e.2.chip || decide (3 ≤ d) }) else e } }

/-- Ask for a chip reset (R556). -/
def State.askChip (s : State) (cause : Nat) : State :=
  s.askReset (.chip cause)

/-- Ask for a chip reset that the module initiates with a dump (R556, R567). -/
def State.askChipDump (s : State) (cause : Nat) : State := (s.askChip cause).wantDump 3

/-- Complete a context's reset on its own, or hand it to the engine reset that rule 0 of the ladder puts in its place (R558,
R560). -/
def State.countCtx (s : State) (c : Nat) : State × Bool :=
  match s.ctx c with
  | none => (s, false)
  | some x => match x.charge with
    | none => (s, false)
    | some src =>
      let (t, acts) := (s.count .RAS_CTX_RESETS 0 1).bumpRule 0 src
      if acts then ((t.escalate 0 1 src (t.srcOwner src)).askReset (.engine src 4) |>.wantDump 1, true) else (t, false)

/-- A scrub of a VF is due, or joins the one that runs (R381, R387). -/
def State.startScrub (s : State) (fn : Nat) (kind : ScrubKind) (issuer : Option (Nat × Nat)) (peer : Nat) (next : Part) : State :=
  match tabFind s.part.scrubs fn with
  | some x => { s with part := { s.part with scrubs := tabSet s.part.scrubs fn { x with joinFlr := x.joinFlr || kind == .flr } } }
  | none =>
    let x : Scrub := { kind := kind, issuer := issuer, peer := peer, next := next }
    { s with part := { s.part with scrubs := tabSet s.part.scrubs fn x } }

/- Conditions that stop an update (13). -/

/-- The first condition of R479 that is in force: OWNER_LOCK, MOTION, HOLDUP or PWR_WARN_N, a change of holder, or JUNCTION, FLOW or INLET
on an island or a trip. -/
def State.updRefusal (s : State) : Option Nat :=
  if s.rdF .SEC_STATUS 0 2 1 = 1 then some rOwnerLock
  else if s.rdF .PWR_STATUS 0 7 1 = 1 then some rMotion
  else if s.rdF .PWR_STATUS 0 8 1 = 1 || s.pwr.warn then some rHoldup
  else if s.pair.failover then some rPairFailover
  else if s.pwr.trip || s.pwr.reasons.any (fun e => bits e.2 3 3 != 0) then some rThermal else none

/-- A slot of the store. -/
def State.fwSlot (s : State) (k : Nat) : FwSlot := if k = 0 then s.upd.slotA else s.upd.slotB

/-- Replace a slot of the store; SEC_SVN shows its SVN (R469). -/
def State.setSlot (s : State) (k : Nat) (x : FwSlot) : State :=
  ({ s with upd := if k = 0 then { s.upd with slotA := x } else { s.upd with slotB := x } }).wrF .SEC_SVN 0 (if k = 0 then 8 else 16) 7 x.svn

/-- The slot that an update fills or has filled: the one that is not running, slot A in recovery, the running one from the handover on
(R441, R474). -/
def State.target (s : State) : Nat := if s.sec.recovery then 0 else if s.upd.st == .confirming then s.upd.running else 1 - s.upd.running

/-- The command that an update's work belongs to ends (R482, R485). -/
def State.endOwner (s : State) (op code : Nat) : State :=
  let t := { s with upd := { s.upd with owner := none } }
  match s.upd.owner with
  | some (f, m) => t.cmdDone f m op code []
  | none => t

/-- A condition of R479 stops a commit, or an activation before its window (R480). -/
def State.updGuard (s : State) : State :=
  match s.updRefusal with
  | none => s
  | some code =>
    if s.upd.st == .committing && !s.sec.recovery then { s with upd := { s.upd with st := .receiving } }.endOwner 0x802 code
    else if s.upd.st == .activating && s.upd.stage == .preparing then
      let t := s.setSlot s.target { s.fwSlot s.target with st := 2 }
      ({ t with upd := { t.upd with st := .committed, stage := .none } }.endOwner 0x803 code).resumeSteps
    else s

/- Roles and the line (16). -/

/-- FN_STATUS ROLE codes (R351). -/
abbrev roleSolo : Nat := 0
abbrev roleActive : Nat := 1
abbrev roleStandby : Nat := 2

/-- The module's role. -/
def State.role (s : State) : Nat := s.rdF .FN_STATUS 0 3 2

/-- MODULE_DRAIN is in force (R602, R606). -/
def State.draining (s : State) : Bool := s.rdF .TWN_PAIR_STATUS 0 10 1 = 1

/-- A drain that lets work run to its end: in solo mode, or with no partner (R602). -/
def State.soloDrain (s : State) : Bool := s.draining && (!s.pair.mirrored || s.role == roleSolo)

/-- Change the module's role: every FN_STATUS, ROLE_CHANGE, PAIR_ROLE to every function with its reason, and the pair's status
and event (R352, R597, R600, R606). -/
def State.setRole (s : State) (r reason : Nat) : State :=
  if s.role = r then s else
  let t := s.allFns fun t f => (t.wrF .FN_STATUS f 3 2 r).hwSet .FN_EVT f 32
  let t := (t.wrF .TWN_PAIR_STATUS 0 1 2 r).hwSet .TWN_PAIR_EVT 0 1
  t.allFns fun t f => t.post f 0x0901 [b2n t.pair.mirrored, r, reason]

/-- Stop emitting, send YIELD with the last keys, and release the line (R598). -/
def State.releaseLine (s : State) (reason : Nat) : State :=
  if !s.pair.holder then s else
  let t := { s with pair := { s.pair with holder := false, claiming := none, yieldDue := none, failover := true } }
  (((t.twinSend 2).count .TWN_HOLDER_CHG 0 1).setRole roleStandby reason).updGuard

/- Stopping the module. -/

/-- A channel with nothing left: every descriptor counts as completed (R219). -/
def Chan.clear (x : Chan) : Chan :=
  { x with done := x.done + x.queue.length, queue := [], halted := false, haltCtx := none }

/-- A sorter with nothing left. -/
def Sorter.clear (x : Sorter) : Sorter :=
  { x with done := x.done + x.queue.length, queue := [], halted := false, haltCtx := none }

/-- Compute, video and serving stop; nothing of their work is left (R556 step 2, R562). -/
def State.stopWork (s : State) : State :=
  let t := { s with
    fab := { s.fab with threads := [], tens := [], ctxs := tabMap (fun x => { x with done := true, restart := false }) s.fab.ctxs }
    fry := { s.fry with chans := tabMap Chan.clear s.fry.chans }
    srt := { s.srt with units := tabMap Sorter.clear s.srt.units }
    srv := { s.srv with reqs := [], models := tabMap (fun c => { c with step := none, solos := [] }) s.srv.models }
    vid := { s.vid with streams := [], jobs := [], jpeg := [] } }
  t.syncCtx (List.range 64)

/-- Enter OUT_OF_SERVICE (R562). -/
def State.enterOos (s : State) (reason : Nat) : State :=
  if s.rdF .RAS_OOS 0 0 8 = reason then s else
  let t := s.log 4 0x1B 0 0 0x75 0x1F 3 0 reason 0
  let t := (t.wrN .RAS_OOS 0 reason).wrF .RAS_STATUS 0 5 1 1
  let t := (t.wrF .RAS_SB_CYCLE 0 1 1 1).wrF .RAS_SB_CYCLE 0 8 8 reason
  let t := (t.hwSet .RAS_EVT 0 4096).allFns fun t f => t.setFnState f fnOos
  let t := t.stopWork
  if t.pair.mirrored then t.releaseLine 1 else t

/-- Request a power cycle from the tray, or enter OUT_OF_SERVICE where rule 4 forbids one more (R557, R559). -/
def State.requestCycle (s : State) : State :=
  let (t, acts) := s.bumpRule 4 0
  if acts then (t.escalate 4 4 0 0).enterOos 1 else
  let t := if t.pair.mirrored then t.releaseLine 1 else t
  let t := t.stopWork
  let seq := t.ras.cycSeq + 1
  let t := { t with ras := { t.ras with cycSeq := seq }, brd := { t.brd with ibi := t.brd.ibi + 1 } }
  let t := (t.wrF .RAS_SB_CYCLE 0 0 1 1).wrF .RAS_SB_CYCLE 0 32 32 seq
  ((t.wrF .RAS_STATUS 0 4 1 1).hwSet .RAS_EVT 0 2048).enterOos 5

/-- A counted partition reset of a VF in place of an engine reset (R558, R560): rule 2 may put a chip reset in its place. -/
def State.askPart (s : State) (fn src : Nat) : State :=
  let (t, acts) := s.bumpRule 2 fn
  if acts then ((t.escalate 2 3 0 0).redomain 3).askChip 4
  else
    let t := (t.count .RAS_PART_RESETS 0 1).startScrub fn .ladder none 0 (t.prt fn)
    { t with part := { t.part with scrubs := tabUpd t.part.scrubs { kind := .ladder, issuer := none, next := {} } fn
                                     fun x => { x with engine := some src } } }

/-- A counted engine reset: rule 1 may put a partition or chip reset in its place; the flag says that it did (R559, R560). -/
def State.countEngine (s : State) (src : Nat) : State × Bool :=
  let (t, acts) := s.bumpRule 1 src
  if !acts then (t, false) else
  let shared := bits src 3 5 = 4 ∨ bits src 3 5 = 0x15 ∨ bits src 3 5 = 0x16
  let o := t.srcOwner src
  if shared then (((t.escalate 1 3 0 0).redomain 3).askChip 4, true)
  else if o = 0 then (t.escalate 1 1 src 0, false)
  else (((t.escalate 1 2 o o).redomain 2).askPart o src, true)

/-- Mark a physical core failing (R79): REMAP_PENDING, CORE_FAILING. -/
def State.markFailing (s : State) (island phys : Nat) : State :=
  let k := island * 66 + phys
  let h := tabGet s.fab.cores {} k
  if h.failing.isSome then s else
  let t := { s with fab := { s.fab with cores := tabSet s.fab.cores k { h with failing := some s.time } } }
  (t.wrF .ISL_STATUS island 24 1 1).hwSet .ISL_EVT island 256

/-- Count a spare-rule event of a core and mark it failing where the rule's count is reached (R79, R559). -/
def State.spareEvent (s : State) (rule island phys : Nat) : State :=
  let (t, acts) := s.bumpRule rule (island * 66 + phys)
  if acts then t.markFailing island phys else t

/-- An uncorrectable local SRAM error: rule 10 counts the different addresses that the errors within its window had (R79). -/
def State.sramSpare (s : State) (island phys addr : Nat) : State :=
  let k := island * 66 + phys
  let h := tabGet s.fab.cores {} k
  let (cnt, win) := s.policy 10
  let l := (addr, s.time) :: h.sram.filter fun e => !(within s.time win [e.2]).isEmpty
  let acts := decide (cnt ≤ (l.map (·.1)).eraseDups.length)
  let t := { s with fab := { s.fab with cores := tabSet s.fab.cores k { h with sram := if acts then [] else l } } }
  if acts then t.markFailing island phys else t

end Sys2Proof.Machine
end

