-- ==== Sys2Proof/Machine/DescOps.lean ====
section
/-! DEFINITION. Ferry descriptors and sorter jobs: their fields, the checks made at the post, and the post itself (05 R190 to
R212, 06 R259 to R261). -/

namespace Sys2Proof.Machine

open Sys2Proof

/-- A field of a byte list: n bytes from an offset. -/
def at_ (l : List Byte) (o n : Nat) : Nat := leNat ((l.drop o).take n)

/-- A signed 32-bit field. -/
def sAt (l : List Byte) (o : Nat) : Int := signed 32 (at_ l o 4)

/-- The fields of a ferry descriptor (R196 to R198). -/
structure FDesc where
  src : Nat
  dst : Nat
  n : List Nat
  ss : List Int
  ds : List Int
  xform : Nat
  esize : Nat
  sasp : Nat
  dasp : Nat
  score : Nat
  dcore : Nat
  waitPrev : Bool
  ctlRes : Bool
  action : Nat
  target : Nat
  tag : Nat
  compRes : Bool
  xparam : Nat
  deriving DecidableEq, Repr

/-- Read a descriptor (R196 to R198). -/
def fdesc (l : List Byte) : FDesc :=
  let ctl := at_ l 0x30 4
  let comp := at_ l 0x34 4
  { src := at_ l 0 8, dst := at_ l 8 8, n := [at_ l 0x10 2, at_ l 0x12 2, at_ l 0x14 2, at_ l 0x16 2]
    ss := [sAt l 0x18, sAt l 0x1C, sAt l 0x20], ds := [sAt l 0x24, sAt l 0x28, sAt l 0x2C]
    xform := bits ctl 0 4, esize := bits ctl 4 3, sasp := bits ctl 8 2, dasp := bits ctl 10 2
    score := bits ctl 12 6, dcore := bits ctl 18 6, waitPrev := bitAt ctl 24
    ctlRes := bits ctl 7 1 != 0 || bits ctl 25 7 != 0
    action := bits comp 0 2, target := bits comp 4 12, tag := bits comp 16 16, compRes := bits comp 2 2 != 0
    xparam := at_ l 0x38 8 }

/-- A count of the descriptor. -/
def FDesc.cnt (d : FDesc) (i : Nat) : Nat := d.n[i]?.getD 0

/-- Element size in bits (R197). -/
def FDesc.ebits (d : FDesc) : Nat := match d.esize with | 0 => 4 | 1 => 8 | 2 => 16 | 3 => 32 | _ => 64

/-- Elements moved (R200). -/
def FDesc.elems (d : FDesc) : Nat := d.n.foldl (· * ·) 1

/-- The fields of a STRIPE parameter block (R208). -/
structure SParam where
  imgH : Nat
  imgW : Nat
  cin : Nat
  outW : Nat
  y0 : Nat
  rows : Nat
  kh : Nat
  kw : Nat
  dil : Nat
  stride : Nat
  pad : Nat
  prune : Bool
  res : Bool
  padT : Nat
  padL : Nat
  padC : Nat
  corrOut : Nat
  wAddr : Nat
  cout : Nat
  wfmt : Nat
  wstride : Nat
  maskOut : Nat
  deriving DecidableEq, Repr

/-- Read a STRIPE parameter block (R208). -/
def sparam (l : List Byte) : SParam :=
  let k := at_ l 0x0C 4
  { imgH := at_ l 0 2, imgW := at_ l 2 2, cin := at_ l 4 2, outW := at_ l 6 2, y0 := at_ l 8 2, rows := at_ l 0x0A 2
    kh := bits k 0 4, kw := bits k 4 4, dil := bits k 8 7, stride := bits k 16 3, pad := bits k 20 2, prune := bitAt k 22
    res := bits k 15 1 != 0 || bits k 19 1 != 0 || bits k 23 9 != 0 || bits (at_ l 0x28 4) 20 12 != 0 || at_ l 0x38 8 != 0
    padT := at_ l 0x10 2, padL := at_ l 0x12 2, padC := at_ l 0x14 4, corrOut := at_ l 0x18 8, wAddr := at_ l 0x20 8
    cout := at_ l 0x28 2, wfmt := bits (at_ l 0x28 4) 16 4, wstride := at_ l 0x2C 4, maskOut := at_ l 0x30 8 }

/-- Input row of a tap row for an output row (R209). -/
def SParam.row (p : SParam) (y ty : Nat) : Int := (y * p.stride + ty * p.dil : Nat) - (p.padT : Int)

/-- Input column of a tap column for an output column (R209). -/
def SParam.col (p : SParam) (x tx : Nat) : Int := (x * p.stride + tx * p.dil : Nat) - (p.padL : Int)

/-- A coordinate lies inside an extent. -/
def inside (v : Int) (n : Nat) : Bool := decide (0 ≤ v ∧ v < n)

/-- A tap lies in padding for the whole stripe (R210). -/
def SParam.pruned (p : SParam) (t : Nat) : Bool :=
  p.prune && decide (p.pad < 2) &&
  (((List.range p.rows).all fun y => !inside (p.row (p.y0 + y) (t / p.kw)) p.imgH) ||
   ((List.range p.outW).all fun x => !inside (p.col x (t % p.kw)) p.imgW))

/-- The kept taps in ascending order (R209). -/
def SParam.kept (p : SParam) : List Nat := (List.range (p.kh * p.kw)).filter fun t => !p.pruned t

/-- The limits of a STRIPE (R208, R209). -/
def stripeOk (d : FDesc) (p : SParam) : Bool :=
  (d.esize == 1 || d.esize == 2) && d.n.all (· == 0) && d.ss[2]? == some 0 && d.ds[2]? == some 0 &&
  bits d.xparam 48 16 == 0 && !p.res &&
  p.imgH != 0 && p.imgW != 0 && decide (1 ≤ p.cin ∧ p.cin ≤ 4096) && p.outW != 0 && p.rows != 0 &&
  decide (1 ≤ p.kh ∧ p.kh ≤ 7 ∧ 1 ≤ p.kw ∧ p.kw ≤ 7) && decide (1 ≤ p.dil ∧ p.dil ≤ 64) &&
  decide (1 ≤ p.stride ∧ p.stride ≤ 4) && p.pad != 3 && decide (1 ≤ p.cout ∧ p.cout ≤ 4096) &&
  [0, 2, 3, 4, 5, 7].contains p.wfmt &&
  decide (((p.kept.length * p.cin * d.ebits / 8 : Nat) : Int) ≤ d.ds[0]?.getD 0)

/-- The formats that CONVERT names (R205). -/
def convFmt (c : Nat) : Bool := [0, 1, 2, 3, 4, 5, 7, 8].contains c

/-- The transform's own limits, but for STRIPE and FRAME (R202 to R207). -/
def xformOk (d : FDesc) : Bool :=
  let b := bits d.xparam 0 4
  let n0 := d.cnt 0
  let four := d.esize == 0
  match d.xform with
  | 0 => d.xparam == 0 && (!four || n0 % 2 == 0)
  | 1 => d.xparam == 0 && decide (d.esize ≤ 3 ∧ n0 ≤ 4096 ∧ d.cnt 1 ≤ 4096) && (!four || (n0 % 2 == 0 && d.cnt 1 % 2 == 0))
  | 2 => decide (1 ≤ d.esize ∧ d.esize ≤ 3) && d.xparam / 16 == 0 && (b == 2 || b == 4 || b == 8) && decide (b * b * n0 ≤ 4096)
  | 3 => decide (1 ≤ d.esize ∧ d.esize ≤ 3) && d.xparam / 16 == 0 && (b == 2 || b == 4 || b == 8) && n0 % (b * b) == 0 &&
      decide (n0 ≤ 4096)
  | 5 =>
    let o := bits d.xparam 4 4
    bits d.xparam 9 23 == 0 && convFmt b && convFmt o && fmtBits b == d.ebits && (!four || n0 % 2 == 0) && (o != 1 || n0 % 2 == 0)
  | 6 => d.xparam == 0 && d.esize == 2 && n0 % 32 == 0 && d.dasp == 0 && decide (plainBase ≤ d.dst ∧ d.dst < winBase)
  | 7 => d.xparam == 0 && d.esize == 2 && n0 % 32 == 0 && d.sasp == 0 && decide (plainBase ≤ d.src ∧ d.src < winBase)
  | 8 => d.xparam == 0 && (!four || n0 % 2 == 0)
  | _ => false

/- What a descriptor moves. -/

/-- The byte addresses of a nibble range. -/
def nibBytes (a n : Nat) : List Nat := (List.range ((a + n - 1) / 2 - a / 2 + 1)).map (a / 2 + ·)

/-- One element written: a destination nibble address and width in nibbles, the source ranges that it is computed from, and how, with
a free value for what the spec leaves open. -/
structure FMove where
  dst : Nat
  n : Nat
  srcs : List (Nat × Nat)
  f : Word → List Nat → Nat

/-- An address plus a signed offset, modulo 2^64. -/
def addAddr (a : Nat) (i : Int) : Nat := unsignedOf 64 (a + i)

/-- Signed field i of a stride list. -/
def strideAt (l : List Int) (i : Nat) : Int := l[i]?.getD 0

/-- Offset in nibbles of coordinates under the strides of dimensions 1 to 3, with element width q nibbles. -/
def nibOff (q : Nat) (l : List Int) (i0 i1 i2 i3 : Nat) : Int :=
  i0 * q + 2 * (i1 * strideAt l 0 + i2 * strideAt l 1 + i3 * strideAt l 2)

/-- A nibble address. -/
def nibAddr (a : Nat) (off : Int) : Nat := unsignedOf 65 (2 * a + off)

/-- The coordinates of a descriptor's elements, dimension 0 fastest. -/
def coords (n : List Nat) : List (Nat × Nat × Nat × Nat) :=
  let c := fun i => n[i]?.getD 0
  (List.range (c 3)).flatMap fun i3 => (List.range (c 2)).flatMap fun i2 => (List.range (c 1)).flatMap fun i1 =>
    (List.range (c 0)).map fun i0 => (i0, i1, i2, i3)

/-- Copy one value. -/
def fstVal (_ : Word) (l : List Nat) : Nat := l.headD 0

/-- A source element at coordinates. -/
def FDesc.srcNib (d : FDesc) (i0 i1 i2 i3 : Nat) : Nat := nibAddr d.src (nibOff (d.ebits / 4) d.ss i0 i1 i2 i3)

/-- A destination element at coordinates, q nibbles wide. -/
def FDesc.dstNib (d : FDesc) (q i0 i1 i2 i3 : Nat) : Nat := nibAddr d.dst (nibOff q d.ds i0 i1 i2 i3)

/-- CONVERT of one element (R205). -/
def convElem (ifmt ofmt : Nat) (en : Bool) (scale v : Nat) : Nat :=
  if ifmt = ofmt && !en then v
  else
    let x := toF32 (readFmt ifmt v)
    saturate ofmt (f32 (if en then toF32 ((f32 x).mul (f32 scale)) else x))

/-- KVPACK of 32 BF16 words into 17 bytes as one number (R206). -/
def kvPack (l : List Nat) : Nat :=
  let xs := l.map bf16.read
  if xs.any fun x => x.isNan || x.isInf then 0xFF
  else
    let amax := xs.foldl (fun m x => match x with | .fin _ v => max m v | _ => m) 0
    let e : Nat := if amax = 0 then 0 else (min 254 (max 0 (((Nat.log2 amax : Nat) : Int) - unitExp + 125))).toNat
    let el := fun x => match x with
      | .fin n v => saturate 6 (.fin n (v * 2 ^ 127 / 2 ^ e))
      | _ => 0
    e + (xs.zipIdx.map fun x => el x.1 * 16 ^ (x.2 + 2)).sum

/-- KVUNPACK of one element from its group's exponent and its nibble (R207). -/
def kvUnpack (e q : Nat) : Nat :=
  if e % 256 = 255 then 0x7FC0
  else match e2m1.read q with
    | .fin n v => saturate 3 (.fin n (v * 2 ^ (e % 256) / 2 ^ 127))
    | x => saturate 3 x

/-- The moves of COPY, TRANSPOSE, S2D, D2S, CONVERT, KVPACK and KVUNPACK (R202 to R207). -/
def shapeMoves (d : FDesc) : List FMove :=
  let q := d.ebits / 4
  let b := bits d.xparam 0 4
  let n0 := d.cnt 0
  let cs := coords d.n
  match d.xform with
  | 1 => cs.map fun (i0, i1, i2, i3) => ⟨nibAddr d.dst (i1 * q + 2 * (i0 * strideAt d.ds 0 + i2 * strideAt d.ds 1 + i3 * strideAt d.ds 2)), q,
      [(d.srcNib i0 i1 i2 i3, q)], fstVal⟩
  | 2 =>
    let w := ceilDiv (d.cnt 1) b * b
    let h := ceilDiv (d.cnt 2) b * b
    (coords [n0, w, h, d.cnt 3]).map fun (c, x, y, n) =>
      let dst := d.dstNib q ((y % b * b + x % b) * n0 + c) (x / b) (y / b) n
      if x < d.cnt 1 ∧ y < d.cnt 2 then ⟨dst, q, [(d.srcNib c x y n, q)], fstVal⟩ else ⟨dst, q, [], fun _ _ => 0⟩
  | 3 =>
    let c := n0 / (b * b)
    cs.map fun (i0, x, y, n) =>
      let k := i0 / c
      ⟨d.dstNib q (i0 % c) (x * b + k % b) (y * b + k / b) n, q, [(d.srcNib i0 x y n, q)], fstVal⟩
  | 5 =>
    let o := bits d.xparam 4 4
    let oq := fmtBits o / 4
    cs.map fun (i0, i1, i2, i3) => ⟨d.dstNib oq i0 i1 i2 i3, oq, [(d.srcNib i0 i1 i2 i3, q)],
      fun _ l => convElem b o (bitAt d.xparam 8) (bits d.xparam 32 32) (l.headD 0)⟩
  | 6 => (coords [n0 / 32, d.cnt 1, d.cnt 2, d.cnt 3]).map fun (g, i1, i2, i3) =>
      ⟨nibAddr d.dst (34 * g + nibOff 0 d.ds 0 i1 i2 i3), 34, (List.range 32).map fun m => (d.srcNib (32 * g + m) i1 i2 i3, 4), fun _ => kvPack⟩
  | 7 => cs.map fun (i0, i1, i2, i3) =>
      let g := nibAddr d.src (34 * (i0 / 32) + nibOff 0 d.ss 0 i1 i2 i3)
      ⟨d.dstNib 4 i0 i1 i2 i3, 4, [(g, 2), (g + 2 + i0 % 32, 1)], fun _ l => kvUnpack (l.headD 0) (l[1]?.getD 0)⟩
  | _ => cs.map fun (i0, i1, i2, i3) => ⟨d.dstNib q i0 i1 i2 i3, q, [(d.srcNib i0 i1 i2 i3, q)], fstVal⟩

/-- The format of a STRIPE's source elements, in which PAD_C stands (R208): the block names none. It is one of the formats of the element
size that can meet the weights in a product, and which one is left open (log entry 93). -/
def SParam.inFmt (p : SParam) (d : FDesc) : Nat :=
  let l := if d.esize = 2 then [2, 3] else if p.wfmt = 0 then [0] else if p.wfmt = 4 || p.wfmt = 5 then [4, 5] else [0, 4, 5]
  l[Config.padFormat d.esize p.wfmt % l.length]?.getD 0

/-- Clamp a coordinate into an extent. -/
def clampTo (v : Int) (n : Nat) : Nat := if v < 0 then 0 else if (n : Int) ≤ v then n - 1 else v.toNat

/-- The moves of a STRIPE but for its correction: the A operand and the mask (R209, R210). -/
def stripeBody (d : FDesc) (p : SParam) : List FMove :=
  let q := d.ebits / 4
  let kept := p.kept
  let pix := fun (r c k : Nat) => nibAddr d.src (k * q + 2 * (r * strideAt d.ss 1 + c * strideAt d.ss 0))
  let body := (coords [p.cin, p.outW, p.rows, kept.length]).map fun (c, x, y, t) =>
    let tap := kept[t]?.getD 0
    let r := p.row (p.y0 + y) (tap / p.kw)
    let k := p.col x (tap % p.kw)
    let dst := nibAddr d.dst ((t * p.cin + c) * q + 2 * (y * strideAt d.ds 1 + x * strideAt d.ds 0))
    if inside r p.imgH && inside k p.imgW then ⟨dst, q, [(pix r.toNat k.toNat c, q)], fstVal⟩
    else match p.pad with
    | 0 => ⟨dst, q, [], fun _ _ => 0⟩
    | 1 => ⟨dst, q, [], fun _ _ => p.padC % 2 ^ d.ebits⟩
    | _ => ⟨dst, q, [(pix (clampTo r p.imgH) (clampTo k p.imgW) c, q)], fstVal⟩
  body ++ [⟨2 * p.maskOut, 16, [], fun _ _ => maskOf kept⟩]

/-- A correction value of a STRIPE: the pad constant times the weights of the pruned taps, summed in any order; zero where no tap is
pruned (R211). -/
def corrVal (fmt padFmt pad : Nat) (w : Word) (ws : List Nat) : Nat :=
  if ws.isEmpty then 0 else floatSum w (ws.length + 2) (ws.map fun x => (readFmt padFmt pad).mul (readFmt fmt x))

/-- The correction moves of a STRIPE in constant mode (R211). -/
def stripeCorr (d : FDesc) (p : SParam) : List FMove :=
  let w := fmtBits p.wfmt / 4
  let gone := (List.range (p.kh * p.kw)).filter p.pruned
  if p.pad ≠ 1 then [] else
  (List.range p.cout).map fun o => ⟨2 * (p.corrOut + 4 * o), 8,
    gone.flatMap fun t => (List.range p.cin).map fun c => (2 * (p.wAddr + o * p.wstride) + (t * p.cin + c) * w, w),
    corrVal p.wfmt (p.inFmt d) p.padC⟩

/-- The moves of FRAME: consecutive bytes of the job's output (R212). -/
def frameMoves (d : FDesc) : List FMove :=
  let q := d.ebits / 4
  (coords d.n).zipIdx.map fun ((i0, i1, i2, i3), k) => ⟨d.dstNib q i0 i1 i2 i3, q, [(k * q, q)], fstVal⟩

/-- All moves of a descriptor. -/
def movesOf (d : FDesc) (p : SParam) : List FMove :=
  match d.xform with
  | 4 => stripeBody d p ++ stripeCorr d p
  | 8 => frameMoves d
  | _ => shapeMoves d

/- The checks at the post. -/

/-- An address of one space that a ferry reaches (R187, R194, R199). -/
def State.ferryAddr (s : State) (long : Bool) (fn island space slot a : Nat) : Bool :=
  if space = 1 then long else
  match s.locate fn island (island * 64 + slot) a with
  | .lsram _ _ => !long && decide (slot < s.exposed island)
  | .istore _ _ | .plain _ _ => true
  | _ => false

/-- The completion action names something of the partition (R194, R198). -/
def State.compOk (s : State) (fn action target : Nat) : Bool :=
  match action with
  | 1 => s.inQuota fn target
  | 2 => (s.nthIsland fn (target / 32)).isSome
  | _ => target == 0

/-- An address lies in the plain view's range (R57). -/
def inPlain (a : Nat) : Bool := decide (plainBase ≤ a ∧ a < winBase)

/-- Every address that a descriptor's elements lie at is one that the ferry reaches; the packed rows of KVPACK and KVUNPACK lie in the
plain view (R187, R194, R206, R207). -/
def State.movesOk (s : State) (long : Bool) (fn island : Nat) (d : FDesc) (p : SParam) : Bool :=
  (movesOf d p).all fun m =>
    ((nibBytes m.dst m.n).all fun a => s.ferryAddr long fn island d.dasp d.dcore (a % 2 ^ 64) && (d.xform != 6 || inPlain (a % 2 ^ 64))) &&
    (d.xform == 8 || m.srcs.all fun r => (nibBytes r.1 r.2).all fun a =>
      s.ferryAddr long fn island d.sasp d.score (a % 2 ^ 64) && (d.xform != 7 || inPlain (a % 2 ^ 64)))

/-- The checks of R194 on a descriptor of function fn posted by a thread of an island: its fields, then its base addresses, then every
address of its elements. -/
def State.descOk (s : State) (long : Bool) (fn island : Nat) (d : FDesc) (p : SParam) : Bool :=
  !d.ctlRes && !d.compRes && decide (d.xform ≤ 8 ∧ d.esize ≤ 4 ∧ d.sasp ≤ 2 ∧ d.dasp ≤ 1) &&
  (d.sasp == 2) == (d.xform == 8) && s.compOk fn d.action d.target &&
  s.ferryAddr long fn island d.dasp d.dcore d.dst &&
  (if d.xform = 4 then
    stripeOk d p && s.ferryAddr long fn island d.sasp d.score d.src && s.ferryAddr long fn island d.dasp d.dcore p.maskOut &&
    (p.pad != 1 || (s.ferryAddr long fn island d.sasp d.score p.wAddr && s.ferryAddr long fn island d.dasp d.dcore p.corrOut))
  else
    d.n.all (· != 0) && decide (d.elems * d.ebits ≤ 8 * 2 ^ 30) && xformOk d &&
    (if d.xform = 8 then long && decide (d.src < 65536) && (tabFind s.vid.jobs (fn * 256 + d.src)).isSome && decide (d.src < 256)
     else s.ferryAddr long fn island d.sasp d.score d.src)) &&
  s.movesOk long fn island d p

/-- What a post comes to: a unit window fault, a wait for a free entry, or the state after it (R192, R194). -/
inductive Posted where
  | fault
  | full
  | ok (s : State)

/-- The posting thread's local SRAM holds n bytes at a 64-byte aligned address. -/
def postAddr (a n : Nat) : Bool := a % 64 == 0 && decide (a + n ≤ lsBytes)

/-- Post the descriptor at a local SRAM address on a channel (R192 to R195). -/
def State.postDesc (s : State) (gid ch a : Nat) : Posted :=
  let t := s.th gid
  let fn := (s.ctx t.ctx).elim 0 (·.fn)
  let core := thCore gid
  if !postAddr a 64 then .fault else
  let raw := s.lsRead core a 64
  let d := fdesc raw
  let pa := bits d.xparam 0 48
  if d.xform = 4 && !postAddr pa 64 then .fault else
  let param := if d.xform = 4 then s.lsRead core pa 64 else []
  if !s.descOk (decide (0x8000 ≤ ch)) fn (thIsl gid) d (sparam param) then .fault else
  let c := s.chan ch
  if 16 ≤ c.queue.length then .full else
  .ok (s.setChan ch { c with posted := c.posted + 1, queue := c.queue ++ [
    { seq := c.posted + 1, raw := raw, param := param, fn := fn, ctx := some t.ctx, gid := gid, island := thIsl gid, cmd := none
      long := decide (0x8000 ≤ ch) }] })

/- Sorter jobs. -/

/-- The fields of a sorter job (R261). -/
structure JDesc where
  keySrc : Nat
  valSrc : Nat
  keyDst : Nat
  valDst : Nat
  scratch : Nat
  count : Nat
  k : Nat
  topk : Bool
  kfmt : Nat
  asc : Bool
  gen : Bool
  thEn : Bool
  res : Bool
  action : Nat
  target : Nat
  tag : Nat
  thresh : Nat
  base : Nat
  deriving DecidableEq, Repr

/-- Read a sorter job (R261). -/
def jdesc (l : List Byte) : JDesc :=
  let a := at_ l 0x28 4
  let b := at_ l 0x2C 4
  let c := at_ l 0x30 4
  let m := at_ l 0x34 4
  { keySrc := at_ l 0 8, valSrc := at_ l 8 8, keyDst := at_ l 0x10 8, valDst := at_ l 0x18 8, scratch := at_ l 0x20 8
    count := bits a 0 21, k := bits b 0 13, topk := bitAt c 0, kfmt := bits c 1 2, asc := bitAt c 3, gen := bitAt c 4
    thEn := bitAt c 5, res := bits a 21 11 != 0 || bits b 13 19 != 0 || bits c 6 26 != 0 || bits m 2 2 != 0
    action := bits m 0 2, target := bits m 4 12, tag := bits m 16 16, thresh := at_ l 0x38 4, base := at_ l 0x3C 4 }

/-- A sorter address: an island store of the partition or the plain view, 4-byte aligned (R261). -/
def State.sortAddr (s : State) (fn island a : Nat) : Bool :=
  a % 4 == 0 && (match s.locate fn island 0 a with | .istore _ _ | .plain _ _ => true | _ => false)

/-- The checks on a sorter job (R261). -/
def State.jobOk (s : State) (fn island : Nat) (d : JDesc) : Bool :=
  !d.res && d.kfmt != 3 && decide (1 ≤ d.count ∧ d.count ≤ 1048576) &&
  (if d.topk then decide (1 ≤ d.k ∧ d.k ≤ 4096 ∧ d.k ≤ d.count) else d.k == 0) &&
  s.sortAddr fn island d.keySrc && (d.gen || s.sortAddr fn island d.valSrc) && s.sortAddr fn island d.keyDst &&
  s.sortAddr fn island d.valDst && (d.topk || decide (d.count ≤ 262144) || s.sortAddr fn island d.scratch) &&
  s.compOk fn d.action d.target

/-- Post the sorter job at a local SRAM address (R261, R192). -/
def State.postJob (s : State) (gid k a : Nat) : Posted :=
  let t := s.th gid
  let fn := (s.ctx t.ctx).elim 0 (·.fn)
  if !postAddr a 64 then .fault else
  let raw := s.lsRead (thCore gid) a 64
  if !s.jobOk fn (thIsl gid) (jdesc raw) then .fault else
  let c := s.sorter k
  if 8 ≤ c.queue.length then .full else
  .ok (s.setSorter k { c with posted := c.posted + 1, queue := c.queue ++ [
    { seq := c.posted + 1, raw := raw, fn := fn, ctx := t.ctx, gid := gid }] })

end Sys2Proof.Machine
end

