-- ==== Sys2Proof/Machine/RegMap.lean ====
section
/-! DEFINITION. Where every register lies (09 R349, R350 and the register maps of each chapter), what a read returns, and what
a software write does. -/

namespace Sys2Proof.Machine

open Sys2Proof

/-- The registers of the map from a base offset on, each after the last. -/
def rowFrom (inst : Nat) : Nat → List Reg → List (Nat × Reg × Nat)
  | _, [] => []
  | o, r :: rs => (o, r, inst) :: rowFrom inst (o + r.info.width / 8) rs

/-- Registers of every function (R349). -/
def fnMap (fn : Nat) : List (Nat × Reg × Nat) :=
  rowFrom fn 0x0000 [.FN_ID, .FN_STATUS, .FN_FW_VER, .FN_FW_SLOT, .FN_MBX_OWN] ++
  rowFrom fn 0x0100 [.FN_MBX_VEC0, .FN_MBX_VEC1, .FN_MBX_VEC2, .FN_MBX_VEC3, .FN_EVT_VEC0, .FN_EVT_VEC1, .FN_EVT_VEC2,
    .FN_EVT_VEC3, .FN_INT_COAL] ++
  rowFrom fn 0x2000 [.FN_EVT_BASE, .FN_EVT_PROD_ADDR, .FN_EVT_SIZE, .FN_EVT_CTL, .FN_EVT_PROD, .FN_EVT_ACK, .FN_EVT_DROPPED] ++
  rowFrom fn 0x3000 [.FN_EVT, .FN_EVT_CNT, .FN_DROPPED_WR, .FN_POST_REFUSED, .FN_BAR2_DROPPED] ++
  rowFrom fn 0x3018 [.FN_THR_ACTIVE] ++ rowFrom fn 0x3020 [.FN_THR_TOTAL_US]

/-- The island block of R89 for one island. -/
def islMap (i : Nat) : List (Nat × Reg × Nat) :=
  rowFrom i 0x8100 [.ISL_ID, .ISL_STATUS, .ISL_SLOT_MAP, .ISL_SPARE] ++
  rowFrom i 0x8118 [.ISL_EVT, .ISL_EVT_CNT, .ISL_RES_CORR, .ISL_ARITH_FLT, .ISL_SRAM_CORR, .ISL_SRAM_UNC, .ISL_TLB_HIT,
    .ISL_TLB_MISS, .ISL_DROOP_CFG, .ISL_DROOP_FIRES, .ISL_BUBBLE, .ISL_PDM_CTL, .ISL_PDM0, .ISL_PDM1, .ISL_PDM2, .ISL_PDM3,
    .ISL_PDM4, .ISL_PDM5, .ISL_PDM6, .ISL_PDM7, .ISL_HOTSPOT]

/-- The plain's registers (R182); c is the selected channel. -/
def plnMap (c : Nat) : List (Nat × Reg × Nat) :=
  rowFrom 0 0x8200 [.PLN_STATUS, .PLN_EVT, .PLN_EVT_CNT, .PLN_CFG, .PLN_CE_TOTAL, .PLN_EDC_RETRY, .PLN_UE_TOTAL, .PLN_MAC_FAIL,
    .PLN_RETIRED, .PLN_QUARANTINED, .PLN_BINDABLE, .PLN_EPOCH, .PLN_PATROL_LAST, .PLN_PATROL_POS, .PLN_CH_SEL] ++
  rowFrom c 0x8248 [.PLN_CH_STATUS, .PLN_CH_EDC, .PLN_CH_RETRAIN, .PLN_CH_CE]

/-- The serving registers (R313); f is the selected function. -/
def srvMap (f : Nat) : List (Nat × Reg × Nat) :=
  rowFrom 0 0x8300 [.SRV_STATUS, .SRV_EVT, .SRV_EVT_CNT, .SRV_FN_SEL, .SRV_LIVE] ++
  rowFrom f 0x8314 [.SRV_FN_SHARE, .SRV_FN_LIVE] ++
  rowFrom f 0x8320 [.SRV_FN_ADMIT, .SRV_FN_REJECT, .SRV_FN_TTFT_MISS, .SRV_FN_TBT_MISS, .SRV_FN_ATRISK, .SRV_FN_UNCOMP,
    .SRV_FN_TOKENS, .SRV_FN_STEPS, .SRV_FN_PREEMPT, .SRV_FN_BUCKETS]

/-- The video registers (R345); e is the selected unit. -/
def vidMap (e : Nat) : List (Nat × Reg × Nat) :=
  rowFrom 0 0x8400 [.VID_STATUS, .VID_EVT, .VID_EVT_CNT, .VID_ENG_SEL] ++
  rowFrom e 0x8410 [.VID_ENG_STATUS, .VID_ENG_LOAD, .VID_ENG_PICS, .VID_ENG_CONCEAL, .VID_ENG_RESETS] ++
  rowFrom 0 0x842C [.VID_POOL_FREE]

/-- The power registers (R533); f is the function and d the die that the selectors show. -/
def pwrMap (f d : Nat) : List (Nat × Reg × Nat) :=
  rowFrom 0 0x8500 [.PWR_STATUS, .PWR_EVT, .PWR_EVT_CNT, .PWR_LIMIT, .PWR_DRAW, .PWR_INPUT, .PWR_LEASE, .PWR_LEASE_SEQ, .PWR_SAFE,
    .PWR_COOLANT, .PWR_FLOW, .PWR_FORECAST, .PWR_TJ, .PWR_OP, .PWR_THR_SEL] ++
  ((List.range 12).map fun r => (0x8540 + 8 * r, Reg.PWR_THR_US, f * 16 + r)) ++
  rowFrom 0 0x85A0 [.PWR_THR_LOST, .PWR_DIE_SEL] ++
  rowFrom d 0x85A8 [.PWR_VOFS, .PWR_MARGIN, .PWR_TC0, .PWR_TC1, .PWR_TC2, .PWR_LIFE] ++
  rowFrom 0 0x85C8 [.PWR_TRIPS, .PWR_LEASE_REFUSED]

/-- The reliability, security, twin, pair and timebase registers (R571, R638, R469, R427, R605, R624); c is the selected
cable. -/
def hubMap (c : Nat) : List (Nat × Reg × Nat) :=
  rowFrom 0 0x8600 [.RAS_STATUS, .RAS_EVT, .RAS_EVT_CNT, .RAS_OOS, .RAS_LOG_WR, .RAS_LOG_ACK, .RAS_DROP_TOTAL, .RAS_DROP_SEL,
    .RAS_DROP_CNT, .RAS_HANGS, .RAS_WDOG, .RAS_CTX_RESETS, .RAS_ENG_RESETS, .RAS_PART_RESETS, .RAS_LADDER, .RAS_REPLAY, .RAS_DUMP,
    .RAS_LAST_RESET] ++
  rowFrom 0 0x8650 [.RAS_LAST_RESET_T] ++ rowFrom 0 0x8660 [.RAS_SIG_STATUS, .RAS_SIG_EVT, .RAS_SIG_EVT_CNT] ++
  rowFrom 0 0x8700 [.SEC_STATUS, .SEC_EVT, .SEC_EVT_CNT, .SEC_SVN, .SEC_DEBUG] ++
  rowFrom 0 0x8718 [.SEC_DEBUG_FIRST, .SEC_BOOT_COUNT, .SEC_SESSIONS, .SEC_TRNG_FAIL] ++
  rowFrom 0 0x8800 [.TWN_STATUS, .TWN_EVT, .TWN_EVT_CNT, .TWN_MAPOUT, .TWN_FEC_CORR, .TWN_FEC_UNC, .TWN_CRC_FAIL, .TWN_REPLAY,
    .TWN_RETRAIN, .TWN_HB_MISS, .TWN_CBL_SEL] ++ rowFrom c 0x8830 [.TWN_CBL_STATUS] ++
  rowFrom 0 0x8880 [.TWN_PAIR_STATUS, .TWN_PAIR_EVT, .TWN_PAIR_EVT_CNT, .TWN_LOCK_MV, .TWN_SYNC, .TWN_DIVERGE, .TWN_DIVERGE_WIN,
    .TWN_UNCOMP, .TWN_HOLDER_CHG, .TWN_HOLD_MAX, .TWN_RESYNC_BYTES] ++
  rowFrom 0 0x8900 [.TIM_STATUS, .TIM_EVT, .TIM_EVT_CNT, .TIM_CLK_LOCK, .TIM_NOW, .TIM_PTM_OFS, .TIM_PAIR_OFS, .TIM_PPS_ERR,
    .TIM_SLEW, .TIM_STEP, .TIM_VALLEY_CNT, .TIM_VALLEY_LAST]

/-- SRV_FN_SEL, VID_ENG_SEL, PWR_THR_SEL and PWR_DIE_SEL, with their out-of-range values (R313, R345, R533). -/
def selOr (v lo hi dflt : Nat) : Nat := if lo ≤ v ∧ v ≤ hi then v else dflt

/-- Every register of a function's BAR0 with its offset and copy; the operator windows are PF0's (R350). -/
def State.regMap (s : State) (fn : Nat) : List (Nat × Reg × Nat) :=
  if fn ≠ 0 then fnMap fn else
  fnMap 0 ++ [(0x8000, .ISL_WIN_SEL, 0)] ++ islMap (s.rdF .ISL_WIN_SEL 0 0 6) ++ plnMap (s.rdF .PLN_CH_SEL 0 0 5) ++
  srvMap (selOr (s.rdF .SRV_FN_SEL 0 0 5) 1 16 1) ++ vidMap (selOr (s.rdF .VID_ENG_SEL 0 0 4) 0 13 0) ++
  pwrMap (selOr (s.rdF .PWR_THR_SEL 0 0 5) 0 16 0) (selOr (s.rdF .PWR_DIE_SEL 0 0 3) 0 5 0) ++ hubMap (s.rdF .TWN_CBL_SEL 0 0 1)

/-- The register that holds a byte of a function's BAR0: its offset, name and copy. -/
def State.regAt (s : State) (fn off : Nat) : Option (Nat × Reg × Nat) :=
  (s.regMap fn).find? fun e => decide (e.1 ≤ off ∧ off < e.1 + e.2.1.info.width / 8)

/-- ms left of the lease in force. -/
def State.leaseLeft (s : State) : Nat := if s.pwr.leased then (s.pwr.leaseEnd - s.time) / 1000000 else 0

/-- The highest duty in force on a function's islands, and whether droop bubbles are active on any (R508). -/
def State.phDuty (s : State) (fn : Nat) : Nat :=
  ((s.islandsOf fn).foldl (fun m i => max m (tabGet s.pwr.inForce 0 i)) 0) +
  128 * b2n ((s.islandsOf fn).any fun i => s.rdF .ISL_BUBBLE i 7 1 = 1)

/-- What an LED shows (R643). -/
inductive LedPattern where
  | off | hz2 | pulse100msEvery5s | hz1 | hz4 | steady
  deriving DecidableEq, Repr

/-- A context is active, a stream is open, or a request is live on a VF (R643). -/
def State.workOn (s : State) : Bool :=
  s.fab.ctxs.any (fun e => e.2.active && decide (1 ≤ e.2.fn ∧ e.2.fn ≤ 16)) || !s.vid.streams.isEmpty || !s.srv.reqs.isEmpty

/-- The green LED; the higher row of R643 wins. -/
def State.greenLed (s : State) : LedPattern :=
  if !s.brd.powered || s.fnState 0 == fnBooting || s.sec.recovery || s.fnState 0 == fnOos then .off
  else if !s.part.scrubs.isEmpty then .hz2
  else if s.rdF .TIM_STATUS 0 8 1 = 1 then .pulse100msEvery5s
  else if s.workOn then .hz1 else .steady

/-- The amber LED; the higher row of R643 wins. -/
def State.amberLed (s : State) : LedPattern :=
  if !s.brd.powered then .off
  else if s.brd.identify ≠ 0 then .hz4
  else if s.rdN .TWN_MAPOUT 0 != 0 || s.rdF .PLN_STATUS 0 6 1 == 1 || s.pair.fault || s.rdN .RAS_SIG_STATUS 0 != 0 || s.pwr.exhausted ||
    s.pwr.lifeWarn || s.fnState 0 == fnOos || s.sec.recovery || s.brd.holdupLow then .steady
  else .off

/-- The blue LED (R643). -/
def State.blueLed (s : State) : LedPattern := if s.brd.powered && (s.pair.drained || s.fnState 0 == fnOos) then .steady else .off

/-- LEDs as bits green, amber, blue, set while the LED shows any pattern (R634, R643). -/
def State.leds (s : State) : Nat :=
  b2n (s.greenLed != .off) + 2 * b2n (s.amberLed != .off) + 4 * b2n (s.blueLed != .off)

/-- A FRAME descriptor of an ended job of a stream is still queued (R344). -/
def State.frameLeft (s : State) (k : Nat) : Bool := s.fry.chans.any fun e => e.2.queue.any fun x => x.ended == some k

/-- Free slots of the picture pool (R328, R344). -/
def State.poolFree (s : State) : Nat :=
  512 - (s.vid.streams.map fun e => e.2.slots.length).sum - ((s.vid.closed.filter fun e => s.frameLeft e.1).map (·.2)).sum

/-- A video unit has work: an engine whose stream has a unit that nothing holds back, which it takes at once, the JPEG decoder with an image,
or the converter with a strip to make for a FRAME descriptor that waits (R343, R346, R348; log entry 108). -/
def State.videoBusy (s : State) (e : Nat) : Bool :=
  if e < 12 then s.vid.streams.any fun x => x.2.eng == e && !x.2.queue.isEmpty && x.2.closing.isNone && x.2.waiting.isEmpty
  else if e = 12 then !s.vid.jpeg.isEmpty
  else s.vid.jobs.any fun x => x.2.queue.any (fun p => decide (p.made < x.2.outH)) &&
    s.fry.chans.any fun c => c.2.queue.any fun d =>
      d.fn == x.1 / 256 && d.ended.isNone && (fdesc d.raw).xform == 8 && (fdesc d.raw).src == x.1 % 256

/-- What a register reads as now: the file's value, or the view of other state that its description names. -/
def State.view (s : State) (r : Reg) (i : Nat) : Word :=
  match r with
  | .FN_MBX_OWN => w64 (maskOf ((List.range 16).filter fun n => s.owned i n) +
      65536 * maskOf ((List.range 16).filter fun n => bitAt (s.mbxW i n 63) 30))
  | .SRV_STATUS => setFld (s.rd r i) 2 5 (min 31 s.srv.models.length)
  | .SRV_LIVE => w64 s.srv.reqs.length
  | .SRV_FN_SHARE => w64 (s.prt i).share
  | .SRV_FN_LIVE => w64 (s.live i).length
  | .SRV_FN_BUCKETS => w64 (maskOf ((s.live i).map (·.2.bucket)))
  | .VID_STATUS =>
    if fld (s.rd r i) 0 2 = 1 then
      setFld (setFld (setFld (setFld (s.rd r i) 8 8 (maskOf ((List.range 8).filter s.videoBusy)))
        16 4 (maskOf ((List.range 4).filter fun k => s.videoBusy (8 + k)))) 20 1 (b2n (s.videoBusy 12))) 21 1 (b2n (s.videoBusy 13))
    else s.rd r i
  | .VID_ENG_STATUS =>
    let n := if i < 12 then (s.vid.streams.filter fun e => e.2.eng == i).length
      else if i = 12 then (s.vid.jpeg.length) else s.vid.jobs.length
    setFld (if fld (s.rd r i) 0 2 = 0 && s.videoBusy i then setFld (s.rd r i) 0 2 1 else s.rd r i) 16 5 (min 16 n)
  | .VID_ENG_LOAD => w64 (((s.vid.streams.filter fun e => e.2.eng == i).map (·.2.cost)).sum)
  | .VID_POOL_FREE => w64 s.poolFree
  | .PWR_LEASE => w64 (s.pwr.leaseW % 65536 * b2n s.pwr.leased + 65536 * min 65535 s.leaseLeft)
  | .PWR_SB_LEASE | .PWR_SB_COOLANT => 0
  | .PWR_SB_LSTAT => setFld (s.rd r i) 32 16 s.leaseLeft
  | .RAS_DROP_CNT => w64 (min (tabGet s.ras.drops 0 (s.rdF .RAS_DROP_SEL 0 0 8)) (2 ^ 32 - 1))
  | .RAS_LADDER =>
    let cnt := fun (rule scope now : Nat) => (within now (s.policy rule).2 (tabGet s.ras.counts [] (ruleKey rule scope))).length
    let two := (List.range 17).foldl (fun m f => max m (cnt 2 f s.time)) 0
    w64 (min 255 (cnt 3 0 s.powTime) + 256 * min 255 (cnt 4 0 s.powTime) + 65536 * min 255 two)
  | .RAS_DUMP => w64 (((List.range 4).map fun k =>
      let d := tabGet s.ras.dumps {} k
      (d.st + 4 * b2n d.chip + 8 * b2n d.partialDump) * 256 ^ k).sum)
  | .SEC_SESSIONS => w64 (s.sec.sessions.filter (·.done)).length
  | .TIM_NOW => w64 s.time
  | .RAS_SB_STATE => w64 (s.fnState 0 + 8 * s.role + 32 * s.leds + 256 * s.rdN .RAS_OOS 0)
  | .RAS_SB_SIGFLT => s.rd .RAS_SIG_STATUS 0
  | .PWR_PH_PHASE => w64 (tabGet s.pwr.phase 0 i)
  | .PWR_PH_TABLE => w64 (((tabGet s.pwr.table [] i).zipIdx.map fun e => e.1 % 8 * 16 ^ e.2).sum)
  | .PWR_PH_OPNOW => w64 (((List.range 4).map fun d =>
      (if (s.islandsOf i).any (fun x => islDie x == d) then tabGet s.pwr.granted 5 d else 15) * 16 ^ d).sum)
  | .PWR_PH_RAMP => w64 (s.prt i).ramp
  | .PWR_PH_DUTY => w64 (s.phDuty i)
  | .PWR_PH_THR => w64 (s.rdF .FN_THR_ACTIVE i 0 12)
  | _ => s.rd r i

/-- A byte of a function's BAR0 (R13, R353). -/
def State.bar0Byte (s : State) (fn off : Nat) : Byte :=
  if 0x1000 ≤ off ∧ off < 0x2000 then BitVec.ofNat 8 (s.mbxW fn ((off - 0x1000) / 256) (off % 256 / 4) / 256 ^ (off % 4))
  else match s.regAt fn off with
  | some (b, r, i) => BitVec.ofNat 8 ((s.view r i).toNat / 256 ^ (off - b))
  | none => 0

/- Software writes. -/

/-- READY as the first record of a ring enabled while the firmware runs, then EVT_OVERRUN where events were dropped
(R368, R372). -/
def State.readyEvt (s : State) (fn : Nat) : State :=
  if s.ringRoom fn = 0 then s.dropEvt fn else
  if !s.hostOk fn then (s.logHostWrite fn).dropEvt fn else
  (s.ringWrite fn 1 s.time [s.rdN .FN_FW_VER fn, s.rdN .FN_FW_SLOT fn, s.rdF .RAS_LAST_RESET 0 0 3, s.rdN .SEC_BOOT_COUNT 0]).flushOverrun fn

/-- A write of FN_EVT_CTL (R368). -/
def State.ringCtl (s : State) (fn v : Nat) : State :=
  let was := s.rdF .FN_EVT_CTL fn 0 1
  let t := s.wrN .FN_EVT_CTL fn (v % 2)
  if was = 0 ∧ v % 2 = 1 then
    let t := (t.wrN .FN_EVT_PROD fn 0).wrN .FN_EVT_ACK fn 0
    if t.fnState fn = fnBooting then t else t.readyEvt fn
  else t

/-- A write of FN_EVT_BASE, FN_EVT_PROD_ADDR or FN_EVT_SIZE: only while the ring is disabled, and aligned (R368). -/
def State.ringCfg (s : State) (fn : Nat) (r : Reg) (v : Nat) : State :=
  if s.rdF .FN_EVT_CTL fn 0 1 = 1 then s.dropWr fn
  else match r with
  | .FN_EVT_BASE => if v % 4096 = 0 then s.wrN r fn v else s.dropWr fn
  | .FN_EVT_PROD_ADDR => if v % 8 = 0 then s.wrN r fn v else s.dropWr fn
  | _ => s.wrN r fn (v % 32)

/-- A write of FN_EVT_ACK; the EVT_OVERRUN record that is due finds the room it frees (R368). -/
def State.ringAck (s : State) (fn v : Nat) : State :=
  if s.rdN .FN_EVT_ACK fn ≤ v ∧ v ≤ s.rdN .FN_EVT_PROD fn then (s.wrN .FN_EVT_ACK fn v).flushOverrun fn else s.dropWr fn

/-- A write of a vector map: a byte that names no vector of the function is kept, and the write is counted (R370). -/
def State.vecWrite (s : State) (fn : Nat) (r : Reg) (v : Nat) : State :=
  let old := s.rdN r fn
  let byte := fun b => bits v (8 * b) 8
  let ok := fun b => decide (byte b < vecCount fn)
  let new := ((List.range 4).map fun b => (if ok b then byte b else bits old (8 * b) 8) * 256 ^ b).sum
  let t := s.wrN r fn new
  if (List.range 4).all ok then t else t.dropWr fn

/-- The result registers of the path-delay monitors. -/
def pdmReg (k : Nat) : Reg :=
  match k with
  | 0 => .ISL_PDM0 | 1 => .ISL_PDM1 | 2 => .ISL_PDM2 | 3 => .ISL_PDM3 | 4 => .ISL_PDM4 | 5 => .ISL_PDM5 | 6 => .ISL_PDM6
  | _ => .ISL_PDM7

/-- VALID of an island's path-delay results clears (R95). -/
def State.pdmClear (s : State) (i : Nat) : State := (List.range 8).foldl (fun t k => t.wrF (pdmReg k) i 15 1 0) s

/-- Start a path-delay measurement, unless one runs (R89, R95). -/
def State.pdmStart (s : State) (i : Nat) : State :=
  if s.rdF .ISL_PDM_CTL i 0 1 = 1 then s else (s.pdmClear i).wrF .ISL_PDM_CTL i 0 1 1

/-- A software write of one register of a function's BAR0 (R16, and the rules of the registers with effects of their own). A
scrubbing VF drops it (R385). -/
def State.swWrite (s : State) (fn : Nat) (r : Reg) (i v : Nat) : State :=
  if s.fnState fn = fnScrubbing then s.dropWr fn else
  match r with
  | .FN_EVT_CTL => s.ringCtl fn v
  | .FN_EVT_BASE | .FN_EVT_PROD_ADDR | .FN_EVT_SIZE => s.ringCfg fn r v
  | .FN_EVT_ACK => s.ringAck fn v
  | .FN_MBX_VEC0 | .FN_MBX_VEC1 | .FN_MBX_VEC2 | .FN_MBX_VEC3 | .FN_EVT_VEC0 | .FN_EVT_VEC1 | .FN_EVT_VEC2 | .FN_EVT_VEC3 =>
    s.vecWrite fn r v
  | .ISL_PDM_CTL => if v % 2 = 1 then s.pdmStart i else s
  | _ => if r.info.w1c ≠ 0 then s.w1cWrite r i (w64 v) 0 else s.wr r i (accessWrite r.info (s.rd r i) (w64 v))

/-- The key of a read latch or a held low half (R14). -/
def halfKey (fn off : Nat) : Nat := fn * 65536 + off

/-- Discard the held low half of a register (R14). -/
def State.unhold (s : State) (fn off : Nat) : State :=
  { s with mbx := { s.mbx with heldLow := tabDel s.mbx.heldLow (halfKey fn off) } }

end Sys2Proof.Machine
end

