-- ==== Sys2Proof/Machine/PowerOps.lean ====
section
/-! DEFINITION. Throttle reasons and their records (14 R521 to R526), duty, operating points and phases (R500 to R508). -/

namespace Sys2Proof.Machine

open Sys2Proof

/-- Reason codes of R521. -/
abbrev thrBudget : Nat := 1
abbrev thrModuleCap : Nat := 2
abbrev thrCurrent : Nat := 3
abbrev thrJunction : Nat := 4
abbrev thrFlow : Nat := 5
abbrev thrInlet : Nat := 6
abbrev thrSupply : Nat := 7
abbrev thrRamp : Nat := 8
abbrev thrMargin : Nat := 9
abbrev thrMemTemp : Nat := 10
abbrev thrPairHold : Nat := 11
abbrev thrOperator : Nat := 12

/-- The islands whose reasons count for a function; all of them for the module (function 0). -/
def State.thrIslands (s : State) (fn : Nat) : List Nat := if fn = 0 then List.range 64 else s.islandsOf fn

/-- A reason is in force on an island. -/
def State.reasonOn (s : State) (i r : Nat) : Bool := bitAt (tabGet s.pwr.reasons 0 i) (r - 1)

/-- The highest duty in force on a function's islands. -/
def State.fnDuty (s : State) (fn : Nat) : Nat := (s.thrIslands fn).foldl (fun m i => max m (tabGet s.pwr.inForce 0 i)) 0

/-- The slowest granted point on a function's dies. -/
def State.fnOp (s : State) (fn : Nat) : Nat := (s.thrIslands fn).foldl (fun m i => max m (tabGet s.pwr.granted 5 (islDie i))) 0

/-- Write an entry of the throttle ring; the oldest of 1,024 is overwritten (R524). -/
def State.thrEntry (s : State) (fn r : Nat) (fin : Bool) (isls : Nat) : State :=
  let e : ThrEnt := { time := s.time, fn := fn, reason := r, fin := fin, duty := s.fnDuty fn, op := s.fnOp fn, limit := s.pwr.limit,
                      draw := s.rdF .PWR_DRAW 0 0 16, islands := isls }
  let full := decide (1024 ≤ s.pwr.ring.length)
  let t := { s with pwr := { s.pwr with ring := (if full then s.pwr.ring.drop 1 else s.pwr.ring) ++ [e] } }
  if full then t.count .PWR_THR_LOST 0 1 else t

/-- A THROTTLE event to PF0 and the owner, at most once per function in 10 ms (R526). -/
def State.thrEvent (s : State) (fn : Nat) : State :=
  if (match tabFind s.pwr.lastThr fn with | some x => decide (s.time < x + 10000000) | none => false) then s else
  let w := [s.rdF .FN_THR_ACTIVE fn 0 12, s.fnDuty fn, s.fnOp fn]
  ({ s with pwr := { s.pwr with lastThr := tabSet s.pwr.lastThr fn s.time } }.post 0 0x0501 w).postOwner fn 0x0501 w

/-- The key of a reason on a function. -/
def thrKey (fn r : Nat) : Nat := fn * 16 + r

/-- Bring a function's reason in line with its islands: FN_THR_ACTIVE, and an entry where it comes into force. One that has been
out of force for less than 100 µs has written no END entry and continues (R522, R524). -/
def State.thrSync (s : State) (fn r : Nat) : State :=
  let on := (s.thrIslands fn).filter fun i => s.reasonOn i r
  let s := if on.isEmpty then s else { s with pwr := { s.pwr with
    thrMask := tabUpd s.pwr.thrMask 0 (thrKey fn r) fun m => Nat.lor m (maskOf on) } }
  let was := s.rdF .FN_THR_ACTIVE fn (r - 1) 1 = 1
  if !on.isEmpty && !was then
    let t := (s.wrF .FN_THR_ACTIVE fn (r - 1) 1 1).hwSet .FN_EVT fn 128
    if (tabFind t.pwr.outSince (thrKey fn r)).isSome then
      { t with pwr := { t.pwr with outSince := tabDel t.pwr.outSince (thrKey fn r) } }
    else (t.thrEntry fn r false (maskOf on)).thrEvent fn
  else if on.isEmpty && was then
    let t := s.wrF .FN_THR_ACTIVE fn (r - 1) 1 0
    { t with pwr := { t.pwr with outSince := tabSet t.pwr.outSince (thrKey fn r) t.time } }
  else s

/-- The function whose ring entries carry an island's reasons: its owner, or the module. -/
def State.thrFn (s : State) (i : Nat) : Nat := if s.islOwner i ≤ 16 then s.islOwner i else 0

/-- A reason comes into force on an island, or goes out of force (R522). -/
def State.setReason (s : State) (i r : Nat) (on : Bool) : State :=
  if s.reasonOn i r = on then s else
  let m := tabGet s.pwr.reasons 0 i
  let t := { s with pwr := { s.pwr with reasons := tabSet s.pwr.reasons i (if on then m + 2 ^ (r - 1) else m - 2 ^ (r - 1)) } }
  let t := t.thrSync (t.thrFn i) r
  if t.thrFn i = 0 then t else
  let t := if on then t.hwSet .FN_EVT 0 128 else t
  t.wrF .FN_THR_ACTIVE 0 (r - 1) 1 (b2n ((List.range 64).any fun j => t.reasonOn j r))

/-- A reason on every island of a list. -/
def State.setReasons (s : State) (is : List Nat) (r : Nat) (on : Bool) : State := is.foldl (fun t i => t.setReason i r on) s

/-- A unit of the island waits for admission. -/
def State.rampWaits (s : State) (i : Nat) : Bool := s.fab.tens.any fun e => e.1 / 64 == i && e.2.waiting

/-- RAMP comes into force on an island when a unit of it begins to wait for admission; it stays for the microsecond, at whose end
DUTY_TICK looks again (R238, R522). -/
def State.syncRamp (s : State) (i : Nat) : State := if s.rampWaits i then s.setReason i thrRamp true else s

/-- The bound islands. -/
def State.boundIslands (s : State) : List Nat :=
  (List.range 64).filter fun i => decide (1 ≤ s.islOwner i ∧ s.islOwner i ≤ 16)

/-- The duty in force on an island (R500, R89). -/
def State.setDuty (s : State) (i d : Nat) : State :=
  { s.accrueSteps with pwr := { s.pwr with inForce := tabSet s.pwr.inForce i d } }.wrF .ISL_BUBBLE i 0 7 d

/-- The granted point of a die: its clock switches, and its islands insert bubbles meanwhile (R503, R504, R89). -/
def State.setOp (s : State) (d op : Nat) : State :=
  let t := { s.accrueSteps with pwr := { s.pwr with granted := tabSet s.pwr.granted d op } }.wrF .PWR_OP 0 (4 * d) 4 op
  (List.range 16).foldl (fun t k =>
    let i := 16 * d + k
    (t.updIsl i fun x => { x with switchAt := some (s.islCycle i) }).wrF .ISL_BUBBLE i 8 3 op) t

/-- The point that phase k of a partition prefers; OP0 for every phase after bind (R502). -/
def State.phasePoint (s : State) (fn k : Nat) : Nat := ((tabGet s.pwr.table [] fn)[k]?).getD 0

/-- The fastest point that a current phase prefers on a die; OP5 with no active context (R503). -/
def State.wantedOp (s : State) (d : Nat) : Nat :=
  let fns := s.fab.ctxs.filterMap fun e =>
    if !e.2.done && e.2.islands.any (fun i => islDie i == d) then some e.2.fn else none
  fns.foldl (fun m f => min m (s.phasePoint f (tabGet s.pwr.phase 0 f))) 5

/-- The requested point of a die: a retired OP0 slows it to OP1 (R503). -/
def State.requestedOp (s : State) (d : Nat) : Nat :=
  if s.pwr.retired.contains d then max 1 (s.wantedOp d) else s.wantedOp d

/-- MARGIN is in force while margin has lowered the plain data rate, on every bound island, and while a retired OP0 slows a die
(R503, R152, R522). -/
def State.syncMargin (s : State) : State :=
  let plain := s.pln.rate != 0 && !s.pln.tempRate
  s.boundIslands.foldl (fun t i => t.setReason i thrMargin (plain ||
    (s.pwr.retired.contains (islDie i) && s.wantedOp (islDie i) == 0))) s

/-- The dies on which a function holds islands. -/
def State.diesOf (s : State) (fn : Nat) : List Nat := (List.range 4).filter fun d => (s.islandsOf fn).any fun i => islDie i == d

/-- A write of yphase: the partition's phase; a phase whose point is already granted completes at once (R70, R502, R504). -/
def State.setPhase (s : State) (fn v : Nat) : State :=
  let t := { s with pwr := { s.pwr with phase := tabSet s.pwr.phase fn (v % 8) } }
  if (t.diesOf fn).all fun d => tabGet t.pwr.granted 5 d == t.requestedOp d then t.wrN .PWR_PH_SWITCH_T fn t.time else t

end Sys2Proof.Machine
end

