-- ==== Sys2Proof/Machine/Tick.lean ====
section
/-! DEFINITION. What passes with time when no command waits (R607, R69). -/

namespace Sys2Proof.Machine

/-- ISL_CLK in tenths of a cycle per nanosecond at an operating point (R501). -/
def opTenths (op : Nat) : Nat :=
  match op with
  | 0 => 22 | 1 => 20 | 2 => 18 | 3 => 16 | 4 => 12 | _ => 8

/-- ISL_CLK of a die runs: outside the valley state, with its PLL locked (R607, R610). -/
def State.islClkOn (s : State) (d : Nat) : Bool := s.rdF .TIM_STATUS 0 8 1 = 0 && bitAt (s.rdN .TIM_CLK_LOCK 0) (3 * d)

/- Bubbles. -/

/-- The k-th of the 64 cycles that cycle c falls among is a bubble at a duty of d/64 (R500): d of them are, in a free order (log entry
83). -/
def dutyBubble (i d c : Nat) : Bool :=
  if d = 0 then false else if 64 ≤ d then true else
  let base := c - c % 64
  let key := fun k => Config.bubbleOrder (i * 2 ^ 64 + base + k)
  let mine := key (c % 64)
  decide (((List.range 64).filter fun k => decide (key k < mine ∨ (key k = mine ∧ k < c % 64))).length < d)

/-- Every second cycle of the 64 after a droop crossing is a bubble (R87). -/
def droopBubble (at_ : Option Nat) (c : Nat) : Bool :=
  match at_ with
  | some a => decide (a ≤ c ∧ c < a + 64) && (c - a) % 2 == 0
  | none => false

/-- The 64 cycles of a clock switch are bubbles (R504). -/
def switchBubble (at_ : Option Nat) (c : Nat) : Bool :=
  match at_ with
  | some a => decide (a < c ∧ c ≤ a + 64)
  | none => false

/-- Cycle c of an island is a bubble: the duty in force, the droop detector or a clock switch calls for one (R88, R504). -/
def State.bubbleAt (s : State) (i c : Nat) : Bool :=
  dutyBubble i (tabGet s.pwr.inForce 0 i) c || droopBubble (s.isl i).droopAt c || switchBubble (s.isl i).switchAt c

/-- The cycle CSR of an island at the last tick: the cycles after it up to now are those that passed in this one. -/
def State.cycleBefore (s : State) (i : Nat) : Nat :=
  (tabGet s.fab.dieCyc 0 (islDie i) - opTenths (tabGet s.pwr.granted 5 (islDie i))) / 10 - (s.isl i).cyc0

/-- The first cycle from lo up to now that is no bubble. -/
def State.openCycle (s : State) (i lo : Nat) : Option Nat :=
  ((List.range (s.islCycle i + 1 - lo)).map (lo + ·)).find? fun c => !s.bubbleAt i c

/-- The cycle in which a core issues next: after its last one, no bubble, and not yet to come (R47, R51). -/
def State.slotCycle (s : State) (core : Nat) : Option Nat :=
  let i := core / 64
  s.openCycle i (match tabFind s.fab.used core with
    | some u => max (u + 1) (s.cycleBefore i)
    | none => s.cycleBefore i)

/-- An island has a cycle without a bubble now (R32, R51). -/
def State.hasCycle (s : State) (i : Nat) : Bool := (s.openCycle i (s.cycleBefore i)).isSome

/-- Cycles of an island that were no bubbles, since its last engine reset: the vector and tensor units advance in them (R51). -/
def State.activeCycle (s : State) (i : Nat) : Nat := s.islCycle i - (s.isl i).bubbles

/-- Count the bubbles among the cycles after cycle lo (R51). -/
def State.countBubbles (s : State) (i lo : Nat) : State :=
  let n := ((List.range (s.islCycle i - lo)).filter fun k => s.bubbleAt i (lo + 1 + k)).length
  if n = 0 then s else s.updIsl i fun x => { x with bubbles := x.bubbles + n }

end Sys2Proof.Machine
end

