-- ==== Sys2Proof/Machine/ThreadOps.lean ====
section
/-! DEFINITION. What a thread's instruction meets: readiness (02 R47 to R54), exceptions (R71), addresses (R57 to R62), unit
windows, and loads and stores with their holds (R75, R135, R167, R230). -/

namespace Sys2Proof.Machine

open Sys2Proof

/- Registers of a thread. Keys of registers with data outstanding: x n is n, f n is 32 + n, v n is 64 + n. -/

/-- An integer register. -/
def Thread.xr (t : Thread) (n : Nat) : Word := if n = 0 then 0 else tabGet t.x 0 n

/-- A later instruction writes a register: the loads in flight to it no longer write it. -/
def Thread.killLoads (t : Thread) (p : PLoad → Bool) : Thread :=
  if t.loads.any p then { t with loads := t.loads.map fun l => if p l then { l with dead := true } else l } else t

/-- The load writes x register n. -/
def PLoad.toX (n : Nat) (l : PLoad) : Bool := match l.kind with | .int _ _ => l.rd == n | _ => false

/-- The load writes f register n. -/
def PLoad.toF (n : Nat) (l : PLoad) : Bool := match l.kind with | .fp => l.rd == n | _ => false

/-- Write an integer register; x0 stays 0. -/
def Thread.setX (t : Thread) (n : Nat) (v : Word) : Thread := if n = 0 then t else { t with x := tabSet t.x n v }

/-- A floating-point register. -/
def Thread.fr (t : Thread) (n : Nat) : Nat := (tabGet t.f 0 n).toNat

/-- Write a floating-point register. -/
def Thread.setF (t : Thread) (n v : Nat) : Thread := { t with f := tabSet t.f n (w32 v) }

/-- An instruction writes an integer register at its issue. -/
def Thread.putX (t : Thread) (n : Nat) (v : Word) : Thread := (t.killLoads (PLoad.toX n)).setX n v

/-- An instruction writes a floating-point register at its issue. -/
def Thread.putF (t : Thread) (n v : Nat) : Thread := (t.killLoads (PLoad.toF n)).setF n v

/-- A vector register. -/
def Thread.vr (t : Thread) (n : Nat) : BitVec 512 := tabGet t.v 0 n

/-- Write a vector register. -/
def Thread.setV (t : Thread) (n : Nat) (v : BitVec 512) : Thread := { t with v := tabSet t.v n v }

/-- The registers that a load in flight will write. -/
def PLoad.keys (l : PLoad) : List Nat :=
  if l.dead then [] else
  match l.kind with
  | .int _ _ => [l.rd]
  | .fp => [32 + l.rd]
  | .vec eew es => (es.map fun e => 64 + l.rd + e.1 * eew / 512).eraseDups

/-- The Xyt entries of a thread that have not completed (R97). -/
def State.xytOf (s : State) (g : Nat) : List TEntry :=
  let u := s.ten (thCore g)
  (u.queue ++ u.arr.toList ++ u.epi.toList).filter fun e => e.gid == g

/-- Every queued Xyt instruction of a thread has completed. -/
def State.xytIdle (s : State) (g : Nat) : Bool := (s.xytOf g).isEmpty

/-- The vector registers that queued TREDs of a thread will write (R132). -/
def State.tredKeys (s : State) (g : Nat) : List Nat :=
  (s.xytOf g).filterMap fun e => match e.op with | .tred _ _ vd => some (64 + vd) | _ => none

/-- No register of a list waits for data (R48, R135). -/
def State.regsFree (s : State) (g : Nat) (ks : List Nat) : Bool :=
  ks.all fun k => !((s.th g).loads.any fun l => l.keys.contains k) && !(s.tredKeys g).contains k

/-- A thread's function. -/
def State.thFn (s : State) (g : Nat) : Nat := ((s.ctx (s.th g).ctx).map (·.fn)).getD 0

/-- A thread's context runs (R48, R72). -/
def State.ctxRuns (s : State) (g : Nat) : Bool :=
  match s.ctx (s.th g).ctx with
  | some x => !x.done && x.why.isNone
  | none => false

/-- A stall that the thread's next issue must wait for. -/
def Stall.over (st : Stall) (cyc : Nat) : Bool :=
  match st with
  | .none => true
  | .icache u => decide (u ≤ cyc)
  | _ => false

/-- A thread is ready for an instruction that reads these registers, but for the unit it needs, and its core has a cycle for it that
is no bubble (R47, R48). -/
def State.ready (s : State) (g : Nat) (ks : List Nat) : Bool :=
  let t := s.th g
  t.st == .run && !t.exiting && s.ctxRuns g && t.stall.over (s.islCycle (thIsl g)) && t.store.isNone &&
  s.islClkOn (islDie (thIsl g)) &&
  (match s.slotCycle (thCore g) with
   | none => false
   | some c => match t.lastIssue with | none => true | some k => decide (k + 4 ≤ c)) && s.regsFree g ks

/-- Note that a thread has used its core's issue slot (R47, R48). -/
def State.slotUsed (s : State) (g : Nat) : State :=
  let c := (s.slotCycle (thCore g)).getD (s.islCycle (thIsl g))
  let t := s.updTh g fun t => { t with lastIssue := some c, stall := .none }
  { t with fab := { t.fab with rr := tabSet t.fab.rr (thCore g) (g % 8), used := tabSet t.fab.used (thCore g) c } }

/-- Retire an instruction of len bytes: the pc advances, instret counts. -/
def State.retired (s : State) (g len : Nat) : State :=
  (s.slotUsed g).updTh g fun t => { t with pc := t.pc + w64 len, instret := t.instret + 1 }

/-- An instruction of the thread before one with this order number has not completed: a load in flight, a plain store, or queued Xyt work
(R71). -/
def State.earlier (s : State) (g ord : Nat) : Bool :=
  let t := s.th g
  t.loads.any (fun l => decide (l.ord < ord)) || t.store.any (fun p => decide (p.ord < ord)) ||
  (s.xytOf g).any fun e => decide (e.ord < ord)

/-- A thread that enters the monitor waits while a handover window is open (R487). -/
def State.monHeld (s : State) : Bool := s.upd.stage == .window

/-- A fault of the instruction with this order number waits for earlier ones, and for the monitor (R71, R487). -/
def State.faultWaits (s : State) (g ord : Nat) : Bool := s.earlier g ord || s.monHeld

/-- Raise an exception at issue: every earlier instruction of the thread completes first (R71). -/
def State.except (s : State) (g cause addr : Nat) : State :=
  if (s.th g).loads.isEmpty && s.xytIdle g && !s.monHeld then s.throwAt g cause addr (s.th g).pc else s

/-- Raise an exception whose faulting address the spec does not give: a free value (log entry 3). -/
def State.exceptFree (s : State) (g cause : Nat) : State :=
  if (s.th g).loads.isEmpty && s.xytIdle g && !s.monHeld then
    let (w, t) := s.free
    t.throwAt g cause w.toNat (t.th g).pc
  else s

/-- Instruction fetch of a byte is permitted: own island store range or local SRAM (R45). -/
def fetchOk (a : Nat) : Bool := decide (a < lsBytes) || decide (0x0100_0000 ≤ a ∧ a < 0x0140_0000)

/-- Issue an instruction of a ready thread: a fetch outside the two ranges faults, and otherwise f gives its effect. -/
def State.issue (s : State) (g len : Nat) (ks : List Nat) (f : State → State) : State :=
  if !s.ready g ks then s
  else
    let pc := (s.th g).pc.toNat
    if !fetchOk pc then s.except g 1 pc
    else if !fetchOk (pc + len - 1) then s.except g 1 (pc + len - 1) else f s

/-- Write an integer register and retire. -/
def State.retireX (s : State) (g len rd : Nat) (v : Word) : State := (s.updTh g (·.putX rd v)).retired g len

/- Unit windows. -/

/-- What a unit window offset names (R60). -/
inductive WinRef where
  | ferry (ch reg : Nat)
  | pass (p reg : Nat)
  | fence (k : Nat)
  | quota
  | portRest
  | phase (reg : Nat)
  | claim (island k reg : Nat)
  | sorter (k reg : Nat)
  | unbound
  deriving DecidableEq, Repr

/-- The unit behind a window offset for a thread of an island of function fn (R60, R189, R221). -/
def State.winRef (s : State) (fn island off : Nat) : WinRef :=
  let p := s.prt fn
  if off < 0x8000 then .ferry (island * 8 + off / 0x1000) (off % 0x1000)
  else if 0x10000 ≤ off ∧ off < 0x20000 then
    let o := off - 0x10000
    if o < 0x8000 then (if s.inQuota fn (o / 0x20) then .pass (o / 0x20) (o % 0x20) else .unbound)
    else if o < 0x8100 then .fence ((o - 0x8000) / 8)
    else if o / 8 = 0xC000 / 8 then .quota else .portRest
  else if 0x20000 ≤ off ∧ off < 0x21000 then .phase (off - 0x20000)
  else if 0x30000 ≤ off ∧ off < 0x40000 then
    match (maskBits p.lf 64)[(off - 0x30000) / 0x1000]? with
    | some g => .ferry (0x8000 + g) (off % 0x1000)
    | none => .unbound
  else if 0x100000 ≤ off ∧ off < 0x140000 then
    match s.nthIsland fn ((off - 0x100000) / 0x1000) with
    | some i => .claim i (off % 0x1000 / 0x40) (off % 0x40)
    | none => .unbound
  else if 0x1000000 ≤ off ∧ off < 0x1040000 then
    match (maskBits p.srt 4)[(off - 0x1000000) / 0x10000]? with
    | some k => .sorter k (off % 0x10000)
    | none => .unbound
  else .unbound

/-- FRY_STATUS of a channel (R191). -/
def Chan.status (c : Chan) : Nat :=
  (if c.halted then 2 else if c.queue.isEmpty then 0 else 1) + 256 * (16 - c.queue.length)

/-- ISL_SRT_STATUS of a sorter (R260). -/
def Sorter.status (c : Sorter) : Nat :=
  (if c.halted then 2 else if c.queue.isEmpty then 0 else 1) + 256 * (8 - c.queue.length)

/-- A claim counter. -/
def State.claim (s : State) (i k : Nat) : Claim := tabGet (s.isl i).claims {} k

/-- Replace a claim counter. -/
def State.setClaim (s : State) (i k : Nat) (c : Claim) : State :=
  s.updIsl i fun x => { x with claims := tabSet x.claims k c }

/-- Add to a claim counter, modulo 2^64. -/
def State.addClaim (s : State) (i k n : Nat) : State :=
  s.setClaim i k { s.claim i k with value := ((s.claim i k).value + n) % 2 ^ 64 }

/-- The register of the phase mirror at an offset (R508). -/
def phaseReg (o : Nat) : Option Reg :=
  match o with
  | 0x00 => some .PWR_PH_PHASE | 0x08 => some .PWR_PH_TABLE | 0x10 => some .PWR_PH_OPNOW | 0x18 => some .PWR_PH_RAMP
  | 0x20 => some .PWR_PH_DUTY | 0x28 => some .PWR_PH_THR | 0x30 => some .PWR_PH_SWITCH_T | 0x38 => some .PWR_PH_SHARE
  | _ => none

/-- The fetch operations of a claim counter (R62): old value and the state after, none for a unit window fault. -/
def State.claimLoad (s : State) (i k reg : Nat) : Option (Nat × State) :=
  let c := s.claim i k
  match reg with
  | 0x00 => some (c.value, s)
  | 0x08 => some (c.value, s.addClaim i k 1)
  | 0x10 => some (c.addend, s)
  | 0x18 => some (c.value, s.addClaim i k c.addend)
  | 0x20 => some (c.value, if c.value < c.limit then s.addClaim i k 1 else s)
  | 0x28 => some (c.limit, s)
  | _ => none

/-- A 64-bit load from a unit (R190, R221, R508, R62, R259); none is a unit window fault. -/
def State.winLoad (s : State) (fn island : Nat) (w : WinRef) : Option (Nat × State) :=
  match w with
  | .ferry ch r =>
    let c := s.chan ch
    some (match r with | 0x08 => c.posted | 0x10 => c.done | 0x18 => c.status | 0x20 => c.errCode | 0x28 => c.errAddr | _ => 0, s)
  | .pass p r =>
    let c := s.pass p
    some (match r with | 0x00 => c.target | 0x08 => c.count + 2 ^ 32 * (c.gen % 2 ^ 32) | 0x10 => c.last
                       | _ => (s.waiters p).length % 65536, s)
  | .fence k => some (tabGet (s.isl island).fences 0 k, s)
  | .quota => some ((s.prt fn).qbase + 65536 * (s.prt fn).qcount, s)
  | .portRest => some (0, s)
  | .phase o => some (match phaseReg o with | some r => (s.view r fn).toNat | none => 0, s)
  | .claim i k r => s.claimLoad i k r
  | .sorter k r =>
    let c := s.sorter k
    some (match r with | 0x08 => c.posted | 0x10 => c.done | 0x18 => c.status | 0x20 => c.errCode | 0x28 => c.errAddr | _ => 0, s)
  | .unbound => none

/-- A 64-bit store to a unit; stores to read-only registers are ignored (R16). -/
def State.winStore (s : State) (g : Nat) (w : WinRef) (v : Nat) : Posted :=
  match w with
  | .ferry ch 0 => s.postDesc g ch v
  | .sorter k 0 => s.postJob g k v
  | .pass p 0 => .ok (s.movePass p fun x => x.setTarget v s.time)
  | .fence k => .ok (s.updIsl (thIsl g) fun x => { x with fences := tabSet x.fences k v })
  | .phase 0 => .ok (s.setPhase (s.thFn g) v)
  | .claim i k 0x00 => .ok (s.setClaim i k { s.claim i k with value := v })
  | .claim i k 0x10 => .ok (s.setClaim i k { s.claim i k with addend := v })
  | .claim i k 0x28 => .ok (s.setClaim i k { s.claim i k with limit := v })
  | .claim _ _ _ | .unbound => .fault
  | _ => .ok s

/-- What a store of len bytes that finds a full queue waits for. -/
def WinRef.stall (w : WinRef) (v len : Nat) : Stall :=
  match w with
  | .ferry ch _ => .post ch v len
  | .sorter k _ => .sort k v len
  | _ => .none

/- Loads and stores. -/

/-- The address that the store's or load's location has in its own memory: two partition addresses of one byte share it. -/
def State.locKey (s : State) (fn island core a : Nat) : Nat × Nat :=
  match s.locate fn island core a with
  | .lsram c o => (0, c * 2 ^ 18 + o)
  | .istore i o => (1, i * isBytes + o)
  | .plain v o => (2, v * 65536 + o)
  | .window o => (3, o)
  | .outside => (4, a)

/-- Two ranges share a byte. -/
def overlaps (a n b m : Nat) : Bool := decide (a < b + m ∧ b < a + n)

/-- Bytes of one element of a load. -/
def LdKind.bytes : LdKind → Nat
  | .int b _ => b
  | .fp => 4
  | .vec eew _ => eew / 8

/-- The element addresses of a load in flight. -/
def PLoad.addrs (l : PLoad) : List Nat :=
  match l.kind with
  | .vec _ es => es.map (·.2)
  | _ => [l.addr]

/-- A location of a thread's access, with its length. -/
def State.hits (s : State) (g a n : Nat) (l : PLoad) : Bool :=
  let k := s.locKey (s.thFn g) (thIsl g) (thCore g)
  l.addrs.any fun b => (k a).1 == (k b).1 && overlaps (k a).2 n (k b).2 l.kind.bytes

/-- The local SRAM ranges that a queued instruction reads (R108, R110, R123). -/
def TEntry.reads (e : TEntry) : List (Nat × Nat) :=
  let n := blockBytes e.tcfg
  let k := kOf e.tcfg / 32 * 16
  match e.op with
  | .tmma a b => [(a, n), (b, n)]
  | .tmmas a b => [(a, n), (b, n)] ++ (if tSmode e.tcfg % 2 = 1 then [(e.scaleA.toNat, k)] else []) ++
      (if tSmode e.tcfg / 2 = 1 then [(e.scaleB.toNat, k)] else [])
  | .tepi d => (if bitAt (at_ d 0x10 4) 8 then [(at_ d 4 4, 64)] else []) ++ (if bitAt (at_ d 0x10 4) 9 then [(at_ d 8 4, 64)] else [])
  | _ => []

/-- Bytes of an output row of a TEPI (R124). -/
def rowBytes (d : List Byte) : Nat := 2 * fmtBits (bits (at_ d 0x10 4) 0 4)

/-- The local SRAM ranges that a TEPI writes (R130). -/
def TEntry.writes (e : TEntry) : List (Nat × Nat) :=
  match e.op with
  | .tepi d => (List.range 16).map fun i => (at_ d 0 4 + i * at_ d 0x0C 2, rowBytes d)
  | _ => []

/-- A local SRAM load must wait for an earlier TEPI of the thread (R135). -/
def State.loadHeld (s : State) (g a n : Nat) : Bool :=
  (s.xytOf g).any fun e => e.writes.any fun r => overlaps a n r.1 r.2

/-- A local SRAM store must wait: for the thread's queued instructions (R135), and for the operands of the TMMA in the array
(R75). -/
def State.storeHeld (s : State) (g a n : Nat) : Bool :=
  ((s.xytOf g).any fun e => (e.reads ++ e.writes).any fun r => overlaps a n r.1 r.2) ||
  (s.ten (thCore g)).arr.any fun e => e.reads.any fun r => overlaps a n r.1 r.2

/-- Sectors of the plain that an element list touches, each one a request (R54). -/
def plainSectors (as : List Nat) : Nat :=
  ((as.filter fun a => decide (plainBase ≤ a ∧ a < winBase)).map (· / 256)).eraseDups.length

/-- Plain requests that a thread holds (R54, R167). -/
def Thread.requests (t : Thread) : Nat :=
  (t.loads.map fun l => plainSectors l.addrs).sum + (match t.store with | some p => plainSectors (p.parts.map (·.1)) | none => 0)

/-- Plain requests of the threads that a predicate selects. -/
def State.requestsOf (s : State) (p : Nat → Bool) : Nat :=
  ((s.fab.threads.filter fun e => p e.1).map (·.2.requests)).sum

/-- Another n plain requests fit the limits of the thread, its core and its island (R54). -/
def State.quotaFits (s : State) (g n : Nat) : Bool :=
  n == 0 || (decide ((s.th g).requests + n ≤ 8) && decide (s.requestsOf (fun h => thCore h == thCore g) + n ≤ 32) &&
    decide (s.requestsOf (fun h => thIsl h == thIsl g) + n ≤ 1024))

/-- Count a TLB lookup (R85, R89). -/
def State.tlbLook (s : State) (island fn vpn : Nat) : State :=
  s.count (if (s.isl island).tlb.any fun e => decide (e.fn = fn ∧ e.vpn = vpn) then .ISL_TLB_HIT else .ISL_TLB_MISS) island 1

/-- The cause that an element access raises before it starts, if any, with its address: alignment, then the unit window rule
for accesses that are not 64-bit scalars, then range and map (R44, R59, R61, R171). -/
def State.accessFault (s : State) (g a n : Nat) (store : Bool) : Option (Nat × Nat) :=
  if a % n ≠ 0 then some (if store then 6 else 4, a)
  else match s.locate (s.thFn g) (thIsl g) (thCore g) a with
  | .window _ => some (28, a)
  | .outside => some (if store then 7 else 5, a)
  | .plain v _ => if (s.xlate (s.thFn g) v store).isNone then some (if store then 7 else 5, a) else none
  | _ => none

/-- Count the lookups of a list of addresses in an island's TLB, one for each sector. -/
def State.tlbLooksOf (s : State) (island fn : Nat) (as : List Nat) : State :=
  (((as.filter fun a => decide (plainBase ≤ a ∧ a < winBase)).map (· / 256)).eraseDups).foldl
    (fun t k => t.tlbLook island fn ((k * 256 - plainBase) / 65536)) s

/-- Count the TLB lookups of a thread's element list. -/
def State.tlbLooks (s : State) (g : Nat) (as : List Nat) : State := s.tlbLooksOf (thIsl g) (s.thFn g) as

/-- A load of elements of n bytes cannot issue yet: its plain requests are more than the quota leaves, or an earlier TEPI writes its
bytes (R48, R54, R135). An access of more than eight sectors alone never fits (log entry 84). -/
def State.loadWaits (s : State) (g n : Nat) (as : List Nat) : Bool :=
  !s.quotaFits g (plainSectors as) || as.any fun a => decide (a < lsBytes) && s.loadHeld g a n

/-- A load of elements: it faults, waits, or is in flight; the loads before it to its register no longer write it (R44, R54, R59,
R135). -/
def State.startLoad (s : State) (g len : Nat) (l : PLoad) : State :=
  match l.addrs.findSome? fun a => s.accessFault g a l.kind.bytes false with
  | some (c, a) => s.except g c a
  | none =>
    if s.loadWaits g l.kind.bytes l.addrs then s
    else
      let kill := fun (o : PLoad) => match l.kind with
        | .int _ _ => o.toX l.rd
        | .fp => o.toF l.rd
        | .vec _ _ => false
      ((s.tlbLooks g l.addrs).updTh g fun t =>
        { t.killLoads kill with loads := (t.killLoads kill).loads ++ [{ l with ord := t.instret }] }).retired g len

/-- An access to the phase mirror, which the hub serves, waits for a strait that trains (R26, R60). -/
def State.phaseWaits (s : State) (island off : Nat) : Bool :=
  decide (0x20000 ≤ off ∧ off < 0x21000) && s.routeTrains (islDie island) hubNode 0

/-- A scalar load (R57, R61). Its alignment is checked before the width of a unit window access (log entry 85). -/
def State.load (s : State) (g len rd a : Nat) (k : LdKind) : State :=
  match s.locate (s.thFn g) (thIsl g) (thCore g) a with
  | .window off =>
    if a % k.bytes ≠ 0 then s.except g 4 a
    else if k = .int 8 true || k = .int 8 false then
      if s.phaseWaits (thIsl g) off then s else
      match s.winLoad (s.thFn g) (thIsl g) (s.winRef (s.thFn g) (thIsl g) off) with
      | some (v, t) => t.retireX g len rd (w64 v)
      | none => s.except g 28 a
    else s.except g 28 a
  | _ => s.startLoad g len { pc := (s.th g).pc, rd := rd, addr := a, kind := k }

/-- A store cannot issue yet: quota, the holds of R75 and R135, or an earlier load of its bytes that is in flight (R48, R230). -/
def State.storeWaits (s : State) (g : Nat) (parts : List (Nat × List Byte)) : Bool :=
  !s.quotaFits g (plainSectors (parts.map (·.1))) ||
  parts.any fun p => (decide (p.1 < lsBytes) && s.storeHeld g p.1 p.2.length) || (s.th g).loads.any (s.hits g p.1 p.2.length)

/-- Store element bytes: it faults, waits, or is performed; a store to the plain is in flight until THREAD_STORE_COMPLETE
(R44, R59, R135, R75, R167, R230). -/
def State.startStore (s : State) (g len : Nat) (parts : List (Nat × List Byte)) : State :=
  match parts.findSome? fun p => s.accessFault g p.1 p.2.length true with
  | some (c, a) => s.except g c a
  | none =>
    let as := parts.map (·.1)
    if s.storeWaits g parts then s
    else
      let now := parts.filter fun p => decide (p.1 < plainBase)
      let later := parts.filter fun p => decide (plainBase ≤ p.1)
      let pc := (s.th g).pc
      let t := now.foldl (fun t p => t.writeBytes (t.thFn g) (thIsl g) (thCore g) p.1 false p.2) (s.tlbLooks g as)
      (t.updTh g fun x => { x with store := if later.isEmpty then none else some ⟨pc, x.instret, later⟩ }).retired g len

/-- A scalar store (R57, R61, R192). -/
def State.store (s : State) (g len a : Nat) (l : List Byte) : State :=
  match s.locate (s.thFn g) (thIsl g) (thCore g) a with
  | .window off =>
    if a % l.length ≠ 0 then s.except g 6 a
    else if l.length ≠ 8 then s.except g 28 a
    else
      let w := s.winRef (s.thFn g) (thIsl g) off
      if s.phaseWaits (thIsl g) off then s else
      match s.winStore g w (leNat l) with
      | .fault => s.except g 28 a
      | .full => s.updTh g fun t => { t with stall := w.stall (leNat l) len }
      | .ok t => t.retired g len
  | _ => s.startStore g len [(a, l)]

/- Exits. -/

/-- A thread that called EXIT becomes EXITED once its queued Xyt work has completed (R66). -/
def State.settleExit (s : State) (g : Nat) : State :=
  let t := s.th g
  if t.exiting && s.xytIdle g then s.setTh g { t with st := .exited, exiting := false } else s

/-- Ask for the engine reset of an island for a remap (R81). -/
def State.askRemap (s : State) (i : Nat) : State :=
  (s.updIsl i fun x => { x with remapDue := false }).askReset (.engine (srcIsland i) 7)

/-- Islands that have become free of contexts and await a remap are reset now (R81). -/
def State.remapFree (s : State) (is : List Nat) : State :=
  is.foldl (fun t i => if t.rdF .ISL_STATUS i 24 1 = 1 && (t.islCtx i).isNone then t.askRemap i else t) s

/-- Log an island store error; the spec gives no map from address to bank, and no syndrome code, so both are free values (R73; log entry
3). -/
def State.logStore (s : State) (island cls sev addr ctx : Nat) : State :=
  let (w, t) := s.free
  t.log (islDie island) 2 (island % 16) (w.toNat % 32) cls (t.islOwner island) sev addr (if sev = 2 then w.toNat / 32 % 2 ^ 32 else 0) ctx

/-- A report of a core with the syndrome that its check found, which is a free value (R73; log entry 3). -/
def State.logFault (s : State) (island slot cls addr ctx : Nat) : State :=
  let (w, t) := s.free
  t.logCore island slot cls 2 addr (w.toNat % 2 ^ 32) ctx

/-- A local SRAM, island store or register error (R56, R71, R73): counted, logged, and counted by the spare rule for local SRAM.
cls is 4 LSRAM_UE, 6 ISTORE_UE or 7 REG_PARITY. -/
def State.sramError (s : State) (island slot addr ctx cls : Nat) : State :=
  let t := if cls = 7 then s.hwSet .ISL_EVT island 16 else (s.count .ISL_SRAM_UNC island 1).hwSet .ISL_EVT island 8
  let t := if cls = 6 then t.logStore island 6 2 addr ctx else t.logFault island slot cls addr ctx
  if cls = 4 then (t.sramSpare island (t.physOf island slot) addr).remapFree [island] else t

/-- A corrected error of local SRAM or of an island store (R56). -/
def State.sramCorrected (s : State) (island slot addr ctx : Nat) (store : Bool) : State :=
  let t := (s.count .ISL_SRAM_CORR island 1).hwSet .ISL_EVT island 4
  if store then t.logStore island 5 1 addr ctx else t.logCore island slot 3 1 addr 0 ctx

end Sys2Proof.Machine
end

