-- ==== Sys2Proof/Machine/PlainOps.lean ====
section
/-! DEFINITION. What the plain's events share (04 R148 to R178): correctable and uncorrectable events, migration and tests. -/

namespace Sys2Proof.Machine

open Sys2Proof

/- What the devices hold (R145, R154, R155, R157). -/

/-- The bytes of a sector as its owner sees them, whatever its epoch. -/
def State.sectorData (s : State) (psn : Nat) : List Byte := memRead s.pln.data (psn * 256) 256

/-- The ciphertext of a sector, under the key set that wrote it and with its PSN as the tweak (R157). -/
def State.sectorBytes (s : State) (psn : Nat) : List Byte :=
  let k := tabGet s.pln.secKey (0, 0) psn
  (List.range 256).map (Config.sectorCipher k.1 k.2 psn (s.sectorData psn))

/-- One step of the CRC-16 of R154 with polynomial 0x1021, the most significant bit first (log entry 102). -/
def crcBit (c : Nat) : Nat := if bitAt c 15 then Nat.xor (c * 2 % 65536) 0x1021 else c * 2 % 65536

/-- The CRC-16 of R154 over some bytes, from 0xFFFF on. -/
def crc16 (l : List Nat) : Nat := l.foldl (fun c b => (List.range 8).foldl (fun c _ => crcBit c) (Nat.xor c (b * 256))) 0xFFFF

/-- EPOCH, FMT and MCHK of a metadata block with its reserved bits, bytes 0x18 to 0x1F (R154). -/
def metaTail (epoch fmt : Nat) : List Nat :=
  let l := (natLe epoch 4).map (·.toNat) ++ [fmt, 0]
  l ++ [crc16 l % 256, crc16 l / 256]

/-- The metadata block of a sector: the check bytes of both codewords over the ciphertext, the MAC over ciphertext, PSN, EPOCH and FMT, and
EPOCH, FMT and MCHK (R154, R155, R157). -/
def State.metaBlock (s : State) (psn : Nat) : List Byte :=
  let k := tabGet s.pln.secKey (0, 0) psn
  let c := s.sectorBytes psn
  let half := fun (h : Nat) => (c.zipIdx.filter fun e => e.2 % 2 == h).map (·.1)
  let tail := metaTail (tabGet s.pln.secEpoch 0 psn) (tabGet s.pln.secFmt 0 psn)
  let mac := Config.sectorMac k.1 k.2 (c ++ natLe psn 8 ++ (tail.take 6).map (BitVec.ofNat 8 ·))
  (List.range 8).map (Config.rsCheck (half 0)) ++ (List.range 8).map (Config.rsCheck (half 1)) ++ natLe mac.toNat 8 ++
    tail.map (BitVec.ofNat 8 ·)

/-- A byte of a channel: seven sectors of data, their metadata blocks and a trailer of zeros in each row block of 2,048 bytes (R145). -/
def State.channelByte (s : State) (c off : Nat) : Byte :=
  let o := off % 2048
  let l := off / 2048 * 7
  if o < 0x700 then ((s.sectorBytes (sectorAt c (l + o / 256)))[o % 256]?).getD 0
  else if o < 0x7E0 then ((s.metaBlock (sectorAt c (l + (o - 0x700) / 32)))[o % 32]?).getD 0
  else 0

/- What a read of a sector finds (R155, R156, R161). -/

/-- The operand names bytes of a sector, masks of a byte, and a sector of the plain. -/
def seenOk (x : Seen) : Bool := (x.flips.all fun e => decide (e.1 < 288 ∧ 1 ≤ e.2 ∧ e.2 < 256)) && x.moved.all fun q => decide (q < 469762048)

/-- The codeword that covers a byte of a sector and its metadata block: the even or odd data bytes with their check bytes; 2 for bytes
that no codeword covers (R154, R155). -/
def codeword (o : Nat) : Nat := if o < 256 then o % 2 else if o < 264 then 0 else if o < 272 then 1 else 2

/-- The bad bytes in a codeword. -/
def badBytes (x : Seen) (k : Nat) : Nat := ((x.flips.map (·.1)).eraseDups.filter (codeword · == k)).length

/-- EPOCH, FMT and MCHK as the read finds them. -/
def State.seenTail (s : State) (psn : Nat) (x : Seen) : List Nat :=
  let q := x.moved.getD psn
  (metaTail (tabGet s.pln.secEpoch 0 q) (tabGet s.pln.secFmt 0 q)).zipIdx.map fun e =>
    (x.flips.filter (·.1 == 280 + e.2)).foldl (fun b f => Nat.xor b f.2) e.1

/-- EPOCH as the read finds it. -/
def State.seenEpoch (s : State) (psn : Nat) (x : Seen) : Nat := leNat (((s.seenTail psn x).take 4).map (BitVec.ofNat 8 ·))

/-- MCHK fails (R156). -/
def State.mchkBad (s : State) (psn : Nat) (x : Seen) : Bool :=
  let l := s.seenTail psn x
  crc16 (l.take 6) != (l[6]?).getD 0 + 256 * (l[7]?).getD 0

/-- The MAC fails: the ciphertext, the PSN, EPOCH, FMT or the tag is not what the owner's write left (R157, R161; log entry 103). -/
def macFails (x : Seen) (psn : Nat) : Bool :=
  x.forged || x.moved.any (· != psn) || x.flips.any fun e => decide (272 ≤ e.1 ∧ e.1 < 286)

/-- The number of bad bytes as SYNDROME counts it: 0xFF beyond correction (R155, R174). -/
def badCount (n : Nat) : Nat := if 4 < n then 0xFF else n

/-- SYNDROME of a sector event (R174). -/
def State.sectorSynd (s : State) (psn : Nat) (x : Seen) : Nat :=
  badCount (badBytes x 0) + 256 * badCount (badBytes x 1) + 65536 * b2n (s.mchkBad psn x)

/-- The device of a sector event: the one whose byte lanes hold every bad byte, or 0xFF (R144, R540). -/
def State.sectorDev (s : State) (psn : Nat) (x : Seen) : Nat :=
  let c := plainChannel (psn / 256) (psn % 256)
  if s.mchkBad psn x then 0xFF
  else if x.flips.all fun e => e.1 % 2 == 0 then 2 * c
  else if x.flips.all fun e => e.1 % 2 == 1 then 2 * c + 1 else 0xFF

/-- The channel of a sector. -/
def psnChannel (psn : Nat) : Nat := plainChannel (psn / 256) (psn % 256)

/-- The sector is uncorrectable (R155, R156); every sector of a FAILED channel is (R149). -/
def State.sectorBad (s : State) (psn : Nat) (x : Seen) : Bool :=
  decide (4 < badBytes x 0) || decide (4 < badBytes x 1) || s.mchkBad psn x || s.chanFailed (psnChannel psn)

/-- The context id of a consumer (R174). -/
def State.consumerCtx (s : State) (who : Consumer) : Nat := match who with | .thread g => (s.th g).ctx | _ => 0

/-- A correctable sector event: corrected, written back, counted and logged (R155, R174). -/
def State.plainCe (s : State) (psn : Nat) (x : Seen) (ctx : Nat) : State :=
  let p := psn / 256
  let t := s.updPage p fun e => { e with ce := min (e.ce + 1) 65535 }
  let t := (t.count .PLN_CE_TOTAL 0 1).count .PLN_CH_CE (psnChannel psn) 1
  (t.hwSet .PLN_EVT 0 1).logPlain psn 0x10 (s.sectorDev psn x) (t.page p).owner 1 (s.sectorSynd psn x) ctx

/-- An uncorrectable sector or a MAC failure: counted, logged, and the page becomes QUARANTINED; a free page is tested (R174,
R178). -/
def State.plainUe (s : State) (psn : Nat) (mac : Bool) (dev synd ctx : Nat) : State :=
  let p := psn / 256
  let o := (s.page p).owner
  let cls := if mac then 0x12 else 0x11
  let t := if mac then (s.count .PLN_MAC_FAIL 0 1).hwSet .PLN_EVT 0 4 else (s.count .PLN_UE_TOTAL 0 1).hwSet .PLN_EVT 0 2
  let t := t.logPlain psn cls dev o 2 synd ctx
  if o = 0 then (if t.pln.freeUe.contains p then t else { t with pln := { t.pln with freeUe := t.pln.freeUe ++ [p] } })
  else t.quarantine psn cls dev synd ctx

/-- A sector that two reads found uncorrectable (R173, R174). -/
def State.sectorUe (s : State) (psn : Nat) (x : Seen) (ctx : Nat) : State :=
  s.plainUe psn false (s.sectorDev psn x) (s.sectorSynd psn x) ctx

/-- An access to a sector of a FAILED channel (R149): a whole-channel event, whose syndrome is a free value (log entry 27). Nothing is
done twice for a page that has become QUARANTINED already. -/
def State.chanUe (s : State) (psn ctx : Nat) : State :=
  if (s.page (psn / 256)).st == .quarantined then s else
  let (w, t) := s.free
  t.plainUe psn false 0xFF (bits w.toNat 0 17) ctx

/-- What the failure of an access to an address of the plain does to its sector (R149, R174). -/
def State.failAt (s : State) (fn a ctx : Nat) : State :=
  match s.locOf fn 0 0 a false with
  | some (.plain p o) => s.chanUe (p * 256 + o / 256) ctx
  | _ => s

/-- A sector whose codewords and MCHK pass: a correctable event is counted, the MAC is checked unless the sector is stale, and a sector
that now carries another epoch reads as zeros (R155, R161, R164, R174). The Bool says that its data may be used. -/
def State.readGood (s : State) (psn ctx : Nat) (ce : Bool) (x : Seen) : State × Bool :=
  let t := if ce then s.plainCe psn x ctx else s
  let e := s.seenEpoch psn x
  if e = (s.page (psn / 256)).epoch then
    if macFails x psn then (t.plainUe psn true 0xFF 0 ctx, false) else (t, true)
  else if e = tabGet s.pln.secEpoch 0 psn then (t, true)
  else ({ t with pln := { t.pln with secEpoch := tabSet t.pln.secEpoch psn e } }, true)

/-- A read of a sector with its reread (R173): again is what the second read finds. -/
def State.readSector (s : State) (psn ctx : Nat) (x again : Seen) : State × Bool :=
  if !s.sectorBad psn x then s.readGood psn ctx (decide (badBytes x 0 + badBytes x 1 ≠ 0)) x
  else if s.sectorBad psn again then (s.sectorUe psn again ctx, false)
  else s.readGood psn ctx true again

/-- CE_THRESH; 0 acts as 1 (R185). -/
def State.ceThresh (s : State) : Nat := max 1 (s.rdF .PLN_CFG 0 0 16)

/-- Point every map entry of a page at another page, and drop its translations (R176 step 5, R85). -/
def State.remapPage (s : State) (p q : Nat) : State :=
  let hit := s.pln.maps.filter fun e => e.2.ppn == p
  let t := { s with
    pln := { s.pln with maps := tabMap (fun e => if e.ppn = p then { e with ppn := q } else e) s.pln.maps }
    part := { s.part with parts := tabMap (fun x => { x with pages := swapPage p q x.pages, pool := swapPage p q x.pool }) s.part.parts }
    srv := { s.srv with adapters := tabMap (fun x => { x with pages := swapPage p q x.pages }) s.srv.adapters }
    fab := { s.fab with ctxs := tabMap (fun x =>
      { x with slots := tabMap (fun y => { y with pages := swapPage p q y.pages }) x.slots }) s.fab.ctxs } }
  hit.foldl (fun t e => t.tlbDrop (e.1 / 2 ^ 21) (e.1 % 2 ^ 21)) t

/-- Copy the sectors of a page that carry its epoch to another page under that page's epoch (R176 step 3). -/
def State.copyPage (s : State) (p q epoch : Nat) : State :=
  (List.range 256).foldl (fun t k =>
    let a := p * 256 + k
    let b := q * 256 + k
    if tabGet s.pln.secEpoch 0 a = (s.page p).epoch then
      { t with pln := { t.pln with
        data := memWrite t.pln.data (b * 256) (memRead s.pln.data (a * 256) 256)
        secEpoch := tabSet t.pln.secEpoch b epoch
        secFmt := tabSet t.pln.secFmt b (tabGet s.pln.secFmt 0 a)
        secKey := tabSet t.pln.secKey b (s.keySet (s.page p).owner) } }
    else t) s

/-- Steps 1 and 2 of a migration: MIGRATING, and a free page with the same owner and a new epoch (R176). It waits where no page or epoch
value can be had. -/
def State.migrateStart (s : State) (p : Nat) : State :=
  match s.alloc 1, s.drawEpoch with
  | [q], some (v, t) =>
    let e := s.page p
    let t := (t.setPage q { owner := e.owner, epoch := v }).setPage p { e with migrating := true }
    { t with pln := { t.pln with migr := tabSet t.pln.migr p q } }
  | _, _ => s

/-- The copy reads every sector of the old page's epoch as a consumer would, up to the first that fails (R176 step 3). -/
def State.readPage (s : State) (p : Nat) (reads : List (Nat × Seen × Seen)) : State × Bool :=
  (List.range 256).foldl (fun (r : State × Bool) k =>
    let psn := p * 256 + k
    if !r.2 || tabGet r.1.pln.secEpoch 0 psn != (r.1.page p).epoch then r
    else
      let x := tabGet reads ({}, {}) k
      r.1.readSector psn 0 x.1 x.2) (s, true)

/-- The new page of a migration that stopped goes back to the free pool, under another epoch value; without one it waits (R176). -/
def State.migrateStop (s : State) (p q : Nat) : Option State :=
  s.drawEpoch.map fun (w, t) =>
    let t := (t.setPage q { epoch := w }).updPage p fun e => { e with migrating := false }
    { t with pln := { t.pln with migr := tabDel t.pln.migr p } }

/-- Steps 3 to 6 of a migration from p to q (R176). -/
def State.migrateEnd (s : State) (p q : Nat) (reads : List (Nat × Seen × Seen)) : State :=
  let e := s.page p
  if e.st == .quarantined then (s.migrateStop p q).getD s else
  let (t, ok) := s.readPage p reads
  if !ok then (t.migrateStop p q).getD s else
  let v := (s.page q).epoch
  let t := { t with pln := { t.pln with migr := tabDel t.pln.migr p, data := memClear t.pln.data (q * 65536) 65536 } }
  let t := (t.copyPage p q v).setPage q { owner := e.owner, st := e.st, kvc := e.kvc, epoch := v }
  let t := { t with pair := { t.pair with resyncLeft := tabMap (fun l => l.map fun x => if x = p then q else x) t.pair.resyncLeft } }
  let t := (t.remapPage p q).hwSet .PLN_EVT 0 128
  let t := t.log (plainChannel p 0 / 8) 6 (plainChannel p 0) 0xFF 0x14 e.owner 0 (p * 256) 0 0
  t.retire p

/-- The rate in force: the slower of the choice and SPEED_CAP (R150, R185). -/
def State.rateNow (s : State) : Nat := max s.pln.rate (min 2 (s.rdF .PLN_CFG 0 16 2))

/-- A channel begins to retrain, and its traffic is held (R148, R183, R186). -/
def State.trainChan (s : State) (c : Nat) : State := (s.wrF .PLN_CH_STATUS c 17 1 1).wrF .PLN_STATUS 0 4 1 1

/-- Put a data rate into force: every channel that has not failed retrains (R152). -/
def State.putRate (s : State) : State :=
  let r := s.rateNow
  if s.rdF .PLN_STATUS 0 0 2 = r then s else
  let t := ((s.wrF .PLN_STATUS 0 0 2 r).hwSet .PLN_EVT 0 32).log 4 6 0 0xFF 0x18 0x1F 0 0 r 0
  ((List.range 32).filter fun c => !s.chanFailed c).foldl State.trainChan t

end Sys2Proof.Machine
end

