-- ==== Sys2Proof/Machine/FerryOps.lean ====
section
/-! DEFINITION. How a ferry's moves are performed: where bytes lie (05 R199), the order of reads and writes (R201, R214), and what
completing a descriptor or job does (R214 to R219). -/

namespace Sys2Proof.Machine

open Sys2Proof

/- Where bytes lie. -/

/-- Everything about a poster that gives an address its meaning (R199); long is that no local SRAM is reached (R187). -/
structure FCtx where
  fn : Nat
  island : Nat
  slot : Nat
  space : Nat
  long : Bool

/-- The location of a byte; none where translation fails (R171) or the ferry reaches no memory there. -/
def State.floc (s : State) (c : FCtx) (a : Nat) (write : Bool) : Option FLoc :=
  if c.space = 2 then some (.conv a)
  else if c.space = 1 then some (.host (a % 2 ^ 64))
  else match s.locOf c.fn c.island (c.island * 64 + c.slot) (a % 2 ^ 64) write with
  | some (.lsram k o) => if c.long || decide (s.exposed c.island ≤ c.slot) then none else some (.lsram k o)
  | l => l

/-- A byte at a location; host bytes and converter output come from elsewhere. -/
def State.flocGet (s : State) (ext : FLoc → Byte) (l : FLoc) : Byte :=
  match l with
  | .lsram k o => memGet s.fab.lsram (k * 2 ^ 18 + o)
  | .istore i o => memGet s.fab.istore (i * isBytes + o)
  | .plain p o => s.plainByte p o
  | l => ext l

/-- Write a byte at a location. -/
def State.flocPut (s : State) (fn : Nat) (kv : Bool) (l : FLoc) (b : Byte) : State :=
  match l with
  | .lsram k o => { s with fab := { s.fab with lsram := memSet s.fab.lsram (k * 2 ^ 18 + o) b } }
  | .istore i o => { s with fab := { s.fab with istore := memSet s.fab.istore (i * isBytes + o) b } }
  | .plain p o => s.plainPut p o kv [b]
  | .host a => s.hostPut fn a [b]
  | .conv _ => s

/-- A ferry's spaces, for its sources and its destinations. -/
structure FEnv where
  src : FCtx
  dst : FCtx

/-- The spaces of a posted descriptor; the MCP's own bytes are reached like the converter's output. -/
def Desc.env (x : Desc) (d : FDesc) : FEnv :=
  ⟨⟨x.fn, x.island, d.score, if x.own.isSome then 2 else d.sasp, x.long⟩, ⟨x.fn, x.island, d.dcore, d.dasp, x.long⟩⟩

/-- All moves of a descriptor. -/
def Desc.moves (x : Desc) : List FMove := movesOf (fdesc x.raw) (sparam x.param)

/-- The bytes that a move reads. -/
def FMove.srcBytes (m : FMove) : List Nat := m.srcs.flatMap fun r => nibBytes r.1 r.2

/-- The first failure of the address checks made while a descriptor runs: ACCESS (R171), a QUARANTINED page, a FAILED channel (R149), a SRAM
word that the scrub found uncorrectable (R180), or KV_FORMAT. -/
def State.fcheck (s : State) (c : FCtx) (kvUn write : Bool) (a : Nat) : Option (Nat × Nat) :=
  match s.floc c a write with
  | none => some (1, a % 2 ^ 64)
  | some (.plain p o) =>
    if (s.page p).st == .quarantined then some (4, a % 2 ^ 64)
    else if s.locFails (.plain p o) write then some (2, a % 2 ^ 64)
    else if kvUn && s.fresh? (p * 256 + o / 256) && s.plainFmt (p * 256 + o / 256) == 0 then some (9, a % 2 ^ 64)
    else none
  | some l => if !write && s.badLoc l then some (5, a % 2 ^ 64) else none

/-- The first failure that a descriptor's moves meet, in the order of its elements. -/
def State.descFault (s : State) (x : Desc) : Option (Nat × Nat) :=
  let d := fdesc x.raw
  let e := x.env d
  x.moves.findSome? fun m =>
    match m.srcBytes.findSome? (s.fcheck e.src (d.xform == 7) false) with
    | some f => some f
    | none => (nibBytes m.dst m.n).findSome? (s.fcheck e.dst false true)

/-- The destination bytes of a descriptor. -/
def State.dstLocs (s : State) (x : Desc) : List FLoc :=
  (x.moves.flatMap fun m => nibBytes m.dst m.n).filterMap fun a => s.floc (x.env (fdesc x.raw)).dst a true

/-- The source bytes of a descriptor. -/
def State.srcLocs (s : State) (x : Desc) : List FLoc :=
  (x.moves.flatMap FMove.srcBytes).filterMap fun a => s.floc (x.env (fdesc x.raw)).src a false

/-- The lowest source byte address of a descriptor; host source bytes are given from it on. -/
def Desc.srcLow (x : Desc) : Nat :=
  match x.moves.flatMap fun m => m.srcs.map (·.1 / 2) with
  | [] => 0
  | a :: l => l.foldl min a

/- The order of a descriptor's reads and writes. -/

/-- A descriptor writes bytes that it also reads, or writes one nibble twice: then the order of its moves shows (R201). -/
def State.overlapsSelf (s : State) (x : Desc) : Bool :=
  let e := (x.env (fdesc x.raw)).dst
  let w := x.moves.flatMap fun m => (List.range m.n).filterMap fun k => (s.floc e ((m.dst + k) / 2) true).map fun l => (l, (m.dst + k) % 2)
  (s.srcLocs x).any (s.dstLocs x).contains || w.eraseDups.length != w.length

/-- Put an entry into a list that its numbers order. -/
def putRanked {α : Type} (e : Nat × α) : List (Nat × α) → List (Nat × α)
  | [] => [e]
  | x :: r => if e.1 < x.1 then e :: x :: r else x :: putRanked e r

/-- A list in an order that free values choose (R201: the write order within a descriptor is not specified). -/
def freeOrder {α : Type} (n : Nat) (l : List α) : List α :=
  ((l.zipIdx.map fun e => ((Config.freeValue (n + e.2)).toNat, e.1)).foldr putRanked []).map (·.2)

/-- One value of a list, which a free value chooses. -/
def pickFree (n : Nat) (l : List Byte) : Byte :=
  match l with
  | [] => 0
  | [b] => b
  | b :: r => (b :: r)[(Config.freeValue n).toNat % (b :: r).length]?.getD b

/-- The values that a mark of R201 keeps for a location. -/
def staleOf (l : List (FLoc × Byte)) (x : FLoc) : List Byte := (l.filter fun e => e.1 == x).map (·.2)

/-- A source byte as the ferry reads it, in the state t of its writes so far: its value before the descriptor, the value that the
descriptor has written to it, or a value that it held before another descriptor, which ran at the same time, wrote it (R201, R214).
old is the state before the descriptor's writes, and n names the read. -/
def State.srcByte (t old : State) (x : Desc) (host : List Byte) (conv : Nat → Byte) (mine : List FLoc) (n a : Nat) : Byte :=
  let d := fdesc x.raw
  let low := if d.sasp = 1 then x.srcLow else 0
  let ext := fun (l : FLoc) => match l with
    | .host h => host[h - low]?.getD 0
    | .conv k => match x.own with | some b => b[k]?.getD 0 | none => conv k
    | _ => (0 : Byte)
  match old.floc (x.env d).src a false with
  | none => 0
  | some l => pickFree (n + a) (old.flocGet ext l :: staleOf x.stale l ++ if mine.contains l then [t.flocGet ext l] else [])

/-- A source range as a number. -/
def nibVal (rd : Nat → Byte) (a n : Nat) : Nat :=
  leNat ((nibBytes a n).map rd) / 16 ^ (a % 2) % 16 ^ n

/-- Write one byte of a descriptor. A byte that another descriptor wrote while both ran ends holding either value (R201): a free value
chooses. -/
def State.raceByte (s : State) (fn : Nat) (kv race : Bool) (ext : FLoc → Byte) (l : FLoc) (b : Byte) : State :=
  if !race then s.flocPut fn kv l b
  else
    let (w, t) := s.free
    if bitAt w.toNat 0 then t.flocPut fn kv l b else t.flocPut fn kv l (t.flocGet ext l)

/-- The host bytes a descriptor has written, as it may still read them for nibble merges. -/
def State.hostExt (s : State) (fn : Nat) (l : FLoc) : Byte :=
  match l with
  | .host a => memGet s.host (hostKey fn a)
  | _ => 0

/-- Write v as n nibbles at a nibble address: whole bytes, or one half of a byte. -/
def State.writeNibs (s : State) (c : FCtx) (kv : Bool) (raced : List FLoc) (a n v : Nat) : State :=
  (nibBytes a n).zipIdx.foldl (fun t (p, i) =>
    match t.floc c p true with
    | none => t
    | some l =>
      let old := (t.flocGet (t.hostExt c.fn) l).toNat
      let lo := if i = 0 then a % 2 else 0
      let k := if i = 0 then 0 else 2 * i - a % 2
      let hi := min 2 (lo + (n - k))
      let field := v / 16 ^ k % 16 ^ (hi - lo)
      let b := old - bits old (4 * lo) (4 * (hi - lo)) * 16 ^ lo + field * 16 ^ lo
      t.raceByte c.fn kv (raced.contains l) (t.hostExt c.fn) l (BitVec.ofNat 8 b)) s

/-- Perform a descriptor's moves (R200 to R212), in a free order where it shows (R201). -/
def State.runMoves (s : State) (x : Desc) (host : List Byte) (conv : Nat → Byte) : State :=
  let d := fdesc x.raw
  let e := x.env d
  let mine := s.dstLocs x
  let ms := if s.overlapsSelf x then freeOrder s.fresh x.moves else x.moves
  let n := s.fresh + 2 * ms.length
  ms.zipIdx.foldl (fun t (m, k) =>
    let v := m.f (Config.freeValue (s.fresh + ms.length + k))
      (m.srcs.map fun r => nibVal (t.srcByte s x host conv mine (n + k * 2 ^ 65)) r.1 r.2)
    t.writeNibs e.dst (d.xform == 6) x.raced m.dst m.n v)
    { s with fresh := n + ms.length * 2 ^ 65 }

/-- A failed descriptor leaves each destination byte old or new (R217): a free value chooses for each. -/
def State.runSome (s : State) (x : Desc) (host : List Byte) (conv : Nat → Byte) : State :=
  let full := s.runMoves x host conv
  let locs := (s.dstLocs x).eraseDups
  locs.zipIdx.foldl (fun t (l, k) =>
    if bitAt (Config.freeValue (full.fresh + k)).toNat 0 then
      t.flocPut x.fn ((fdesc x.raw).xform == 6) l (full.flocGet (full.hostExt x.fn) l) else t)
    { s with fresh := full.fresh + locs.length }

/- Sorter jobs, and what runs at the same time. -/

/-- The spaces of a sorter job (R261). -/
def SJob.env (x : SJob) : FCtx := ⟨x.fn, thIsl x.gid, 0, 0, true⟩

/-- The bytes of n words from an address on. -/
def wordRun (a n : Nat) : List Nat := (List.range (4 * n)).map (a + ·)

/-- Pairs that a job writes. -/
def JDesc.outs (d : JDesc) : Nat := if d.topk then d.k else d.count

/-- The bytes of a job's work area; none where the job needs none (R261). -/
def JDesc.work (d : JDesc) : List Nat := if d.topk || decide (d.count ≤ 262144) then [] else wordRun d.scratch (2 * d.count)

/-- The bytes that a job reads (R261). -/
def JDesc.reads (d : JDesc) : List Nat := wordRun d.keySrc d.count ++ if d.gen then [] else wordRun d.valSrc d.count

/-- A job sorts in place (R265). With IDX_GEN there is no value source to be equal, so such a job never does (log entry 94). -/
def JDesc.inPlace (d : JDesc) : Bool := !d.topk && !d.gen && d.keySrc == d.keyDst && d.valSrc == d.valDst

/-- The destination locations of a job, with its work area. -/
def State.jobLocs (s : State) (x : SJob) : List FLoc :=
  let d := jdesc x.raw
  (wordRun d.keyDst d.outs ++ wordRun d.valDst d.outs ++ d.work).filterMap fun a => s.floc x.env a true

/-- The source locations of a job. -/
def State.jobSrcLocs (s : State) (x : SJob) : List FLoc := (jdesc x.raw).reads.filterMap fun a => s.floc x.env a false

/-- The bytes of some locations that have changed hands, with their values before. -/
def State.oldBytes (old : State) (mine l : List FLoc) : List (FLoc × Byte) :=
  (l.filter fun x => match x with | .host _ | .conv _ => false | _ => mine.contains x).map fun x => (x, old.flocGet (fun _ => 0) x)

/-- Every other descriptor and job that runs at the same time notes what it shares with the bytes that one has written: those that it
writes as well, and the earlier values of those that it reads (R201, R214, R265). old is the state before the writes; sorter k stands as
channel 0x10000 + k. -/
def State.noteRace (s old : State) (ch seq : Nat) (mine : List FLoc) : State :=
  if mine.isEmpty then s else
  { s with
    fry := { s.fry with chans := s.fry.chans.map fun (k, c) => (k, { c with queue := c.queue.map fun y =>
      if y.started && !(k == ch && y.seq == seq) then
        { y with raced := y.raced ++ (s.dstLocs y).filter mine.contains, stale := y.stale ++ old.oldBytes mine (old.srcLocs y) } else y }) }
    srt := { s.srt with units := s.srt.units.map fun (k, c) => (k, { c with queue := c.queue.map fun y =>
      if y.started && !(0x10000 + k == ch && y.seq == seq) then
        { y with raced := y.raced ++ (s.jobLocs y).filter mine.contains, stale := y.stale ++ old.oldBytes mine (old.jobSrcLocs y) } else y }) } }

/- What holds a completion back. -/

/-- The location is an operand byte of the TMMA or TMMAS that the array of its core runs (R75). -/
def State.arrReads (s : State) (l : FLoc) : Bool :=
  match l with
  | .lsram c o => (s.ten c).arr.any fun e => e.reads.any fun r => overlaps o 1 r.1 r.2
  | _ => false

/-- The die of a channel's ferry (R189). -/
def chanDie (ch : Nat) : Nat := if ch < 0x8000 then islDie (ch / 8) else (ch - 0x8000) / 16

/-- A descriptor cannot complete yet: a strait or a plain channel on its way trains (R26, R148), a page that it writes is under migration
(R176), or the array reads bytes that it writes (R75). -/
def State.descWaits (s : State) (ch : Nat) (x : Desc) : Bool :=
  (s.dstLocs x).any (fun l => s.arrReads l || s.locMoves l || s.locTrains (chanDie ch) l) || (s.srcLocs x).any (s.locTrains (chanDie ch))

/-- A job cannot complete yet (R26, R148, R176). -/
def State.jobWaits (s : State) (k : Nat) (x : SJob) : Bool := (s.jobLocs x).any s.locMoves || (s.jobLocs x ++ s.jobSrcLocs x).any (s.locTrains k)

/-- Count the island TLB lookups of an island ferry's descriptor, one for each sector (R188, R89). -/
def State.ferryLooks (s : State) (ch : Nat) (x : Desc) : State :=
  if 0x8000 ≤ ch then s else
  let d := fdesc x.raw
  s.tlbLooksOf x.island x.fn ((if d.sasp = 0 then x.moves.flatMap FMove.srcBytes else []) ++
    if d.dasp = 0 then x.moves.flatMap fun m => nibBytes m.dst m.n else [])

/- Completions. -/

/-- The completion action of a descriptor or job (R215, R198). -/
def State.compAction (s : State) (fn action target tag ch seq : Nat) : State :=
  match action with
  | 1 => s.arrive target none
  | 2 => match s.nthIsland fn (target / 32) with
    | some i => s.updIsl i fun x => { x with fences := tabUpd x.fences 0 (target % 32) fun v => (v + 1) % 2 ^ 64 }
    | none => s
  | 3 => s.post fn 0x0205 ([ch] ++ lohi seq ++ [tag])
  | _ => s

/-- The source die, unit, instance and sub-instance of a channel (R540). -/
def chanUnit (c : Nat) : Nat × Nat × Nat × Nat :=
  if c < 0x8000 then (c / 8 / 16, 3, c / 8 % 16, c % 8) else ((c - 0x8000) / 16, 4, (c - 0x8000) / 4 % 4, c % 4)

/-- FRY_ERR_CODE and its like (R191). -/
def errWord (code tag seq : Nat) : Nat := code % 256 + tag % 65536 * 65536 + seq % 2 ^ 32 * 2 ^ 32

/-- Log an error completion of a channel (R218). -/
def State.logFerry (s : State) (ch fn code addr seq : Nat) : State :=
  let (d, u, i, b) := chanUnit ch
  s.log d u i b 0x28 (ownerCode fn) 2 addr code (seq % 2 ^ 32)

/-- A transfer of a bulk argument from host memory fails (R217, R363): the error completion of a descriptor of the MCP on channel 3 of long
ferry 0, with its log entry (R218). Which error it is, its address and its tag, and how many descriptors the transfers since the last
failure took, are free values (log entry 97). -/
def State.bulkFail (s : State) (fn : Nat) : State :=
  let (w, t) := s.free
  let (a, t) := t.free
  let c := t.chan 0x8003
  let n := 1 + bits w.toNat 24 8
  let code := 6 + bits w.toNat 0 8 % 3
  (t.setChan 0x8003 { c with posted := c.posted + n, done := c.done + n, errCode := errWord code (bits w.toNat 8 16) (c.posted + n)
                             errAddr := a.toNat }).logFerry 0x8003 fn code a.toNat (c.posted + n)

/-- The island that holds a SRAM word, as the engine charged for it (R558). -/
def FLoc.charge (l : FLoc) : Option Nat :=
  match l with
  | .lsram c _ => some (srcIsland (c / 64))
  | .istore i _ => some (srcIsland i)
  | _ => none

/-- What the failure of a ferry or sorter access does at the memory that failed: an uncorrectable sector or a MAC failure (R174), or an
uncorrectable SRAM word (R56, R73). Nothing is done twice for a page that has become QUARANTINED already. The device and syndrome of the
sector are free values (log entry 27). -/
def State.memFail (s : State) (l : Option FLoc) (code ctx : Nat) : State :=
  match l, code with
  | some (.plain p o), 2 =>
    if (s.page p).st != .written then s else
    let (w, t) := s.free
    let c := plainChannel p (o / 256)
    t.plainUe (p * 256 + o / 256) false (match bits w.toNat 0 2 with | 0 => 2 * c | 1 => 2 * c + 1 | _ => 0xFF) (bits w.toNat 2 17) 0
  | some (.plain p o), 3 => if (s.page p).st != .written then s else s.plainUe (p * 256 + o / 256) true 0xFF 0 0
  | some (.lsram c o), 5 => s.sramError (c / 64) (c % 64) o ctx 4
  | some (.istore i o), 5 => s.sramError i 0 o ctx 6
  | _, _ => s

/-- An error completion of the descriptor at the head of a channel that a thread posted, or of one of the MCP's that serves no
command: FRY_DONE counts it, and a thread's channel is HALTED and its context stops (R218). charge is the engine that the context's
reset is charged to (R558). -/
def State.ferryFail (s : State) (ch : Nat) (x : Desc) (code addr : Nat) (charge : Option Nat) : State :=
  let c := s.chan ch
  let tag := (fdesc x.raw).tag
  let rest := if x.own.isSome then (c.queue.drop 1).filter fun y => !(y.own.isSome && y.gid == x.gid) else c.queue.drop 1
  let t := s.setChan ch { c with done := c.done + (c.queue.length - rest.length), queue := rest, halted := x.ctx.isSome, haltCtx := x.ctx
                                 errCode := errWord code tag x.seq, errAddr := addr }
  let t := t.logFerry ch x.fn code addr x.seq
  match x.ctx with
  | some k => t.stopCtx k (.ferry ch x.seq tag code addr) charge
  | none => t

end Sys2Proof.Machine
end

