-- ==== Sys2Proof/Machine/PairOps.lean ====
section
/-! DEFINITION. Steps and decision outputs as the pair compares them: finishing a step (07 R291, R298, R301), decision records
(16 R584), digests and their match (R585, R586), holding and releasing outputs (R587), and divergence (R588 to R590). -/

namespace Sys2Proof.Machine

open Sys2Proof

/- Finishing a step. -/

/-- Read the partition's plain view as the MCP does (R291). -/
def State.mcpRead (s : State) (fn a n : Nat) : List Byte :=
  match (s.islandsOf fn)[0]? with
  | some i => s.readBytes fn i (i * 64) a n
  | none => List.replicate n 0

/-- The bytes of a result record that a step of n rows needs (R290). -/
def resultBytes (n : Nat) : Nat := 64 + 8 * n

/-- A result row: TOKEN, HAS_TOKEN, NUMERIC (R290). -/
def resultRow (l : List Byte) (r : Nat) : Nat × Bool × Bool :=
  let v := at_ l (64 + 8 * r) 8
  (bits v 0 32, bitAt v 32, bitAt v 33)

/-- The result record answers the step: its STEP_NO, and a token for every row with SAMPLE = 1 (R291). -/
def resultOk (st : Stp) (l : List Byte) : Bool :=
  at_ l 0 8 == st.no && (st.rows.zipIdx.all fun e => !e.1.sample || (resultRow l e.2).2.1)

/-- The sampled rows of a result record: LSLOT, TOKEN, NUMERIC. -/
def sampledRows (st : Stp) (l : List Byte) : List (Nat × Nat × Bool) :=
  st.rows.zipIdx.filterMap fun e => if e.1.sample then some (e.1.lslot, (resultRow l e.2).1, (resultRow l e.2).2.2) else none

/-- A row's request once the step has written its positions: it leaves HELD, and its KV positions are saved (R269, R310). -/
def Req.ran (q : Req) (r : Row) : Req :=
  { q with st := if q.st == .held then (if r.prefill then .prefill else .decode) else q.st
           prefillDone := if r.prefill then r.pos + r.ntok else max q.prefillDone (r.pos + r.ntok), wasPrefill := false }

/-- One sampled row: cancelled, failed with NUMERIC, or its token through the stop unit and the stream writer (R291, R298, R312). -/
def State.sampled (s : State) (fn : Nat) (uncomp : Bool) (e : Nat × Nat × Bool) : State :=
  match s.req fn e.1 with
  | none => s
  | some q => if q.cancel then s.endReq fn e.1 2 0 0
    else if e.2.2 then s.endReq fn e.1 3 rNumeric 0 else s.writeToken fn e.1 e.2.1 uncomp

/-- Write a step's tokens and go on to the model's next step (R291, R310, R312, R278). -/
def State.finishStep (s : State) (fn m : Nat) (uncomp : Bool) (rows : List (Nat × Nat × Bool)) : State :=
  match s.model fn m with
  | none => s
  | some c => match c.step with
    | none => s
    | some st =>
      let t := st.rows.foldl (fun t r => match t.req fn r.lslot with
        | some q => t.setReq fn r.lslot (q.ran r)
        | none => t) s
      let t := rows.foldl (fun t e => t.sampled fn uncomp e) t
      let t := st.rows.foldl (fun t r => match t.req fn r.lslot with
        | some q => if q.cancel then t.endReq fn r.lslot 2 0 0 else t
        | none => t) t
      let t := match t.model fn m with
        | some c' => t.setModel fn m { c' with step := none }
        | none => t
      let t := (t.count .SRV_FN_STEPS fn 1).wrF .SRV_STATUS 0 0 1 (b2n (!c.solos.isEmpty))
      if c.solos.isEmpty then (t.reslack fn m).nextStep fn m else t.rerunStep fn m

/- Decision records. -/

/-- The parts of a decision record: kind, IOU, KEY and entries; none where it is malformed (R584). run is the descriptor's first
dimension-0 run. -/
def decision (run : List Byte) : Option (Nat × Nat × Nat × List (List Nat)) :=
  let k := at_ run 4 4
  let n := bits (at_ run 8 4) 0 12
  let kind := bits k 0 4
  let w := if kind = 1 then 4 else 12
  if run.length < 16 ∨ at_ run 0 4 ≠ 0x5243_4544 ∨ (kind ≠ 1 ∧ kind ≠ 2) ∨ run.length < 16 + n * w then none
  else some (kind, bits k 24 8, at_ run 12 4, (List.range n).map fun i =>
    if kind = 1 then [at_ run (16 + 4 * i) 4] else (List.range 5).map fun j => at_ run (16 + 12 * i + 2 * j) 2)

/-- A field of an entry. -/
def entF (e : List Nat) (i : Nat) : Nat := e[i]?.getD 0

/-- The area of a box (R586). -/
def boxArea (e : List Nat) : Int := ((entF e 3 : Int) - entF e 1) * ((entF e 4 : Int) - entF e 2)

/-- The intersection and union areas of two boxes (R586). -/
def boxIou (a b : List Nat) : Nat × Int :=
  let w : Int := (min (entF a 3) (entF b 3) : Nat) - (max (entF a 1) (entF b 1) : Nat)
  let h : Int := (min (entF a 4) (entF b 4) : Nat) - (max (entF a 2) (entF b 2) : Nat)
  let i := w.toNat * h.toNat
  (i, boxArea a + boxArea b - i)

/-- The IoU of two boxes of one class reaches thr/256; no IoU exists for an empty union (log entry 36). -/
def boxQualifies (thr : Nat) (a b : List Nat) : Bool :=
  entF a 0 == entF b 0 &&
  (if (boxIou a b).2 ≤ 0 then Config.emptyIou a b else decide ((thr : Int) * (boxIou a b).2 ≤ 256 * (boxIou a b).1))

/-- The unpaired entry of the highest qualifying IoU, ties to the lowest index (R586). -/
def bestBox (thr : Nat) (a : List Nat) (rest : List (List Nat)) : Option Nat :=
  rest.zipIdx.foldl (fun best e =>
    if !boxQualifies thr a e.1 then best else
    match best with
    | none => some e.2
    | some j =>
      let p := boxIou a e.1
      let q := boxIou a (rest[j]?.getD [])
      if (q.1 : Int) * p.2 < p.1 * q.2 then some e.2 else best) none

/-- The greedy pairing of R586 pairs every entry. -/
def pairBoxes (thr : Nat) : List (List Nat) → List (List Nat) → Bool
  | [], rest => rest.isEmpty
  | a :: as, rest => match bestBox thr a rest with
    | none => false
    | some j => pairBoxes thr as (rest.eraseIdx j)

/-- Two lists hold the same things. -/
def sameSet (a b : List (List Nat)) : Bool := a.all b.contains && b.all a.contains

/-- The digests of the active and of its partner match (R586). -/
def digMatch (active partner : Dig) : Bool :=
  if active.step then active.ents.length == partner.ents.length && sameSet active.ents partner.ents
  else active.kind == partner.kind && (if active.kind = 1 then sameSet active.ents partner.ents
    else active.ents.length == partner.ents.length && pairBoxes (max 1 active.iou) active.ents partner.ents)

/-- The key that two digests of one output share (R585). -/
def digKey (d : Dig) : Nat := ((d.fn * 2 + b2n d.step) * 2 ^ 64 + d.k1) * 2 ^ 64 + d.k2

/- Holding and releasing. -/

/-- The state of a VF in TWN_SYNC: 0 UNSYNCED, 1 RESYNCING, 2 SYNCED, 3 not mirrored. -/
def State.syncOf (s : State) (fn : Nat) : Nat := s.rdF .TWN_SYNC 0 (2 * (fn - 1)) 2

/-- Change the state of a VF in TWN_SYNC (R582). -/
def State.setSync (s : State) (fn v : Nat) : State := s.wrF .TWN_SYNC 0 (2 * (fn - 1)) 2 v

/-- The WRITTEN pages that a VF holds (R591). -/
def State.writtenPages (s : State) (fn : Nat) : List Nat :=
  ((s.prt fn).pages ++ (s.prt fn).pool).filter fun p => (s.page p).st == .written

/-- Pages that a resync of a VF still has to send (R591). -/
def State.resyncPages (s : State) (fn : Nat) : Nat := (tabGet s.pair.resyncLeft [] fn).length

/-- A full resync of a VF begins: the active has every WRITTEN page to send (R591). -/
def State.startResync (s : State) (fn : Nat) : State :=
  let t := s.setSync fn 1
  if t.role = roleStandby then t else
  { t with pair := { t.pair with resyncLeft := tabSet t.pair.resyncLeft fn (t.writtenPages fn) } }.twinSend 4

/-- A full resync of every bound VF (R591). -/
def State.resyncAll (s : State) : State :=
  if !s.pair.mirrored || s.rdF .TWN_STATUS 0 0 2 ≠ 2 then s else s.boundVfs.foldl State.startResync s

/-- The pair is DEGRADED (R590). -/
def State.degraded (s : State) : Bool := s.rdF .TWN_PAIR_STATUS 0 6 1 = 1

/-- A known-answer test holds the outputs of a VF (R588). -/
def State.katHolds (s : State) (fn : Nat) : Bool := s.rdF .TWN_PAIR_STATUS 0 13 1 = 1 && s.pair.divFns.contains fn

/-- The active holds outputs of a VF for the partner's digest (R587). -/
def State.holds (s : State) (fn : Nat) : Bool :=
  s.pair.mirrored && s.role == roleActive && !s.pair.partnerYielded && s.rdF .TWN_STATUS 0 4 1 == 0 && s.syncOf fn == 2 &&
  !s.degraded

/-- Write a decision output to host memory: its descriptor's bytes, then STATUS, and then release its event (R36, R583, R584). -/
def State.emitDecision (s : State) (h : HeldOut) (status : Nat) : State :=
  let put := fun (t : State) => h.data.foldl (fun u e => u.hostPut h.dig.fn e.1 [e.2]) t
  let t := if s.hostOk h.dig.fn then (put s).hostPut h.dig.fn (h.addr + 6) [BitVec.ofNat 8 status] else s.logHostWrite h.dig.fn
  t.post h.dig.fn 0x0205 h.evt

/-- Release an output: 0 matched, 1 uncompared, 2 diverged (R587, R589). The active tells the partner that it is written. -/
def State.release (s : State) (h : HeldOut) (status : Nat) : State :=
  let us := (s.time - h.since) / 1000
  let t := if s.rdN .TWN_HOLD_MAX 0 < us then s.wrN .TWN_HOLD_MAX 0 (min us (2 ^ 32 - 1)) else s
  let t := if h.dig.step then t.finishStep h.dig.fn h.dig.k1 (status != 0) h.rows else t.emitDecision h status
  let t := if status = 1 && !h.dig.step then t.count .TWN_UNCOMP 0 1 else t
  let t := if status = 1 then { t with pair := { t.pair with local_ := t.pair.local_ ++ [{ h.dig with time := t.time }] } } else t
  let t := { t with pair := { t.pair with emitted := (t.pair.emitted ++ [digKey h.dig]).drop ((t.pair.emitted.length + 1) - 4) } }
  let t := { t with pair := { t.pair with failover := false } }
  if t.pair.mirrored then t.twinSend 4 else t

/-- Two digests do not match: the known-answer test starts, and the mismatch is counted and logged (R588, R590). -/
def State.diverge (s : State) (d : Dig) : State :=
  let fn := d.fn
  let rows := if d.step then d.ents.map fun (e : List Nat) => (fn, e.headD 0) else []
  let t := { s with pair := { s.pair with
    divFns := if s.pair.divFns.contains fn then s.pair.divFns else s.pair.divFns ++ [fn]
    katLocal := if s.pair.divFns.contains fn then s.pair.katLocal else none
    divRows := s.pair.divRows ++ rows, mism := within s.time 600 s.pair.mism ++ [s.time] } }
  let t := ((t.wrF .TWN_PAIR_STATUS 0 13 1 1).hwSet .TWN_PAIR_EVT 0 2).count .TWN_DIVERGE 0 1
  let t := t.wrN .TWN_DIVERGE_WIN 0 t.pair.mism.length
  let t := t.log 4 0x19 0 0 0x7C fn 1 0 0 0
  if 4 < t.pair.mism.length && !t.degraded then (t.wrF .TWN_PAIR_STATUS 0 6 1 1).hwSet .TWN_PAIR_EVT 0 8 else t

/-- A digest of this module's output meets the partner's. -/
def State.bothMatch (s : State) (mine partner : Dig) : Bool :=
  if s.role = roleStandby then digMatch partner mine else digMatch mine partner

/-- An output is ready: its digest goes to the partner, and it is held, compared with a digest that came early, or written
uncompared (R585, R587). A standby finishes a step at once, since it writes nothing to its host (R581), and keeps a decision output
until the active has written it (R598). -/
def State.offer (s : State) (h : HeldOut) : State :=
  let s := if s.pair.mirrored then s.twinSend 3 else s
  let key := digKey h.dig
  let early := s.pair.early.find? fun d => digKey d == key
  let t := { s with pair := { s.pair with early := s.pair.early.filter fun d => digKey d != key } }
  let bad := match early with | some d => !(s.bothMatch h.dig d) | none => false
  if s.role = roleStandby then
    let t := if h.dig.step then t.finishStep h.dig.fn h.dig.k1 false h.rows
      else { t with pair := { t.pair with held := t.pair.held ++ [h] } }
    if bad then t.diverge h.dig
    else if early.isSome then t else { t with pair := { t.pair with local_ := t.pair.local_ ++ [{ h.dig with time := t.time }] } }
  else if bad then ({ t with pair := { t.pair with held := t.pair.held ++ [{ h with diverged := true }] } }).diverge h.dig
  else if t.katHolds h.dig.fn then { t with pair := { t.pair with held := t.pair.held ++ [h] } }
  else if early.isSome then t.release h 0
  else if t.holds h.dig.fn then { t with pair := { t.pair with held := t.pair.held ++ [h] } }
  else t.release h 1

/-- Release a held output by its key, where it is held. -/
def State.releaseHeld (s : State) (key status : Nat) : State :=
  match s.pair.held.find? fun h => digKey h.dig == key with
  | none => s
  | some h => { s with pair := { s.pair with held := s.pair.held.filter fun x => digKey x.dig != key } }.release h status

/-- The final outcome of a sampled request is decided: it is cancelled, its row is NUMERIC, or the stop unit ends it (R298, R301,
R312). -/
def State.decided (s : State) (fn : Nat) (r : Req) (e : Nat × Nat × Bool) : Bool :=
  r.cancel || e.2.2 || (s.verdictOn fn r e.2.1).1 != 0

/-- Requests whose final outcome a step has decided are in ENDING while their output is held (R269). -/
def State.markEnding (s : State) (fn : Nat) (rows : List (Nat × Nat × Bool)) : State :=
  rows.foldl (fun t e => match t.req fn e.1 with
    | some r => if s.decided fn r e then t.setReq fn e.1 { r with st := .ending } else t
    | none => t) s

/-- A step's output: compared in mirrored mode, and written at once in solo mode. -/
def State.stepOutput (s : State) (fn m no : Nat) (rows : List (Nat × Nat × Bool)) : State :=
  if s.pair.mirrored then
    let s := s.markEnding fn rows
    let t := { s with pair := { s.pair with doneT := tabSet s.pair.doneT (reqKey fn m) (no, s.time) } }.twinSend 4
    t.offer { dig := { fn := fn, step := true, k1 := m, k2 := no, kind := 0, iou := 0
                       ents := rows.map fun e => [e.1, e.2.1, b2n e.2.2] }, since := s.time, rows := rows }
  else { s with pair := { s.pair with failover := false } }.finishStep fn m false rows

/-- A decision output: its record and event go the way of R584 to R587. run is the descriptor's first run, at addr, and data are all its
host bytes. -/
def State.decisionOutput (s : State) (fn tag addr : Nat) (run : List Byte) (data : List (Nat × Byte)) (evt : List Nat) : State :=
  match decision run with
  | none => if s.role = roleStandby then s else
      s.emitDecision { dig := { fn := fn, step := false, k1 := tag, k2 := 0, kind := 0, iou := 0, ents := [] }, since := s.time
                       addr := addr, data := data, evt := evt } 3
  | some (kind, iou, key, ents) =>
    s.offer { dig := { fn := fn, step := false, k1 := tag, k2 := key, kind := kind, iou := iou, ents := ents }, since := s.time
              addr := addr, data := data, evt := evt }

end Sys2Proof.Machine
end

