-- ==== Sys2Proof/Machine/CtxOps.lean ====
section
/-! DEFINITION. Starting a context (02 R52, R63, R226, R228, R235) from its start record. -/

namespace Sys2Proof.Machine

open Sys2Proof

/-- A program slot of a function. -/
def State.prog (s : State) (fn slot : Nat) : Option Prog := tabFind s.part.progs (fn * 64 + slot)

/-- The registers of a thread at its start (R52). -/
def startThread (c pidx arg : Nat) (p : Prog) (k : Nat) : Thread :=
  { st := .run, ctx := c, pc := w64 p.entry
    x := [(10, w64 pidx), (11, w64 arg), (2, w64 (p.stackTops[k]?.getD 0)), (3, w64 p.gp)] }

/-- The threads that an image marks active on an island, with their start state. -/
def State.startThreads (s : State) (c arg fn i : Nat) (p : Prog) : List (Nat × Thread) :=
  ((List.range 512).filter fun h => bitAt p.active h && decide (h / 8 < s.exposed i)).map fun h =>
    (i * 512 + h, startThread c (s.islIndex fn i * 512 + h) arg p (h % 8))

/-- Each declared pass takes its target and COUNT 0; GEN, PAS_LAST and the stamps stay (R226). -/
def State.declarePasses (s : State) (l : List (Nat × Nat)) : State :=
  l.foldl (fun t e => t.setPass e.1 { t.pass e.1 with target := e.2 % 2 ^ 20, count := 0 }) s

/-- The cores of a context's islands with their local SRAM zeroed, where the image asks for it (R56). -/
def State.zeroLocal (s : State) (is : List Nat) : State :=
  is.foldl (fun t i => t.updIsl i fun v => { v with badWords := v.badWords.filter fun e => e.1 == 64 })
    { s with fab := { s.fab with lsram := is.foldl (fun m i => memClear m (i * 64 * 2 ^ 18) (64 * 2 ^ 18)) s.fab.lsram } }

/-- Start the threads of a context from its record (R52); the claim and fence counters of its islands are zero, and their tensor
units hold nothing (R63, R228, R235). -/
def State.launch (s : State) (c : Nat) : State :=
  match s.ctx c with
  | none => s
  | some x => match s.prog x.fn x.prog with
    | none => s
    | some p =>
      let t := if p.zeroSram then s.zeroLocal x.islands else s
      let t := x.islands.foldl (fun t i => t.updIsl i fun v => { v with claims := [], fences := [] }) t
      let t := { t with fab := { t.fab with
        tens := t.fab.tens.filter fun e => !x.islands.contains (e.1 / 64)
        threads := (t.fab.threads.filter fun (e : Nat × Thread) => !x.islands.contains (thIsl e.1)) ++
          x.islands.flatMap fun i => s.startThreads c x.arg x.fn i p } }
      let t := t.declarePasses p.passes
      let slots := s.srv.adapters.filter fun e => decide (x.slotBase ≤ e.1 ∧ e.1 < x.slotBase + x.slotCount)
      (t.setCtx c { x with done := false, restart := false, why := none, charge := none, startT := s.time, slots := slots }).syncCtx x.islands

/-- Restart a context with the same id, and rerun the step that its reset interrupted (R650, R310). -/
def State.relaunch (s : State) (c : Nat) : State :=
  let t := s.launch c
  match (s.ctx c).bind (·.serving) with
  | some m => t.rerunStep (((s.ctx c).map (·.fn)).getD 0) m
  | none => t

end Sys2Proof.Machine
end

