-- ==== Sys2Proof/Machine/Serving.lean ====
section
/-! DEFINITION. The serving commands (07 R270 to R312, 09 R364 group 0x3xx) and the serving engine's own steps. -/

namespace Sys2Proof.Machine

open Sys2Proof

/-- The configuration that a SERVE_CONFIG carries (R270). -/
def State.cfgArgs (s : State) (fn mbx : Nat) : SCfg :=
  let w := s.arg fn mbx
  let dflt := fun (v d : Nat) => if v = 0xFFFF_FFFF then d else v
  { stepPass := w 1, donePass := w 2, stepRing := s.arg64 fn mbx 3, resultRing := s.arg64 fn mbx 5, kvBase := s.arg64 fn mbx 7
    kvPages := w 9, kvIdx := s.arg64 fn mbx 10, maxp := w 12, tokPerPage := w 13, kvFmt := w 14, maxContext := w 15, vocab := w 16
    chunk := w 17, maxStepTokens := w 18, maxRows := w 19, aUs := w 20, bNs := w 21, phasePrefill := w 22, phaseDecode := w 23
    bucketUs := dflt (w 24) 1000, atRiskUs := dflt (w 25) 5000, kvFree := List.range (w 9) }

/-- The limits of R270, and a home port for both passes (R222). -/
def State.cfgOk (s : State) (fn : Nat) (model : Nat) (c : SCfg) : Bool :=
  let inn := fun (v lo hi : Nat) => decide (lo ≤ v ∧ v ≤ hi)
  inn model 0 65534 && s.inQuota fn c.stepPass && s.inQuota fn c.donePass && (s.prt fn).islands != 0 &&
  c.stepRing % 65536 == 0 && s.inView fn c.stepRing 131072 && c.resultRing % 16384 == 0 && s.inView fn c.resultRing 32768 &&
  c.kvBase % 65536 == 0 && decide (1 ≤ c.kvPages) && s.inView fn c.kvBase (65536 * c.kvPages) &&
  c.kvIdx % 65536 == 0 && s.inView fn c.kvIdx 1 && inn c.maxp 1 4096 && inn c.tokPerPage 1 65536 && inn c.kvFmt 0 1 &&
  inn c.maxContext 1 (min 262144 (c.maxp * c.tokPerPage)) && inn c.vocab 1 1048576 && inn c.chunk 64 4096 && c.chunk % 16 == 0 &&
  inn c.maxStepTokens 16 8192 && inn c.maxRows 1 1024 && inn c.aUs 1 1000000 && inn c.bNs 1 1000000 && inn c.phasePrefill 0 7 &&
  inn c.phaseDecode 0 7 && inn c.bucketUs 50 10000 && inn c.atRiskUs 0 1000000

/-- Models that a function has configured. -/
def State.modelCount (s : State) (fn : Nat) : Nat := (s.srv.models.filter fun e => e.1 / 65536 == fn).length

/-- R270. -/
def execServeConfig (fn mbx : Nat) (s : State) : Out :=
  s.cmd fn mbx 0x300 fun s =>
  let m := s.arg fn mbx 0
  let c := s.cfgArgs fn mbx
  if !s.cfgOk fn m c then s.respond fn mbx rLimit []
  else if (s.model fn m).isNone && decide (16 ≤ s.modelCount fn) then s.respond fn mbx rNoSpace []
  else if !(s.liveOf fn m).isEmpty then s.respond fn mbx rBusy []
  else (s.setModel fn m c).respond fn mbx rOk []

/-- The lowest free local slot of a function (log entry 13). -/
def State.freeSlot (s : State) (fn : Nat) : Nat :=
  let used := (s.live fn).map (·.1)
  ((List.range (used.length + 1)).find? fun l => !used.contains l).getD used.length

/-- The request that a SERVE_SUBMIT carries (R272). -/
def State.submitReq (s : State) (fn mbx : Nat) : Req :=
  let w := s.arg fn mbx
  { reqId := s.arg64 fn mbx 0, model := w 2, adapter := w 3 % 4096, strict := w 4 % 2 == 1, ttft := w 5, tbt := w 6
    promptAddr := s.arg64 fn mbx 7, promptLen := w 9, maxTokens := w 10, stopset := w 11 % 65536, outAddr := s.arg64 fn mbx 12
    seed := s.arg64 fn mbx 15, temp := w 17 % 65536, topP := w 18 % 65536, topK := w 19, evtEvery := w 20 % 65536
    tArrive := tabGet s.mbx.postT 0 (fn * 32 + mbx) }

/-- An adapter slot is bound to a function (R273, R294). -/
def State.adapterBound (s : State) (fn a : Nat) : Bool :=
  decide ((s.prt fn).abase ≤ a ∧ a < (s.prt fn).abase + (s.prt fn).acount)

/-- The checks 1 to 7 of R273, and BUSY while a drain in solo mode takes no new work (R602). -/
def State.submitCode (s : State) (fn mbx : Nat) (r : Req) : Nat :=
  if (tabFind s.part.scrubs fn).isSome || s.soloDrain then rBusy else
  match s.model fn r.model with
  | none => rNotServing
  | some c =>
    if (s.findReq fn r.reqId).isSome then rDupId
    else if r.adapter != 0xFFF && (!s.adapterBound fn r.adapter || r.adapter == 4095 ||
        !((tabFind s.srv.adapters r.adapter).any fun a => a.fn == fn && a.model == r.model)) then rBadAdapter
    else if r.stopset != 0xFFFF && (decide (255 < r.stopset) || (tabFind s.srv.stops (fn * 256 + r.stopset)).isNone) then rBadStopset
    else if r.promptLen == 0 || r.maxTokens == 0 || decide (65535 < r.maxTokens) || decide (c.maxContext < r.promptLen + r.maxTokens) ||
        decide (s.arg fn mbx 14 < 64 + 16 * r.maxTokens) || (bf16.read r.temp).isNan ||
        ((bf16.read r.temp).negative && !(bf16.read r.temp).isZero) || r.ttft == 0 || r.tbt == 0 || decide (4095 < r.topK) ||
        (r.topK != 0 && decide (c.vocab < r.topK)) then rLimit
    else if decide ((s.prt fn).share ≤ (s.live fn).length) then rShareFull
    else rOk

/-- Refuse a submit: nothing enters the table. SRV_FN_REJECT counts every refusal, as R273 asks (log entry 99); the active of a mirrored
pair sends the outcome first (R579). -/
def State.refuseSubmit (s : State) (fn mbx code : Nat) (payload : List Nat) : State :=
  let t := s.count .SRV_FN_REJECT fn 1
  let t := if code = rRejectSlo then t.hwSet .SRV_EVT 0 1 else t
  let t := if t.pair.mirrored then t.twinMsg 4 fn 16 [0, 0, code] else t
  t.respond fn mbx code payload

/-- Refuse a strict submit whose predicted TTFT misses: the response carries the prediction where an admission's stands; the words beside
it are free values (R273; log entry 98). -/
def State.rejectSlo (s : State) (fn mbx ttftNs : Nat) : State :=
  let (a, t) := s.free
  let (b, t) := t.free
  t.refuseSubmit fn mbx rRejectSlo [a.toNat % 2 ^ 32, sat32 (ttftNs / 1000), b.toNat % 2 ^ 32]

/-- Admit a request: its entry, the draw of a zero SEED, which the active of a mirrored pair sends on (R274, R579), the response, and the
model's next step (R273, R278, R282). -/
def State.enterReq (s : State) (fn mbx : Nat) (c : SCfg) (r : Req) (prompt : List Nat) (ttftNs : Nat) : State :=
  let l := s.freeSlot fn
  let (w, s1) := if r.seed = 0 then s.free else (w64 r.seed, s)
  let dl := r.tArrive + r.ttft * 1000
  let slack := satSlack ((dl : Int) - (r.tArrive + ttftNs : Nat))
  let q := { r with seed := w.toNat, prompt := prompt, deadline := dl, slack := slack, bucket := bucketOf c slack }
  let t := (s1.setReq fn l q).count .SRV_FN_ADMIT fn 1
  let t := if t.pair.mirrored then t.twinMsg 4 fn 16 ([l] ++ lohi w.toNat ++ [rOk]) else t
  let t := t.respond fn mbx rOk [l, sat32 (ttftNs / 1000), unsignedOf 32 slack]
  let t := if slack < c.atRiskUs then
      (((t.setReq fn l { q with atRisk := true }).reqEvent fn 0x0304 l q 0 [unsignedOf 32 slack]).count .SRV_FN_ATRISK fn 1).hwSet
        .SRV_EVT 0 2
    else t
  t.nextStep fn r.model

/-- A standby enters a request as the active admitted it, with its local slot and SEED (R579). -/
def State.mirrorSubmit (s : State) (fn : Nat) (r : Req) (prompt : List Nat) : State :=
  match tabGet s.pair.admits [] fn with
  | [] => s
  | (l, seed, code) :: rest =>
    let t := { s with pair := { s.pair with admits := tabSet s.pair.admits fn rest } }
    if code ≠ rOk then t.respond fn 16 code [] else
    ((t.setReq fn l { r with seed := seed, prompt := prompt, deadline := r.tArrive + r.ttft * 1000 }).count .SRV_FN_ADMIT fn 1).respond fn 16
      rOk []

/-- The predicted TTFT of a new request, in ns from T_ARRIVE (R277). -/
def State.predictTtft (s : State) (fn : Nat) (c : SCfg) (r : Req) : Nat :=
  let ttd : Int := satSlack ((r.tArrive + r.ttft * 1000 : Nat) - (s.time : Int))
  (s.time - r.tArrive) + s.predictFirst fn c r.model 70000 { candOf c 70000 r with slack := ttd } ttd

/-- R272 to R277: prompt is what the module read from host memory, or none where the transfer failed. -/
def execServeSubmit (fn mbx : Nat) (prompt : Option (List Nat)) (s : State) : Out :=
  s.cmd fn mbx 0x301 fun s =>
  let r := s.submitReq fn mbx
  if mbx = 16 then s.mirrorSubmit fn r (prompt.getD []) else
  let code := s.submitCode fn mbx r
  if code ≠ rOk then s.refuseSubmit fn mbx code [] else
  match s.model fn r.model with
  | none => s
  | some c =>
    let p := s.predictTtft fn c r
    if r.strict && decide (r.ttft * 1000 < p) then s.rejectSlo fn mbx p else
    match prompt with
    | none => (s.bulkFail fn).respond fn mbx rHostAccess []
    | some l => s.enterReq fn mbx c r l p

/-- R312: a request with a row in the step in flight ends at that step's boundary, any other at once; the outcome of one in ENDING is
decided. -/
def execServeCancel (fn mbx : Nat) (s : State) : Out :=
  s.cmd fn mbx 0x302 fun s =>
  match s.findReq fn (s.arg64 fn mbx 0) with
  | none => s.respond fn mbx rNotFound []
  | some (l, r) =>
    if r.st == .ending then s.respond fn mbx rAlreadyDone [] else
    let rows := (s.model fn r.model).elim [] SCfg.pendRows
    (if rows.any fun x => x.lslot == l then s.setReq fn l { r with cancel := true } else s.endReq fn l 2 0 0).respond fn mbx rOk []

/-- STATE of R269. -/
def ReqState.code : ReqState → Nat
  | .queued => 1 | .prefill => 2 | .decode => 3 | .held => 4 | .ending => 5

/-- The 128-byte entry (R268). -/
def reqEntry (fn l : Nat) (r : Req) : List Byte :=
  natLe r.reqId 8 ++
  natLe (fn + 2 ^ 8 * r.st.code + 2 ^ 12 * b2n r.strict + 2 ^ 13 * b2n r.uncomp + 2 ^ 16 * r.bucket) 4 ++
  natLe (r.model + 2 ^ 16 * r.adapter) 4 ++ natLe r.ttft 4 ++ natLe r.tbt 4 ++ natLe r.tArrive 8 ++ natLe r.tFirst 8 ++
  natLe r.tLast 8 ++ natLe r.promptLen 4 ++ natLe r.tokens 4 ++ natLe r.maxTokens 4 ++ natLe (r.stopset + 2 ^ 16 * r.evtEvery) 4 ++
  natLe r.prefillDone 4 ++ natLe (unsignedOf 32 r.slack) 4 ++ natLe r.outAddr 8 ++ natLe r.promptAddr 8 ++ natLe r.seed 8 ++
  natLe r.kv.length 4 ++ natLe (r.tbtMiss + 2 ^ 16 * b2n r.ttftMiss) 4 ++
  natLe ((r.matched.zipIdx.map fun e => e.1 % 32 * 2 ^ (5 * e.2)).sum % 2 ^ 40 + 2 ^ 40 * r.stopReason + 2 ^ 48 * l) 8 ++
  natLe (r.temp + 2 ^ 16 * r.topP + 2 ^ 32 * r.topK) 8 ++ natLe r.deadline 8

/-- R268, R271. -/
def execServeQuery (fn mbx : Nat) (s : State) : Out :=
  s.cmd fn mbx 0x303 fun s =>
  match s.findReq fn (s.arg64 fn mbx 0) with
  | none => s.respond fn mbx rNotFound []
  | some (l, r) => match s.bulkPut fn (s.arg64 fn mbx 2) (reqEntry fn l r) with
    | some t => t.respond fn mbx rOk []
    | none => (s.logHostWrite fn).respond fn mbx rHostAccess []

/-- A stop set's bytes as a stop set; none where R300 refuses it. -/
def parseStops (b : List Byte) : Option StopSet :=
  let neos := at_ b 0 4
  let nseq := at_ b 4 4
  let len := fun q => at_ b (0x20 + 68 * q) 4
  if 4 < neos ∨ 8 < nseq ∨ at_ b 8 8 ≠ 0 then none
  else if !((List.range nseq).all fun q => decide (1 ≤ len q ∧ len q ≤ 16)) then none
  else some ⟨(List.range neos).map fun e => at_ b (0x10 + 4 * e) 4,
    (List.range nseq).map fun q => (List.range (len q)).map fun i => at_ b (0x24 + 68 * q + 4 * i) 4⟩

/-- R299, R300. -/
def execStopsetSet (fn mbx : Nat) (fetched : Option (List Byte)) (s : State) : Out :=
  s.cmd fn mbx 0x304 fun s =>
  let n := s.arg fn mbx 0
  if 255 < n then s.respond fn mbx rLimit []
  else if (s.live fn).any fun e => e.2.stopset == n then s.respond fn mbx rBusy []
  else match fetched with
  | none => (s.bulkFail fn).respond fn mbx rHostAccess []
  | some b => match parseStops b with
    | none => s.respond fn mbx rLimit []
    | some set => { s with srv := { s.srv with stops := tabSet s.srv.stops (fn * 256 + n) set } }.respond fn mbx rOk []

/-- Bytes of a value format of R292. -/
def vfmtBytes (v : Nat) : Nat := if v = 0 then 4 else 2

/-- A directory entry of an adapter image: the layer, or none where it breaks R292 or reaches beyond the image. -/
def adLayer (b : List Byte) (i : Nat) : Option AdLayer :=
  let o := 0x40 + 16 * i
  let w := at_ b o 4
  let v := bits w 17 2
  let g := bits w 19 3
  let ch := at_ b (o + 4) 2
  let off := at_ b (o + 8) 4
  let n := ceilDiv ch (2 ^ g)
  let f : Nat := if v = 0 then 7 else if v = 1 then 3 else 2
  if bits w 0 16 = 0xFFFF ∨ v = 3 ∨ g = 7 ∨ (bits w 16 1 = 0 ∧ g ≠ 0) ∨ bits w 22 10 ≠ 0 ∨ ch = 0 ∨ at_ b (o + 6) 2 ≠ 0 ∨
      at_ b (o + 12) 4 ≠ 0 ∨ off % vfmtBytes v ≠ 0 ∨ b.length < off + n * vfmtBytes v then none
  else some { layer := bits w 0 16, mul := bitAt w 16, gshift := g, channels := ch
              vals := (List.range n).map fun k => toF32 (readFmt f (at_ b (off + k * vfmtBytes v) (vfmtBytes v))) }

/-- Directory entries in ascending LAYER order. -/
def layersRise : List AdLayer → Bool
  | a :: b :: r => decide (a.layer < b.layer) && layersRise (b :: r)
  | _ => true

/-- An adapter image as a slot's content; none where R294 refuses it. -/
def parseAdapter (fn : Nat) (b : List Byte) : Option Adapter :=
  let n := at_ b 8 2
  let size := at_ b 0x0C 4
  let ls := (List.range n).filterMap (adLayer b)
  let zeroed := b.take 0x10 ++ List.replicate 4 0 ++ b.drop 0x14
  if at_ b 0 4 ≠ 0x5044_4159 ∨ at_ b 4 2 ≠ 1 ∨ n = 0 ∨ 4096 < n ∨ at_ b 0x0A 2 ≠ 0 ∨ size ≠ b.length ∨ 262144 < size ∨
      size < 0x40 + 16 * n ∨ at_ b 0x14 44 ≠ 0 ∨ at_ b 0x10 4 ≠ crc32 zeroed ∨ ls.length ≠ n ∨ !layersRise ls then none
  else some { fn := fn, model := at_ b 6 2, size := size, layers := ls }

/-- A live request of a function holds an adapter slot. -/
def State.adapterHeld (s : State) (fn a : Nat) : Bool := (s.live fn).any fun e => e.2.adapter == a

/-- Invalidate a slot's lines in the adapter caches of a partition (R295). -/
def State.dropLines (s : State) (fn a : Nat) : State :=
  (s.islandsOf fn).foldl (fun t i => t.updIsl i fun x => { x with lines := x.lines.filter fun e => e.1 != a }) s

/-- The pool pages of a function that no other slot's image lies in, nor one that a running context started with, and that are not
QUARANTINED (R294, R122). -/
def State.adapterPages (s : State) (fn a : Nat) : List Nat :=
  let used := (s.srv.adapters.filter fun e => e.2.fn == fn && e.1 != a).flatMap fun e => e.2.pages
  let held := (s.fab.ctxs.filter fun e => e.2.fn == fn && e.2.active).flatMap fun e => e.2.slots.flatMap fun x => x.2.pages
  (s.prt fn).pool.filter fun p => !used.contains p && !held.contains p && (s.page p).st != .quarantined

/-- Write an image over pages of the pool, 65,536 bytes in each (R294). -/
def State.putImage (s : State) (b : List Byte) : List Nat → State
  | [] => s
  | p :: r => (s.plainPut p 0 false (b.take 65536)).putImage (b.drop 65536) r

/-- R294, R295. -/
def execAdapterLoad (fn mbx : Nat) (fetched : Option (List Byte)) (s : State) : Out :=
  s.cmd fn mbx 0x305 fun s =>
  let a := s.arg fn mbx 0
  if a = 4095 || !s.adapterBound fn a then s.respond fn mbx rBadAdapter []
  else if s.adapterHeld fn a then s.respond fn mbx rAdapterBusy []
  else match fetched with
  | none => (s.bulkFail fn).respond fn mbx rHostAccess []
  | some b => match parseAdapter fn b with
    | none => s.respond fn mbx rAdapterFormat []
    | some x =>
      let ps := (s.adapterPages fn a).take (ceilDiv x.size 65536)
      if ps.length < ceilDiv x.size 65536 then s.respond fn mbx rNoSpace [] else
      let t := s.putImage b ps
      ({ t with srv := { t.srv with adapters := tabSet t.srv.adapters a { x with pages := ps } } }.dropLines fn a).respond fn mbx rOk []

/-- R294, R295. -/
def execAdapterFree (fn mbx : Nat) (s : State) : Out :=
  s.cmd fn mbx 0x306 fun s =>
  let a := s.arg fn mbx 0
  if a = 4095 || !s.adapterBound fn a then s.respond fn mbx rBadAdapter []
  else if s.adapterHeld fn a then s.respond fn mbx rAdapterBusy []
  else ({ s with srv := { s.srv with adapters := tabDel s.srv.adapters a } }.dropLines fn a).respond fn mbx rOk []

/-- R315. -/
def execServeStats (fn mbx : Nat) (s : State) : Out :=
  s.cmd fn mbx 0x307 fun s =>
  match s.model fn (s.arg fn mbx 0) with
  | none => s.respond fn mbx rNotServing []
  | some c =>
    let regs : List Reg := [.SRV_FN_ADMIT, .SRV_FN_REJECT, .SRV_FN_TTFT_MISS, .SRV_FN_TBT_MISS, .SRV_FN_ATRISK, .SRV_FN_UNCOMP,
      .SRV_FN_TOKENS, .SRV_FN_STEPS, .SRV_FN_PREEMPT]
    s.respond fn mbx rOk ((regs.flatMap fun r => lohi (s.rdN r fn)) ++ [c.aUs, sat32 c.bNs, sat32 (c.lastTpred / 1000)])

/-- R271. -/
def execServeUnconfig (fn mbx : Nat) (s : State) : Out :=
  s.cmd fn mbx 0x308 fun s =>
  let m := s.arg fn mbx 0
  if (s.model fn m).isNone then s.respond fn mbx rNotServing []
  else if !(s.liveOf fn m).isEmpty then s.respond fn mbx rBusy []
  else { s with srv := { s.srv with models := tabDel s.srv.models (reqKey fn m) } }.respond fn mbx rOk []

/-- R278 to R280. -/
def execSlackRecompute (fn model : Nat) (s : State) : Out :=
  onUnit s (decide (1 ≤ fn ∧ fn ≤ 16 ∧ model < 65536)) (s.reslack fn model)

/-- B after a step (R276), in ns, never below 1: the measured duration up to the release, normalised by the mean clock and duty over the
step. -/
def State.newB (s : State) (fn : Nat) (c : SCfg) (st : Stp) (n release : Nat) : Nat :=
  let norm := (st.accrue (s.stepRate fn) release).work / (22 * 64)
  (max 1 ((c.bNs : Int) + ((norm : Int) - c.aUs * 1000 - (c.bNs * n : Nat)) / (8 * n : Nat))).toNat

/-- R290, R291, R276, R81: DONE_PASS of the step in flight has released. -/
def execStepResultProcess (fn model : Nat) (s : State) : Out :=
  onUnit s (decide (1 ≤ fn ∧ fn ≤ 16 ∧ model < 65536)) <|
  match s.model fn model with
  | none => s
  | some c => match c.step with
    | none => s
    | some st =>
      let p := s.pass c.donePass
      if st.done || s.upd.stage == .window || !decide (c.doneGen < p.gen) then s else
      let n := (st.rows.map (·.ntok)).sum
      let l := s.mcpRead fn (c.resultRing + 16384 * (st.no % 2)) (resultBytes st.rows.length)
      let t := (s.setModel fn model { c with step := some { st with done := true }, bNs := s.newB fn c st n p.last }).learnPower fn c st
      let t := (s.islandsOf fn).foldl (fun t i => if (t.isl i).remapDue then t.askRemap i else t) t
      if resultOk st l then t.stepOutput fn model st.no (sampledRows st l)
      else t.failRows fn model rProgram

/-- R650: a serving context that is no suspect starts again. -/
def execServingContextRestart (ctx : Nat) (s : State) : Out :=
  .next <|
  match s.ctx ctx with
  | none => s
  | some x => if x.restart && x.serving.isSome && !s.ras.suspects.contains ctx && !s.pwr.trip && !s.pwr.supply then s.relaunch ctx else s

end Sys2Proof.Machine
end

