-- ==== Sys2Proof/Machine/FrameOps.lean ====
section
/-! DEFINITION. Picture buffers and what a conversion job has ready for FRAME descriptors (08 R329, R330, R341 to R343, 05 R212). -/

namespace Sys2Proof.Machine

open Sys2Proof

/-- The luma pitch of a picture buffer (R329). -/
def picPitch (w depth : Nat) : Nat := ceilDiv (w * (if 8 < depth then 2 else 1)) 256 * 256

/-- The bytes of a picture buffer (R329). -/
def picBytes (w h depth : Nat) : Nat := picPitch w depth * (ceilDiv h 64 * 64) * 3 / 2

/-- A conversion job of a function. -/
def State.job (s : State) (fn j : Nat) : Option CJob := tabFind s.vid.jobs (fn * 256 + j)

/-- Replace a conversion job. -/
def State.setJob (s : State) (fn j : Nat) (v : CJob) : State :=
  { s with vid := { s.vid with jobs := tabSet s.vid.jobs (fn * 256 + j) v } }

/-- A stream by its id. -/
def State.stream (s : State) (k : Nat) : Option VStream := tabFind s.vid.streams k

/-- Replace a stream. -/
def State.setStream (s : State) (k : Nat) (v : VStream) : State := { s with vid := { s.vid with streams := tabSet s.vid.streams k v } }

/-- The conversion jobs of a stream of function fn: their numbers and themselves. -/
def State.jobsOf (s : State) (fn k : Nat) : List (Nat × CJob) :=
  (s.vid.jobs.filter fun e => e.1 / 256 == fn && e.2.stream == k).map fun e => (e.1 % 256, e.2)

/-- The output bytes of one picture of a job (R342). -/
def CJob.total (j : CJob) : Nat := j.outW * j.outH * j.channels * j.ebytes

/-- The output bytes that a queued picture has ready: whole strips of rows; with planes, only the first plane's rows until all
rows are made (R342, R343). -/
def CJob.ready (j : CJob) (p : CPic) : Nat :=
  if j.outH ≤ p.made then j.total else if j.planar then p.made * j.outW * j.ebytes else p.made * j.outW * j.channels * j.ebytes

/-- A word of a job's command (R340). -/
def CJob.param (j : CJob) (k : Nat) : Nat := (j.params[k]?).getD 0

/-- The crop position that a position of the rotated picture shows: ROT × 90 degrees clockwise (R336 step 4). -/
def rotFrom (rot w h x y : Nat) : Nat × Nat :=
  match rot with
  | 0 => (x, y)
  | 1 => (y, h - 1 - x)
  | 2 => (w - 1 - x, h - 1 - y)
  | _ => (w - 1 - y, x)

/-- The job's pre-processing leaves luma samples as they are but for crop and rotation: no de-skew, and both axes scaled by 1 (R336). -/
def CJob.plainPrep (j : CJob) : Bool :=
  let (rw, rh) := if j.param 7 % 2 = 1 then (j.param 5, j.param 4) else (j.param 4, j.param 5)
  j.param 6 == 0 && rw == j.outW && rh == j.outH

/-- The de-skewed, rotated and scaled sample of a component (0 Y, 1 Cb, 2 Cr) at an output position, at the picture's bit depth (R336,
R341). -/
def State.prepSample (s : State) (fn : Nat) (j : CJob) (p : CPic) (comp x y : Nat) : Nat :=
  let px := s.mcpRead fn p.buf (picBytes p.w p.h p.depth)
  if comp = 0 && j.plainPrep then
    let (u, v) := rotFrom (j.param 7) (j.param 4) (j.param 5) x y
    let i := (j.param 3 + v) * picPitch p.w p.depth + (j.param 2 + u) * (if 8 < p.depth then 2 else 1)
    if 8 < p.depth then at_ px i 2 / 64 else at_ px i 1
  else (Config.filtered (px.map (·.toNat) ++ j.params ++ [p.w, p.h, p.depth, comp, x, y])).toNat % 2 ^ p.depth

/-- A component normalised in FP32: limited or full range (R341). -/
def normSample (full : Bool) (depth comp v : Nat) : Nat :=
  let u := 2 ^ (depth - 8)
  let (off, den) := if full then (if comp = 0 then 0 else 2 ^ (depth - 1), 2 ^ depth - 1)
    else if comp = 0 then (16 * u, 219 * u) else (128 * u, 224 * u)
  (fp32.div rne (ofInt ((v : Int) - off)) (ofInt den)).1

/-- Clamp to [0, 1] in FP32 (R341). -/
def unitClamp (v : Nat) : Nat :=
  if (f32 v).lt (f32 0) then 0 else if (f32 0x3F80_0000).lt (f32 v) then 0x3F80_0000 else v

/-- x = (v − MEAN) × SCALE, each step in FP32, rounded and saturated to OFMT (R341, R129). -/
def outElem (ofmt mean scale v : Nat) : Nat :=
  saturate ofmt (f32 (toF32 ((f32 (toF32 ((f32 v).add rne (f32 mean).neg))).mul (f32 scale))))

/-- The component that an output channel shows, before MEAN and SCALE: Y alone, or red, green or blue in the job's order (R340, R341). -/
def State.channelVal (s : State) (fn : Nat) (j : CJob) (p : CPic) (ch x y : Nat) : Nat :=
  let norm := fun c => normSample (j.param 12 == 1) p.depth c (s.prepSample fn j p c x y)
  if j.param 13 = 2 then unitClamp (norm 0)
  else unitClamp (Config.colourMatrix (j.param 11) (if j.param 13 = 1 then 2 - ch else ch) (w32 (norm 0)) (w32 (norm 1)) (w32 (norm 2))).toNat

/-- A byte of a picture's output: the conversion of R341 of the picture in its buffer, in the order of R342; MEAN and SCALE go with the
channel's place in that order (log entry 107). The fourth channel of NHWC4 is zero, and what its second and third hold when only Y is asked
for is a free value (log entry 107). -/
def State.frameByte (s : State) (fn : Nat) (j : CJob) (p : CPic) (i : Nat) : Byte :=
  let e := i / j.ebytes
  let n := j.outW * j.outH
  let ch := if j.planar then e / n else e % j.channels
  let px := if j.planar then e % n else e / j.channels
  let v := if ch = 3 then 0
    else if ch ≠ 0 ∧ j.param 13 = 2 then (Config.filtered (j.params ++ [p.buf, p.pic, e])).toNat
    else outElem (j.param 15) (j.param (16 + ch)) (j.param (19 + ch)) (s.channelVal fn j p ch (px % j.outW) (px / j.outW))
  BitVec.ofNat 8 (v / 256 ^ (i % j.ebytes))

/-- Clear the output hold of a stream's slots whose picture no job of the stream still has (R330). -/
def State.clearHolds (s : State) (fn k : Nat) : State :=
  match s.stream k with
  | none => s
  | some v =>
    let busy := (s.jobsOf fn k).flatMap fun e => e.2.queue.map (·.pic)
    s.setStream k { v with slots := v.slots.map fun x => if busy.contains x.pic then x else { x with hold := false } }

/-- FRAME has taken n bytes of a job's first picture; a picture whose bytes are all taken leaves the job (R212, R330). -/
def State.takeFrame (s : State) (fn j n : Nat) : State :=
  match s.job fn j with
  | none => s
  | some c => match c.queue with
    | [] => s
    | p :: r =>
      if p.taken + n < c.total then s.setJob fn j { c with queue := { p with taken := p.taken + n } :: r }
      else (s.setJob fn j { c with queue := r }).clearHolds fn c.stream

/-- What a FRAME of n bytes meets: nothing ready yet, its bytes, or the end of the picture before them (R212, R342). -/
inductive FrameNow where
  | wait
  | whole
  | cross (left : Nat)
  | gone
  deriving DecidableEq, Repr

/-- What a FRAME of n bytes of a job meets. -/
def State.frameNow (s : State) (fn j n : Nat) : FrameNow :=
  match s.job fn j with
  | none => .gone
  | some c => match c.queue with
    | [] => .wait
    | p :: _ =>
      let left := c.total - p.taken
      if left < n then (if c.ready p = c.total then .cross left else .wait)
      else if p.taken + n ≤ c.ready p then .whole else .wait

/-- The converter's output from the first byte that no FRAME has taken (R212). -/
def State.convByte (s : State) (fn j k : Nat) : Byte :=
  match s.job fn j with
  | some c => match c.queue with
    | p :: _ => s.frameByte fn c p (p.taken + k)
    | [] => 0
  | none => 0

end Sys2Proof.Machine
end

