-- ==== Sys2Proof/Machine/Ferries.lean ====
section
/-! DEFINITION. Ferries and passes (05): posting, starting and completing descriptors, error completions, and pass commands. -/

namespace Sys2Proof.Machine

open Sys2Proof

/-- A ferry channel code of the module (R371). -/
def isChan (ch : Nat) : Bool := decide (ch < 512 ∨ 0x8000 ≤ ch ∧ ch < 0x8040)

/-- A thread reaches a channel: one of its own island, or a long-ferry channel bound to its partition (R60, R189). -/
def State.reaches (s : State) (gid ch : Nat) : Bool :=
  if ch < 0x8000 then ch / 8 == thIsl gid else bitAt (s.prt (s.thFn gid)).lf (ch - 0x8000)

/-- A thread's post by a store of len bytes: cause 28 at the window address, a wait for a free entry, or the post (R192, R194). -/
def State.postBy (s : State) (gid len win : Nat) (p : Posted) (wait : Stall) : State :=
  match p with
  | .fault => s.except gid 28 win
  | .full => s.updTh gid fun t => { t with stall := wait }
  | .ok t => t.retired gid len

/-- The partition address of a channel's FRY_POST as its thread names it (R60). -/
def State.chanWin (s : State) (gid ch : Nat) : Nat :=
  winBase + (if ch < 0x8000 then ch % 8 * 0x1000
    else 0x30000 + ((maskBits (s.prt (s.thFn gid)).lf 64).filter (· < ch - 0x8000)).length * 0x1000)

/-- R190 to R195. -/
def execFryPost (gid ch addr : Nat) (s : State) : Out :=
  onUnit s (decide (gid < 32768) && isChan ch) <|
  s.issue gid 4 [] fun s =>
    if s.reaches gid ch then s.postBy gid 4 (s.chanWin gid ch) (s.postDesc gid ch addr) (.post ch addr 4) else s.except gid 28 (s.chanWin gid ch)

/-- R192: the waiting post of a thread finds a free entry. -/
def execFerryPostResume (gid : Nat) (s : State) : Out :=
  onUnit s (decide (gid < 32768)) <|
  match (s.th gid).stall with
  | .post ch a len =>
    if (s.th gid).st == .run && s.ctxRuns gid && decide ((s.chan ch).queue.length < 16) then
      s.postBy gid len (s.chanWin gid ch) (s.postDesc gid ch a) (.post ch a len)
    else s
  | _ => s

/-- Mark the first descriptor that has not started; WAIT_PREV waits for every earlier one to complete (R214). -/
def startDesc : List Desc → Bool → List Desc
  | [], _ => []
  | x :: r, first =>
    if x.started then x :: startDesc r false
    else if (fdesc x.raw).waitPrev && !first then x :: r
    else { x with started := true } :: r

/-- R214, R199, R200. -/
def execFerryDescriptorStart (ch : Nat) (s : State) : Out :=
  onUnit s (isChan ch) <|
  let c := s.chan ch
  if c.halted then s else s.setChan ch { c with queue := startDesc c.queue true }

/-- The queue entry belongs to the same command of the MCP. -/
def Desc.sameCmd (x y : Desc) : Bool := x.cmd.isSome && y.cmd == x.cmd && y.gid == x.gid

/-- The bulk copy of a command ends (R363). -/
def State.copyDone (s : State) (x : Desc) (result : Nat) : State :=
  match x.cmd with
  | some (fn, mbx) => s.cmdDone fn mbx (if (fdesc x.raw).dasp = 1 then 0x206 else 0x205) result []
  | none => s

/-- Host writes of a descriptor: a standby performs none (R581), and one that cannot be issued is logged (R648). -/
def State.hostWrites (s : State) (x : Desc) (full : State) : State :=
  if (fdesc x.raw).dasp ≠ 1 then full
  else if s.standby x.fn then { full with host := s.host }
  else if s.hostOk x.fn then full
  else { full with host := s.host }.logHostWrite x.fn

/-- A descriptor's output is a decision output (R583). -/
def State.isDecision (s : State) (x : Desc) : Bool :=
  let d := fdesc x.raw
  s.pair.mirrored && d.dasp == 1 && d.action == 3 && bitAt d.tag 15

/-- The host bytes that a descriptor has written. -/
def State.hostBytes (s full : State) (x : Desc) : List (Nat × Byte) :=
  (s.dstLocs x).filterMap fun l => match l with | .host a => some (a, memGet full.host (hostKey x.fn a)) | _ => none

/-- The head of a channel completes (R215). The bytes of a decision output wait with it (R36). -/
def State.descDone (s : State) (ch : Nat) (x : Desc) (host : List Byte) : State :=
  let d := fdesc x.raw
  let full := s.runMoves x host (s.convByte x.fn d.src)
  let t := ((if s.isDecision x then { full with host := s.host } else s.hostWrites x full).ferryLooks ch x).noteRace s ch x.seq (s.dstLocs x)
  let t := if d.xform = 8 then t.takeFrame x.fn d.src (d.elems * d.ebits / 8) else t
  let c := t.chan ch
  let t := t.setChan ch { c with done := c.done + 1, queue := c.queue.drop 1 }
  if x.cmd.isSome then
    let bad := d.dasp = 1 && !s.hostOk x.fn
    if bad || !(t.chan ch).queue.any (x.sameCmd ·) then t.copyDone x (if bad then rHostAccess else rOk) else t
  else if s.isDecision x then
    t.decisionOutput x.fn d.tag d.dst (memRead full.host (hostKey x.fn d.dst) (d.cnt 0 * d.ebits / 8)) (s.hostBytes full x) ([ch] ++ lohi x.seq ++ [d.tag])
  else t.compAction x.fn d.action d.target d.tag ch x.seq

/-- The head of a channel ends with an error completion after its writes so far (R217, R218); the MCP's command fails with
HOST_ACCESS, and its later descriptors are discarded (R363). The error address of FRAME_SOURCE is SRC (log entry 95). -/
def State.descError (s : State) (ch : Nat) (x : Desc) (written : State) (code addr : Nat) : State :=
  let e := x.env (fdesc x.raw)
  let l := if x.moves.any (·.srcBytes.contains addr) then s.floc e.src addr false else s.floc e.dst addr true
  let t := (((s.hostWrites x written).noteRace s ch x.seq (s.dstLocs x))).memFail l code (x.ctx.getD 0)
  if x.cmd.isNone then t.ferryFail ch x code addr (if code = 5 then l.bind FLoc.charge else none)
  else
    let c := t.chan ch
    let rest := (c.queue.drop 1).filter fun y => !x.sameCmd y
    let t := t.setChan ch { c with done := c.done + (c.queue.length - rest.length), queue := rest
                                   errCode := errWord code (fdesc x.raw).tag x.seq, errAddr := addr }
    (t.logFerry ch x.fn code addr x.seq).copyDone x rHostAccess

/-- FRAME moves the n bytes that its picture still has, and no more (R342). -/
def State.frameCut (s : State) (x : Desc) (n : Nat) : State :=
  let d := fdesc x.raw
  let full := s.runMoves x [] (s.convByte x.fn d.src)
  let late := ((frameMoves d).zipIdx.filter fun e => decide (8 * n < (e.2 + 1) * d.ebits)).flatMap fun e => nibBytes e.1.dst e.1.n
  late.foldl (fun t a => match s.floc (x.env d).dst a true with
    | some l => t.flocPut x.fn false l (s.flocGet (s.hostExt x.fn) l)
    | none => t) full

/-- R215: host gives the bytes that host memory supplies, from the descriptor's lowest source address on. -/
def execFerryDescriptorComplete (ch : Nat) (host : List Byte) (s : State) : Out :=
  onUnit s (isChan ch) <|
  let c := s.chan ch
  match c.queue with
  | [] => s
  | x :: _ =>
    let d := fdesc x.raw
    if !x.started || c.halted || s.descWaits ch x then s else
    match s.descFault x with
    | some (code, addr) => s.descError ch x (s.runSome x host (s.convByte x.fn d.src)) code addr
    | none =>
      if d.xform ≠ 8 then s.descDone ch x host else
      if x.ended.isSome then s.descError ch x s 0x0A d.src else
      match s.frameNow x.fn d.src (d.elems * d.ebits / 8) with
      | .wait => s
      | .whole => s.descDone ch x host
      | .cross n => (s.descError ch x (s.frameCut x n) 0x0A d.src).takeFrame x.fn d.src n
      | .gone => s.descError ch x s 0x0A d.src

/-- The head of a channel fails with a code of R217; host gives the bytes that host memory had supplied by then. -/
def State.failHead (s : State) (ch code addr : Nat) (host : List Byte) (ok : Desc → Bool) : State :=
  let c := s.chan ch
  match c.queue with
  | [] => s
  | x :: _ =>
    if !x.started || c.halted || !ok x then s
    else s.descError ch x (s.runSome x host (s.convByte x.fn (fdesc x.raw).src)) code addr

/-- R217, R218, R174, R56: the access to addr failed with the code. -/
def execFerryErrorCompletion (ch code addr : Nat) (host : List Byte) (s : State) : Out :=
  onUnit s (isChan ch && decide (1 ≤ code ∧ code ≤ 10)) (s.failHead ch code addr host fun _ => true)

/-- R217, R401: no completion of a host read within the timeout in force. -/
def execHostTimeout (ch addr : Nat) (host : List Byte) (s : State) : Out :=
  onUnit s (isChan ch) (s.failHead ch 8 addr host fun x => (fdesc x.raw).sasp == 1)

/- Passes. -/

/-- R225: the store completes when the home port has applied it. -/
def execPasTargetStore (gid pass value : Nat) (s : State) : Out :=
  onUnit s (decide (gid < 32768 ∧ pass < 1024)) <|
  s.issue gid 4 [] fun s =>
    if s.inQuota (s.thFn gid) pass then (s.movePass pass fun x => x.setTarget value s.time).retired gid 4
    else s.except gid 28 (winBase + 0x10000 + 0x20 * pass)

/-- Take the first arrival in flight at a pass. -/
def takeArrival (p : Nat) : List (Nat × Option Nat) → Option (Option Nat × List (Nat × Option Nat))
  | [] => none
  | e :: r => if e.1 = p then some (e.2, r) else (takeArrival p r).map fun x => (x.1, e :: x.2)

/-- A context whose thread arrives at the STEP_PASS of a configured model takes part in its steps (R650). -/
def State.markServing (s : State) (p gid : Nat) : State :=
  match s.ctx (s.th gid).ctx with
  | none => s
  | some x =>
    match s.srv.models.find? fun e => e.1 / 65536 == x.fn && e.2.stepPass == p with
    | some e => s.setCtx (s.th gid).ctx { x with serving := some (e.1 % 65536) }
    | none => s

/-- R222, R223: the arrival counts at the pass's home port, and an arriving thread's acknowledgement carries the generation that it counted
in. -/
def execPassArrivalCount (pass : Nat) (s : State) : Out :=
  onUnit s (decide (pass < 1024)) <|
  if !(s.passOwner pass).any fun v => (s.passHome v pass).isSome then s else
  match takeArrival pass s.pas.inflight with
  | none => s
  | some (who, rest) =>
    let gen := (s.pass pass).gen
    let t := { s with pas := { s.pas with inflight := rest } }.movePass pass fun x => x.arrival s.time
    match who with
    | some g => { t with pas := { t.pas with acks := t.pas.acks ++ [(g, pass, gen)] } }.markServing pass g
    | none => t

/-- R223: the latch takes the pass and generation, and PASS.ARRIVE retires. -/
def execPassArriveAck (gid : Nat) (s : State) : Out :=
  onUnit s (decide (gid < 32768)) <|
  match s.pas.acks.find? fun e => e.1 == gid with
  | none => s
  | some (g, p, gen) =>
    let t := { s with pas := { s.pas with acks := s.pas.acks.erase (g, p, gen) } }
    if (t.th gid).stall != .arrive p then t
    else t.updTh gid fun x => { x with latch := some (p, gen), stall := .none, pc := x.pc + 4, instret := x.instret + 1 }

/-- Resume one waiter that a release has ended, with that release's stamp (R223, R227). -/
def State.resumeWaiter (s : State) (p g : Nat) : State :=
  match (s.th g).stall with
  | .wait q _ rd (some st) =>
    if q = p then
      (s.updTh g fun t => { t with st := .run, stall := .none, latch := none, pc := t.pc + 4, instret := t.instret + 1 }).updTh g
        (·.putX rd (w64 st))
    else s
  | _ => s

/-- R227, R233: the release reaches an island. -/
def execPassWaiterResume (island pass : Nat) (s : State) : Out :=
  onUnit s (decide (island < 64 ∧ pass < 1024)) <|
  ((s.waiters pass).filter fun g => thIsl g == island && s.ctxRuns g).foldl (fun t g => t.resumeWaiter pass g) s

end Sys2Proof.Machine
end

