-- ==== Sys2Proof/Machine/Sorters.lean ====
section
/-! DEFINITION. The score sorters (06 R259 to R266). -/

namespace Sys2Proof.Machine

open Sys2Proof

/-- The partition address of a sorter's ISL_SRT_POST as its thread names it (R60). -/
def State.sortWin (s : State) (gid k : Nat) : Nat :=
  winBase + 0x1000000 + ((maskBits (s.prt (s.thFn gid)).srt 4).filter (· < k)).length * 0x10000

/-- R259 to R261. -/
def execIslSrtPost (gid k addr : Nat) (s : State) : Out :=
  onUnit s (decide (gid < 32768 ∧ k < 4)) <|
  s.issue gid 4 [] fun s =>
    if bitAt (s.prt (s.thFn gid)).srt k then s.postBy gid 4 (s.sortWin gid k) (s.postJob gid k addr) (.sort k addr 4)
    else s.except gid 28 (s.sortWin gid k)

/-- R261, R192: the waiting post of a thread finds a free entry. -/
def execSorterPostResume (gid : Nat) (s : State) : Out :=
  onUnit s (decide (gid < 32768)) <|
  match (s.th gid).stall with
  | .sort k a len =>
    if (s.th gid).st == .run && s.ctxRuns gid && decide ((s.sorter k).queue.length < 8) then
      s.postBy gid len (s.sortWin gid k) (s.postJob gid k a) (.sort k a len)
    else s
  | _ => s

/-- R264: one job at a time, in post order. -/
def execSorterJobStart (k : Nat) (s : State) : Out :=
  onUnit s (decide (k < 4)) <|
  let c := s.sorter k
  if c.halted then s else
  match c.queue with
  | x :: r => s.setSorter k { c with queue := { x with started := true } :: r }
  | [] => s

/-- The value by which a key ranks; none for a NaN (R262). -/
def keyVal (kfmt k : Nat) : Option Int :=
  match kfmt with
  | 0 => some (k : Nat)
  | 1 => some (signed 32 k)
  | _ => let x := f32 k; if x.isNan then none else some x.key

/-- A pair ranks ahead of another, by key alone (R262). -/
def ahead (kfmt : Nat) (asc : Bool) (a b : Nat) : Bool :=
  match keyVal kfmt a, keyVal kfmt b with
  | some x, some y => if asc then decide (x < y) else decide (y < x)
  | some _, none => true
  | none, _ => false

/-- Merge two ranked lists; equal keys of the first, which stood earlier, come first. -/
def mergeRank (kfmt : Nat) (asc : Bool) : Nat → List (Nat × Nat) → List (Nat × Nat) → List (Nat × Nat)
  | 0, a, b => a ++ b
  | _ + 1, [], b => b
  | _ + 1, a, [] => a
  | f + 1, x :: a, y :: b =>
    if ahead kfmt asc y.1 x.1 then y :: mergeRank kfmt asc f (x :: a) b else x :: mergeRank kfmt asc f a (y :: b)

/-- Pairs in rank order: a stable merge sort with 2^d as the bound of the list's length. -/
def rankPairs (kfmt : Nat) (asc : Bool) : Nat → List (Nat × Nat) → List (Nat × Nat)
  | 0, l => l
  | d + 1, l => if l.length ≤ 1 then l else
    let h := l.length / 2
    mergeRank kfmt asc l.length (rankPairs kfmt asc d (l.take h)) (rankPairs kfmt asc d (l.drop h))

/-- The last key of the order that fills a thresholded TOPK (R263). -/
def fillKey (kfmt : Nat) (asc : Bool) : Nat :=
  match kfmt with
  | 0 => if asc then 0xFFFF_FFFF else 0
  | 1 => if asc then 0x7FFF_FFFF else 0x8000_0000
  | _ => 0x7FC0_0000

/-- The pairs that a job writes (R262, R263). -/
def jobResult (d : JDesc) (src : List (Nat × Nat)) : List (Nat × Nat) :=
  let l := rankPairs d.kfmt d.asc 24 src
  if !d.topk then l
  else if d.thEn then
    let kept := (l.filter fun e => !ahead d.kfmt d.asc d.thresh e.1).take d.k
    kept ++ List.replicate (d.k - kept.length) (fillKey d.kfmt d.asc, 0xFFFF_FFFF)
  else l.take d.k

/-- The first address of a job's accesses that fails, with its code: sources first, then destinations, then the work area (R266,
R217). -/
def State.jobFault (s : State) (x : SJob) (d : JDesc) : Option (Nat × Nat) :=
  (d.reads.findSome? (s.fcheck x.env false false)) <|>
  ((wordRun d.keyDst d.outs ++ wordRun d.valDst d.outs ++ d.work).findSome? (s.fcheck x.env false true))

/-- The bytes that a job writes, with their values in order. -/
def jobWrites (d : JDesc) (out : List (Nat × Nat)) : List (Nat × Byte) :=
  let arr := fun (a : Nat) (vs : List Nat) => (vs.flatMap fun v => natLe v 4).zipIdx.map fun e => (a + e.2, e.1)
  arr d.keyDst (out.map (·.1)) ++ arr d.valDst (out.map (·.2))

/-- The source pairs of a job from a reading of its source bytes (R261). -/
def jobPairs (d : JDesc) (byte : Nat → Byte) : List (Nat × Nat) :=
  let word := fun (a : Nat) => leNat ((List.range 4).map fun k => byte (a + k))
  (List.range d.count).map fun i => (word (d.keySrc + 4 * i), if d.gen then (d.base + i) % 2 ^ 32 else word (d.valSrc + 4 * i))

/-- The source pairs of a job as it reads them. A byte may be read as it was before another descriptor or job, which ran at the same
time, wrote it; and one that the job writes itself, unless it sorts in place, also after that write, which holds what the job computes from
the bytes before its writes (R201, R265; log entry 96). -/
def State.jobSource (s : State) (x : SJob) (d : JDesc) : List (Nat × Nat) :=
  let before := fun (a : Nat) => match s.floc x.env a false with | some l => s.flocGet (fun _ => 0) l | none => 0
  let own := if d.inPlace then [] else (jobWrites d (jobResult d (jobPairs d before))).filterMap fun w => (s.floc x.env w.1 true).map fun l => (l, w.2)
  jobPairs d fun a => match s.floc x.env a false with
    | some l => pickFree (s.fresh + a) (before a :: staleOf x.stale l ++ staleOf own l)
    | none => 0

/-- Perform a job's writes (R265): its work area is left with free values, and a byte that another job or descriptor wrote meanwhile, or
that the job writes twice, ends with either value (R201, R261). -/
def State.runJob (s : State) (x : SJob) : State :=
  let d := jdesc x.raw
  let work := d.work.zipIdx.map fun e => (e.1, BitVec.ofNat 8 (Config.freeValue (s.fresh + 2 ^ 64 + e.2)).toNat)
  let ws := work ++ jobWrites d (jobResult d (s.jobSource x d))
  (ws.foldl (fun (t, done) w => match s.floc x.env w.1 true with
    | some l => (t.raceByte x.fn false (x.raced.contains l || done.contains l) (fun _ => 0) l w.2, l :: done)
    | none => (t, done)) ({ s with fresh := s.fresh + 2 ^ 64 + work.length }, ([] : List FLoc))).1

/-- The head of a sorter's queue completes (R265): DONE, then the completion action. R371 gives a FERRY_DONE event no channel code
for a sorter: that word is a free value (log entry 3). -/
def State.jobDone (s : State) (k : Nat) (x : SJob) : State :=
  let d := jdesc x.raw
  let t := s.runJob x
  let c := t.sorter k
  let t := (t.setSorter k { c with done := c.done + 1, queue := c.queue.drop 1 }).noteRace s (0x10000 + k) x.seq (s.jobLocs x)
  if d.action = 3 then
    let (w, t) := t.free
    t.compAction x.fn 3 d.target d.tag (w.toNat % 2 ^ 32) x.seq
  else t.compAction x.fn d.action d.target d.tag 0 x.seq

/-- The head of a sorter's queue fails: which destination bytes hold new data is free (R217), the sorter is HALTED, the error is
logged, and the context stops (R266). -/
def State.jobFail (s : State) (k : Nat) (x : SJob) (code addr : Nat) : State :=
  let full := s.runJob x
  let locs := (s.jobLocs x).eraseDups
  let t := locs.zipIdx.foldl (fun t (l, i) =>
    if bitAt (Config.freeValue (full.fresh + i)).toNat 0 then t.flocPut x.fn false l (full.flocGet (fun _ => 0) l) else t)
    { s with fresh := full.fresh + locs.length }
  let c := t.sorter k
  let tag := (jdesc x.raw).tag
  let t := (t.setSorter k { c with done := c.done + 1, queue := c.queue.drop 1, halted := true, haltCtx := some x.ctx
                                   errCode := errWord code tag x.seq, errAddr := addr }).noteRace s (0x10000 + k) x.seq (s.jobLocs x)
  let l := s.floc x.env addr false
  let t := (t.log k 5 0 0 0x29 (ownerCode x.fn) 2 addr code (x.seq % 2 ^ 32)).memFail l code x.ctx
  t.stopCtx x.ctx (.sorter k x.seq tag code addr) (if code = 5 then l.bind FLoc.charge else none)

/-- R265. -/
def execSorterJobComplete (k : Nat) (s : State) : Out :=
  onUnit s (decide (k < 4)) <|
  let c := s.sorter k
  match c.queue with
  | [] => s
  | x :: _ => if !x.started || c.halted || s.jobWaits k x then s else
    match s.jobFault x (jdesc x.raw) with
    | some (code, addr) => s.jobFail k x code addr
    | none => s.jobDone k x

/-- R266, R217, R174, R56. -/
def execSorterJobError (k code addr : Nat) (s : State) : Out :=
  onUnit s (decide (k < 4) && decide (1 ≤ code ∧ code ≤ 5)) <|
  let c := s.sorter k
  match c.queue with
  | [] => s
  | x :: _ => if !x.started || c.halted then s else s.jobFail k x code addr

end Sys2Proof.Machine
end

