-- ==== Sys2Proof/Machine/VideoOps.lean ====
section
/-! DEFINITION. Video streams, concealment, frame records, the encoder's rate control, and jobs (08 R316 to R344). -/

namespace Sys2Proof.Machine

open Sys2Proof

/-- The MEDIA strait is down (R324, R27). -/
def State.mediaDown (s : State) : Bool := s.fab.straitDown.contains 8

/-- 64 × 64 blocks across a picture (R319). -/
def ctusOf (n : Nat) : Nat := ceilDiv n 64

/-- The cost of a stream in CTU slots per second, rounded up (R319): f is the picture rate × 1,000. -/
def streamCost (w h f depth : Nat) : Nat := ceilDiv (ctusOf w * ctusOf h * f * (if 8 < depth then 5 else 4)) 4000

/-- The largest access unit of an encode stream (R327). -/
def auMax (w h depth : Nat) : Nat := (if 8 < depth then w * h * 3 else w * h * 3 / 2) + 4096

/-- Bytes of a picture area's buffer: whole pages (R328). -/
def VStream.bufBytes (v : VStream) : Nat := ceilDiv (picBytes v.w v.h v.depth) 65536 * 65536

/-- The plain view address of a slot's buffer. -/
def VStream.bufAddr (v : VStream) (k : Nat) : Nat := v.area + k * v.bufBytes

/-- A stream that a function may name: its own, and not closing (R344). -/
def State.ownStream (s : State) (fn k : Nat) : Option VStream :=
  match s.stream k with
  | some v => if v.fn = fn ∧ v.closing.isNone then some v else none
  | none => none

/- Concealment. -/

/-- Whether a byte of a buffer is luma, and its sample coordinates: x counts interleaved chroma samples one by one. -/
def bytePos (w h depth i : Nat) : Bool × Nat × Nat :=
  let p := picPitch w depth
  let b := if 8 < depth then 2 else 1
  let lum := ceilDiv h 64 * 64
  if i < p * lum then (true, i % p / b, i / p) else (false, i % p / b, i / p - lum)

/-- The CTU of a sample, where it lies inside the picture. -/
def ctuAt (w h : Nat) (luma : Bool) (x y : Nat) : Option Nat :=
  let lx := if luma then x else x / 2 * 2
  let ly := if luma then y else y * 2
  if lx < w ∧ ly < h then some (ly / 64 * ctusOf w + lx / 64) else none

/-- A sample of a buffer at coordinates clamped into the picture (log entry 40). -/
def sampleAt (w h depth : Nat) (l : List Byte) (luma : Bool) (x y : Int) (c : Nat) : Nat :=
  let p := picPitch w depth
  let b := if 8 < depth then 2 else 1
  let cw := if luma then w else ceilDiv w 2
  let ch := if luma then h else ceilDiv h 2
  let xx := clampTo x cw
  let yy := clampTo y ch
  at_ l (if luma then yy * p + xx * b else p * (ceilDiv h 64 * 64) + yy * p + (2 * xx + c) * b) b

/-- The mid value as its buffer word (R333). -/
def midWord (depth : Nat) : Nat := if 8 < depth then 512 * 64 else 128

/-- One concealed sample: the copy displaced by a vector in quarter luma samples, or the mid value (R333); a fraction of a sample
is interpolated by an opaque filter (log entry 6). -/
def concealed (w h depth : Nat) (ref : Option (List Byte)) (v : Int × Int) (luma : Bool) (x y : Nat) : Nat :=
  match ref with
  | none => midWord depth
  | some l =>
    let q : Int := if luma then 4 else 8
    let px : Nat := if luma then x else x / 2
    if v.1 % q = 0 ∧ v.2 % q = 0 then sampleAt w h depth l luma (px + v.1 / q) (y + v.2 / q) (x % 2)
    else
      let f := (Config.filtered (l.map (·.toNat) ++ [b2n luma, x, y, unsignedOf 32 v.1, unsignedOf 32 v.2])).toNat
      if 8 < depth then f % 1024 * 64 else f % 256

/-- The component-wise median of three numbers. -/
def median3 (a b c : Int) : Int := max (min a b) (min (max a b) c)

/-- The borrowed vector of a CTU from the motions known so far (R333). -/
def borrow (wc : Nat) (m : Tab (Int × Int)) (ctu : Nat) : Int × Int :=
  let x := ctu % wc
  let get := fun (ok : Bool) (k : Nat) => if ok then tabFind m k else none
  let l := [get (x != 0) (ctu - 1), get (decide (wc ≤ ctu)) (ctu - wc),
    get (decide (wc ≤ ctu) && decide (x + 1 < wc)) (ctu + 1 - wc)].filterMap id
  match l with
  | [a, b, c] => (median3 a.1 b.1 c.1, median3 a.2 b.2 c.2)
  | [a, b] => ((a.1 + b.1).tdiv 2, (a.2 + b.2).tdiv 2)
  | [a] => a
  | _ => (0, 0)

/-- The borrowed vectors of the lost CTUs, in raster order. -/
def borrowAll (wc : Nat) (m : Tab (Int × Int)) (lost : List Nat) : Tab (Int × Int) :=
  lost.foldl (fun t k => tabSet t k (borrow wc t k)) m

/-- A decoded buffer with its lost CTUs concealed (R333). -/
def concealBuf (v : VStream) (ref : Option (List Byte)) (motions : Tab (Int × Int)) (lost : List Nat) (l : List Byte) : List Byte :=
  let vec := borrowAll (ctusOf v.w) motions lost
  let b := if 8 < v.depth then 2 else 1
  (List.range (picBytes v.w v.h v.depth)).map fun i =>
    let (luma, x, y) := bytePos v.w v.h v.depth i
    match ctuAt v.w v.h luma x y with
    | some k => if lost.contains k then
        BitVec.ofNat 8 (concealed v.w v.h v.depth ref (tabGet vec (0, 0) k) luma x y / 256 ^ (i % b)) else l[i]?.getD 0
    | none => l[i]?.getD 0

/-- The CTUs that errors lose: from each failure to its resynchronisation (R332). -/
def lostCtus (n : Nat) (errs : List DecErr) : List Nat :=
  (List.range n).filter fun k => errs.any fun e => decide (e.first ≤ k ∧ k < e.resume)

/- Output. -/

/-- FLAGS of a frame record (R335). -/
def Decoded.flags (d : Decoded) : Nat := b2n d.key + 2 * b2n (!d.ctus.isEmpty) + 4 * b2n d.damaged + 8 * b2n d.lost

/-- A frame record (R335). -/
def frameRecord (v : VStream) (now : Nat) (d : Decoded) : List Byte :=
  natLe v.pics 8 ++ natLe now 8 ++ natLe d.au.pts 8 ++ natLe (v.bufAddr d.slot) 8 ++ natLe (v.w + 65536 * v.h) 4 ++
  natLe d.flags 4 ++ natLe d.ctus.length 4 ++ natLe (min 65535 d.errs.length + 65536 * ((d.errs.map (·.cls)).headD 0)) 4 ++
  List.replicate 16 0 ++ natLe (maskOf d.ctus) (ceilDiv (ctusOf v.w * ctusOf v.h) 8)

/-- Where picture n's record lies. -/
def VStream.recAddr (v : VStream) (n : Nat) : Nat := v.ring + 2048 * (n % 64)

/-- A job has room for a picture; DROP_OLDEST makes room by dropping (R343). -/
def CJob.full (j : CJob) : Bool := decide (4 ≤ j.queue.length)

/-- A BLOCK job of a stream is full (R343). -/
def State.blocked (s : State) (fn k : Nat) : Bool := (s.jobsOf fn k).any fun e => e.2.full && !e.2.drop

/-- Give a picture to one job; under DROP_OLDEST the oldest picture that no descriptor has begun leaves, and its record says so
(R343, R335). -/
def State.giveJob (s : State) (fn k j : Nat) (p : CPic) : State :=
  match s.job fn j with
  | none => s
  | some c =>
    if !c.full then s.setJob fn j { c with queue := c.queue ++ [p] } else
    match c.queue.find? fun x => x.taken == 0 with
    | none => s
    | some x =>
      let t := (s.setJob fn j { c with queue := c.queue.erase x ++ [p] }).hwSet .VID_EVT 0 64
      match t.stream k with
      | none => t
      | some v =>
        let a := v.recAddr x.pic + 0x24
        let old := leNat (t.mcpRead fn a 1)
        (t.mcpWrite fn a [BitVec.ofNat 8 (if bitAt old 4 then old else old + 16)]).clearHolds fn k

/-- Output one decoded picture of a stream: its record, its hold, its jobs, then VID_PICTURE (R326, R330, R335, R343). -/
def State.outputPic (s : State) (k i : Nat) : State :=
  match s.stream k with
  | none => s
  | some v => match v.decoded[i]? with
    | none => s
    | some d =>
      let n := v.pics
      let jobs := s.jobsOf v.fn k
      let slots := v.slots.modify d.slot fun x => { x with hold := !jobs.isEmpty, pic := n }
      let t := s.mcpWrite v.fn (v.recAddr n) (frameRecord v s.time d)
      let t := t.setStream k { v with pics := n + 1, decoded := v.decoded.eraseIdx i, slots := slots, lastOut := some d.slot }
      let t := jobs.foldl (fun t e => t.giveJob v.fn k e.1
        { pic := n, buf := v.bufAddr d.slot, w := v.w, h := v.h, depth := v.depth }) t
      t.post v.fn 0x0401 ([k] ++ lohi n ++ [d.flags])

/-- A conversion job ends: its descriptors end with FRAME_SOURCE, and its pictures lose their hold for it (R344). -/
def State.endJob (s : State) (fn j : Nat) : State :=
  match s.job fn j with
  | none => s
  | some c =>
    let t := { s with
      vid := { s.vid with jobs := tabDel s.vid.jobs (fn * 256 + j) }
      fry := { s.fry with chans := tabMap (fun (x : Chan) => { x with queue := x.queue.map fun (d : Desc) =>
        if d.fn == fn && (fdesc d.raw).xform == 8 && (fdesc d.raw).src == j then { d with ended := some c.stream } else d }) s.fry.chans } }
    t.clearHolds fn c.stream

/-- A closing stream whose last picture is out ends: its jobs end, its pool slots go back once its last descriptor has ended, and
CMD_DONE follows (R344). -/
def State.settleClose (s : State) (k : Nat) : State :=
  match s.stream k with
  | none => s
  | some v => match v.closing with
    | none => s
    | some (fn, mbx) =>
      if !v.decoded.isEmpty then s else
      let t := (s.jobsOf v.fn k).foldl (fun t e => t.endJob v.fn e.1) s
      let t := { t with vid := { t.vid with streams := tabDel t.vid.streams k
                                            closed := tabSet t.vid.closed k v.slots.length } }
      t.cmdDone fn mbx 0x401 rOk []

/- Choosing work. -/

/-- The first of a list after the last one served, in ascending order round and round (R321). -/
def roundRobin (last : Option Nat) (l : List Nat) : Option Nat :=
  match last with
  | none => l.foldl (fun m k => match m with | none => some k | some j => some (min j k)) none
  | some a =>
    let least := fun (x : List Nat) => x.foldl (fun m k => match m with | none => some k | some j => some (min j k)) (none : Option Nat)
    match least (l.filter fun k => decide (a < k)) with
    | some k => some k
    | none => least l

/-- The stream that an engine serves next. -/
def State.nextStream (s : State) (eng : Nat) : Option Nat :=
  roundRobin (tabFind s.vid.rr eng) ((s.vid.streams.filter fun e => e.2.eng == eng && !e.2.queue.isEmpty && e.2.closing.isNone &&
    e.2.waiting.isEmpty && !s.blocked e.2.fn e.1).map (·.1))

/-- An engine of the media die that is not down, and not stopped by a trip (R27, R516). -/
def State.engUp (s : State) (eng : Nat) : Bool := !s.mediaDown && !s.pwr.trip && !s.pwr.supply && s.rdF .VID_ENG_STATUS eng 0 2 != 3

/- The search window (R337). -/

/-- The columns that the window loads at CTU column c: five at the start of a row, then the one new column. -/
def winLoads (c : Nat) : List Int := if c = 0 then [-2, -1, 0, 1, 2] else [(c : Int) + 2]

/-- The window after its step to CTU column c of a row: it slides by one column. -/
def winStep (w : EncWin) (row c : Nat) : EncWin :=
  { row := row, cols := if c = 0 then winLoads 0 else w.cols.drop 1 ++ winLoads c }

/-- The window at CTU column c of a row of CTUs. -/
def winAt (row c : Nat) : EncWin := (List.range (c + 1)).foldl (fun w k => winStep w row k) {}

/-- A luma position lies in the window: one of its columns, and 64 rows above to 64 rows below the CTU row. -/
def EncWin.holds (w : EncWin) (x y : Int) : Bool :=
  w.cols.contains (x / 64) && decide (64 * (w.row : Int) - 64 ≤ y ∧ y < 64 * (w.row : Int) + 128)

/-- The window at the CTU of a block. -/
def EncBlock.win (b : EncBlock) : EncWin := winAt (b.y / 64) (b.x / 64)

/-- The luma samples that a prediction reads along one axis: a fraction of a sample takes three more before and four after, as the 8-tap
filters of both standards do (log entry 106). -/
def predSpan (o n : Nat) (v : Int) : Int × Int :=
  let a := (o : Int) + v / 4
  let b := a + n - 1
  if v % 4 = 0 then (a, b) else (a - 3, b + 4)

/-- The prediction of a block reads inside the window only. Samples beyond the picture are read as its padded edge (sampleAt). -/
def EncBlock.inWindow (b : EncBlock) : Bool :=
  let (x0, x1) := predSpan b.x b.w b.mx
  let (y0, y1) := predSpan b.y b.h b.my
  b.win.holds x0 y0 && b.win.holds x1 y1

/-- The blocks that the encoder codes: none whose prediction reads outside the window. -/
def codedBlocks (l : List EncBlock) : List EncBlock := l.filter (·.inWindow)

/- Rate control. -/

/-- STEP and OMAX of R339. -/
def rateStep (codec : Nat) : Nat × Nat := if codec = 1 then (2, 12) else (8, 48)

/-- The bucket size in bits (R338): kb/s × ms. -/
def VStream.bucket (v : VStream) : Nat := v.maxbr * v.window

/-- The bits predicted at an offset (R339); no picture of the type came before it: a free value (log entry 39). -/
def VStream.predict (v : VStream) (typ o free : Nat) : Nat :=
  match tabFind v.last typ with
  | some (b, q) => b * Config.quantStep v.codec q / max 1 (Config.quantStep v.codec (v.q + o))
  | none => free

/-- The offset of the next picture (R339). -/
def VStream.offset (v : VStream) (typ free : Nat) : Nat :=
  let (st, om) := rateStep v.codec
  let hi := min om (v.off + st)
  ((List.range (hi + 1)).find? fun o => decide (v.off - 1 ≤ o) &&
    decide (10 * (v.full + v.predict typ o free) ≤ 9 * v.bucket)).getD hi

/-- Fullness after a unit of b bits (R338); f is the picture rate × 1,000. -/
def VStream.fuller (v : VStream) (b : Nat) : Nat := v.full + b - v.maxbr * 1000000 / max 1 (v.params[7]?.getD 1)

/-- Where the next unit of a length begins in the output ring (R327). -/
def VStream.place (v : VStream) (len : Nat) : Nat :=
  let p := ceilDiv v.wp 64 * 64
  if p % v.ringLen + len > v.ringLen then (p / v.ringLen + 1) * v.ringLen else p

/-- A unit of a length fits wholly below RP + ring length. -/
def VStream.fits (v : VStream) (len : Nat) : Bool := decide (v.place len + len ≤ v.rp + v.ringLen)

/-- Reset a video engine (R334, R344, R348): decode waits for a key picture, encode restarts with one. -/
def State.resetVideo (s : State) (eng : Nat) : State :=
  let t := (s.count .VID_ENG_RESETS eng 1).hwSet .VID_EVT 0 4
  let mark := fun (v : VStream) => if v.eng = eng then { v with waitKey := true } else v
  { t with vid := { t.vid with streams := tabMap mark t.vid.streams } }

/- Argument limits. -/

/-- A 32-bit argument as a signed number. -/
def State.sarg (s : State) (fn mbx i : Nat) : Int := signed 32 (s.arg fn mbx i)

/-- The limits of an encode stream's settings (R317, R338). -/
def encSetOk (codec q maxbr window keyInt : Nat) : Bool :=
  decide (q ≤ if codec = 1 then 51 else 255) && decide (100 ≤ maxbr ∧ maxbr ≤ 100000) && decide (100 ≤ window ∧ window ≤ 10000) &&
  decide (1 ≤ keyInt ∧ keyInt ≤ 65535)

/-- The limits of a decode stream by codec: 0 H.264, 1 H.265, 2 AV1 (R316; log entry 38). -/
def decodeOk (codec w h depth : Nat) : Bool :=
  decide (128 ≤ w ∧ 128 ≤ h) &&
  (match codec with
   | 0 => decide (w ≤ 4096 ∧ h ≤ 2304) && depth == 8
   | 1 => decide (w ≤ 8192 ∧ h ≤ 4320) && (depth == 8 || depth == 10)
   | 2 => decide (w ≤ 8192 ∧ h ≤ 4352) && (depth == 8 || depth == 10)
   | _ => false)

/-- The limits of an encode stream (R317). -/
def encodeOk (codec w h depth bpics : Nat) : Bool :=
  (codec == 1 || codec == 2) && decide (128 ≤ w ∧ w ≤ 4096 ∧ 128 ≤ h ∧ h ≤ 2304) && (depth == 8 || depth == 10) && decide (bpics ≤ 3)

/-- The stream that VID_STREAM_OPEN asks for. -/
def State.openArgs (s : State) (fn mbx : Nat) : VStream :=
  let w := s.arg fn mbx
  let enc := w 1 = 1
  { fn := fn, eng := if enc then 8 + w 0 else w 0, enc := enc, codec := w 2, w := w 5, h := w 6, depth := w 8
    cost := streamCost (w 5) (w 6) (w 7) (w 8), params := (List.range 22).map w, area := s.arg64 fn mbx 10, ring := s.arg64 fn mbx 14
    ringLen := w 16, q := w 17, maxbr := w 18, window := w 19, keyInt := w 20, slots := List.replicate (w 9) {} }

/-- The argument limits of VID_STREAM_OPEN (R316, R317, R320, R327, R328, R335). -/
def State.openOk (s : State) (fn mbx : Nat) (v : VStream) : Bool :=
  let w := s.arg fn mbx
  let areaLen := s.arg64 fn mbx 12
  decide (w 1 ≤ 1) && decide (w 7 ≠ 0) && decide (2 ≤ w 9 ∧ w 9 ≤ 16) && s.inView fn v.area areaLen &&
  decide (v.slots.length * v.bufBytes ≤ areaLen) &&
  (if v.enc then
    decide (w 0 < 4) && bitAt (s.prt fn).enc (w 0) && encodeOk v.codec v.w v.h v.depth (w 21) &&
    encSetOk v.codec v.q v.maxbr v.window v.keyInt && decide (v.cost ≤ 61200) && v.ringLen % 4096 == 0 &&
    decide (2 * auMax v.w v.h v.depth ≤ v.ringLen ∧ v.ringLen ≤ 2 ^ 30)
  else
    decide (w 0 < 8) && bitAt (s.prt fn).dec (w 0) && decodeOk v.codec v.w v.h v.depth && decide (v.cost ≤ 122400) &&
    v.ring % 2048 == 0 && s.inView fn v.ring 131072)

/-- The limits of the pre-processing parameters (R336): crop, DESKEW, ROT and the scale ratio to the output. -/
def prepOk (x y w h : Nat) (deskew : Int) (rot ow oh : Nat) : Bool :=
  let rw := if rot % 2 = 1 then h else w
  let rh := if rot % 2 = 1 then w else h
  x % 2 == 0 && y % 2 == 0 && w % 2 == 0 && h % 2 == 0 && w != 0 && h != 0 && decide (-960 ≤ deskew ∧ deskew ≤ 960) &&
  decide (rot < 4) && decide (rw ≤ 8 * ow ∧ ow ≤ 2 * rw ∧ rh ≤ 8 * oh ∧ oh ≤ 2 * rh)

/-- The limits of R340; OFMT takes the codes of R105 (log entry 38). -/
def State.jobArgsOk (s : State) (fn mbx : Nat) : Bool :=
  let w := s.arg fn mbx
  decide (w 0 < 256) && (s.job fn (w 0)).isNone && decide (16 ≤ w 8 ∧ w 8 ≤ 8192 ∧ 16 ≤ w 9 ∧ w 9 ≤ 8192) &&
  prepOk (w 2) (w 3) (w 4) (w 5) (s.sarg fn mbx 6) (w 7) (w 8) (w 9) && decide (w 11 < 3 ∧ w 12 < 2 ∧ w 13 < 3 ∧ w 14 < 3) &&
  [0, 2, 3, 7].contains (w 15) && decide (w 22 < 2)

end Sys2Proof.Machine
end

