-- ==== Sys2Proof/Machine/Mailboxes.lean ====
section
/-! DEFINITION. Mailboxes, event rings and vectors (09 R353 to R372): posts, the checks that the firmware makes of every command,
function-level reset and the firmware's start. -/

namespace Sys2Proof.Machine

open Sys2Proof

/-- Who may issue a command (R364). -/
inductive Issuer where
  | pf0 | vf | any | own
  deriving DecidableEq, Repr

/-- The issuer and payload words of a group's commands, in opcode order (R364). -/
def groupTable (g : Nat) : List (Issuer × Nat) :=
  match g with
  | 0 => [(.any, 0), (.any, 0), (.pf0, 0), (.pf0, 0), (.pf0, 0), (.pf0, 0), (.any, 0), (.pf0, 1), (.pf0, 1), (.any, 0)]
  | 1 => [(.own, 0), (.pf0, 17), (.pf0, 1), (.pf0, 18), (.own, 0), (.pf0, 2), (.vf, 2), (.vf, 3), (.vf, 1)]
  | 2 => [(.vf, 4), (.vf, 1), (.vf, 5), (.vf, 1), (.vf, 1), (.vf, 6), (.vf, 6)]
  | 3 => [(.vf, 26), (.vf, 21), (.vf, 2), (.vf, 4), (.vf, 3), (.vf, 4), (.vf, 1), (.vf, 1), (.vf, 1)]
  | 4 => [(.vf, 22), (.vf, 1), (.vf, 6), (.vf, 11), (.vf, 5), (.vf, 23), (.vf, 1), (.vf, 7), (.vf, 1), (.vf, 3)]
  | 5 => [(.own, 0), (.vf, 8), (.pf0, 2), (.pf0, 1), (.pf0, 1), (.own, 3), (.pf0, 0)]
  | 6 => [(.pf0, 4), (.pf0, 0), (.pf0, 4), (.pf0, 1), (.pf0, 3), (.pf0, 4), (.pf0, 1), (.pf0, 0), (.pf0, 0)]
  | 7 => [(.any, 0), (.any, 4), (.pf0, 3), (.pf0, 3), (.pf0, 1), (.pf0, 0)]
  | 8 => [(.pf0, 4), (.pf0, 8), (.pf0, 0), (.pf0, 0), (.pf0, 0), (.pf0, 2)]
  | 9 => [(.any, 0), (.pf0, 1), (.pf0, 1), (.pf0, 0)]
  | _ => []

/-- The issuer and payload words of an opcode, if a table lists it. -/
def cmdInfo (op : Nat) : Option (Issuer × Nat) := (groupTable (op / 256))[op % 256]?

/-- PF0 or the service port with its rights (R361). -/
def isPf0 (fn : Nat) : Bool := fn == 0 || decide (17 ≤ fn)

/-- The function may issue the command (R364). -/
def Issuer.allows (i : Issuer) (fn : Nat) : Bool :=
  match i with
  | .pf0 => isPf0 fn
  | .vf => !isPf0 fn
  | .any | .own => true

/-- Payload words of a post: PF0 names the VF of an Own command first (R364). -/
def postLen (i : Issuer) (n fn : Nat) : Nat := if i == .own && isPf0 fn then n + 1 else n

/-- In the valley state, or on the way in or out (R622). -/
def State.inValley (s : State) : Bool := s.rdF .TIM_STATUS 0 8 2 != 0

/-- Commands that need islands, ferries, sorters, video engines or plain data (R622; log entry 44). -/
def needsWork (op : Nat) : Bool :=
  [0x106, 0x107, 0x108, 0x200, 0x202, 0x203, 0x205, 0x206, 0x301, 0x305, 0x606, 0x903].contains op || op / 256 == 4

/-- The arguments of a command break its limits (R365), for those commands that a state of the module may turn away after them. -/
def State.badLimit (s : State) (fn mbx op : Nat) : Bool :=
  let w := s.arg fn mbx
  match op with
  | 0x106 => w 1 == 0 || decide ((s.prt fn).npages < w 0 + w 1)
  | 0x107 => w 1 == 0 || decide ((s.prt fn).npages < w 0 + w 1) || decide (1 < w 2)
  | 0x108 => decide ((s.prt fn).npages ≤ w 0)
  | 0x200 => decide (63 < w 0) || w 3 == 0
  | 0x202 =>
    let is := maskBits (s.arg64 fn mbx 1) 64
    decide (63 < w 0) || is.isEmpty || is.any fun k => (s.nthIsland fn k).isNone
  | 0x205 => s.arg64 fn mbx 4 == 0 || !s.inView fn (s.arg64 fn mbx 2) (s.arg64 fn mbx 4)
  | 0x206 => s.arg64 fn mbx 4 == 0 || !s.inView fn (s.arg64 fn mbx 0) (s.arg64 fn mbx 4)
  | 0x400 => !s.openOk fn mbx (s.openArgs fn mbx)
  | 0x402 => w 3 == 0 || decide (8 * 2 ^ 20 < w 3)
  | 0x405 => !s.jobArgsOk fn mbx
  | 0x407 => w 2 == 0
  | 0x606 => decide (64 ≤ w 0) && w 0 != 0xFFFF
  | _ => false

/-- Binding commands that start a valley exit themselves (R622). -/
def startsExit (op : Nat) : Bool := [0x101, 0x102, 0x103, 0x104].contains op

/-- Begin a valley exit (R622, R623). -/
def State.beginExit (s : State) : State :=
  if s.rdF .TIM_STATUS 0 8 1 = 0 || s.clk.exiting then s else
  { s with clk := { s.clk with exiting := true, valleyT := s.time } }.wrF .TIM_STATUS 0 9 1 1

/-- What the firmware answers a posted command before its own conditions (R365, R373, R580, R385), and in the valley state after its argument
limits (R622); none lets the command run. -/
def State.screen (s : State) (fn mbx op len : Nat) : Option Nat :=
  match cmdInfo op with
  | none => some rBadOpcode
  | some (i, n) =>
    let g := op / 256
    if !i.allows fn then some rDenied
    else if len ≠ postLen i n fn then some rBadLen
    else if !isPf0 fn && !(s.prt fn).bound && g != 0 && g != 7 then some rNotFound
    else if s.pair.mirrored && s.role == roleStandby && ((!isPf0 fn && g != 0 && g != 7 && op != 0x900) || (isPf0 fn && g == 1)) then
      some rBusy
    else if !s.pair.mirrored && s.role == roleStandby && !isPf0 fn && g != 0 && g != 7 && op != 0x900 then some rBusy
    else if s.inValley && needsWork op && !s.badLimit fn mbx op then some rBusy
    else none

/-- The input goes to the standby before it is executed (R578). -/
def mirrorsInput (fn op : Nat) : Bool :=
  let g := op / 256
  if isPf0 fn then g == 1 || (g == 5 && !([0x500, 0x505, 0x506].contains op)) else true

/-- The firmware takes a post: it answers at once or lets the command's own step run (R359, R365). -/
def State.take (s : State) (fn mbx : Nat) : State :=
  let h := s.mbxW fn mbx 63
  let op := bits h 0 12
  match s.screen fn mbx op (bits h 12 6) with
  | some code => s.respond fn mbx code []
  | none =>
    let t := if s.inValley && startsExit op then s.beginExit else s
    if t.pair.mirrored && t.role != roleStandby && mirrorsInput fn op then t.twinSend 5 else t

/-- What the mailbox hardware answers without the firmware (R356). -/
def State.refusal (s : State) (fn op : Nat) : Option Nat :=
  let st := s.fnState fn
  if st = fnBooting then some rNotReady else if st = fnScrubbing then some rBusy
  else if st = fnOos && !([0, 6, 8].contains (op / 256)) then some rOos else none

/-- A header write (R354 to R356): the post, the hardware's own answer, the wait for a handover window, or the firmware. -/
def State.postHeader (s : State) (fn mbx header : Nat) : State :=
  if s.owned fn mbx || !bitAt header 31 then s.dropWr fn else
  let t := s.setMbxW fn mbx 63 (bits header 0 27 + 2 ^ 31)
  let t := { t with mbx := { t.mbx with postT := tabSet t.mbx.postT (fn * 32 + mbx) t.time } }
  match t.refusal fn (bits header 0 12) with
  | some code =>
    let f := if fn = 17 then 0 else fn
    ((t.count .FN_POST_REFUSED f 1).hwSet .FN_EVT f 1).respond fn mbx code []
  | none =>
    if t.fnState fn = fnHandover then { t with mbx := { t.mbx with deferred := t.mbx.deferred ++ [(fn, mbx)] } }
    else t.take fn mbx

/-- R353 to R356, R359, R365. -/
def execMailboxPost (fn mbx header : Nat) (s : State) : Out :=
  onUnit s (decide (fn ≤ 16 ∧ mbx < 16)) (s.postHeader fn mbx header)

/-- R353, R355, R385. -/
def execMailboxPayloadWrite (fn mbx word value : Nat) (s : State) : Out :=
  onUnit s (decide (fn ≤ 16 ∧ mbx < 16 ∧ word < 63))
    (if s.owned fn mbx || s.fnState fn == fnScrubbing then s.dropWr fn else s.setMbxW fn mbx word value)

/-- R368, R372. -/
def execEvtRingEnable (fn value : Nat) (s : State) : Out :=
  onUnit s (decide (fn ≤ 16)) (s.swWrite fn .FN_EVT_CTL fn value)

/-- R368: FN_EVT_BASE, FN_EVT_PROD_ADDR or FN_EVT_SIZE, by offset. -/
def execEvtRingConfigWrite (fn off value : Nat) (s : State) : Out :=
  onUnit s (decide (fn ≤ 16) && [0x2000, 0x2008, 0x2010].contains off)
    ((s.swWrite fn (if off = 0x2000 then .FN_EVT_BASE else if off = 0x2008 then .FN_EVT_PROD_ADDR else .FN_EVT_SIZE) fn value).unhold
      fn off)

/-- R368. -/
def execFnEvtAckWrite (fn value : Nat) (s : State) : Out :=
  onUnit s (decide (fn ≤ 16)) ((s.swWrite fn .FN_EVT_ACK fn value).unhold fn 0x2020)

/-- R370: one of the eight vector map registers, by offset. -/
def execVectorMapWrite (fn off value : Nat) (s : State) : Out :=
  onUnit s (decide (fn ≤ 16 ∧ 0x100 ≤ off ∧ off < 0x120) && off % 4 == 0) <|
  match s.regAt fn off with
  | some (_, r, i) => s.swWrite fn r i value
  | none => s

/-- R370: COAL_US has passed since the first record that waits for the vector. -/
def execInterruptCoalesceTimeout (fn vec : Nat) (s : State) : Out :=
  onUnit s (decide (fn ≤ 16) && decide (vec < vecCount fn)) <|
  let k := fn * 256 + vec
  if s.rdF .FN_INT_COAL fn 0 16 = 0 || tabGet s.mbx.coal 0 k = 0 then s
  else { s with mbx := { s.mbx with coal := tabSet s.mbx.coal k 0 } }.raiseVec fn vec

/- Function-level reset. -/

/-- The registers that R360 resets. -/
def flrRegs : List Reg :=
  [.FN_MBX_VEC0, .FN_MBX_VEC1, .FN_MBX_VEC2, .FN_MBX_VEC3, .FN_EVT_VEC0, .FN_EVT_VEC1, .FN_EVT_VEC2, .FN_EVT_VEC3, .FN_INT_COAL,
   .FN_EVT_BASE, .FN_EVT_PROD_ADDR, .FN_EVT_SIZE, .FN_EVT_CTL, .FN_EVT_PROD, .FN_EVT_ACK, .FN_EVT_DROPPED, .FN_EVT, .FN_EVT_CNT,
   .FN_DROPPED_WR, .FN_POST_REFUSED, .FN_BAR2_DROPPED]

/-- Every register of a function's BAR0 that a reset of the function covers, its mailboxes, latches and interrupt moderation
(R360). -/
def State.resetFnRegs (s : State) (fn : Nat) : State :=
  let t := flrRegs.foldl (fun t r => t.wr r fn (r.resetVal fn)) s
  { t with mbx := { t.mbx with
    words := t.mbx.words.filter fun e => e.1 / 2048 != fn || decide (1024 ≤ e.1 % 2048)
    latch := t.mbx.latch.filter fun e => e.1 / 65536 != fn
    heldLow := t.mbx.heldLow.filter fun e => e.1 / 65536 != fn
    dropped := tabDel t.mbx.dropped fn
    coal := t.mbx.coal.filter fun e => e.1 / 256 != fn
    deferred := t.mbx.deferred.filter fun e => e.1 != fn } }

/-- Commands that PF0 posted before its reset run on with their responses discarded: they stand under function 18 (R360). -/
def State.orphanPf0 (s : State) : State :=
  let up := fun (k : Nat) => if k < 1024 ∧ s.owned 0 (k / 64) then k + 18 * 2048 else k
  { s with mbx := { s.mbx with
    words := (s.mbx.words.filter fun (e : Nat × Word32) => e.1 / 2048 != 18).map fun e => (up e.1, e.2)
    postT := (s.mbx.postT.filter fun (e : Nat × Nat) => e.1 / 32 != 18).map fun e =>
      (if e.1 < 16 ∧ s.owned 0 e.1 then e.1 + 18 * 32 else e.1, e.2)
    async := s.mbx.async.map fun a => if a.fn = 0 then { a with fn := 18 } else a
    deferred := s.mbx.deferred.map fun e => if e.1 = 0 then (18, e.2) else e } }

/-- A locked interface moves to ERROR (R409). -/
def State.tdiError (s : State) (fn : Nat) : State :=
  match tabGet s.lnk.tdi .unlocked fn with
  | .locked | .run => { s with lnk := { s.lnk with tdi := tabSet s.lnk.tdi fn .error } }
  | _ => s

/-- R360, R390, R387, R409: a VF's reset also resets its partition. -/
def execFunctionLevelReset (fn : Nat) (s : State) : Out :=
  onUnit s (decide (fn ≤ 16)) <|
  if fn = 0 then s.orphanPf0.resetFnRegs 0
  else
    let t := (s.resetFnRegs fn).tdiError fn
    let t := { t with mbx := { t.mbx with async := t.mbx.async.filter fun a => a.fn != fn } }
    if (t.prt fn).bound then (if t.inValley then t.beginExit else t).startScrub fn .flr none 0 (t.prt fn) else t

/- The firmware's start. -/

/-- FN_FW_VER and FN_FW_SLOT take the running image's values (R372). -/
def State.showFw (s : State) : State :=
  s.allFns fun t f => (t.wrN .FN_FW_VER f (t.fwSlot t.upd.running).ver).wrN .FN_FW_SLOT f t.upd.running

/-- The STATE of a function once the firmware runs: UNBOUND for a VF that holds nothing (R351, R373). -/
def State.runState (s : State) (fn : Nat) : Nat := if fn = 0 || (s.prt fn).bound then fnReady else fnUnbound

/-- The firmware becomes ready: identities, states, and READY to every function whose ring is enabled (R372). -/
def State.firmwareReady (s : State) : State :=
  let t := s.showFw
  let t := t.allFns fun t f => if t.fnState f = fnBooting then t.wrF .FN_STATUS f 0 3 (t.runState f) else t
  t.allFns fun t f => if t.rdF .FN_EVT_CTL f 0 1 = 1 then t.readyEvt f else t

end Sys2Proof.Machine
end

