-- ==== Sys2Proof/Machine/Spares.lean ====
section
/-! DEFINITION. Self-test, spare cores and the reset of an island (02 R39, R79 to R83, 15 R554). -/

namespace Sys2Proof.Machine

open Sys2Proof

/-- ISL_SPARE, ISL_SLOT_MAP and EXPOSED follow the map from slots to physical cores (R89 to R91). -/
def State.showCores (s : State) (i : Nat) : State :=
  let ph := (s.isl i).phys
  let place := fun (t : State) (core lo : Nat) => match ph.findIdx? (· == core) with
    | some k => (t.wrF .ISL_SPARE i lo 6 k).wrF .ISL_SPARE i (lo + 6) 1 1
    | none => (t.wrF .ISL_SPARE i lo 6 0).wrF .ISL_SPARE i (lo + 6) 1 0
  let t := place (place s 64 8) 65 16
  (t.wrN .ISL_SLOT_MAP i (2 ^ ph.length - 1)).wrF .ISL_STATUS i 16 7 ph.length

/-- The health of a physical core. -/
def State.health (s : State) (i ph : Nat) : CoreHealth := tabGet s.fab.cores {} (i * 66 + ph)

/-- The slots of an island whose physical core is failing, highest first. -/
def State.failingSlots (s : State) (i : Nat) : List Nat :=
  ((s.isl i).phys.zipIdx.filter fun e => (s.health i e.1).failing.isSome).map (·.2) |>.reverse

/-- The healthy spares that have served no slot yet (R82). -/
def State.sparesLeft (s : State) (i : Nat) : List Nat :=
  [64, 65].filter fun k => !(s.isl i).phys.contains k && (s.health i k).failing.isNone && decide (s.rdF .ISL_SPARE i 0 2 < 2)

/-- A physical core fails its self-test: logged, and marked failing (R79, R80). -/
def State.selftestFail (s : State) (i ph : Nat) : State :=
  let t := (s.log (islDie i) 1 (i % 16) ph 0x08 (s.islOwner i) 2 0 0 0).hwSet .ISL_EVT i 128
  t.markFailing i ph

/-- The cores that failed self-test on an island, as physical numbers. -/
def failedOn (failed : List Nat) (i : Nat) : List Nat := (failed.filter fun k => k / 66 == i).map (· % 66)

/-- The self-test of a physical core (R80): it fails where the command that tests names it, or, where no command names results, as a free
value says (log entry 87). A core that passes is no longer suspect (log entry 88). -/
def State.testCore (s : State) (i ph : Nat) (failed : Option (List Nat)) : State × Bool :=
  let (bad, t) := match failed with
    | some l => (l.contains (i * 66 + ph), s)
    | none => let (w, t) := s.free; (bitAt w.toNat 0, t)
  if bad then (t.selftestFail i ph, true) else
  let h := t.health i ph
  (if h.suspect then { t with fab := { t.fab with cores := tabSet t.fab.cores (i * 66 + ph) { h with suspect := false } } } else t, false)

/-- Place the first spare of a list that passes its self-test behind a slot (R82); none where no spare is left. -/
def State.placeSpare (s : State) (i k : Nat) (failed : Option (List Nat)) : List Nat → State × Bool
  | [] => (s, false)
  | c :: r =>
    let (t, bad) := s.testCore i c failed
    if bad then t.placeSpare i k failed r else
    let t := t.updIsl i fun v => { v with phys := v.phys.set k c }
    (((t.wrF .ISL_SPARE i 0 2 (t.rdF .ISL_SPARE i 0 2 + 1)).showCores i).hwSet .ISL_EVT i 512, true)

/-- Remove a slot: those above it are renumbered down (R83). What local SRAM holds stays under the slot's number (log entry 89). -/
def State.dropSlot (s : State) (i k : Nat) : State :=
  let t := s.updIsl i fun v => { v with phys := v.phys.eraseIdx k }
  let t := ((t.wrF .ISL_SPARE i 2 6 (t.rdF .ISL_SPARE i 2 6 + 1)).showCores i).hwSet .ISL_EVT i 1024
  let w := [i, t.exposed i]
  (t.post 0 0x0101 w).postOwner (t.islOwner i) 0x0101 w

/-- Place a spare behind a slot (R82), or remove the slot where none is left (R83), also where the spare that is left fails (log entry
90). -/
def State.remapSlot (s : State) (i k : Nat) (failed : Option (List Nat)) : State :=
  let (t, placed) := s.placeSpare i k failed (s.sparesLeft i)
  if placed then t else t.dropSlot i k

/-- Self-test and remap: all 66 physical cores or the suspect and failing ones are tested, and every failing core loses its slot (R80 to
R83). -/
def State.testIsland (s : State) (i : Nat) (all : Bool) (failed : Option (List Nat)) : State :=
  let cores := (List.range 66).filter fun k => all || (s.health i k).suspect || (s.health i k).failing.isSome
  let t := cores.foldl (fun t k => (t.testCore i k failed).1) s
  let t := (t.failingSlots i).foldl (fun t k => t.remapSlot i k failed) t
  t.wrF .ISL_STATUS i 24 1 0

/-- The units of one island start again (R39, R69, R85): its cycle count, caches, claim and fence counters, bubbles, tensor and vector
units and ferries. That claim and fence counters (R63, R228) and the round robin of R236 start again is a choice (log entry 91). -/
def State.clearIsland (s : State) (i : Nat) : State :=
  let t := s.accrueSteps.setIsl i { phys := (s.isl i).phys, cyc0 := s.dieCycles (islDie i), badWords := (s.isl i).badWords }
  { t with
    fab := { t.fab with tens := t.fab.tens.filter fun e => e.1 / 64 != i
                        threads := t.fab.threads.filter fun e => thIsl e.1 != i
                        vbusy := t.fab.vbusy.filter fun e => e.1 / 64 != i
                        used := t.fab.used.filter fun e => e.1 / 64 != i
                        rr := t.fab.rr.filter fun e => e.1 / 64 != i }
    fry := { t.fry with chans := t.fry.chans.map fun (e : Nat × Chan) => if e.1 < 0x8000 && e.1 / 8 == i then (e.1, e.2.clear) else e } }
    |>.wrF .ISL_BUBBLE i 7 1 0

/-- The reset of one island: its units start again, then self-test and remap (R39, R80, R81). -/
def State.resetIsland (s : State) (i : Nat) (all : Bool) (failed : Option (List Nat)) : State :=
  (s.clearIsland i).testIsland i all failed

/-- The record of an engine reset: its counter, RAS_EVT, and the RESET event and entry (R555, R571). -/
def State.engineRecord (s : State) (src cause : Nat) : State :=
  ((s.count .RAS_ENG_RESETS 0 1).hwSet .RAS_EVT 0 32).resetRecord 1 src cause (s.srcOwner src)

/-- An island whose core awaits its remap is reset for it (R81, R389). -/
def State.remapIsland (s : State) (i : Nat) : State :=
  if s.rdF .ISL_STATUS i 24 1 = 0 then s else (s.resetIsland i false none).engineRecord (srcIsland i) 7

end Sys2Proof.Machine
end

