-- ==== Sys2Proof/Machine/PartOps.lean ====
section
/-! DEFINITION. Partition layouts: what a binding command asks for, the checks of R376 and R379, and the scrub that installs a
layout (10 R373 to R390). -/

namespace Sys2Proof.Machine

open Sys2Proof

/-- The resources that the payload names from word o on (R375, R364). -/
def State.bindArgs (s : State) (fn mbx o : Nat) : Part :=
  let w := fun k => s.arg fn mbx (o + k)
  { islands := s.arg64 fn mbx o, hcores := w 2, npages := w 3, dec := w 4, enc := w 5, srt := w 6, qcount := w 7, abase := w 8
    acount := w 9, npool := w 10, share := w 11, lf := s.arg64 fn mbx (o + 12), budget := w 14, ramp := w 15 }

/-- N is a multiple of 64 from 64 to 4,096 (R237). -/
def rampOk (n : Nat) : Bool := n % 64 == 0 && decide (64 ≤ n ∧ n ≤ 4096)

/-- The set bits of a long-ferry mask name no reserved channel, and at most 16 (R375). -/
def lfOk (m : Nat) : Bool := (maskBits m 64).all (fun g => g % 4 != 3) && decide ((maskBits m 64).length ≤ 16)

/-- Every value lies inside the table of R375, and slot 4,095 is not named (R376). -/
def Part.inTable (p : Part) : Bool :=
  decide (p.islands < 2 ^ 64 ∧ p.hcores < 2 ^ 12 ∧ p.npages ≤ 1802240 ∧ p.dec < 256 ∧ p.enc < 16 ∧ p.srt < 16 ∧ p.qcount ≤ 1024 ∧
    p.acount ≤ 4095 ∧ p.npool ≤ 65536 ∧ p.share ≤ 65536 ∧ p.budget ≤ 1250) &&
  (p.acount == 0 || decide (p.abase + p.acount ≤ 4095)) && lfOk p.lf

/-- A named island or engine is FAILED (R376). -/
def State.namesFailed (s : State) (p : Part) : Bool :=
  (maskBits p.islands 64).any (fun i => s.rdF .ISL_STATUS i 0 3 == 6) ||
  (maskBits p.dec 8).any (fun e => s.rdF .VID_ENG_STATUS e 0 2 == 3) || (maskBits p.enc 4).any (fun e => s.rdF .VID_ENG_STATUS (8 + e) 0 2 == 3)

/-- Two runs share a number. -/
def runsMeet (a n b m : Nat) : Bool := n != 0 && m != 0 && decide (a < b + m ∧ b < a + n)

/-- Two partitions name one resource. -/
def Part.meets (p q : Part) : Bool :=
  Nat.land p.islands q.islands != 0 || Nat.land p.hcores q.hcores != 0 || Nat.land p.dec q.dec != 0 || Nat.land p.enc q.enc != 0 ||
  Nat.land p.srt q.srt != 0 || Nat.land p.lf q.lf != 0 || runsMeet p.abase p.acount q.abase q.acount

/-- What a VF holds, and what its scrub will give it. -/
def State.holdings (s : State) (v : Nat) : List Part := s.prt v :: ((tabFind s.part.scrubs v).map (·.next)).toList

/-- The holdings of every VF but those named. -/
def State.others (s : State) (skip : List Nat) : List (List Part) :=
  ((List.range 17).filter fun v => decide (1 ≤ v) && !skip.contains v).map s.holdings

/-- A count that the other VFs hold. -/
def State.heldElse (s : State) (skip : List Nat) (f : Part → Nat) : Nat :=
  ((s.others skip).map fun l => (l.map f).foldl max 0).sum

/-- Free pages that no scrub in progress has been promised. -/
def State.pagesLeft (s : State) : Nat :=
  s.freePages - (s.part.scrubs.map fun e =>
    e.2.next.npages + e.2.next.npool - ((s.prt e.1).pages.length + (s.prt e.1).pool.length)).sum

/-- The lowest QBASE at which n pass ids are free beside some quotas (R376). -/
def lowestQuota (n : Nat) (qs : List Part) : Option Nat :=
  if n = 0 then some 0 else
  ((List.range 1024).find? fun b => decide (b + n ≤ 1024) && qs.all fun q => !runsMeet b n q.qbase q.qcount)

/-- The entries and the budget cover a new layout of some VFs (R376). -/
def State.countsFit (s : State) (skip : List Nat) (ps : List Part) : Bool :=
  decide (s.heldElse skip (·.share) + (ps.map (·.share)).sum ≤ 65536) && decide (s.heldElse skip (·.budget) + (ps.map (·.budget)).sum ≤ 1250)

/-- A run of adapter slots beside a run that it extends (R379). -/
def joinRun (b n c m : Nat) : Option Nat :=
  if n = 0 then some c else if c + m = b then some c else if b + n = c then some b else none

/-- A partition after resources leave it. -/
def Part.minus (p m : Part) : Part :=
  { p with islands := p.islands - m.islands, hcores := p.hcores - m.hcores, npages := p.npages - m.npages, dec := p.dec - m.dec
           enc := p.enc - m.enc, srt := p.srt - m.srt, qcount := p.qcount - m.qcount
           abase := if m.acount != 0 && m.abase == p.abase then p.abase + m.acount else p.abase, acount := p.acount - m.acount
           npool := p.npool - m.npool, share := p.share - m.share, lf := p.lf - m.lf, budget := p.budget - m.budget }

/-- A partition after resources join it. -/
def Part.plus (p m : Part) (qbase abase : Nat) : Part :=
  { p with islands := p.islands + m.islands, hcores := p.hcores + m.hcores, npages := p.npages + m.npages, dec := p.dec + m.dec
           enc := p.enc + m.enc, srt := p.srt + m.srt, qbase := qbase, qcount := p.qcount + m.qcount, abase := abase
           acount := p.acount + m.acount, npool := p.npool + m.npool, share := p.share + m.share, lf := p.lf + m.lf
           budget := p.budget + m.budget }

/-- A mask lies within another. -/
def subMask (a b : Nat) : Bool := Nat.land a b == a

/-- The source holds every resource that is named (R376). -/
def Part.has (p m : Part) : Bool :=
  subMask m.islands p.islands && subMask m.hcores p.hcores && subMask m.dec p.dec && subMask m.enc p.enc && subMask m.srt p.srt &&
  subMask m.lf p.lf && (m.acount == 0 || decide (p.abase ≤ m.abase ∧ m.abase + m.acount ≤ p.abase + p.acount))

/-- The source's counts cover the move. -/
def Part.covers (p m : Part) : Bool :=
  decide (m.npages ≤ p.npages ∧ m.qcount ≤ p.qcount ∧ m.npool ≤ p.npool ∧ m.share ≤ p.share ∧ m.budget ≤ p.budget)

/- The scrub. -/

/-- The state that a function shows outside a scrub: DRAINING while MODULE_DRAIN is in force (R602). -/
def State.restState (s : State) (fn : Nat) : Nat :=
  if s.draining && s.runState fn == fnReady then fnDraining else s.runState fn

/-- RESULT of the work that a scrub ends (R390). -/
def ScrubKind.result : ScrubKind → Nat
  | .bind | .unbind | .give | .take => rRebind
  | _ => rPartReset

/-- RESET cause of a scrub (R555). -/
def ScrubKind.cause : ScrubKind → Nat
  | .flr | .link | .numvfs => 6
  | .ladder => 4
  | _ => 5

/-- Opcode of the command that a scrub completes. -/
def ScrubKind.opcode : ScrubKind → Nat
  | .bind => 0x101 | .unbind => 0x102 | .give | .take => 0x103 | _ => 0x104

/-- An event holds the start of a scrub back (R388). -/
def State.scrubHeld (s : State) (fn : Nat) : Bool :=
  s.upd.stage == .window || s.inValley || s.clk.exiting || s.ras.collecting.isSome ||
  (s.ras.needDump.contains 2 && (tabFind s.part.scrubs fn).any (·.kind == .ladder)) ||
  s.pln.pages.any fun e => e.2.owner == fn && e.2.migrating

/-- Reset a context for good: its work is gone and CTX_DONE has status RESET (R381 step 2, R650). -/
def State.killCtx (s : State) (c fn : Nat) (isls : List Nat) : State :=
  let t := s.discardCtx c
  let t := match t.ctx c with
    | some x => t.setCtx c { x with done := true, restart := false, why := none, charge := none }
    | none => t
  ({ t with ras := { t.ras with suspects := t.ras.suspects.filter (· != c) } }.syncCtx isls).post fn 0x0201 [c, 4, 0]

/-- Every context of a function is reset. -/
def State.killCtxs (s : State) (fn : Nat) : State :=
  (s.fab.ctxs.filter fun e => e.2.fn == fn && e.2.active).foldl (fun t e => t.killCtx e.1 fn e.2.islands) s

/-- Every stream, job and JPEG image of a function stops, and its pool slots are free (R344). -/
def State.stopVideo (s : State) (fn : Nat) : State :=
  let t := (s.vid.jobs.filter fun e => e.1 / 256 == fn).foldl (fun t e => t.endJob fn (e.1 % 256)) s
  { t with vid := { t.vid with streams := t.vid.streams.filter fun e => e.2.fn != fn
                               jpeg := t.vid.jpeg.filter fun x => x.fn != fn } }

/-- Commands of a function that are in flight end with a result (R367). -/
def State.endCommands (s : State) (fn result : Nat) : State :=
  let t := (s.mbx.async.filter fun a => a.fn == fn && !(a.opcode == 0x104)).foldl (fun t a => t.cmdDone fn a.mbx a.opcode result []) s
  (List.range 17).foldl (fun t m => if t.owned fn m then t.respond fn m result [] else t) t

/-- Descriptors of commands of a function leave the queues of the MCP's channels. -/
def State.dropCopies (s : State) (fn : Nat) : State :=
  { s with fry := { s.fry with chans := tabMap (fun (x : Chan) =>
      let keep := x.queue.filter fun d => !(d.fn == fn && d.cmd.isSome)
      { x with queue := keep, done := x.done + (x.queue.length - keep.length) }) s.fry.chans } }

/-- Host reads of a function's descriptors that are outstanding. -/
def State.readsOut (s : State) (fn : Nat) : Nat :=
  (s.fry.chans.map fun e => (e.2.queue.filter fun x => x.started && x.fn == fn && (fdesc x.raw).sasp == 1).length).sum

/-- A scrub's epoch value is drawn, where the limit of R160 allows it now. -/
def State.drawFor (s : State) (fn : Nat) : State :=
  match tabFind s.part.scrubs fn with
  | none => s
  | some x => match x.epoch, s.drawEpoch with
    | none, some (v, t) => { t with part := { t.part with scrubs := tabSet t.part.scrubs fn { x with epoch := some v } } }
    | _, _ => s

/-- The draws of a scrub: a re-bind's two scrubs draw together, the source's value first (R384, R456). -/
def State.drawScrub (s : State) (fn : Nat) (x : Scrub) : State :=
  (if x.peer = 0 then [fn] else if x.kind == .give then [fn, x.peer] else [x.peer, fn]).foldl State.drawFor s

/-- The value that a scrub has drawn. -/
def State.scrubEpoch (s : State) (fn : Nat) : Option Nat := (tabFind s.part.scrubs fn).bind (·.epoch)

/-- Steps 1 and 2 of a scrub (R381); the active of a mirrored pair tells its standby first (R386). -/
def State.scrubBegin (s : State) (fn : Nat) (x : Scrub) : State :=
  let t := if s.pair.mirrored && s.role == roleActive then s.twinSend 4 else s
  let x := { x with started := true, reads := t.readsOut fn }
  let t := { t with
    part := { t.part with scrubs := tabSet t.part.scrubs fn x }
    lnk := { t.lnk with tdi := match tabGet t.lnk.tdi .unlocked fn with
      | .locked | .run => tabSet t.lnk.tdi fn .error
      | _ => t.lnk.tdi } }
  let t := t.setFnState fn fnScrubbing
  let t := ((t.killCtxs fn).dropCopies fn).stopVideo fn
  let t := t.endAll fn x.kind.result
  ((t.endCommands fn x.kind.result).resetRecord 2 fn x.kind.cause fn).drawScrub fn x

/-- The registers, memories and caches of a partition's islands are zero (R381 step 4, R86, R63, R228). -/
def State.zeroIslands (s : State) (is : List Nat) : State :=
  let t := { s with fab := { s.fab with
    lsram := is.foldl (fun m i => memClear m (i * 64 * 2 ^ 18) (64 * 2 ^ 18)) s.fab.lsram
    istore := is.foldl (fun m i => memClear m (i * isBytes) isBytes) s.fab.istore
    threads := s.fab.threads.filter fun e => !is.contains (thIsl e.1)
    tens := s.fab.tens.filter fun e => !is.contains (e.1 / 64) } }
  is.foldl (fun t i => t.updIsl i fun v => { v with tlb := [], lines := [], claims := [], fences := [], badWords := [] }) t

/-- The view maps VPN 0 to P − 1 onto the pages with WRITE = 1 (R377). -/
def viewMap (fn : Nat) (ps : List Nat) : Tab MapEnt := ps.zipIdx.map fun e => (mapKey fn e.2, { ppn := e.1, write := true })

/-- A partition's pages in the order in which a layout of n of them keeps them: a page that is QUARANTINED leaves last, since it leaves for
its test alone (R163; log entry 13). -/
def State.keepOrder (s : State) (fn n : Nat) : List Nat :=
  let l := (s.prt fn).pages ++ (s.prt fn).pool
  let bad := fun p => (s.page p).st == .quarantined
  if l.length ≤ n then l else l.filter bad ++ l.filter (!bad ·)

/-- Pages of a layout: those held, then pages that a re-bind gives, then free ones (R377, R379). -/
def State.layoutPages (s : State) (fn : Nat) (p : Part) (given : List Nat) : List Nat :=
  let need := p.npages + p.npool
  let own := ((s.keepOrder fn need).take need ++ given).take need
  own ++ s.alloc (need - own.length)

/-- Pages that a layout leaves over. -/
def State.leavingPages (s : State) (fn : Nat) (p : Part) : List Nat := (s.keepOrder fn (p.npages + p.npool)).drop (p.npages + p.npool)

/-- Step 5 and the page map of step 7: a new key set, every page UNWRITTEN under the VF's one epoch value, and no translation left in the
caches of the long ferries and the hub (R158, R384, R172). -/
def State.installPages (s : State) (fn v : Nat) (p : Part) (given : List Nat) : State :=
  let all := s.layoutPages fn p given
  let t := s.freshPages fn v all
  let t := { t with pln := { t.pln with
    maps := (t.pln.maps.filter fun (e : Nat × MapEnt) => e.1 / 2 ^ 21 != fn) ++ viewMap fn (all.take p.npages)
    caches := tabMap (fun l => l.filter fun e => e.fn != fn) t.pln.caches
    keyGen := tabUpd t.pln.keyGen 0 fn (· + 1) } }
  t.setPrt fn { p with pages := all.take p.npages, pool := all.drop p.npages, epoch := v }

/-- An engine's OWNER follows the layout (R348). -/
def State.engineOwner (s : State) (e : Nat) : Nat :=
  (s.boundVfs.find? fun v => if e < 8 then bitAt (s.prt v).dec e else bitAt (s.prt v).enc (e - 8)).getD 0

/-- OWNER and STATE of islands and OWNER of engines follow the layout (R90, R348). -/
def State.showOwners (s : State) : State :=
  let t := (List.range 64).foldl (fun t i =>
    let o := (t.boundVfs.find? fun v => bitAt (t.prt v).islands i).getD 0
    let st := t.rdF .ISL_STATUS i 0 3
    let t := t.wrF .ISL_STATUS i 8 5 o
    if st = 3 ∨ st = 4 then t.wrF .ISL_STATUS i 0 3 (if o = 0 then 3 else 4) else t) s
  (List.range 12).foldl (fun t e => t.wrF .VID_ENG_STATUS e 8 5 (t.engineOwner e)) t

/-- A stream whose keys are gone is Insecure: logged, no TLP goes out on it, and a locked VF moves to ERROR (R406, R409). -/
def State.ideInsecure (s : State) (k : Nat) : State :=
  let x := tabGet s.lnk.ide {} k
  if !x.secure then s else
  let fn := k - 1
  let t := { s with lnk := { s.lnk with
    ide := tabSet s.lnk.ide k { x with secure := false }
    tdi := match (if 2 ≤ k then tabGet s.lnk.tdi .unlocked fn else .unlocked) with
      | .locked | .run => tabSet s.lnk.tdi fn .error
      | _ => s.lnk.tdi } }
  t.log 4 0x0C fn (0x80 + k) 0x41 (ownerCode fn) 2 0 0 0

/-- Step 6: passes, serving, programs, adapters and BAR0 registers return to reset, and the IDE keys are gone (R381). -/
def State.scrubTables (s : State) (fn : Nat) : State :=
  let t := s.clearPasses fn
  let t := { t with
    srv := { t.srv with models := t.srv.models.filter fun e => e.1 / 65536 != fn
                        stops := t.srv.stops.filter fun e => e.1 / 256 != fn
                        adapters := t.srv.adapters.filter fun e => e.2.fn != fn }
    part := { t.part with progs := t.part.progs.filter fun e => e.1 / 64 != fn } }
  (t.resetFnRegs fn).ideInsecure (fn + 1)

/-- Reasons of R521 follow the islands that a function now holds. -/
def State.thrFollow (s : State) (fn : Nat) : State := (List.range 12).foldl (fun t r => t.thrSync fn (r + 1)) s

/-- Step 4 also resets an island whose engine reset the scrub replaces, and islands that await a remap (R560, R389). -/
def State.scrubIslands (s : State) (is : List Nat) (engine : Option Nat) : State :=
  let t := s.zeroIslands is
  let t := match engine.bind islOfSrc with
    | some i => (t.resetIsland i false none).engineRecord (srcIsland i) 4
    | none => t
  is.foldl State.remapIsland t

/-- Steps 4 to 7 for one VF. -/
def State.scrubInstall (s : State) (fn v : Nat) (x : Scrub) (given : List Nat) : State :=
  let t := s.scrubIslands (maskBits (Nat.lor (s.prt fn).islands x.next.islands) 64) x.engine
  let t := (t.scrubTables fn).installPages fn v x.next given
  { t with pwr := { t.pwr with table := tabDel t.pwr.table fn, phase := tabDel t.pwr.phase fn } }

/-- Step 8 for one VF: CONFIG_UNLOCKED, which also answers a waiting STOP_INTERFACE_REQUEST, and READY or UNBOUND (R381, R385, R387). -/
def State.scrubEnd (s : State) (fn : Nat) : State :=
  let t := { s with
    part := { s.part with scrubs := tabDel s.part.scrubs fn }
    lnk := { s.lnk with tdi := tabSet s.lnk.tdi fn .unlocked, tdiStop := s.lnk.tdiStop.filter (· != fn) }
    reply := if s.lnk.tdiStop.contains fn then .tdisp .stopped else s.reply }
  (t.thrFollow fn).setFnState fn (t.restState fn)

/-- CMD_DONE of a scrub's command: QBASE and epoch of a bind, both epochs of a re-bind, or the epoch (R364). The free pool has no
epoch and answers 0 (log entry 46). -/
def State.scrubReply (s : State) (x : Scrub) (fn : Nat) (epochs : List Nat) : State :=
  match x.issuer with
  | none => s
  | some (f, m) => s.cmdDone f m x.kind.opcode rOk
      (match x.kind with | .bind => (s.prt fn).qbase :: epochs | .unbind => [] | _ => epochs)

/-- The rest of a scrub once its drain is over, under the VF's one epoch value (R384); none where the draw waits. -/
def State.scrubOne (s : State) (fn : Nat) (x : Scrub) : Option State :=
  let t := s.drawScrub fn x
  match t.scrubEpoch fn with
  | none => none
  | some v =>
    let t := (t.scrubInstall fn v x []).freshPages 0 v (s.leavingPages fn x.next)
    let t := { t with part := { t.part with stored := t.part.parts } }.showOwners.syncBindable
    let t := ((t.scrubEnd fn).remapFree (maskBits (s.prt fn).islands 64)).syncMargin
    some (t.scrubReply x fn (match x.kind with | .give => [v, 0] | .take => [0, v] | _ => [v]))

/-- The rest of a re-bind's two scrubs, the source's first (R379, R384). A QUARANTINED page of the source goes to its test and not to the
target (R163). -/
def State.scrubTwo (s : State) (a : Nat) (xa : Scrub) (b : Nat) (xb : Scrub) : Option State :=
  let t := s.drawScrub a xa
  match t.scrubEpoch a, t.scrubEpoch b with
  | some va, some vb =>
      let leaving := s.leavingPages a xa.next
      let good := fun p => (s.page p).st != .quarantined
      let given := leaving.filter good
      let takes := xb.next.npages + xb.next.npool - ((s.prt b).pages.length + (s.prt b).pool.length)
      let t := (t.scrubInstall a va xa []).scrubInstall b vb xb given
      let t := t.freshPages 0 va (given.drop takes ++ leaving.filter (!good ·))
      let t := { t with part := { t.part with stored := t.part.parts } }.showOwners.syncBindable
      let t := (((t.scrubEnd a).scrubEnd b).remapFree (maskBits (Nat.lor (s.prt a).islands (s.prt b).islands) 64)).syncMargin
      some (t.scrubReply xb b [va, vb])
  | _, _ => none

/-- Go on with a scrub whose drain is over: a re-bind waits for both drains, the keys for the TRNG, and an epoch draw may wait (R381,
R468, R160). -/
def State.scrubGo (s : State) (fn : Nat) : State :=
  match tabFind s.part.scrubs fn with
  | none => s
  | some x =>
    if !x.started || !x.drained || x.missed || s.sec.trngFailed then s else
    let r := match x.kind with
      | .give | .take => match (if x.peer = 0 then none else tabFind s.part.scrubs x.peer) with
        | some y => if !y.drained then some s
          else if x.kind == ScrubKind.give then s.scrubTwo fn x x.peer y else s.scrubTwo x.peer y fn x
        | none => s.scrubOne fn x
      | _ => s.scrubOne fn x
    r.getD (s.waitDraw fn 16)

end Sys2Proof.Machine
end

