-- ==== Sys2Proof/Machine/PowerCtl.lean ====
section
/-! DEFINITION. The limit in force (14 R491 to R496), coolant terms (R510 to R514), the split among partitions (R498), the bubble
actuator (R500), trips (R515 to R519), rainflow counting (R530) and consumed life (R531). Watts that a formula does not make whole
are rounded down (log entry 48). -/

namespace Sys2Proof.Machine

open Sys2Proof

/- The limit. -/

/-- The safe budget (R492). -/
def State.safeW (s : State) : Nat := s.rdF .PWR_SAFE 0 0 16

/-- The operator cap, 0 for none (R492). -/
def State.operatorW (s : State) : Nat := s.rdF .PWR_SAFE 0 16 16

/-- The lease term: the lease, its decay over 2 s, or the safe budget, which a lower expired lease keeps down (R491, R496). -/
def State.leaseTerm (s : State) : Nat :=
  if s.pwr.leased then s.pwr.leaseW else
  match s.pwr.decayT with
  | some t0 => s.pwr.decayW - (s.pwr.decayW - s.safeW) * min (s.time - t0) 2000000000 / 2000000000
  | none => s.pwr.holdW.getD s.safeW

/-- Q_full at an inlet temperature in 1/16 °C, in 1/200 L/min (R511). -/
def qFull (t : Int) : Nat := if t ≤ 480 then 1200 else 1200 + 5 * (t - 480).toNat

/-- A flow in 0.01 L/min is at or above Q_req(P, T) (R511). -/
def flowMeets (q p : Nat) (t : Int) : Bool := decide (250 ≤ q ∧ qFull t * p ≤ q * 2 * 1250)

/-- Q_req(P, T) in 0.01 L/min, rounded up (R511). -/
def qReq (p : Nat) (t : Int) : Nat := max 250 (ceilDiv (qFull t * p) 2500)

/-- The value of the flow cap (R513). -/
def flowCapW (q : Nat) (t : Int) : Nat := max 500 (2500 * q / qFull t)

/-- The inlet cap, where there is one (R514). -/
def inletCap (t : Int) : Option Nat :=
  if t ≤ 640 then none else if t ≤ 720 then some (1250 - ceilDiv (110 * (t - 640).toNat) 16) else some 500

/-- The terms of R491 beside the flow cap, with their reasons. -/
def State.limitTerms (s : State) : List (Nat × Nat) :=
  [(s.pwr.lateLease.getD s.leaseTerm, thrBudget), (1250, thrModuleCap)] ++
  (match inletCap s.pwr.inlet with | some w => [(w, thrInlet)] | none => []) ++
  (if s.operatorW = 0 then [] else [(s.operatorW, thrOperator)])

/-- The lowest term; of equal ones the lower reason code (R491). -/
def lowestTerm (l : List (Nat × Nat)) : Nat × Nat :=
  l.foldl (fun m e => if e.1 < m.1 ∨ (e.1 = m.1 ∧ e.2 < m.2) then e else m) (1250, thrModuleCap)

/-- The limit without the flow cap, for its lifting (R513). -/
def State.limitNoFlow (s : State) : Nat := (lowestTerm s.limitTerms).1

/-- L and its reason: hub or media junction control lowers the lowest term, down to 420 W (R491, R515). -/
def State.limitNow (s : State) : Nat × Nat :=
  let l := lowestTerm (s.limitTerms ++ (if s.pwr.flowCap then [(flowCapW s.pwr.flow s.pwr.inlet, thrFlow)] else []))
  if s.pwr.hubDrop = 0 then l else (max 420 (l.1 - s.pwr.hubDrop), thrJunction)

/-- The flow cap follows a coolant reading (R513). -/
def State.evalFlow (s : State) : State :=
  let on := if s.pwr.flowCap then !flowMeets s.pwr.flow s.limitNoFlow s.pwr.inlet else !flowMeets s.pwr.flow s.pwr.limit s.pwr.inlet
  let t := { s with pwr := { s.pwr with flowCap := on } }.wrF .PWR_STATUS 0 3 1 (b2n on)
  if on && !s.pwr.flowCap then t.hwSet .PWR_EVT 0 16 else t

/-- The readings in force: inlet and outlet in 1/16 °C and flow in 0.01 L/min (R510, R533). -/
def State.setCoolant (s : State) (inlet outlet : Int) (flow : Nat) : State :=
  let t := if (inletCap inlet).isSome && (inletCap s.pwr.inlet).isNone then s.hwSet .PWR_EVT 0 32 else s
  let t := { t with pwr := { t.pwr with inlet := inlet, flow := flow } }
  let t := t.wrN .PWR_COOLANT 0 (unsignedOf 16 inlet + unsignedOf 16 outlet * 65536)
  (t.wrF .PWR_FLOW 0 0 16 flow).evalFlow

/-- An In-Band Interrupt to the tray (R494, R634). -/
def State.inBand (s : State) : State := { s with brd := { s.brd with ibi := s.brd.ibi + 1 } }

/- The split among partitions. -/

/-- A partition has an active context. -/
def State.hasActive (s : State) (v : Nat) : Bool := s.fab.ctxs.any fun e => e.2.fn == v && !e.2.done

/-- The power of a partition's islands (mW). -/
def State.partPower (s : State) (v : Nat) : Nat := ((s.islandsOf v).map (tabGet s.pwr.powerI 0)).sum

/-- A part of an amount in proportion to shares, equal where all shares are 0 (R498). -/
def shareOut (b : Nat) (n : Nat) (sum sv : Nat) : Nat := if sum = 0 then b / max 1 n else b * sv / sum

/-- a_p of every partition that divides the island budget b (mW), with what the others lend it; a lender keeps its own part (R498, log
entry 48). -/
def State.split (s : State) (b : Nat) : List (Nat × Nat) :=
  let scr := fun v => s.fnState v == fnScrubbing
  let ps := s.boundVfs.filter fun v => s.hasActive v || scr v
  let sum := (ps.map fun v => (s.prt v).budget).sum
  let base := ps.map fun v => (v, shareOut b ps.length sum (s.prt v).budget)
  let act := base.filter fun e => !scr e.1
  base.map fun e =>
    if scr e.1 then e else
    (e.1, e.2 + ((act.filter fun x => x.1 != e.1).map fun x =>
      let others := act.filter fun y => y.1 != x.1
      shareOut (x.2 - s.partPower x.1) others.length ((others.map fun y => (s.prt y.1).budget).sum) (s.prt e.1).budget).sum)

/-- A_i under junction control: × (105 − T) / 7 from 98 °C on (R515). -/
def junctionScale (a : Nat) (t : Int) : Nat := if 98 ≤ t ∧ t < 105 then a * (105 - t).toNat / 7 else a

/-- The allocations of the islands of dividing partitions (mW). -/
def State.allocs (s : State) (sp : List (Nat × Nat)) : Tab Nat :=
  sp.flatMap fun e =>
    let is := s.islandsOf e.1
    let ep := (is.map s.exposed).sum
    is.map fun i => (i, junctionScale (e.2 * s.exposed i / max 1 ep) (tabGet s.pwr.temps 0 i))

/-- The budget duty of an island after a microsecond (R500); an allocation of nothing gives 56. -/
def nextBudget (d p : Nat) (a : Option Nat) : Nat :=
  match a with
  | some a => if p ≤ a then d - 1 else if a = 0 then 56 else min 56 (d + ceilDiv (16 * (p - a)) a)
  | none => d - 1

/-- The duty that the causes of R500 ask for; cur is what the input current limit asks for (R493). -/
def State.wantedDuty (s : State) (i cur : Nat) : Nat :=
  if s.pwr.trip || s.pwr.supply then 64 else
  max (max (tabGet s.pwr.budget 0 i) (tabGet s.pwr.junction 0 i)) (max (if s.pwr.floor then 56 else 0) (max (tabGet s.pwr.pairHold 0 i) cur))

/-- A reason that the actuator charges causes bubbles on an island, or holds its die below the requested point (R522, R503, R505). -/
def State.causes (s : State) (i r cur : Nat) : Bool :=
  (r == s.pwr.bind && tabGet s.pwr.budget 0 i != 0) ||
  (r == (tabGet s.pwr.slow (0, 0) (islDie i)).2 && (tabGet s.pwr.slow (0, 0) (islDie i)).1 != 0) ||
  (r == thrCurrent && (cur != 0 || (s.isl i).droopUs || s.rdF .ISL_BUBBLE i 7 1 == 1)) ||
  (r == thrJunction && (tabGet s.pwr.junction 0 i != 0 || s.pwr.trip || s.pwr.hubDrop != 0 ||
    (decide (98 ≤ tabGet s.pwr.temps 0 i) && tabGet s.pwr.budget 0 i != 0))) ||
  (r == thrSupply && (s.pwr.floor || s.pwr.supply)) ||
  (r == thrPairHold && tabGet s.pwr.pairHold 0 i != 0)

/-- One microsecond of an island: duty in force, at most 1/64 lower than before, and its reasons; a reason stays while its duty still
descends (R500, R522). -/
def State.islandDuty (s : State) (cur i : Nat) : State :=
  let old := tabGet s.pwr.inForce 0 i
  let want := s.wantedDuty i cur
  let t := s.setDuty i (max want (old - 1))
  [thrBudget, thrModuleCap, thrCurrent, thrJunction, thrFlow, thrInlet, thrSupply, thrPairHold, thrOperator].foldl (fun t r =>
    t.setReason i r (s.causes i r cur || (decide (want < old - 1) && s.reasonOn i r))) t

/-- Count a microsecond of each reason in force on a function (R523). -/
def State.countReasons (s : State) (fn : Nat) : State :=
  let on := (List.range 12).filter fun r => s.rdF .FN_THR_ACTIVE fn r 1 == 1
  let t := on.foldl (fun t r => t.count .PWR_THR_US (fn * 16 + r) 1) s
  if on.isEmpty then t else t.count .FN_THR_TOTAL_US fn 1

/-- Keep a 1-ms draw among those of the last 10 s; an earlier one that is no higher is never the highest again (R497). -/
def keepDraw (l : List (Nat × Nat)) (now w : Nat) : List (Nat × Nat) :=
  (l.filter fun e => decide (w < e.2 ∧ now < e.1 + 10000000000)) ++ [(now, w)]

/-- The highest 1-ms draw of the last n ns (R497). -/
def State.peakDraw (s : State) (n : Nat) : Nat :=
  s.pwr.draws.foldl (fun m e => if s.time < e.1 + n then max m e.2 else m) 0

/-- Draw averaged over each millisecond: PWR_DRAW and PWR_SB_DEMAND (R533, R494). -/
def State.averageDraw (s : State) (draw isl : Nat) : State :=
  let a := s.pwr.drawAcc + draw
  let b := s.pwr.islAcc + isl
  if s.pwr.drawN + 1 < 1000 then { s with pwr := { s.pwr with drawAcc := a, islAcc := b, drawN := s.pwr.drawN + 1 } }
  else
    let w := min 65535 (a / 1000000)
    let t := { s with pwr := { s.pwr with drawAcc := 0, islAcc := 0, drawN := 0, draws := keepDraw s.pwr.draws s.time w } }
    (t.wrN .PWR_DRAW 0 (w + min 65535 ((a - b) / 1000000) * 65536)).wrF .PWR_SB_DEMAND 0 0 16 w

/- Histories of a microsecond. -/

/-- The newest n µs of a run list. -/
def newestRuns : Nat → List (Nat × Nat) → List (Nat × Nat)
  | _, [] => []
  | n, (d, k) :: r => if n ≤ k then [(d, n)] else (d, k) :: newestRuns (n - k) r

/-- One more µs at a duty, of the last 50 ms (R505). -/
def pushRun (d : Nat) (l : List (Nat × Nat)) : List (Nat × Nat) :=
  newestRuns 50000 (match l with
    | (e, k) :: r => if e = d then (e, k + 1) :: r else (d, 1) :: l
    | [] => [(d, 1)])

/-- A run list covers n µs in which the duty averaged at least d, or at most d (R505). -/
def averages (n : Nat) (ok : Nat → Bool) (l : List (Nat × Nat)) : Bool :=
  let r := newestRuns n l
  decide (n ≤ (r.map (·.2)).sum) && ok (r.map fun e => e.1 * e.2).sum

/-- The budget duties of a microsecond enter the histories, and the powers the steps in flight (R505, R497). -/
def State.noteMicro (s : State) : State :=
  let add := fun (e : Nat × SCfg) =>
    (e.1, { e.2 with step := e.2.step.map fun st =>
      if st.done then st
      else { st with mw := st.mw + ((s.islandsOf (e.1 / 65536)).map (tabGet s.pwr.powerI 0)).sum, ticks := st.ticks + 1 } })
  { s with
    pwr := { s.pwr with hist := (List.range 64).map fun i => (i, pushRun (tabGet s.pwr.budget 0 i) (tabGet s.pwr.hist [] i)) }
    srv := { s.srv with models := s.srv.models.map add } }

/-- The budget duty of an island of a die has averaged 24/64 or more over 5 ms (R505). -/
def State.slowDue (s : State) (d : Nat) : Bool :=
  (List.range 16).any fun k => averages 5000 (fun t => decide (24 * 5000 ≤ t)) (tabGet s.pwr.hist [] (16 * d + k))

/-- That of every island of a die has averaged 0 over 50 ms (R505). -/
def State.fastDue (s : State) (d : Nat) : Bool :=
  (List.range 16).all fun k => averages 50000 (fun t => t == 0) (tabGet s.pwr.hist [] (16 * d + k))

/-- The histories of a die start again once R505 has moved its point. -/
def State.clearHist (s : State) (d : Nat) : State :=
  { s with pwr := { s.pwr with hist := s.pwr.hist.filter fun e => islDie e.1 != d } }

/- Life counts in the store. -/

/-- The counts of R530 that a die has, as the store keeps them: the three bins and the hours. -/
def lifeRegs : List Reg := [.PWR_TC0, .PWR_TC1, .PWR_TC2]

/-- The firmware writes the counts to the non-volatile store (R530). -/
def State.keepLife (s : State) : State :=
  { s with pwr := { s.pwr with
    lifeT := s.time
    lifeKept := (List.range 6).flatMap fun d =>
      (lifeRegs.zipIdx.map fun e => (d * 4 + e.2, s.rdN e.1 d)) ++ [(d * 4 + 3, s.rdF .PWR_LIFE d 16 16)] } }

/- Trips. -/

/-- A context is reset by a trip: CTX_DONE with status RESET also for one that the MCP starts again (R516). -/
def State.tripCtx (s : State) (c : Nat) (x : Ctx) : State :=
  let t := match x.why with
    | some w => if x.reported then s else s.faultEvent c x w
    | none => s
  let again := x.restarts .trip
  let t := t.finishCtx c .trip false
  if again then t.post x.fn 0x0201 [c, 4, 0] else t

/-- The trip of R516 or the supply stop of R519: every island at duty 64, contexts reset, the plain in self-refresh, the role released
and the entry logged. -/
def State.tripNow (s : State) (supply : Bool) : State :=
  let t := { s with pwr := { s.pwr with trip := s.pwr.trip || !supply, supply := s.pwr.supply || supply, tripT := s.time } }
  let t := (List.range 64).foldl (fun t i => (t.setDuty i 64).setReason i (if supply then thrSupply else thrJunction) true) t
  let t := (s.fab.ctxs.filter fun e => !e.2.done).foldl (fun t e => t.tripCtx e.1 e.2) t
  let t := t.keepLife.wrF .PLN_STATUS 0 3 1 1
  let t := if t.pair.mirrored then t.releaseLine 1 else t
  let t := t.log 4 0x11 0 0 (if supply then 0x61 else 0x60) 0x1F 3 0 0 0
  let lo := if supply then 16 else 0
  let t := t.wrF .PWR_TRIPS 0 lo 16 (min 65535 (t.rdF .PWR_TRIPS 0 lo 16 + 1))
  ((t.wrF .PWR_STATUS 0 (if supply then 6 else 5) 1 1).hwSet .PWR_EVT 0 (if supply then 256 else 128)).updGuard

/-- The module leaves a trip or a supply stop: self-test, held steps rerun, and a mirrored module resynchronises as standby (R517). -/
def State.tripOver (s : State) (failed : List Nat) : State :=
  if s.pwr.trip || s.pwr.supply then s else
  let t := if s.rdF .TIM_STATUS 0 8 1 = 1 then s else s.wrF .PLN_STATUS 0 3 1 0
  let t := (List.range 64).foldl (fun t i => t.testIsland i true (some failed)) t
  let t := (t.fab.ctxs.filter fun e => e.2.restart && e.2.serving.isSome && !s.ras.suspects.contains e.1).foldl (fun t e => t.relaunch e.1) t
  t.resyncAll

/-- Held requests end FAILED after 10 s of a trip (R517, R519). -/
def State.endHeld (s : State) (result : Nat) : State :=
  let t := (s.srv.models.filter fun e => e.2.step.isSome || !e.2.solos.isEmpty).foldl (fun t e =>
    t.failStep (e.1 / 65536) (e.1 % 65536) result) s
  (t.srv.reqs.filter fun e => e.2.st == .held).foldl (fun t e => t.endReq (e.1 / 65536) (e.1 % 65536) 3 result 0) t

/-- The supply floor ends (R518). -/
def State.floorEnd (s : State) : State :=
  { s with pwr := { s.pwr with floor := false, lateLease := none } }.wrF .PWR_STATUS 0 2 1 0

/- Ageing and life. -/

/-- Add one hottest-junction sample to a die's turning points, newest first, with a 5 K hysteresis (R530). -/
def addTurn (l : List Int) (v : Int) : List Int :=
  match l with
  | [] => [v]
  | [a] => if (v - a).natAbs < 5 then [a] else [v, a]
  | a :: b :: r => if (b < a ∧ a ≤ v) ∨ (a < b ∧ v ≤ a) then v :: b :: r else if (v - a).natAbs < 5 then a :: b :: r else v :: a :: b :: r

/-- Count the cycles that the newest turning point closes: half cycles by amplitude, and the points left. A range that holds the oldest
point is a half cycle, any other a full one (rainflow counting). -/
def rainflow : Nat → List Int → List (Nat × Nat) → List Int × List (Nat × Nat)
  | 0, l, acc => (l, acc)
  | f + 1, l, acc => match l with
    | a :: b :: c :: r =>
      let x := (a - b).natAbs
      let y := (b - c).natAbs
      if x < y then (l, acc)
      else if r.isEmpty then rainflow f [a, b] (acc ++ [(y, 1)])
      else rainflow f (a :: r) (acc ++ [(y, 2)])
    | _ => (l, acc)

/-- The bin register of an amplitude (R530). -/
def lifeBin (k : Nat) : Option Reg :=
  if k < 20 then none else if k < 40 then some .PWR_TC0 else if k ≤ 60 then some .PWR_TC1 else some .PWR_TC2

/-- Consumed life of a die in per mille (R531). -/
def State.lifeOf (s : State) (d : Nat) : Nat :=
  (2 * s.rdN .PWR_TC0 d + 15 * s.rdN .PWR_TC1 d + 100 * s.rdN .PWR_TC2 d + 20 * s.rdF .PWR_LIFE d 16 16) / 1200

/-- One die's sample, and the hour that ends with it (R530, R531). -/
def State.lifeSample (s : State) (d : Nat) (v : Int) (hour : Bool) : State :=
  let l := addTurn (tabGet s.pwr.rain [] d) v
  let (l, cs) := rainflow l.length l []
  let t := { s with pwr := { s.pwr with rain := tabSet s.pwr.rain d l } }
  let t := cs.foldl (fun t e => match lifeBin e.1 with | some r => t.count r d e.2 | none => t) t
  let t := if hour then t.wrF .PWR_LIFE d 16 16 (min 65535 (t.rdF .PWR_LIFE d 16 16 + 1)) else t
  let t := t.wrF .PWR_LIFE d 0 16 (min 65535 (t.lifeOf d))
  if 800 < t.lifeOf d && !t.pwr.lifeWarn then
    ({ t with pwr := { t.pwr with lifeWarn := true } }.wrF .PWR_STATUS 0 10 1 1).hwSet .PWR_EVT 0 2048
  else t

/-- The margin field of PWR_MARGIN is none until a measurement of the week (R533). -/
def State.showMargin (s : State) (d : Nat) : State :=
  (List.range 6).foldl (fun t k => t.wrF .PWR_MARGIN d (10 * k) 10 (tabGet s.pwr.lowMargin 0x3FF (d * 8 + k))) s

/-- The weekly check of one die and point: an offset rises by 5 mV where the lowest margin is below 40 taps; at 30 mV OP0 is retired, and
a slower point exhausts the module (R528, R529). -/
def State.weeklyPoint (s : State) (d k : Nat) : State :=
  match tabFind s.pwr.lowMargin (d * 8 + k) with
  | none => s
  | some m =>
    if 40 ≤ m then s else
    let o := s.rdF .PWR_VOFS d (8 * k) 8
    if o < 30 then (s.wrF .PWR_VOFS d (8 * k) 8 (o + 5)).hwSet .PWR_EVT 0 512
    else if k ≠ 0 then { s with pwr := { s.pwr with exhausted := true } }.wrF .PWR_STATUS 0 9 1 1
    else if s.pwr.retired.contains d then s
    else
      let t := { s with pwr := { s.pwr with retired := s.pwr.retired ++ [d] } }.wrF .PWR_OP 0 (16 + d) 1 1
      (t.hwSet .PWR_EVT 0 1024).log d 0x11 0 0 0x63 0x1F 0 0 0 0

end Sys2Proof.Machine
end

