-- ==== Sys2Proof/Machine/PairCtl.lean ====
section
/-! DEFINITION. The pair's shared operations (16): monitored signals, the line, the holder, known-answer tests, resynchronisation, drain
and the last words. -/

namespace Sys2Proof.Machine

open Sys2Proof

/- Signals. -/

/-- A monitored signal takes a code; a new non-zero code is logged (R635, R638). -/
def State.setSignal (s : State) (n code : Nat) : State :=
  if s.rdF .RAS_SIG_STATUS 0 (2 * n) 2 = code then s else
  let t := s.wrF .RAS_SIG_STATUS 0 (2 * n) 2 code
  if code = 0 then t else (t.hwSet .RAS_SIG_EVT 0 (2 ^ n)).log 6 0x18 n 0 0x78 0x1F 1 0 code 0

/- The line. -/

/-- LINE codes of R606. -/
abbrev lineFree : Nat := 0
abbrev lineSelf : Nat := 1
abbrev linePartner : Nat := 2
abbrev lineContended : Nat := 3

/-- The LINE field. -/
def State.line (s : State) : Nat := s.rdF .TWN_PAIR_STATUS 0 7 3

/-- Set the LINE field. -/
def State.setLine (s : State) (v : Nat) : State := s.wrF .TWN_PAIR_STATUS 0 7 3 v

/-- The probe finds a partner (R594). -/
def State.partner (s : State) : Bool := s.rdF .TWN_PAIR_STATUS 0 4 1 == 1

/- Drain. -/

/-- The module has live work: an active context, a live request, or a queued descriptor (R602). -/
def State.liveWork (s : State) : Bool :=
  s.fab.ctxs.any (fun e => e.2.active) || !s.srv.reqs.isEmpty || s.fry.chans.any (fun e => !e.2.queue.isEmpty) ||
  s.vid.streams.any fun e => !e.2.queue.isEmpty

/-- A drain is complete: in mirrored mode once the partner holds the line, in solo mode once no work remains and the module holds no
role (R602). -/
def State.settleDrain (s : State) : State :=
  if !s.draining || s.pair.drained || s.pair.holder then s else
  if (if s.pair.mirrored && s.partner then s.line != linePartner else s.liveWork) then s else
  let t := { s with pair := { s.pair with drained := true, drainCmd := none } }
  match s.pair.drainCmd with
  | some (f, m) => t.cmdDone f m 0x002 rOk []
  | none => t

/-- A line fault begins: LINE, the event, and PAIR_LOCK's signal code, which logs it (R595, R635). -/
def State.lineFault (s : State) (line code : Nat) : State :=
  let t := s.setLine line
  if t.pair.fault then t.setSignal 4 code else
  ({ t with pair := { t.pair with fault := true } }.hwSet .TWN_PAIR_EVT 0 16).setSignal 4 code

/-- A line fault ends. -/
def State.lineGood (s : State) : State :=
  if !s.pair.fault then s else { s with pair := { s.pair with fault := false } }.setSignal 4 0

/-- The range of a sample in mV: free, held, contended, short to ground, short to supply, or none (R592). -/
def lineRange (mv : Nat) : Option Nat :=
  if 1500 ≤ mv ∧ mv ≤ 1800 then some 0 else if 800 ≤ mv ∧ mv ≤ 1100 then some 1 else if 450 ≤ mv ∧ mv ≤ 700 then some 3
  else if mv < 250 then some 4 else if 2600 < mv then some 5 else none

/-- Records 1 to COUNT and the header of a live request go to the new holder's own host (R598). -/
def State.writeStream (s : State) (fn l : Nat) (r : Req) : State :=
  if !s.hostOk fn then s.endReq fn l 3 rHostAccess 0 else
  let t := r.recs.zipIdx.foldl (fun t e => t.hostPut fn (r.outAddr + 64 + 16 * e.2) e.1) s
  t.hostPut fn r.outAddr (streamHeader r 0 0 0)

/-- What a new holder of a mirrored pair emits: the streams of its SYNCED VFs, then held outputs whose keys the YIELD did not name; of
a solo pair, READY as the first record of each ring (R598, R601). -/
def State.takeOver (s : State) : State :=
  if s.pair.mirrored then
    let vfs := s.boundVfs.filter fun v => s.syncOf v == 2
    let t := vfs.foldl (fun t v => (t.live v).foldl (fun t e => t.writeStream v e.1 e.2) t) s
    let hs := t.pair.held
    let t := { t with pair := { t.pair with held := [] } }
    hs.foldl (fun t h => if t.pair.peerKeys.contains (digKey h.dig) then t else t.release h 1) t
  else s.boundVfs.foldl (fun t v => if t.rdF .FN_EVT_CTL v 0 1 = 1 then t.readyEvt v else t) s

/-- The module becomes the holder (R596, R597, R598). -/
def State.becomeHolder (s : State) : State :=
  if s.pair.holder then s else
  let t := { s with pair := { s.pair with holder := true, claiming := none, backoff := false, partnerYielded := true } }
  let t := ((t.setLine lineSelf).count .TWN_HOLDER_CHG 0 1).setRole (if t.partner then roleActive else roleSolo) t.pair.reason
  let t := t.takeOver
  let t := { t with pair := { t.pair with reason := 1, peerKeys := [] } }
  t.boundVfs.foldl (fun t v => ((t.srv.models.filter fun e => e.1 / 65536 == v).map (·.1 % 65536)).foldl (fun t m => t.nextStep v m) t) t

/-- No model has a step in flight (R577, R599). -/
def State.atBoundary (s : State) : Bool := s.srv.models.all fun e => e.2.step.isNone && e.2.solos.isEmpty

/-- Every bound VF is SYNCED. -/
def State.allSynced (s : State) : Bool := s.boundVfs.all fun v => s.syncOf v == 2

/-- The module may claim the line now (R596). -/
def State.mayClaim (s : State) : Bool :=
  s.brd.powered && s.line == lineFree && !s.pair.fault && !s.pair.holder && s.pair.claiming.isNone && !s.pair.backoff && !s.draining &&
  s.fnState 0 != fnOos && !s.pwr.trip && !s.pwr.supply && s.role == roleStandby &&
  ((s.pair.mirrored && s.allSynced) || !s.pair.mirrored || (match s.pair.freeSince with | some t => decide (t + 1000000 ≤ s.time) | none => false))

/- Resynchronisation. -/

/-- A VF becomes SYNCED; a PAIR_RESYNC ends with the last (R591). -/
def State.synced (s : State) (fn : Nat) : State :=
  let t := { s with pair := { s.pair with resyncLeft := tabDel s.pair.resyncLeft fn, stepHold := s.pair.stepHold.filter (· != fn) } }
  let t := ((t.setSync fn 2).hwSet .TWN_PAIR_EVT 0 32).loadMirror
  let t := ((t.srv.models.filter fun e => e.1 / 65536 == fn).map (·.1 % 65536)).foldl (fun t m => t.nextStep fn m) t
  match t.pair.resyncCmd with
  | some (f, m) => if t.allSynced then { t with pair := { t.pair with resyncCmd := none } }.cmdDone f m 0x903 rOk [] else t
  | none => t

/-- Every VF of a standby becomes UNSYNCED (R582, R589). -/
def State.unsyncAll (s : State) : State := s.boundVfs.foldl (fun t v => t.setSync v 0) s

/-- A partial resync: the standby prefills the requests of the diverged step again (R591). -/
def State.partialResync (s : State) : State :=
  s.pair.divRows.foldl (fun t e => match t.req e.1 e.2 with
    | some r => (t.returnKv e.1 r).setReq e.1 e.2 { r with kv := [], prefillDone := 0, st := .queued }
    | none => t) s

/- Known-answer tests. -/

/-- Outputs that are held although nothing holds their VF any more are written uncompared at once (R587). -/
def State.flushHeld (s : State) : State :=
  if s.role = roleStandby then s else
  let go := fun (h : HeldOut) => !s.holds h.dig.fn && !s.katHolds h.dig.fn
  let t := { s with pair := { s.pair with held := s.pair.held.filter fun h => !go h } }
  (s.pair.held.filter go).foldl (fun t h => t.release h (if h.diverged then 2 else 1)) t

/-- Write what a known-answer test held of its VFs: diverged outputs as DIVERGED, outputs whose digest matched meanwhile as matched; the
rest wait on for their digests (R588, R589). -/
def State.writeHeld (s : State) : State :=
  let go := fun (h : HeldOut) => s.pair.divFns.contains h.dig.fn && (h.diverged || h.matched)
  let t := { s with pair := { s.pair with held := s.pair.held.filter fun h => !go h } }
  (s.pair.held.filter go).foldl (fun t h => t.release h (if h.diverged then 2 else 0)) t

/-- The outputs held for the test are dropped: the partner writes them (R589). -/
def State.dropHeld (s : State) : State :=
  let held := s.pair.held.filter fun (h : HeldOut) => !s.pair.divFns.contains h.dig.fn
  { s with pair := { s.pair with held := held } }

/-- The islands of this module on which the test found failing cores take engine resets with self-test (R589). -/
def State.resetFailed (s : State) : State :=
  ((s.pair.katFailed.map (· / 66)).eraseDups).foldl (fun t i => t.askReset (.engine (srcIsland i) 1)) s

/-- The outcome of a known-answer test on one module (R589). -/
def State.katOutcome (s : State) (mine peer : Bool) : State :=
  if s.role = roleStandby then
    match peer, mine with
    | true, true => s.partialResync
    | true, false => s.unsyncAll.resetFailed
    | false, true => s
    | false, false => ((s.resetFailed).wrF .TWN_PAIR_STATUS 0 6 1 1).hwSet .TWN_PAIR_EVT 0 8
  else
    match mine, peer with
    | true, true => s.writeHeld
    | true, false => s.writeHeld.unsyncAll.resyncAll
    | false, true => s.dropHeld.releaseLine 4
    | false, false => ((s.writeHeld.resetFailed).wrF .TWN_PAIR_STATUS 0 6 1 1).hwSet .TWN_PAIR_EVT 0 8

/-- The test ends once both results are known; the outputs it held wait on as R587 says (R588, R589). -/
def State.settleKat (s : State) : State :=
  match s.pair.katLocal, s.pair.katPeer with
  | some mine, some peer =>
    let t := (s.wrF .TWN_PAIR_STATUS 0 13 1 0).katOutcome mine peer
    { t with pair := { t.pair with katLocal := none, katPeer := none, katFailed := [], divFns := [], divRows := [] } }.flushHeld
  | _, _ => s

/- Last words. -/

/-- The last-words record (R604). -/
def State.lastWordsNow (s : State) (cause : Nat) : State :=
  let w : LastWords :=
    { time := s.time, cause := cause, mirrored := s.pair.mirrored, role := s.role
      log := s.ras.log.drop (s.ras.log.length - 256)
      reqs := s.srv.reqs.map fun (e : Nat × Req) => (e.2.reqId, e.1 / 65536, e.1 % 65536, e.2.tokens) }
  { s with brd := { s.brd with lastWords := some w } }

/-- A pull in solo mode stops compute, writes FAILED headers and then the last words (R603). -/
def State.pullSolo (s : State) : State :=
  let t := s.lastWordsNow 1
  (t.boundVfs.foldl (fun t v => t.endAll v rAborted) t).stopWork

end Sys2Proof.Machine
end

