-- ==== Sys2Proof/Machine/Board.lean ====
section
/-! DEFINITION. Signals of the board (18 R633 to R640): monitored lines, PULL_WARN_N, the reverse latch, the hold-up bank and the sideband
address. -/

namespace Sys2Proof.Machine

open Sys2Proof

/-- The module drives ALERT_N (R637). -/
def State.alertN (s : State) : Bool :=
  s.rdF .RAS_SIG_STATUS 0 16 4 != 0 || s.fnState 0 == fnOos || s.pwr.trip || s.pwr.supply || s.rdF .RAS_SB_CYCLE 0 0 1 == 1

/-- The codes that R635 gives a signal; those of 5, 6 and 13 do not clear by the line (R633, R609, R639). -/
def signalCodes (n : Nat) : List Nat :=
  match n with
  | 1 | 3 | 10 | 11 => [0, 1]
  | 2 => [0, 3]
  | 4 => [0, 1, 2, 3]
  | 5 | 6 | 13 => [3]
  | 8 | 9 => [0, 1, 3]
  | _ => []

/-- PULL_WARN_N reads OPEN: it is ignored, and the module is back in service, as standby in mirrored mode (R635, R636). -/
def State.pullOpen (s : State) : State :=
  ({ s with brd := { s.brd with pullIgnored := true } }.setSignal 2 3).resyncAll

/-- R635: a fault condition is met, or code 0 says that it has cleared. -/
def execSignalLineMonitor (signal code : Nat) (s : State) : Out :=
  onUnit s ((signalCodes signal).contains code) <|
  match signal with
  | 2 =>
    if code = 3 then (if s.brd.armed && !s.brd.pullIgnored then s.pullOpen else s)
    else { s with brd := { s.brd with pullIgnored := false, armed := true } }.setSignal 2 0
  | 3 => if code = 1 && s.alertN then s else s.setSignal 3 code
  | 4 => if code = 0 then s.lineGood else s.lineFault (if code = 1 then 4 else if code = 2 then 5 else 7) code
  | n => s.setSignal n code

/-- R636: 10 ms deasserted after AON; a line that has code OPEN is armed by SIGNAL_LINE_MONITOR after 1 s instead. -/
def execPullWarnArm (s : State) : Out :=
  .next (if s.brd.powered && !s.brd.pullIgnored then { s with brd := { s.brd with armed := true } } else s)

/-- R636: not armed 1 s after AON came up, with the input within 44 to 58 V. -/
def execPullWarnOpen (s : State) : Out :=
  .next <|
  if !s.brd.powered || s.brd.armed || s.brd.pullIgnored || decide (s.pwr.mv < 44000 ∨ 58000 < s.pwr.mv) then s
  else { s with brd := { s.brd with pullIgnored := true } }.setSignal 2 3

/-- R639: the reversed input is blocked, so the module has no power. -/
def execReversePolarity (s : State) : Out :=
  .next (if s.brd.powered then s else { s with brd := { s.brd with reverse := true } })

/-- R640: percent of the nominal capacitance. -/
def execHoldupBankCheck (percent : Nat) (s : State) : Out :=
  .next <|
  let low := decide (percent < 80)
  let t := { s with brd := { s.brd with holdupLow := low } }
  if low && !s.brd.holdupLow then t.log 4 0x11 0 0 0x62 0x1F 0 0 0 0 else t

/-- R634: SETDASA reaches the module at its static address only. -/
def execSidebandAddressAssign (addr : Nat) (setdasa : Bool) (s : State) : Out :=
  onUnit s (decide (addr < 128)) <|
  if setdasa && s.brd.assigned then s else { s with brd := { s.brd with addr := addr, assigned := true } }

end Sys2Proof.Machine
end

