-- ==== Sys2Proof/Machine/SpdmOps.lean ====
section
/-! DEFINITION. Measurements (12 R455 to R458) and the SPDM responder (R451 to R460). What SPDM itself fixes and the spec does not repeat
(request codes, an unknown session, measurement indices 0 and 255) is taken from the DMTF standard (PRESUMED, log entry 54). -/

namespace Sys2Proof.Machine

open Sys2Proof

/- Measurements. -/

/-- A digest as 32 bytes. -/
def digBytes (d : Nat) : List Byte := natLe d 32

/-- The 24-byte record of a VF in index 7 (R456). -/
def State.layoutRecord (s : State) (fn : Nat) : List Byte :=
  let p := s.prt fn
  let x := tabFind s.part.scrubs fn
  let busy := x.any (·.started)
  let epoch := if busy then (s.scrubEpoch fn).getD p.epoch else p.epoch
  natLe fn 1 ++ natLe (if busy then 2 else if p.bound then 1 else 0) 1 ++ natLe p.dec 1 ++ natLe (p.enc + p.srt * 16) 1 ++ natLe epoch 4 ++
  natLe p.islands 8 ++ natLe p.npages 4 ++ natLe 0 4

/-- Index 16 + n (R457): none where VFn is UNBOUND or RESETTING or holds no loaded program. -/
def State.programDigest (s : State) (fn : Nat) : Option (List Byte) :=
  let ps := (List.range 64).filterMap fun k => (tabFind s.part.progs (fn * 64 + k)).map fun x => [k, x.digest]
  if !(s.prt fn).bound || (tabFind s.part.scrubs fn).any (·.started) || ps.isEmpty then none
  else some (digBytes (Config.digest ps.flatten).toNat)

/-- One measurement, read now (R455). -/
def State.measure (s : State) (i : Nat) : Option (List Byte) :=
  let run := s.fwSlot s.upd.running
  let other := s.fwSlot (1 - s.upd.running)
  let dig := fun (k : Nat) => some (digBytes (run.digests[k]?.getD 0))
  match i with
  | 1 => some (digBytes (Config.digest [1]).toNat)
  | 2 => dig 0
  | 3 => dig 1
  | 4 => dig 2
  | 5 => some (natLe (s.rdF .SEC_STATUS 0 0 2) 1 ++ natLe (s.rdF .SEC_SVN 0 0 7) 1 ++ natLe (s.rdF .SEC_STATUS 0 6 2) 1 ++
      natLe (s.rdF .SEC_STATUS 0 8 4) 1 ++ natLe (s.rdF .SEC_STATUS 0 2 1) 1 ++ natLe 0 3 ++ digBytes (s.sec.ownerKey.getD 0))
  | 6 => some (natLe (s.rdF .SEC_STATUS 0 4 1) 1 ++ natLe (s.rdF .SEC_DEBUG 0 8 3) 1 ++ natLe (s.rdF .SEC_DEBUG 0 0 3) 1 ++ natLe 0 5 ++
      natLe (s.rdN .SEC_DEBUG_FIRST 0) 8)
  | 7 => some ((List.range 16).flatMap fun n => s.layoutRecord (n + 1))
  | 8 => some (natLe (1 - s.upd.running) 1 ++ natLe other.st 1 ++ natLe (b2n s.upd.confirmed) 1 ++ natLe other.svn 1 ++ natLe other.ver 4 ++
      digBytes (other.digests[0]?.getD 0))
  | 9 => some (natLe (b2n s.pair.mirrored) 1 ++ natLe s.role 1 ++ natLe (s.rdF .TWN_PAIR_STATUS 0 6 1) 1 ++
      natLe (s.rdF .TWN_PAIR_STATUS 0 4 1) 1 ++ natLe 0 4 ++ digBytes s.sec.partnerCert)
  | i => if 17 ≤ i ∧ i ≤ 32 then s.programDigest (i - 16) else none

/-- The Afunmet extension of a certificate for an alias key made now: measurements 1 to 5, the running SVN and the boot count (R443). -/
def State.certExt (s : State) : List Byte :=
  ((List.range 5).flatMap fun i => (s.measure (i + 1)).getD []) ++ natLe (s.fwSlot s.upd.running).svn 1 ++
  natLe (s.rdN .SEC_BOOT_COUNT 0) 4

/-- The alias key is ready, with its certificate (R442, R443). -/
def State.aliasMade (s : State) : State := { s with sec := { s.sec with aliasReady := true, aliasExt := s.certExt } }

/-- The blocks that a request names: one index, every one (255), or their number (0). -/
def State.measureBlocks (s : State) (index : Nat) : Option (List (Nat × List Byte)) :=
  let all := (List.range 33).filterMap fun i => (s.measure i).map fun b => (i, b)
  if index = 0 then some [(0, natLe all.length 1)]
  else if index = 255 then some all
  else (s.measure index).map fun b => [(index, b)]

/- The responder. -/

/-- Add an answer to those of this step. -/
def State.answer (s : State) (doe : Bool) (r : SpdmResp) : State := { s with sec := { s.sec with resp := s.sec.resp ++ [(doe, r)] } }

/-- Answer with an error. -/
def State.spdmErr (s : State) (doe : Bool) (e : SpdmErr) : State := s.answer doe (.error e)

/-- A request waits: over DOE with the Busy bit set (R451, R468). -/
def State.spdmWait (s : State) (doe : Bool) (r : SpdmReq) : State :=
  { s with sec := { s.sec with waiting := s.sec.waiting ++ [(doe, r)] } }.answer doe .wait

/-- Requests that need the alias key or that a handover window defers (R459). -/
def SpdmReq.needsAlias : SpdmReq → Bool
  | .digests | .certificate .. | .challenge _ | .measurements _ | .keyExchange => true
  | _ => false

/-- The SPDM request code of a request that may be deferred. -/
def SpdmReq.code : SpdmReq → Nat
  | .digests => 0x81
  | .certificate .. => 0x82
  | .challenge _ => 0x83
  | .measurements _ => 0xE0
  | .keyExchange => 0xE4
  | _ => 0

/-- A module in RMA has no device identity (R438). -/
def State.rma (s : State) : Bool := s.rdF .SEC_STATUS 0 0 2 == 2

/-- The session of a transport, once FINISH has completed it. -/
def State.session (s : State) (doe : Bool) (id : Nat) : Option Session := s.sec.sessions.find? fun x => x.id == id && x.doe == doe

/-- End a session; IDE streams keyed through it keep their keys (R454). -/
def State.dropSession (s : State) (id : Nat) : State :=
  { s with sec := { s.sec with sessions := s.sec.sessions.filter fun x => x.id != id } }

/-- Do something in an established session, or answer InvalidRequest. -/
def State.inSession (s : State) (doe : Bool) (id : Nat) (f : State → State) : State :=
  match s.session doe id with
  | some x => if x.done then f s else s.spdmErr doe .invalidRequest
  | none => s.spdmErr doe .invalidRequest

/-- Part of slot 0's chain; what exceeds DataTransferSize goes in chunks (R443, R452). -/
def State.certPart (s : State) (doe : Bool) (slot off len : Nat) : State :=
  if s.rma then s.spdmErr doe .unspecified
  else if slot ≠ 0 then s.spdmErr doe .invalidRequest
  else if 4096 < len then
    { s with sec := { s.sec with large := tabSet s.sec.large (b2n doe) (.certificate slot off len) } }.spdmErr doe .largeResponse
  else s.answer doe (.certificate s.sec.aliasGen s.sec.aliasExt off len)

/-- A new secured session, of at most four (R454). -/
def State.openSession (s : State) (doe : Bool) : State :=
  if 4 ≤ s.sec.sessions.length then s.spdmErr doe .sessionLimitExceeded else
  let id := s.sec.nextSession
  let x : Session := { id := id, doe := doe }
  { s with sec := { s.sec with nextSession := id + 1, sessions := s.sec.sessions ++ [x] } }.answer doe
    (.keyExchange id 60 s.sec.aliasGen)

/-- Replace a session. -/
def State.updSession (s : State) (id : Nat) (f : Session → Session) : State :=
  { s with sec := { s.sec with sessions := s.sec.sessions.map fun x => if x.id = id then f x else x } }

/-- The handshake of a session ends (R452). -/
def State.finishSession (s : State) (doe : Bool) (id : Nat) (ok : Bool) : State :=
  match s.session doe id with
  | some x =>
    if x.done then s.spdmErr doe .invalidRequest
    else if ok then (s.updSession id fun y => { y with done := true }).answer doe (.finished id)
    else (s.dropSession id).spdmErr doe .invalidRequest
  | none => s.spdmErr doe .invalidRequest

/-- A chunk of a large request, in order (R452). -/
def State.chunkIn (s : State) (doe : Bool) (seq : Nat) (last : Bool) : State :=
  let set := fun (n : Nat) => ({ s with sec := { s.sec with chunkIn := tabSet s.sec.chunkIn (b2n doe) n } } : State)
  if seq ≠ tabGet s.sec.chunkIn 0 (b2n doe) then (set 0).spdmErr doe .invalidRequest
  else (set (if last then 0 else seq + 1)).answer doe (.chunkAck seq)

/-- A chunk of the large answer that waits; its last one ends it (R452). -/
def State.chunkOut (s : State) (doe : Bool) (seq : Nat) : State :=
  match tabFind s.sec.large (b2n doe) with
  | some (.certificate slot off len) =>
    let n := ceilDiv len 4096
    if n ≤ seq then s.spdmErr doe .invalidRequest else
    let t := if seq + 1 = n then { s with sec := { s.sec with large := tabDel s.sec.large (b2n doe) } } else s
    t.answer doe (.chunk seq (.certificate slot off len))
  | _ => s.spdmErr doe .invalidRequest

/-- The answer of a responder that is ready (R443, R452 to R455). -/
def State.respondNow (s : State) (doe : Bool) (r : SpdmReq) : State :=
  match r with
  | .version => s.answer doe (.version [0x12, 0x13])
  | .capabilities => s.answer doe (.capabilities 4096 65536)
  | .algorithms ok => if ok then s.answer doe .algorithms else s.spdmErr doe .invalidRequest
  | .digests => s.answer doe (.digests s.sec.aliasGen)
  | .certificate slot off len => s.certPart doe slot off len
  | .challenge slot =>
    if s.rma then s.spdmErr doe .unspecified
    else if slot ≠ 0 then s.spdmErr doe .invalidRequest else s.answer doe (.challengeAuth s.sec.aliasGen)
  | .measurements index => match s.measureBlocks index with
    | some l => s.answer doe (.measurements l s.sec.aliasGen)
    | none => s.spdmErr doe .invalidRequest
  | .keyExchange => if s.sec.trngFailed then s.spdmWait doe r else s.openSession doe
  | .finish id ok => s.finishSession doe id ok
  | .heartbeat id => s.inSession doe id fun t => t.answer doe .heartbeatAck
  | .keyUpdate id => s.inSession doe id fun t => (t.updSession id fun (x : Session) => { x with keyGen := x.keyGen + 1 }).answer doe .keyUpdateAck
  | .endSession id => s.inSession doe id fun t => (t.dropSession id).answer doe .endSessionAck
  | .chunkSend seq last => s.chunkIn doe seq last
  | .chunkGet seq => s.chunkOut doe seq
  | .vendor proto => if doe && decide (proto < 2) then s.answer doe (.vendor proto) else s.spdmErr doe .unsupportedRequest
  | .respondIfReady _ => s.spdmErr doe .invalidRequest
  | .unsupported => s.spdmErr doe .unsupportedRequest

/-- The module answers SPDM: powered, and past READY (R451). -/
def State.spdmUp (s : State) : Bool := s.brd.powered && s.fnState 0 != fnBooting

/-- In RMA the answer to GET_CERTIFICATE and CHALLENGE needs no key (R438). -/
def State.aliasLacks (s : State) (r : SpdmReq) : Bool :=
  r.needsAlias && !s.sec.aliasReady && !(s.rma && (match r with | .certificate .. | .challenge _ => true | _ => false))

/-- RESPOND_IF_READY asks for the oldest deferred request of a code (R459). -/
def State.respondDeferred (s : State) (doe : Bool) (code : Nat) : State :=
  match s.sec.deferred.find? fun e => e.1 == doe && e.2.code == code with
  | some e =>
    if s.upd.stage == .window then s.spdmErr doe (.responseNotReady 15 2)
    else { s with sec := { s.sec with deferred := s.sec.deferred.erase e } }.respondNow doe e.2
  | none => s.spdmErr doe .invalidRequest

/-- Take one request: before READY it waits or is Busy, in a handover window it is deferred, otherwise it is answered (R451, R459). -/
def State.takeSpdm (s : State) (doe : Bool) (r : SpdmReq) : State :=
  if !s.brd.powered then s
  else if !s.spdmUp || s.aliasLacks r then (if doe then s.spdmWait doe r else s.spdmErr doe .busy)
  else match r with
    | .respondIfReady code => s.respondDeferred doe code
    | r =>
      if s.upd.stage == .window && r.needsAlias then
        { s with sec := { s.sec with deferred := s.sec.deferred ++ [(doe, r)] } }.spdmErr doe (.responseNotReady 15 2)
      else s.respondNow doe r

/-- An SPDM request arrives. -/
def State.spdm (s : State) (doe : Bool) (r : SpdmReq) : State := { s with sec := { s.sec with resp := [] } }.takeSpdm doe r

/-- Requests that wait are taken again, in order. -/
def State.spdmGo (s : State) : State :=
  s.sec.waiting.foldl (fun t e => t.takeSpdm e.1 e.2) { s with sec := { s.sec with waiting := [], resp := [] } }

end Sys2Proof.Machine
end

