-- ==== Sys2Proof/Machine/UpdOps.lean ====
section
/-! DEFINITION. The parts of a firmware update that its commands share (13): the checks of an image's header (12 R445 to R449), the
received blocks, and the handover window from its opening to its close (R486, R489). -/

namespace Sys2Proof.Machine

open Sys2Proof

/-- The major field of a firmware version (R351, R484, R576). -/
def fwMajor (v : Nat) : Nat := bits v 24 8

/-- UPDATE_STATE to PF0 (R371). -/
def State.updEvent (s : State) (st code : Nat) : State := s.post 0 0x0801 [st, code]

/- The image. -/

/-- n little-endian bytes of a header from an offset on. -/
def hdr (l : List Byte) (o n : Nat) : Nat := leNat ((l.drop o).take n)

/-- Bytes of the header that hold no field are zero (R445, R475). The table leaves the places inside a component entry open, so those
are not checked (log entry 51). -/
def hdrZero (l : List Byte) : Bool :=
  bits (hdr l 4 4) 18 14 == 0 && bits (hdr l 0x0C 4) 7 25 == 0 && hdr l 0x15 3 == 0 && hdr l 0x1C 4 == 0 && hdr l 0x28 24 == 0 &&
  ((l.drop 0xF6D).take 147).all (· == 0)

/-- MAGIC, HDR_VER, PART, STEPS, reserved bytes, and IMAGE_LEN against the argument (R445, R475). -/
def State.hdrOk (s : State) (l : List Byte) (len : Nat) : Bool :=
  hdr l 0 4 == 0x4C424659 && hdr l 4 2 == 1 && hdr l 0x10 4 == s.rdF .RAS_SB_IDENT 0 0 32 && bitAt (hdr l 0x14 1) 1 && hdrZero l &&
  hdr l 0x18 4 == len && decide (len ≤ 50331648)

/-- The slot that its first 12,288 bytes describe, with no block yet (R475). -/
def slotOf (l : List Byte) : FwSlot :=
  { st := 1, ver := hdr l 8 4, svn := bits (hdr l 0x0C 1) 0 7, keyIdx := bits (hdr l 4 4) 16 2, len := hdr l 0x18 4, head := l }

/-- Block b of a slot's image is written with its tag (R445, R476). -/
def FwSlot.putBlock (x : FwSlot) (b : Nat) (tag : List Nat) (l : List Byte) : FwSlot :=
  { x with tags := tabSet x.tags b tag, cipher := tabSet x.cipher b l }

/-- A fused key pair is revoked (R437). -/
def State.revoked (s : State) (k : Nat) : Bool := bitAt (s.rdF .SEC_STATUS 0 8 4) k

/-- The anti-rollback counter (R449). -/
def State.svnCounter (s : State) : Nat := s.rdF .SEC_SVN 0 0 7

/-- Blocks of an image (R475). -/
def blockCount (len : Nat) : Nat := ceilDiv len 65536

/-- The condition of R479 that refuses a command now; the ROM in recovery tests none (R481). -/
def State.updBlocked (s : State) : Option Nat := if s.sec.recovery then none else s.updRefusal

/-- The code of a state (R474). -/
def UpdState.code : UpdState → Nat
  | .idle => 0 | .receiving => 1 | .committing => 2 | .committed => 3 | .activating => 4 | .confirming => 5

/-- Move to an update state. -/
def State.setUpd (s : State) (st : UpdState) : State := { s with upd := { s.upd with st := st } }

/- The window. -/

/-- When the window closes, 27 ms after the quiescent point (R486; log entry 52). -/
abbrev windowNs : Nat := 27000000

/-- Every function reads HANDOVER and SRV_STATUS shows it (R486). -/
def State.openWindow (s : State) (rev : Bool) : State :=
  let t := { s with upd := { s.upd with stage := .window, reverse := rev, windowT := s.time } }
  (t.wrF .SRV_STATUS 0 1 1 1).allFns fun t f => t.setFnState f fnHandover

/-- The STATE that a function goes back to. -/
def State.stateBack (s : State) (fn : Nat) : Nat :=
  if s.rdF .RAS_OOS 0 0 8 ≠ 0 then fnOos
  else if (tabFind s.part.scrubs fn).any (·.started) then fnScrubbing else s.restState fn

/-- Posts of the window are taken in post order (R358, R486). -/
def State.takeDeferred (s : State) : State :=
  s.mbx.deferred.foldl (fun t e => t.take e.1 e.2) { s with mbx := { s.mbx with deferred := [] } }

/-- The functions leave HANDOVER. -/
def State.leaveWindow (s : State) : State := (s.wrF .SRV_STATUS 0 1 1 0).allFns fun t f => t.setFnState f (t.stateBack f)

/-- FW_HANDOVER to every function whose ring is enabled (R371, R372). -/
def State.handoverEvent (s : State) (old new : Nat) : State :=
  let us := (s.time - s.upd.windowT) / 1000
  s.allFns fun t f => if t.rdF .FN_EVT_CTL f 0 1 = 1 then t.post f 0x0002 [old, new, us] else t

/-- Slot 0 switches to a new alias key, and every session ends (R460). -/
def State.switchAlias (s : State) : State :=
  ({ s with sec := { s.sec with aliasGen := s.sec.aliasGen + 1, staged := false, sessions := [] } }.aliasMade).hwSet .SEC_EVT 0 64

/-- The running image changes: FN_FW_VER, FN_FW_SLOT, KEY_INDEX and the alias key (R372, R470, R486). -/
def State.runSlot (s : State) (k : Nat) : State :=
  let t := { s with upd := { s.upd with running := k } }.showFw
  (t.wrF .SEC_STATUS 0 6 2 (t.fwSlot k).keyIdx).switchAlias

/-- The functions' states, the posts of the window and the models' steps, once it has closed. -/
def State.afterWindow (s : State) (old new : Nat) : State :=
  (((s.leaveWindow).handoverEvent old new).takeDeferred).resumeSteps

/-- The new firmware runs and is watched: the boot record names its slot on trial (R486). -/
def State.closeForward (s : State) : State :=
  let o := s.upd.running
  let n := 1 - o
  let t := (s.setSlot o { s.fwSlot o with st := 4 }).setSlot n { s.fwSlot n with st := 4 }
  let t := t.runSlot n
  let t := { t with upd := { t.upd with
    st := .confirming, stage := .watching, active := n, trial := true, trialBooted := true, confirmed := false, viaReset := false
    fatal := false } }
  (t.endOwner 0x803 rOk).afterWindow (s.fwSlot o).ver (s.fwSlot n).ver

/-- The old firmware is back: its slot is named again, and the failed image's slot is INVALID (R489). A fatal error's RESULT has no
number of its own, so it is a free value (log entry 53). -/
def State.closeReverse (s : State) : State :=
  let n := s.upd.running
  let o := 1 - n
  let (w, t) := if s.upd.fatal then s.free else (w64 rHang, s)
  let t := (t.setSlot n { t.fwSlot n with st := 5, ok := false }).runSlot o
  let t := { t with upd := { t.upd with
    st := .idle, stage := .none, active := o, trial := false, trialBooted := false, confirmed := true, reverse := false, fatal := false } }
  (t.updEvent 0 (w.toNat % 65536)).afterWindow (s.fwSlot n).ver (s.fwSlot o).ver

/-- The window closes once its time has come. -/
def State.closeWindow (s : State) : State :=
  if s.upd.stage != .window || decide (s.time < s.upd.windowT + windowNs) then s
  else if s.upd.reverse then s.closeReverse else s.closeForward

/-- The new firmware did not adopt the record: the old firmware goes on, activation ends ABORTED and the update stays COMMITTED
(R486). -/
def State.abortWindow (s : State) : State :=
  let n := 1 - s.upd.running
  let t := s.setSlot n { s.fwSlot n with st := 2 }
  let t := { t with upd := { t.upd with st := .committed, stage := .none } }
  (((t.leaveWindow).endOwner 0x803 rAborted).takeDeferred).resumeSteps

end Sys2Proof.Machine
end

