-- ==== Sys2Proof/Machine/TimeOps.lean ====
section
/-! DEFINITION. The timebase (17 R615 to R617): the results of a time source, its loss, and the one step of TIME_NS. -/

namespace Sys2Proof.Machine

open Sys2Proof

/-- SYNC codes (R625). -/
abbrev syncFree : Nat := 0
abbrev syncAcquiring : Nat := 1
abbrev syncLocked : Nat := 2
abbrev syncHoldover : Nat := 3
abbrev syncFault : Nat := 4

/-- A point of time moved by the step. -/
def moved (off : Int) (t : Nat) : Nat := (t + off).toNat

/-- Powered time does not step, and running timeouts are moved with TIME_NS, so that durations keep their length (R608, R617). -/
def State.moveTimers (s : State) (off : Int) : State :=
  let m := moved off
  { s with
    mbx := { s.mbx with postT := tabMap m s.mbx.postT, coalT := tabMap m s.mbx.coalT }
    pwr := { s.pwr with leaseEnd := m s.pwr.leaseEnd, decayT := s.pwr.decayT.map m, hubT := m s.pwr.hubT, tripT := m s.pwr.tripT
                        coolT := s.pwr.coolT.map m, reqLow := s.pwr.reqLow.map (fun e => (e.1, m e.2)), outSince := tabMap m s.pwr.outSince
                        preset := tabMap (fun e => (e.1, m e.2)) s.pwr.preset, lifeT := m s.pwr.lifeT
                        draws := s.pwr.draws.map fun e => (m e.1, e.2)
                        plans := tabMap (fun l => l.map fun x => { x with start := m x.start }) s.pwr.plans }
    srv := { s.srv with models := tabMap (fun c =>
      { c with step := c.step.map fun st => { st with tPost := m st.tPost, since := m st.since } }) s.srv.models }
    ras := { s.ras with powBase := s.ras.powBase - off, lastEvt := tabMap m s.ras.lastEvt
                        counts := s.ras.counts.map fun e => if e.1 / 2 ^ 40 = 3 ∨ e.1 / 2 ^ 40 = 4 then e else (e.1, e.2.map m) }
    pair := { s.pair with
      claiming := s.pair.claiming.map m, indet := s.pair.indet.map m, freeSince := s.pair.freeSince.map m
      held := s.pair.held.map fun h => { h with since := m h.since }
      early := s.pair.early.map fun (d : Dig) => { d with time := m d.time } }
    clk := { s.clk with badT := s.clk.badT.map m, ppsEdges := s.clk.ppsEdges.map m, valleyT := m s.clk.valleyT
                        relock := s.clk.relock.map fun (e : Nat × Nat) => (e.1, m e.2) }
    fab := { s.fab with traceT := tabMap m s.fab.traceT
                        cores := tabMap (fun h => { h with sram := h.sram.map fun e => (e.1, m e.2) }) s.fab.cores }
    pln := { s.pln with coolSince := s.pln.coolSince.map m, hotSince := s.pln.hotSince.map m, warmSince := s.pln.warmSince.map m }
    upd := { s.upd with windowT := m s.upd.windowT }
    brd := { s.brd with identify := if s.brd.identify = 0 then 0 else m s.brd.identify } }

/-- A signed 64-bit register. -/
def State.wrI (s : State) (r : Reg) (n : Nat) (v : Int) : State := s.wrN r 0 (unsignedOf n v)

/-- The source of R616 now: 2 the partner, 1 PTM, 3 PPS_IN, 0 none. -/
def State.bestSource (s : State) : Nat :=
  if s.clk.partner && !s.pair.primary && s.rdF .TWN_PAIR_STATUS 0 5 1 == 1 then 2
  else if s.clk.ptm then 1
  else if s.rdF .TIM_STATUS 0 6 1 = 1 then 3 else 0

/-- The bound of R615 for a source, in ns; PPS_IN has none there (log entry 56). -/
def syncBound (src : Nat) : Nat :=
  match src with
  | 1 => 50
  | 2 => 20
  | _ => Config.ppsBound

/-- SYNC changes; LOCK and LOCK_LOST follow (R625). -/
def State.setTimeSync (s : State) (v : Nat) : State :=
  let o := s.rdF .TIM_STATUS 0 0 3
  if o = v then s else
  let t := s.wrF .TIM_STATUS 0 0 3 v
  if v = syncLocked then t.hwSet .TIM_EVT 0 1 else if o = syncLocked then t.hwSet .TIM_EVT 0 2 else t

/-- The one step of TIME_NS, by the full offset (R617). -/
def State.stepTime (s : State) (src : Nat) (off : Int) : State :=
  let t := { s.moveTimers off with time := moved off s.time % 2 ^ 64 }
  let t := ((t.wrF .TIM_STATUS 0 5 1 1).wrI .TIM_STEP 64 off).hwSet .TIM_EVT 0 4
  let t := { t with clk := { t.clk with good := 0, badT := none } }
  (t.wrF .TIM_STATUS 0 3 2 src).setTimeSync syncAcquiring

/-- The frequency correction in force: its size is not given, only that it stays within 100 ppm (R617; log entry 57). -/
def State.slew (s : State) : State :=
  let (w, t) := s.free
  t.wrI .TIM_SLEW 32 ((w.toNat % 200001 : Nat) - 100000)

/-- An offset of the source in force: LOCKED after eight in a row within the bound, FAULT after 1 s above 10 µs (R617). -/
def State.trackOffset (s : State) (src : Nat) (off : Int) : State :=
  let n := if off.natAbs ≤ syncBound src then s.clk.good + 1 else 0
  let bad := if 10000 < off.natAbs then some (s.clk.badT.getD s.time) else none
  let t := { s with clk := { s.clk with good := n, badT := bad } }
  let t := if 8 ≤ n then t.setTimeSync syncLocked else t
  match bad with
  | some t0 => if t0 + 1000000000 ≤ t.time then (t.setTimeSync syncFault).wrI .TIM_SLEW 32 (if off < 0 then -100000 else 100000) else t.slew
  | none => t.slew

/-- A result of a time source (R616, R617): only the selected one steers. -/
def State.timeResult (s : State) (src : Nat) (off : Int) : State :=
  if s.bestSource ≠ src then s
  else if s.rdF .TIM_STATUS 0 5 1 = 0 then s.stepTime src off
  else if s.rdF .TIM_STATUS 0 3 2 ≠ src then
    let t := { s with clk := { s.clk with good := 0, badT := none } }
    ((t.wrF .TIM_STATUS 0 3 2 src).setTimeSync syncAcquiring).trackOffset src off
  else s.trackOffset src off

/-- A source is lost: the next one is taken without a step, or the module holds over or runs free (R616, R617). -/
def State.sourceLost (s : State) (src : Nat) : State :=
  if s.rdF .TIM_STATUS 0 3 2 ≠ src then s else
  let n := s.bestSource
  let t := { s with clk := { s.clk with good := 0, badT := none } }.wrF .TIM_STATUS 0 3 2 n
  if n ≠ 0 then t.setTimeSync syncAcquiring
  else t.setTimeSync (if s.rdF .TIM_STATUS 0 0 3 = syncLocked then syncHoldover else syncFree)

/-- The partner no longer gives time. -/
def State.partnerTimeLost (s : State) : State := { s with clk := { s.clk with partner := false } }.sourceLost 2

/-- PTM no longer gives time. -/
def State.ptmLost (s : State) : State := { s with clk := { s.clk with ptm := false } }.sourceLost 1

end Sys2Proof.Machine
end

