-- ==== Sys2Proof/Machine/LinkOps.lean ====
section
/-! DEFINITION. The host link and the twin link (11): lane sets, map-out, training, conventional reset, and what BAR2 and ATS reach. -/

namespace Sys2Proof.Machine

open Sys2Proof

/- The host link. -/

/-- R400: configuration space, IDE and TDISP state, PF0 and every bound VF are reset; DOE sessions end (R454), and no PTM dialogue
runs. -/
def State.conventionalReset (s : State) : State :=
  let t := (List.range 17).foldl (fun (u : State) f => u.tdiError f) s
  let tdi := (List.range 17).filterMap fun f => if (tabGet t.lnk.tdi .unlocked f) == .error && (t.prt f).bound then some (f, Tdi.error) else none
  let t := { t with
    lnk := { t.lnk with up := false, rate := 0, lanes := [], train := true, numVfs := 0, vfEnable := false, ide := [], tdi := tdi, ats := []
                        atc := [], inval := [], pasid := [], bar2 := [], msix := [], pba := [] }
    sec := { t.sec with sessions := t.sec.sessions.filter fun x => !x.doe, waiting := t.sec.waiting.filter fun e => !e.1
                        deferred := t.sec.deferred.filter fun e => !e.1 } }
  let t := t.orphanPf0.resetFnRegs 0
  let vfs := t.boundVfs
  let t := if vfs.isEmpty || !t.inValley then t else t.beginExit
  (vfs.foldl (fun (u : State) v => u.startScrub v .link none 0 (u.prt v)) t).ptmLost

/-- The lane sets of the host link in order of preference, with those that the host port must reverse (R393). -/
def hostSets : List (List Nat × Bool) :=
  [(List.range 16, false), (List.range 8, false), ((List.range 8).map (· + 8), true), (List.range 4, false), ([12, 13, 14, 15], true),
   ([0, 1], false), ([14, 15], true), ([0], false), ([15], true)]

/-- Host lanes that are mapped out (R430). -/
def State.hostOut (s : State) : List Nat := maskBits (s.rdF .TWN_MAPOUT 0 8 16) 16

/-- Twin lanes that are mapped out at this end (R430). -/
def State.twinOut (s : State) : List Nat := maskBits (s.rdF .TWN_MAPOUT 0 0 8) 8

/-- A host lane is mapped out: stored, MAPOUT set, and logged against PF0 (R434). -/
def State.mapHostLane (s : State) (l : Nat) : State :=
  if s.hostOut.contains l then s
  else ((s.wrF .TWN_MAPOUT 0 (8 + l) 1 1).hwSet .TWN_EVT 0 8).log 4 0x0C 0 l 0x43 0x1F 1 0 0 0

/-- A twin lane is mapped out (R434). -/
def State.mapTwinLane (s : State) (l : Nat) : State :=
  if s.twinOut.contains l then s
  else ((s.wrF .TWN_MAPOUT 0 l 1 1).hwSet .TWN_EVT 0 8).log 4 0x0E 0 l 0x43 0x1F 1 0 0 0

/-- Lanes that failed this training add to their count, the others start again; the lanes that failed two in a row come with it
(R433). -/
def countFails (t : Tab Nat) (lanes bad : List Nat) : Tab Nat × List Nat :=
  let u := lanes.foldl (fun a l => tabSet a l (if bad.contains l then tabGet t 0 l + 1 else 0)) t
  (u, lanes.filter fun l => decide (2 ≤ tabGet u 0 l))

/-- The set that the host link trains on: the widest with no mapped-out lane on which every lane is good (R393). -/
def pickHost (out good : List Nat) (revOk : Bool) : Option (List Nat) :=
  (hostSets.find? fun e => e.1.all (fun l => good.contains l && !out.contains l) && (revOk || !e.2)).map (·.1)

/-- A LINK_RESTORE of a link completes with the lanes that it gained (R436). -/
def State.restoreDone (s : State) (link now : Nat) : State :=
  match tabFind s.lnk.restore link with
  | none => s
  | some (was, f, m) =>
    let t := { s with lnk := { s.lnk with restore := tabDel s.lnk.restore link } }
    (t.hwSet .TWN_EVT 0 128).cmdDone f m 0x007 rOk [now - was]

/-- The host link trains, or goes through Recovery while it is up (R393, R433, R434). -/
def State.trainHost (s : State) (hostRate : Nat) (good : List Nat) (revOk : Bool) (worn : List Nat) : State :=
  let lanes := (List.range 16).filter fun l => !s.hostOut.contains l
  let (fails, two) := countFails s.lnk.hostLaneFail lanes (lanes.filter fun l => !good.contains l)
  let t := { s with lnk := { s.lnk with hostLaneFail := fails } }
  let t := (two ++ worn).foldl (fun (u : State) l => u.mapHostLane l) t
  match pickHost t.hostOut good revOk with
  | none =>
    let u := { t with lnk := { t.lnk with up := false, rate := 0, lanes := [], train := true } }
    if t.lnk.up then u.conventionalReset else u
  | some set =>
    let u := { t with lnk := { t.lnk with up := true, rate := min 6 hostRate, lanes := set, train := false } }
    u.restoreDone 0 set.length

/-- PCIE_CLK runs, and the cable's type matches (R609, R610, R432). -/
def State.hostCanTrain (s : State) : Bool :=
  s.brd.powered && !s.clk.refLost && bitAt (s.rdN .TIM_CLK_LOCK 0) 14 && !(tabGet s.lnk.cables {} 0).wrong

/- The twin link. -/

/-- The lane sets of the twin link in order of preference (R419). -/
def twinSets : List (List Nat) := [List.range 8, [0, 1, 2, 3], [4, 5, 6, 7], [0, 1], [2, 3], [4, 5], [6, 7]]

/-- WIDTH code of a number of twin lanes (R428). -/
def widthCode (n : Nat) : Nat := if n = 8 then 3 else if n = 4 then 2 else if n = 2 then 1 else 0

/-- STATE of the twin link. -/
def State.twinState (s : State) : Nat := s.rdF .TWN_STATUS 0 0 2

/-- The link goes DOWN: queued messages are discarded and counted (R422). -/
def State.twinDown (s : State) : State :=
  let t := (s.wrF .TWN_STATUS 0 0 4 0).wrF .TWN_STATUS 0 16 8 0
  let t := { t with lnk := { t.lnk with
    twinDropped := t.lnk.twinDropped + (t.lnk.unacked.filter (·.eom)).length + t.lnk.txq.length
    unacked := [], txq := [], nakSent := false, twinWasUp := false } }
  if s.lnk.twinWasUp then t.hwSet .TWN_EVT 0 2 else t

/-- The link begins to retrain: its messages are kept (R422). -/
def State.twinRetrain (s : State) : State :=
  if s.twinState ≠ 2 then s else
  (((s.wrF .TWN_STATUS 0 0 2 1).count .TWN_RETRAIN 0 1).hwSet .TWN_EVT 0 4).log 4 0x0E 0 0 0x44 0x1F 1 0 0 0

/-- Every flit in the replay buffer is sent again, before any new one (R421, R422, R425). -/
def State.twinResend (s : State) : State :=
  let l := s.lnk.unacked.foldl Lnk.transmit s.lnk
  let t := { s with lnk := { l with unacked := s.lnk.unacked.map fun (f : TwinFlit) => { f with resent := f.resent + 1 } } }
  t.count .TWN_REPLAY 0 s.lnk.unacked.length

/-- The link comes UP on a lane set. -/
def State.twinUp (s : State) (set : List Nat) (inverted : Nat) (reversed : Bool) : State :=
  let t := ((s.wrF .TWN_STATUS 0 0 2 2).wrF .TWN_STATUS 0 2 2 (widthCode set.length)).wrF .TWN_STATUS 0 16 8 (maskOf set)
  let t := (t.wrF .TWN_STATUS 0 8 8 inverted).wrF .TWN_STATUS 0 5 1 (b2n reversed)
  let t := if s.lnk.twinWasUp then
      let u := t.twinResend
      { u with lnk := { u.lnk with unacked := s.lnk.unacked.map fun (f : TwinFlit) => { f with resent := 0 } } }
    else (t.hwSet .TWN_EVT 0 1)
  { t with lnk := { t.lnk with twinWasUp := true, nakSent := false } }.twinPump.restoreDone 1 set.length

/-- The twin link trains (R418, R419, R433): lanes that either end has mapped out are left out. -/
def State.trainTwin (s : State) (peerMask inverted : Nat) (reversed : Bool) (failed : List Nat) : State :=
  let lanes := (List.range 8).filter fun l => !s.twinOut.contains l
  let (fails, two) := countFails s.lnk.twinLaneFail lanes failed
  let t := { s with lnk := { s.lnk with twinLaneFail := fails } }
  let t := two.foldl (fun (u : State) l => u.mapTwinLane l) t
  let good := lanes.filter fun l => !failed.contains l && !t.twinOut.contains l && !bitAt peerMask l
  match twinSets.find? fun c => c.all good.contains with
  | some set => t.twinUp set inverted reversed
  | none => t.twinDown.restoreDone 1 0

/-- Lanes that fail while the link is UP are mapped out, and it retrains without them (R434). -/
def State.wearTwin (s : State) (worn : List Nat) : State :=
  if worn.isEmpty then s else (worn.foldl (fun (u : State) l => u.mapTwinLane l) s).twinRetrain

/-- DATA flits up to a SEQ are acknowledged, and flits that waited for room in the replay buffer follow (R420, R421). -/
def State.twinAck (s : State) (ack : Nat) : State :=
  match s.lnk.unacked.findIdx? fun f => f.seq == ack with
  | some i => { s with lnk := { s.lnk with unacked := s.lnk.unacked.drop (i + 1) } }.twinPump
  | none => s

/-- The receiver discards a flit and answers with one NAK until the missing SEQ arrives (R421). -/
def State.twinDiscard (s : State) : State :=
  { s with lnk := { (if s.lnk.nakSent then s.lnk else s.lnk.answer true) with nakSent := true } }

/-- The receiver takes the DATA flit that is due and acknowledges it (R421). -/
def State.twinTake (s : State) (seq : Nat) : State :=
  { s with lnk := Lnk.answer { s.lnk with rxSeq := (seq + 1) % 4096, nakSent := false } false }

/- BAR2 and ATS. -/

/-- The pages of a VF's view that an access through BAR2 touches. -/
def barPages (off len : Nat) : List Nat := (List.range ((off + max 1 len - 1) / 65536 - off / 65536 + 1)).map (off / 65536 + ·)

/-- Every page that an access through BAR2 touches is mapped with WRITE = 1 (R397). -/
def State.barOk (s : State) (fn off len : Nat) : Bool := (barPages off len).all fun v => (s.xlate fn v true).isSome

/-- The addresses of an access through BAR2. -/
def barAddrs (off len : Nat) : List Nat := (List.range len).map (plainBase + off + ·)

/-- An access through BAR2 waits for a strait or a channel that trains, and a write for a page under migration (R26, R148, R176). -/
def State.barWaits (s : State) (fn off len : Nat) (write : Bool) : Bool :=
  (barAddrs off len).any fun a => (s.locOf fn 0 0 a false).any fun l => s.locTrains hubNode l || (write && s.locMoves l)

/-- The host addresses that a descriptor reads or writes. -/
def Desc.hostAddrs (x : Desc) : List Nat :=
  let d := fdesc x.raw
  (if d.sasp = 1 then x.moves.flatMap fun m => m.srcs.flatMap fun r => nibBytes r.1 r.2 else []) ++
  (if d.dasp = 1 then x.moves.flatMap fun m => nibBytes m.dst m.n else [])

/-- A descriptor of a function runs on host memory within a range. -/
def State.hostRuns (s : State) (fn addr size : Nat) : Bool :=
  s.fry.chans.any fun e => e.2.queue.any fun x => x.started && x.fn == fn && x.hostAddrs.any fun a => decide (addr ≤ a ∧ a < addr + size)

/-- The first Invalidate Request that waits for no request any more completes (R402). -/
def State.settleInval (s : State) : State :=
  match s.lnk.inval.find? fun e => !s.hostRuns e.1 e.2.1 e.2.2 with
  | some e => { s with lnk := { s.lnk with inval := s.lnk.inval.erase e }, reply := .invalidated e.1 e.2.1 e.2.2 }
  | none => s

/- Locked configuration. -/

/-- The interface is CONFIG_LOCKED or RUN (R408). -/
def State.cfgLocked (s : State) (fn : Nat) : Bool :=
  match tabGet s.lnk.tdi .unlocked fn with
  | .locked | .run => true
  | _ => false

/-- A write of configuration that the lock freezes: one that would change it moves the interface to ERROR (R408, R409). -/
def State.cfgWrite (s : State) (fn : Nat) (changes : Bool) (f : State → State) : State :=
  if !changes then s else if s.cfgLocked fn then s.tdiError fn else f s

end Sys2Proof.Machine
end

