-- ==== Sys2Proof/Machine/HangOps.lean ====
section
/-! DEFINITION. The hang detector's wait-for graph (15 R548 to R552): its nodes, what blocks them, where their edges lead, and the
closed waits in it. -/

namespace Sys2Proof.Machine

open Sys2Proof

/-- The source node: the host, the serving engine, the MCP, a thread in HALTED, or anything that waits for nothing (R548). -/
abbrev srcNode : Nat := 0

/-- Nodes of the graph as numbers (R548): threads, passes, ferry channels, sorters, converter jobs, streams and mailbox commands. -/
def nodeThread (g : Nat) : Nat := 2 ^ 20 + g
def nodePass (p : Nat) : Nat := 2 * 2 ^ 20 + p
def nodeChan (c : Nat) : Nat := 3 * 2 ^ 20 + c
def nodeSorter (k : Nat) : Nat := 4 * 2 ^ 20 + k
def nodeJob (j : Nat) : Nat := 5 * 2 ^ 20 + j
def nodeStream (k : Nat) : Nat := 6 * 2 ^ 20 + k
def nodeCmd (fn mbx : Nat) : Nat := 7 * 2 ^ 20 + (fn * 32 + mbx)

/-- The kind of a node and its number within the kind. -/
def nodeKind (n : Nat) : Nat := n / 2 ^ 20
def nodeNo (n : Nat) : Nat := n % 2 ^ 20

/-- Where a thread that waits leads; none while it does not wait (R548). -/
def Thread.waitNode (t : Thread) : Option Nat :=
  match t.st, t.stall with
  | .passWait, .wait p _ _ _ => some (nodePass p)
  | .run, .post ch _ _ => some (nodeChan ch)
  | .run, .sort k _ _ => some (nodeSorter k)
  | _, _ => none

/-- A descriptor or job that has not ended names a pass in its completion action (R215). -/
def namesPass (action target p : Nat) : Bool := action == 1 && target == p

/-- Where a pass leads: the threads of its partition's active contexts that have not arrived, the channels and sorters that name it,
and the serving engine for a model's passes (R548). -/
def State.passEdges (s : State) (p : Nat) : List Nat :=
  let fn := (s.passOwner p).getD 0
  let ths := s.fab.threads.filter fun e => s.thFn e.1 == fn && (s.ctx e.2.ctx).any (!·.done) && e.2.st != .exited &&
    e.2.waitNode != some (nodePass p)
  let chs := s.fry.chans.filter fun e => e.2.queue.any fun x => namesPass (fdesc x.raw).action (fdesc x.raw).target p
  let srs := s.srt.units.filter fun e => e.2.queue.any fun x => namesPass (jdesc x.raw).action (jdesc x.raw).target p
  let srv := s.srv.models.any fun e => e.1 / 65536 == fn && (e.2.stepPass == p || e.2.donePass == p)
  ths.map (fun e => if e.2.st == .halted then srcNode else nodeThread e.1) ++ chs.map (fun e => nodeChan e.1) ++
    srs.map (fun e => nodeSorter e.1) ++ (if srv then [srcNode] else [])

/-- Where a channel leads: the converter job of a FRAME descriptor, or the host (R548). -/
def Chan.edges (c : Chan) : List Nat :=
  match c.queue with
  | [] => []
  | x :: _ =>
    let d := fdesc x.raw
    (if d.xform = 8 then [nodeJob (x.fn * 256 + d.src)] else []) ++ (if d.sasp = 1 || d.dasp = 1 then [srcNode] else [])

/-- A FRAME descriptor at the head of a channel waits for a job. -/
def State.jobAwaited (s : State) (j : Nat) : Bool := s.fry.chans.any fun e => e.2.edges.contains (nodeJob j)

/-- A picture of a stream is awaited by a job. -/
def State.streamAwaited (s : State) (k : Nat) : Bool := s.vid.jobs.any fun e => e.2.stream == k && s.jobAwaited e.1

/-- A context that can be part of a hang: it runs, and none of its threads is HALTED (R551). -/
def State.ctxHangs (s : State) (c : Nat) : Bool :=
  (s.ctx c).any (fun x => !x.done && x.why.isNone) && !(s.fab.threads.any fun e => e.2.ctx == c && e.2.st == .halted)

/-- An engine reset is due. -/
def State.engineDue (s : State) (src : Nat) : Bool :=
  s.ras.resets.any fun r => match r with | .engine e _ => e == src | _ => false

/-- Every node that is blocked, with its edges: its condition holds, and the scan interval saw no progress of it (R548). While a
handover window is open, mailbox commands are left out (R551). -/
def State.waitGraph (s : State) (moved : List Nat) : List (Nat × List Nat) :=
  let ths := (s.fab.threads.filter fun e => s.ctxHangs e.2.ctx).filterMap fun e => e.2.waitNode.map fun n => (nodeThread e.1, [n])
  let ps := (((s.fab.threads.filterMap fun e => e.2.waitNode).filter fun n => nodeKind n == 2).eraseDups).filterMap fun n =>
    let r := s.pass (nodeNo n)
    if r.target = 0 || r.count < r.target then some (n, s.passEdges (nodeNo n)) else none
  let cs := (s.fry.chans.filter fun e => !e.2.halted && (match e.2.queue with
    | [] => false
    | x :: _ => x.ctx.all s.ctxHangs)).map fun e => (nodeChan e.1, e.2.edges)
  let ss := (s.srt.units.filter fun e => !e.2.halted && (match e.2.queue with
    | [] => false
    | x :: _ => s.ctxHangs x.ctx)).map fun e => (nodeSorter e.1, ([] : List Nat))
  let js := (s.vid.jobs.filter fun e => s.jobAwaited e.1).map fun e =>
    (nodeJob e.1, if e.2.stream = 0xFFFF then [srcNode] else [nodeStream e.2.stream])
  let vs := (s.vid.streams.filter fun e => s.streamAwaited e.1 && !s.engineDue (srcVideo e.2.eng)).map fun e =>
    (nodeStream e.1, if e.2.queue.isEmpty then [srcNode] else [])
  let cmds := if s.upd.stage == .window then [] else s.fry.chans.flatMap fun e => e.2.queue.filterMap fun x =>
    x.cmd.map fun m => (nodeCmd m.1 m.2, [nodeChan e.1])
  (ths ++ ps ++ cs ++ ss ++ js ++ vs ++ cmds).filter fun e => !moved.contains e.1

/-- Drop nodes with an edge out of the set, again and again (R549, R550). -/
def closedWaits : Nat → List (Nat × List Nat) → List (Nat × List Nat)
  | 0, g => g
  | f + 1, g => closedWaits f (g.filter fun e => e.2.all fun n => g.any fun x => x.1 == n)

/-- The nodes that hang together with some nodes, along edges in either direction. -/
def joined (g : List (Nat × List Nat)) : Nat → List Nat → List Nat
  | 0, l => l
  | f + 1, l => joined g f ((g.filter fun e => l.contains e.1 || e.2.any l.contains ||
      g.any fun x => l.contains x.1 && x.2.contains e.1).map (·.1))

/-- The closed waits of a graph, each the set of nodes that hang together. -/
def waitSets (g : List (Nat × List Nat)) : Nat → List (List Nat)
  | 0 => []
  | f + 1 => match g with
    | [] => []
    | e :: _ =>
      let c := joined g g.length [e.1]
      c :: waitSets (g.filter fun x => !c.contains x.1) f

/-- The contexts with a node in a closed wait (R552). -/
def State.waitCtxs (s : State) (w : List Nat) : List Nat :=
  (w.flatMap fun n => match nodeKind n with
    | 1 => [(s.th (nodeNo n)).ctx]
    | 3 => ((s.chan (nodeNo n)).queue.take 1).filterMap (·.ctx)
    | 4 => ((s.sorter (nodeNo n)).queue.take 1).map (·.ctx)
    | _ => []).eraseDups

/-- The engine charged for a closed wait: its channel, sorter or stream with no out-edge (R552). -/
def State.waitCharge (s : State) (g : List (Nat × List Nat)) (w : List Nat) : Option Nat :=
  ((g.filter fun e => w.contains e.1 && e.2.isEmpty).filterMap fun e => match nodeKind e.1 with
    | 3 => some (srcChan (nodeNo e.1))
    | 4 => some (srcSorter (nodeNo e.1))
    | 6 => (tabFind s.vid.streams (nodeNo e.1)).map fun v => srcVideo v.eng
    | _ => none).head?

/-- The die, unit, instance and sub-instance that a HANG entry names: the charged channel itself, another charged unit, or the source
of the lowest-numbered thread (R552 and the chapter's worked example). -/
def State.waitSource (s : State) (g : List (Nat × List Nat)) (w : List Nat) : Nat × Nat × Nat × Nat :=
  match (g.filter fun e => w.contains e.1 && e.2.isEmpty && nodeKind e.1 == 3).head? with
  | some e => chanUnit (nodeNo e.1)
  | none => match s.waitCharge g w with
    | some c => (bits c 0 3, bits c 3 5, bits c 8 8, 0)
    | none =>
      let l := (w.filter fun n => nodeKind n == 1).map nodeNo
      let t := l.foldl min (l.headD 0)
      (islDie (thIsl t), 1, thIsl t % 16, s.physOf (thIsl t) (thCore t % 64))

/-- Declare one hang: the entry, the context resets and the charged engine; a stream with no context takes an engine reset, and a
suspect in replay is quarantined as its replay ends (R552, R564, R565). -/
def State.declareHang (s : State) (g : List (Nat × List Nat)) (w : List Nat) : State :=
  let cs := s.waitCtxs w
  let charge := s.waitCharge g w
  let (d, u, i, b) := s.waitSource g w
  let t := (s.count .RAS_HANGS 0 1).hwSet .RAS_EVT 0 8
  let t := t.log d u i b 0x30 (match charge with | some c => s.srcOwner c | none => s.thFn (nodeNo (w.foldl min (w.headD 0)))) 2 0 0
    (cs.headD 0)
  let t := cs.foldl (fun t c => if t.ras.replaying = some c then { t with ras := { t.ras with replayHung := true } }
    else t.stopCtx c (.hang charge) charge) t
  match charge with
  | some c => if cs.isEmpty && (bits c 3 5 == 0x13 || bits c 3 5 == 0x14) then (t.askReset (.engine c 2)).wantDump 1 else t
  | none => t

/-- One scan: closed waits that the last scan also found are hangs; within a handover window nothing is declared (R549, R551,
R487). -/
def State.hangScan (s : State) (moved : List Nat) : State :=
  let full := s.waitGraph moved
  let g := closedWaits full.length full
  let old := g.filter fun e => s.ras.waits.contains e.1
  let both := closedWaits old.length old
  let t := { s with ras := { s.ras with waits := g.map (·.1) } }
  if s.upd.stage == .window then t else
  (waitSets both both.length).foldl (fun t w => t.declareHang both w) t

end Sys2Proof.Machine
end

