-- ==== Sys2Proof/Machine/RasOps.lean ====
section
/-! DEFINITION. Engine resets (15 R554, R558 to R560), suspects (R563 to R566), and crash dumps (R567 to R570). -/

namespace Sys2Proof.Machine

open Sys2Proof

/- The engine reset. -/

/-- The channels of the long ferry that a source names. -/
def ferryOfSrc (src c : Nat) : Bool := bits src 3 5 == 4 && decide (0x8000 ≤ c) && srcChan c == src

/-- A context has work on an engine (R563): its islands, descriptors or jobs. -/
def State.worksOn (s : State) (src c : Nat) (x : Ctx) : Bool :=
  (match islOfSrc src with | some i => x.islands.contains i | none => false) ||
  (s.fry.chans.any fun e => srcChan e.1 == src && e.2.queue.any fun d => d.ctx == some c) ||
  (s.srt.units.any fun e => srcSorter e.1 == src && e.2.queue.any fun d => d.ctx == c)

/-- Insert a context by the order of starts (R564). -/
def State.insertSuspect (s : State) (c : Nat) (l : List Nat) : List Nat :=
  let key := fun (k : Nat) => ((s.ctx k).map (·.seq)).getD 0
  if l.contains c then l else (l.filter fun k => decide (key k ≤ key c)) ++ [c] ++ l.filter fun k => decide (key c < key k)

/-- A context is replayed after an engine reset: a serving context that the MCP restarts, or a replayable one that was running, or
stopped for a hang or a watchdog (R563, R650). -/
def Ctx.suspect (x : Ctx) : Bool :=
  match x.why with
  | none => x.serving.isSome || x.replayable
  | some w => x.restarts w || (x.replayable && (match w with | .hang _ | .watchdog => true | _ => false))

/-- Reset one context for an engine reset, and keep it as a suspect where it is one. -/
def State.engineCtx (s : State) (cause c : Nat) (x : Ctx) : State :=
  let why := x.why.getD (.engine cause)
  let t := if x.reported then s else s.faultEvent c x why
  let t := t.finishCtx c why x.suspect
  if x.suspect then { t with ras := { t.ras with suspects := t.insertSuspect c t.ras.suspects } } else t

/-- Commands of the MCP whose descriptors a long ferry held end aborted. -/
def State.abortCopies (s : State) (src : Nat) : State :=
  let cmds := ((s.fry.chans.filter fun e => ferryOfSrc src e.1).flatMap fun e => e.2.queue.filterMap (·.cmd)).eraseDups
  let t := { s with fry := { s.fry with chans := s.fry.chans.map fun (e : Nat × Chan) => if ferryOfSrc src e.1 then (e.1, e.2.clear) else e } }
  cmds.foldl (fun t m => match t.mbx.async.find? fun a => decide (a.fn = m.1 ∧ a.mbx = m.2) with
    | some a => t.cmdDone m.1 m.2 a.opcode rAborted []
    | none => if t.owned m.1 m.2 then t.respond m.1 m.2 rAborted [] else t) t

/-- The JPEG image in the decoder begins again. -/
def State.restartJpeg (s : State) : State :=
  { s with vid := { s.vid with jpeg := match s.vid.jpeg with
      | [] => []
      | x :: r => { x with strips := 0, lostStrips := 0, errors := 0, firstCls := 0 } :: r } }

/-- The unit itself is reset (R554); all is that an island tests all its cores. -/
def State.resetUnit (s : State) (src : Nat) (all : Bool) (failed : List Nat) : State :=
  match islOfSrc src with
  | some i => s.resetIsland i all (some failed)
  | none => match bits src 3 5 with
    | 4 => s.abortCopies src
    | 5 => { s with srt := { s.srt with units := s.srt.units.map fun (e : Nat × Sorter) => if srcSorter e.1 = src then (e.1, e.2.clear) else e } }
    | 0x13 => s.resetVideo (bits src 8 8)
    | 0x14 => s.resetVideo (8 + bits src 8 8)
    | 0x15 => ((s.count .VID_ENG_RESETS 12 1).hwSet .VID_EVT 0 4).restartJpeg
    | 0x16 => (s.count .VID_ENG_RESETS 13 1).hwSet .VID_EVT 0 4
    | _ => s

/-- REPLAYING shows that suspects remain (R572). -/
def State.showReplay (s : State) : State := s.wrF .RAS_STATUS 0 1 1 (b2n !s.ras.suspects.isEmpty)

/-- A second engine reset stops the replay in progress: its context waits for another (R566). -/
def State.stopReplay (s : State) (cause : Nat) : State :=
  match s.ras.replaying with
  | none => s
  | some c =>
    let t := match s.ctx c with
      | some x => if x.done then s else s.finishCtx c (.engine cause) true
      | none => s
    { t with ras := { t.ras with replaying := none, replayHung := false } }

/-- An engine reset: every context with work on the engine is reset first, in the order of starts, then the unit; the record, and
the suspects (R554, R555, R563). -/
def State.engineReset (s : State) (src cause : Nat) (all : Bool) (failed : List Nat) : State :=
  let cs := s.fab.ctxs.filter fun e => !e.2.done && s.worksOn src e.1 e.2
  let t := cs.foldl (fun t e => t.engineCtx cause e.1 e.2) s
  let t := if t.ras.suspects.isEmpty then t else t.stopReplay cause
  let t := t.resetUnit src all failed
  let t := t.engineRecord src cause
  let t := if cs.any (fun e => e.2.suspect) then { t with ras := { t.ras with suspectSrcs := (t.ras.suspectSrcs ++ [src]).eraseDups } } else t
  t.showReplay

/-- The counted causes of an engine reset: LADDER, WATCHDOG, HANG (R558). -/
def engineCounted (cause : Nat) : Bool := cause == 4 || cause == 3 || cause == 2

/-- A reset that R567 asks a dump for waits for it to begin and to be collected (R569). -/
def State.dumpHolds (s : State) (domain : Nat) : Bool := s.ras.needDump.contains domain || s.ras.collecting.isSome

/-- Forget a reset that is being carried out or has been replaced. -/
def State.dropReset (s : State) (r : ResetReq) : State :=
  { s with ras := { s.ras with resets := s.ras.resets.erase r } }

/-- An engine reset that is due: rule 1 of the ladder may put a larger reset in its place (R560). -/
def State.dueEngine (s : State) (src cause : Nat) (failed : List Nat) : State :=
  let t := s.dropReset (.engine src cause)
  let (t, replaced) := if engineCounted cause then t.countEngine src else (t, false)
  if replaced then t else t.engineReset src cause false failed

/- Replays. -/

/-- All replays are over: TRANSIENT is logged for each engine reset where no suspect hung again (R565). -/
def State.replaysOver (s : State) : State :=
  if !s.ras.suspects.isEmpty then s else
  let t := if s.ras.hungAgain then s else s.ras.suspectSrcs.foldl (fun t src =>
    let t := t.log (bits src 0 3) (bits src 3 5) (bits src 8 8) 0 0x72 (t.srcOwner src) 0 0 0 0
    (t.wrF .RAS_REPLAY 0 0 16 (min 65535 (t.rdF .RAS_REPLAY 0 0 16 + 1))).hwSet .RAS_EVT 0 256) s
  { t with ras := { t.ras with suspectSrcs := [], hungAgain := false, replaying := none, replayHung := false } }.showReplay

/-- Replay the next suspect from its saved state (R564, R650). -/
def State.startReplay (s : State) (c : Nat) : State :=
  let t := { s with ras := { s.ras with replaying := some c, replayHung := false } }
  t.relaunch c

/-- A suspect that hung again: its context ends, its requests fail with HANG, and its reset counts where an engine was charged
(R565, R310, R558). -/
def State.quarantineCtx (s : State) (c : Nat) : State :=
  match s.ctx c with
  | none => s
  | some x =>
    let t := match x.serving with
      | some m => s.failStep x.fn m rHang
      | none => s
    let t := (t.killCtx c x.fn x.islands).resetRecord 0 c 2 x.fn
    let t := t.log 4 0x1B 0 0 0x73 x.fn 2 0 0 c
    let t := (t.wrF .RAS_REPLAY 0 16 16 (min 65535 (t.rdF .RAS_REPLAY 0 16 16 + 1))).hwSet .RAS_EVT 0 128
    { t with ras := { t.ras with hungAgain := true } }

/- Crash dumps. -/

/-- The slot of a new dump: the lowest EMPTY one, else the oldest dump's; the flag says that it replaces one (R570). -/
def State.dumpSlot (s : State) : Nat × Bool :=
  match (List.range 4).find? fun k => (tabGet s.ras.dumps {} k).st == 0 with
  | some k => (k, false)
  | none => (((List.range 4).foldl (fun m k =>
      if (tabGet s.ras.dumps {} k).order < (tabGet s.ras.dumps {} m).order then k else m) 0), true)

/-- Change a dump. -/
def State.updDump (s : State) (k : Nat) (f : Dump → Dump) : State :=
  { s with ras := { s.ras with dumps := tabUpd s.ras.dumps {} k f } }

/-- A trigger begins a dump, or joins the one that is collecting as a secondary trigger (R567, R569). -/
def State.triggerDump (s : State) (trigger domain : Nat) : State :=
  let t := { s with ras := { s.ras with needDump := s.ras.needDump.erase domain } }
  match s.ras.collecting with
  | some k => t.updDump k fun d => { d with second := if d.second.length < 8 then d.second ++ [(s.time, trigger)] else d.second
                                            chip := d.chip || decide (domain = 3 ∨ domain = 4) }
  | none =>
    let (k, old) := s.dumpSlot
    let n := s.ras.dumpOrder + 1
    let t := { t with ras := { t.ras with collecting := some k, dumpOrder := n
                                          dumps := tabSet t.ras.dumps k { st := 1, chip := decide (domain = 3 ∨ domain = 4), t := s.time
                                                                          trigger := trigger, domain := domain, order := n
                                                                          fw := s.upd.running, boot := s.rdN .SEC_BOOT_COUNT 0 } } }
    let t := t.wrF .RAS_STATUS 0 2 1 1
    if old then t.hwSet .RAS_EVT 0 1024 else t

/-- Collection ends: units left get NOT_READ sections, and the dump goes to its slot (R568). Its contents beside the header fields that
R570 fixes are free values (log entry 3). -/
def State.endCollect (s : State) (left : List Nat) : State :=
  match s.ras.collecting with
  | none => s
  | some k =>
    let t := s.updDump k fun d => { d with st := 2, sections := d.sections ++ left.map fun e => (e, 2)
                                           partialDump := d.partialDump || !left.isEmpty, seed := s.fresh }
    ({ t with ras := { t.ras with collecting := none }, fresh := s.fresh + 2 ^ 24 }).wrF .RAS_STATUS 0 2 1 0

/-- A dump that goes to the store before a chip or power-cycle reset is not written yet (R569). -/
def State.chipDumpOpen (s : State) : Bool := s.ras.dumps.any fun e => e.2.chip && (e.2.st == 1 || e.2.st == 2)

/-- A dump slot is 16 MiB (R570). -/
abbrev dumpBytes : Nat := 2 ^ 24

/-- LENGTH of a dump: at least its header, at most its slot; the spec fixes no section's data (log entry 3). -/
def Dump.len (d : Dump) : Nat := 0x1000 + (Config.freeValue d.seed).toNat % (dumpBytes - 0x1000 + 1)

/-- SECTIONS: every section that is not OK, and those of the units that answered; one for a last-words record (R604). -/
def Dump.secs (d : Dump) : Nat :=
  if d.words.isSome then 1 else d.sections.length + (Config.freeValue (d.seed + 1)).toNat % (65536 - min 65535 d.sections.length)

/-- The header of a dump slot (R570); DOMAIN of a dump that no reset followed and TRIGGER of a last-words record are free values. -/
def Dump.header (d : Dump) : List Byte :=
  let dom := if d.domain < 5 then d.domain else (Config.freeValue (d.seed + 2)).toNat % 8
  let trig := if d.words.isSome then (Config.freeValue (d.seed + 4)).toNat % 2 ^ 32 else d.trigger
  let sec := (List.range 8).flatMap fun k => match d.second[k]? with
    | some e => natLe e.1 8 ++ natLe e.2 4 ++ natLe 0 4
    | none => natLe 0 16
  natLe 0x504D_5544 4 ++ natLe (1 + d.secs % 65536 * 65536) 4 ++ natLe d.t 8 ++ natLe trig 4 ++ natLe dom 4 ++
  natLe d.fw 4 ++ natLe d.boot 4 ++ sec ++ natLe d.len 4 ++
  natLe ((Config.freeValue (d.seed + 3)).toNat % 2 ^ 32) 4

/-- A byte of a dump slot: the header, the zeros that fill it, then the sections. -/
def Dump.byte (d : Dump) (k : Nat) : Byte :=
  if k < 0xA8 then d.header[k]?.getD 0 else if k < 0x1000 then 0
  else BitVec.ofNat 8 (Config.freeValue (d.seed + k)).toNat

end Sys2Proof.Machine
end

