-- ==== Sys2Proof/Machine/Registers.lean ====
section
/-! DEFINITION. Commands on registers and straits (00 R13 to R16, 01 R26 to R29, 15 R547). -/

namespace Sys2Proof.Machine

open Sys2Proof

/-- R15, R16. A write that is not of the register's own width at its own offset is no such access and leaves the module as it
is (BAR0_BAD_ACCESS, SPLIT_LOW_WRITE and SPLIT_HIGH_WRITE take those). -/
def execRegisterWrite (fn off width value : Nat) (s : State) : Out :=
  onUnit s (decide (fn ≤ 16 ∧ off < 65536)) <|
  match s.regAt fn off with
  | some (b, r, i) => if b = off ∧ width * 8 = r.info.width then (s.swWrite fn r i value).unhold fn off else s
  | none => s

/-- The access has a width and alignment that its register takes: a mailbox word takes 32 bits, and the last two together 64
(R13, R353). -/
def State.goodAccess (s : State) (fn off width : Nat) : Bool :=
  if 0x1000 ≤ off ∧ off < 0x2000 then (width == 4 && off % 4 == 0) || (width == 8 && off % 256 == 0xF8)
  else match s.regAt fn off with
  | none => false
  | some (b, r, _) => (width * 8 == r.info.width && b == off) || (width == 4 && r.info.width == 64 && off % 4 == 0)

/-- A 32-bit read of the low half of a 64-bit register: it answers the low half, and the latch takes the high half as it stands
(R14). -/
def State.lowRead (s : State) (fn off : Nat) : State :=
  match s.regAt fn off with
  | some (b, r, i) =>
    if b = off ∧ r.info.width = 64 then
      let v := (s.view r i).toNat
      { s with mbx := { s.mbx with latch := tabSet s.mbx.latch (halfKey fn off) (w32 (v / 2 ^ 32)) }, reply := .word (v % 2 ^ 32) }
    else s
  | none => s

/-- What a 32-bit read of the high half of a 64-bit register answers: the latch, or the live half where it is not loaded (R14). -/
def State.highHalf (s : State) (fn off : Nat) : Option Nat :=
  match s.regAt fn off with
  | some (b, r, i) =>
    if off = b + 4 ∧ r.info.width = 64 then some (match tabFind s.mbx.latch (halfKey fn b) with
      | some l => l.toNat
      | none => (s.view r i).toNat / 2 ^ 32)
    else none
  | none => none

/-- A read of BAR0: the halves of a 64-bit register as R14 has them, and otherwise the addressed bytes (R13). -/
def State.bar0Read (s : State) (fn off width : Nat) : State :=
  if width == 4 && (match s.regAt fn off with | some (b, r, _) => b == off && r.info.width == 64 | none => false) then s.lowRead fn off
  else match (if width = 4 then s.highHalf fn off else none) with
  | some h => { s with reply := .word h }
  | none => { s with reply := .bytes ((List.range width).map fun k => s.bar0Byte fn (off + k)) }

/-- R13. A read of a width that the register takes is answered like any read; a write of such a width is another row's (log entry
82). -/
def execBar0BadAccess (fn off width : Nat) (write : Bool) (_value : Nat) (s : State) : Out :=
  onUnit s (decide (fn ≤ 16 ∧ off < 65536)) <|
  if !write then s.bar0Read fn off width
  else if s.goodAccess fn off width then s
  else s.dropWr fn

/-- R14. -/
def execSplitLowRead (fn off : Nat) (s : State) : Out := onUnit s (decide (fn ≤ 16 ∧ off < 65536)) (s.lowRead fn off)

/-- R14: the low half is held. -/
def execSplitLowWrite (fn off value : Nat) (s : State) : Out :=
  onUnit s (decide (fn ≤ 16 ∧ off < 65536)) <|
  match s.regAt fn off with
  | some (b, r, _) =>
    if b = off ∧ r.info.width = 64 then
      if s.fnState fn = fnScrubbing then s.dropWr fn
      else { s with mbx := { s.mbx with heldLow := tabSet s.mbx.heldLow (halfKey fn off) (w32 value) } }
    else s
  | none => s

/-- R14: the register is written with the held low half, or with its current one; off is the high half's offset. -/
def execSplitHighWrite (fn off value : Nat) (s : State) : Out :=
  onUnit s (decide (fn ≤ 16 ∧ off < 65536)) <|
  match s.regAt fn off with
  | some (b, r, i) =>
    if off = b + 4 ∧ r.info.width = 64 then
      let low := match tabFind s.mbx.heldLow (halfKey fn b) with
        | some l => l.toNat
        | none => (s.view r i).toNat % 2 ^ 32
      (s.swWrite fn r i (low + value % 2 ^ 32 * 2 ^ 32)).unhold fn b
    else s
  | none => s

/-- R547: hw holds the bits that hardware sets in the same cycle. -/
def execW1cClearWrite (fn off value hw : Nat) (s : State) : Out :=
  onUnit s (decide (fn ≤ 16 ∧ off < 65536)) <|
  match s.regAt fn off with
  | some (b, r, i) =>
    if b = off ∧ r.info.w1c ≠ 0 then
      if s.fnState fn = fnScrubbing then (s.dropWr fn).w1cWrite r i 0 (w64 hw)
      else (s.w1cWrite r i (w64 value) (w64 hw)).unhold fn off
    else s
  | none => s

/-- The die of a strait's log entries: 0 to 3 for its ring or hub strait's island die, 4 for MEDIA (R540, R27). -/
def straitDie (k : Nat) : Nat := if k < 8 then k % 4 else 4

/-- R26: the replay of a failed flit is counted; one that succeeds ends the run, and the eighth failure in a row begins a retraining,
logged as correctable. -/
def execStraitFlitFail (strait : Nat) (ok : Bool) (s : State) : Out :=
  onUnit s (decide (strait < 9)) <|
  if s.fab.straitDown.contains strait || s.fab.straitTrain.contains strait then s else
  let n := if ok then 0 else tabGet s.fab.straitFails 0 strait + 1
  let t := { s with fab := { s.fab with straitCorr := tabUpd s.fab.straitCorr 0 strait (· + 1)
                                        straitFails := tabSet s.fab.straitFails strait (if n = 8 then 0 else n) } }
  if n < 8 then t else
  { t with fab := { t.fab with straitTrain := strait :: t.fab.straitTrain } }.log (straitDie strait) 7 strait 0 0x20 0x1F 1 0 0 0

/-- R27: traffic resumes, or the strait is down: the media die is unreachable behind MEDIA, and a second ring strait down asks
for a chip reset. -/
def State.straitFail (s : State) (strait : Nat) : State :=
  let t := { s with fab := { s.fab with straitDown := strait :: s.fab.straitDown } }
  let t := t.log (straitDie strait) 7 strait 0 0x21 0x1F 2 0 0 0
  if strait = 8 then
    let t := (t.wrF .VID_STATUS 0 0 2 3).hwSet .VID_EVT 0 128
    let t := (List.range 14).foldl (fun t e => t.wrF .VID_ENG_STATUS e 0 2 3) t
    t.log 4 7 8 0 0x51 0x1F 2 0 0 0
  else if strait < 4 && decide (2 ≤ (t.fab.straitDown.filter (· < 4)).length) then t.askChipDump 8
  else t

/-- R27. -/
def execStraitRetrainDone (strait : Nat) (ok : Bool) (s : State) : Out :=
  onUnit s (decide (strait < 9)) <|
  if !s.fab.straitTrain.contains strait then s else
  let t := { s with fab := { s.fab with straitTrain := s.fab.straitTrain.erase strait
                                        straitFails := tabSet s.fab.straitFails strait 0 } }
  if ok then t else t.straitFail strait

end Sys2Proof.Machine
end

