-- ==== Sys2Proof/Machine/Boot.lean ====
section
/-! DEFINITION. Power-on and the chip reset (15 R554, R556, 17 R612 to R614): what a boot keeps, the boot record (13 R473), the plain
(04 R168), the layout (10 R374), self-test (02 R80) and service (15 R562). -/

namespace Sys2Proof.Machine

open Sys2Proof

/- What a boot keeps. -/

/-- Registers that the AON domain holds through a chip reset: the valley controller's readings and the tray sideband (R490, R554, R607;
log entry 60). -/
def aonReg : Reg → Bool
  | .PWR_STATUS | .PWR_EVT | .PWR_EVT_CNT | .PWR_LIMIT | .PWR_DRAW | .PWR_INPUT | .PWR_SAFE | .PWR_COOLANT | .PWR_FLOW | .PWR_TJ
  | .PWR_SB_COOLANT | .PWR_SB_DEMAND | .PWR_SB_FLOWREQ | .RAS_SB_CYCLE => true
  | _ => false

/-- The register file that a boot begins with: the store's registers, and those of AON at a chip reset (R554). -/
def bootRegs (chip : Bool) (l : RegFile) : RegFile := l.filter fun e => e.1.reg.info.store || (chip && aonReg e.1.reg)

/-- Power state that a boot keeps: retirements and life from the store, and at a chip reset what AON measures and holds; no lease
outlives it (R495, R492). -/
def Pwr.boot (p : Pwr) (chip : Bool) : Pwr :=
  if chip then
    { limit := p.limit, bind := p.bind, hubDrop := p.hubDrop, hubT := p.hubT, inlet := p.inlet, flow := p.flow, flowCap := p.flowCap
      flowReq := p.flowReq, reqLow := p.reqLow, temps := p.temps, warn := p.warn, warnMin := p.warnMin, floor := p.floor
      trip := p.trip, supply := p.supply, tripT := p.tripT, coolT := p.coolT, stale := p.stale, mv := p.mv
      retired := p.retired, exhausted := p.exhausted, lifeWarn := p.lifeWarn, lifeKept := p.lifeKept, lifeT := p.lifeT }
  else { retired := p.retired, exhausted := p.exhausted, lifeWarn := p.lifeWarn, lifeKept := p.lifeKept }

/-- The life counts begin a boot as the store holds them (R530, R533). -/
def State.bootLife (s : State) : State :=
  (List.range 6).foldl (fun t d =>
    let t := lifeRegs.zipIdx.foldl (fun u e => u.wrN e.1 d (tabGet t.pwr.lifeKept 0 (d * 4 + e.2))) t
    let t := t.wrF .PWR_LIFE d 16 16 (tabGet t.pwr.lifeKept 0 (d * 4 + 3))
    t.wrF .PWR_LIFE d 0 16 (min 65535 (t.lifeOf d))) s

/-- Reliability state that a boot keeps: the stored ring of FATAL entries, whose new ones become the first of the log, policies, rules 3
and 4, written dumps (R545, R560, R561, R570); clear forgets the counts of rules 3 and 4 (R562). -/
def Ras.boot (r : Ras) (chip clear : Bool) (pow : Int) : Ras :=
  { log := (r.nvFatal.drop (r.nvFatal.length - r.nvNew)).map fun e => { e with prior := true }
    nvFatal := r.nvFatal
    counts := if clear then [] else r.counts.filter fun e => e.1 / 2 ^ 40 == 3 || e.1 / 2 ^ 40 == 4
    policy := r.policy
    dumps := r.dumps.filter fun e => e.2.st == 3
    dumpOrder := r.dumpOrder
    powBase := pow
    cycSeq := if chip then r.cycSeq else 0 }

/-- The plain after training and the sweep: no contents and no maps, new key sets, the retired pages read from the list, and every other
page UNWRITTEN under one new epoch (R168, R159, R177). -/
def Pln.boot (p : Pln) (rate rates sec : Nat) : Pln :=
  { retired := p.retired, pages := p.retired.map fun k => (k, { st := .retired }), bootEpoch := 1, draws := 1, drawSec := sec, drawCnt := 1
    keyGen := (List.range 17 ++ [0x1F]).foldl (fun t f => tabUpd t 0 f (· + 1)) p.keyGen, rate := rate, rateOk := rates }

/-- The fabric: the map from slots to physical cores and the failing cores come from the store (R82); counts start again (R560). -/
def Fab.boot (f : Fab) : Fab :=
  { islands := f.islands.map fun e => (e.1, { phys := e.2.phys })
    cores := f.cores.map fun e => (e.1, { failing := e.2.failing }) }

/-- Board state: the sideband address and the TAP are not the module's to reset; the rest starts again (R612, R634, R636). -/
def Brd.boot (b : Brd) (chip sec : Bool) : Brd :=
  { addr := if chip then b.addr else 0x2C, assigned := chip && b.assigned, powered := true, strapSec := sec, ibi := b.ibi
    holdupLow := chip && b.holdupLow, jtagTlr := if chip then b.jtagTlr else true }

/-- Every unit at reset but AON and the non-volatile store (R554, R612). Host memory, and the commands that wait, lie outside the
module. -/
def State.bootBase (s : State) (chip clear sec : Bool) : State :=
  { regs := bootRegs chip s.regs, time := if chip then s.time else 0, fresh := s.fresh, pending := s.pending, host := s.host
    fab := s.fab.boot
    part := { stored := s.part.stored }
    lnk := { train := true }
    sec := { aliasGen := s.sec.aliasGen + 1, staged := s.sec.staged, ownerKey := s.sec.ownerKey, ownerSeq := s.sec.ownerSeq }
    upd := s.upd
    pln := { retired := s.pln.retired, keyGen := s.pln.keyGen }
    pwr := s.pwr.boot chip
    ras := s.ras.boot chip clear (if chip then s.ras.powBase else s.powTime)
    pair := { mirrored := s.pair.mirrored, keyGen := s.pair.keyGen }
    brd := s.brd.boot chip sec }

/-- The fields of kept registers that a boot sets: the lease is gone, the store's power bits, counts of the boot, the mode and the strap,
TRNG_OK, the locked clocks, and the log's first entries (R534, R469, R470, R575, R606, R545). -/
def State.bootFields (s : State) (chip trng primary : Bool) : State :=
  let t := if chip then s.wrF .PWR_STATUS 0 0 2 0
    else s.wrN .PWR_STATUS 0 (512 * b2n s.pwr.exhausted + 1024 * b2n s.pwr.lifeWarn)
  let t := t.pwr.retired.foldl (fun (u : State) d => u.wrF .PWR_OP 0 (16 + d) 1 1) t
  let t := ((List.range 4).foldl (fun (u : State) d => u.showMargin d) t).bootLife
  let t := ((t.wrF .SEC_STATUS 0 4 1 0).wrF .SEC_STATUS 0 5 1 (b2n trng)).count .SEC_BOOT_COUNT 0 1
  let t := (t.wrF .TWN_PAIR_STATUS 0 0 1 (b2n t.pair.mirrored)).wrF .TWN_PAIR_STATUS 0 3 1 (b2n primary)
  let t := (t.wrF .TWN_PAIR_STATUS 0 1 2 roleStandby).allFns fun u f => u.wrF .FN_STATUS f 3 2 roleStandby
  (t.wrN .TIM_CLK_LOCK 0 (2 ^ 25 - 1)).wrN .RAS_LOG_WR 0 t.ras.log.length

/- The boot record. -/

/-- A slot passes the ROM's checks: its signatures and digests as the input says, an image, its key pair and its SVN (R440, R445 to
R449). -/
def State.slotPasses (s : State) (k : Nat) (ok : Bool) : Bool :=
  let x := s.fwSlot k
  ok && (x.st == 2 || x.st == 3 || x.st == 4) && decide (s.svnCounter ≤ x.svn) && !s.revoked x.keyIdx

/-- The slot that the boot record names first (R473). -/
def Upd.first (u : Upd) : Nat := if u.trial && u.trialBooted then 1 - u.active else u.active

/-- The slots that fail, and the slot that boots: the first that passes, or none (R440, R441, R473). -/
def State.bootChoice (s : State) (okA okB : Bool) : List Nat × Option Nat :=
  let k := s.upd.first
  let pass := fun (j : Nat) => s.slotPasses j (if j = 0 then okA else okB)
  if pass k then ([], some k) else if pass (1 - k) then ([k], some (1 - k)) else ([k, 1 - k], none)

/-- An update survives the boot of slot k: a commit goes back to RECEIVING, COMMITTED stays, a trial image is watched or gone, and an
activation that had not named its slot returns to COMMITTED (R473, R474, R484; log entry 61). -/
def State.settleUpd (s : State) (k : Nat) : State :=
  let u := { s.upd with running := k, stage := .none, reverse := false, owner := none, fatal := false, viaReset := false }
  if u.trial then
    if k == u.active && !u.trialBooted then
      let t := (s.setSlot k { s.fwSlot k with st := 4 }).setSlot (1 - k) { s.fwSlot (1 - k) with st := 4 }
      { t with upd := { u with slotA := t.upd.slotA, slotB := t.upd.slotB, st := .confirming, stage := .watching, trialBooted := true
                               confirmed := false, viaReset := true } }
    else
      let t := s.setSlot (1 - k) { s.fwSlot (1 - k) with st := 5, ok := false }
      { t with upd := { u with slotA := t.upd.slotA, slotB := t.upd.slotB, st := .idle, active := k, trial := false, trialBooted := false
                               confirmed := true } }
  else
    match u.st with
    | .committing => { s with upd := { u with st := .receiving } }
    | .activating =>
      let t := s.setSlot (1 - k) { s.fwSlot (1 - k) with st := 2 }
      { t with upd := { u with slotA := t.upd.slotA, slotB := t.upd.slotB, st := .committed } }
    | _ => { s with upd := u }

/-- The failed slots are logged (R440). -/
def State.logSlots (s : State) (ks : List Nat) : State := ks.foldl (fun (t : State) k => t.log 4 0x17 0 0 0x69 0x1F 2 0 k 0) s

/- The units. -/

/-- The fastest rate whose margin passes, else 16 Gb/s (R150, R151). -/
def bestRate (rates : Nat) : Nat := ((List.range 2).find? fun r => bitAt rates r).getD 2

/-- Training and the sweep; a channel that trains at no rate is FAILED (R149, R168). RETIRE_FULL shows a full list (R177, R183), and EYE
the margin at which each channel trained (R186). -/
def State.bootPlain (s : State) (rates : Nat) (badChans eyes : List Nat) : State :=
  let r := bestRate rates
  let t := { s with pln := s.pln.boot r (rates % 8) (s.time / 1000000000) }
  let t := ((t.wrN .PLN_EPOCH 0 2).wrF .PLN_STATUS 0 0 2 r).wrF .PLN_STATUS 0 3 1 (b2n (s.pwr.trip || s.pwr.supply))
  let t := t.wrF .PLN_STATUS 0 6 1 (b2n t.retireFull)
  let t := eyes.zipIdx.foldl (fun (u : State) e => u.wrF .PLN_CH_STATUS e.2 8 8 e.1) t
  let t := if badChans.isEmpty then t else (t.wrF .PLN_STATUS 0 5 1 1).hwSet .PLN_EVT 0 16
  (badChans.foldl (fun (u : State) c => (u.wrF .PLN_CH_STATUS c 16 1 1).log (c / 8) 6 c 0xFF 0x17 0x1F 3 0 0 0) t).syncBindable

/-- The straits that fail to train are down (R27). -/
def State.bootStraits (s : State) (bad : List Nat) : State := bad.eraseDups.foldl (fun (t : State) k => t.straitFail k) s

/-- The media die is up where its strait is and the image has media firmware (R448, R346). -/
def State.bootVideo (s : State) : State :=
  if s.fab.straitDown.contains 8 then s
  else if (s.fwSlot s.upd.running).digests[2]? = some 0 then s.wrF .VID_STATUS 0 0 2 3
  else s.wrF .VID_STATUS 0 0 2 1

/-- A stored partition without engines that are FAILED now and without pages that have been retired. -/
def State.usable (s : State) (p : Part) : Part :=
  let live := fun (k : Nat) => !s.pln.retired.contains k
  let q := { p with pages := p.pages.filter live, pool := p.pool.filter live }
  if s.fab.straitDown.contains 8 then { q with dec := 0, enc := 0 } else q

/-- The layout comes back from the store, every partition empty under the boot's epoch value, and a layout that could not be read or that
names something FAILED is logged (R374, R168). -/
def State.bootLayout (s : State) (readable : Bool) : State :=
  let old := if readable then s.part.stored else []
  let new := tabMap s.usable old
  let t := { s with part := { s.part with parts := new } }
  let lost := new.any fun e => let p := tabGet old {} e.1; e.2.dec != p.dec || e.2.enc != p.enc
  let t := if readable && !lost then t else t.log 4 0x17 0 0 0x6A 0x1F 1 0 0 0
  let t := t.boundVfs.foldl (fun (u : State) v => u.freshPages v 1 ((u.prt v).pages ++ (u.prt v).pool)) t
  let t := t.boundVfs.foldl (fun (u : State) v => u.installPages v 1 (u.prt v) []) t
  { t with part := { t.part with stored := t.part.parts } }

/-- Islands leave reset with the cores of the stored map, take their owners, and test all their cores (R80, R82, R90). -/
def State.bootIslands (s : State) (failed : List Nat) : State :=
  let t := (List.range 64).foldl (fun (u : State) i => (u.showCores i).wrF .ISL_STATUS i 0 3 3) s
  (List.range 64).foldl (fun (u : State) i => u.testIsland i true (some failed)) t.showOwners

/-- A last-words record moves into a dump slot with DOMAIN 4 and one section (R604). -/
def State.bootWords (s : State) (w : Option LastWords) : State :=
  match w with
  | none => s
  | some w =>
    let (k, old) := s.dumpSlot
    let n := s.ras.dumpOrder + 1
    let d : Dump := { st := 3, chip := true, t := w.time, domain := 4, order := n, fw := s.upd.running, boot := s.rdN .SEC_BOOT_COUNT 0
                      seed := s.fresh, words := some w }
    let t := { s with ras := { s.ras with dumps := tabSet s.ras.dumps k d, dumpOrder := n }, fresh := s.fresh + 2 ^ 24 }
    let t := t.hwSet .RAS_EVT 0 512
    if old then t.hwSet .RAS_EVT 0 1024 else t

/- Service. -/

/-- The reason for OUT_OF_SERVICE that this boot finds; 0 for none (R562, R438, R149, R468). -/
def State.bootOos (s : State) (chip clear trng : Bool) (badChans : List Nat) : Nat :=
  let old := s.rdF .RAS_OOS 0 0 8
  if s.rdF .SEC_STATUS 0 0 2 = 2 then 4
  else if old = 1 && !clear then 1
  else if old = 5 && chip then 5
  else if !badChans.isEmpty then 2 else if !trng then 3 else 0

/-- The module is in or out of service: a reason that stands from before is shown, a new one is entered (R562). -/
def State.bootService (s : State) (reason : Nat) : State :=
  let old := s.rdF .RAS_OOS 0 0 8
  if reason ≠ 0 ∧ reason ≠ old then s.enterOos reason
  else
    let on := b2n (reason != 0)
    let t := (s.wrN .RAS_OOS 0 reason).wrF .RAS_STATUS 0 5 1 on
    let t := (t.wrF .RAS_SB_CYCLE 0 1 1 on).wrF .RAS_SB_CYCLE 0 8 8 reason
    let t := t.wrF .RAS_STATUS 0 4 1 (t.rdF .RAS_SB_CYCLE 0 0 1)
    if reason = 0 then t else t.allFns fun u f => u.wrF .FN_STATUS f 0 3 fnOos

/-- PAIR_ROLE_SEL reads SECONDARY: above 2.0 V, and in between (R633). -/
def strapSec (mv : Nat) : Bool := decide (800 ≤ mv)

/-- PAIR_ROLE_SEL lies between the ranges (R633). -/
def strapBetween (mv : Nat) : Bool := decide (800 ≤ mv ∧ mv ≤ 2000)

/-- The firmware starts its units: plain, straits, media, layout, islands (R613). -/
def State.bootUnits (s : State) (b : BootIn) : State :=
  ((((s.bootPlain b.rates b.badChans b.eyes).bootStraits b.badStraits).bootVideo).bootLayout b.layoutOk).bootIslands b.failed

/-- The signals that a boot reads or reports: PAIR_ROLE_SEL, and the reverse latch, which is then cleared (R633, R639). -/
def State.bootSignals (s : State) (mv : Nat) (reversed : Bool) : State :=
  let t := if strapBetween mv then s.setSignal 5 3 else s
  if reversed then t.setSignal 13 3 else t

/-- A boot from the ROM to READY (R439, R613, R614). domain and cause are those of the reset that led to it; clear is that an operator's
CHIP_RESET ends a LADDER stop. -/
def State.boot (s : State) (b : BootIn) (chip clear : Bool) (domain cause : Nat) : State :=
  let sec := strapSec b.roleMv
  let t := (s.bootBase chip clear sec).bootFields chip b.trng (!sec)
  let (bad, slot) := s.bootChoice b.slotA b.slotB
  let t := t.logSlots bad
  match slot with
  | none => { t with sec := { t.sec with recovery := true }
                     upd := { t.upd with st := if t.upd.st == .committing then .receiving else t.upd.st, stage := .none, owner := none } }
  | some k =>
    let t := t.settleUpd k
    let t := t.wrF .SEC_STATUS 0 6 2 (t.fwSlot k).keyIdx
    let t := if bad.isEmpty then t else t.hwSet .SEC_EVT 0 128
    let t := (t.bootWords s.brd.lastWords).bootSignals b.roleMv s.brd.reverse
    let t := if cause = 0 then t.wrN .RAS_LAST_RESET 0 domain else t.resetLog domain 0 cause 0
    let t := (t.bootUnits b).firmwareReady
    t.bootService (s.bootOos chip clear b.trng b.badChans)

/-- The input of a boot lies in its ranges. -/
def bootOk (b : BootIn) : Bool :=
  decide (b.eyes.length = 32) && (b.eyes.all fun e => decide (e < 256)) && (b.failed.all fun k => decide (k < 64 * 66)) &&
    (b.badChans.all fun c => decide (c < 32)) && b.badStraits.all fun k => decide (k < 9)

/-- R612, R613: 54 V rises past 40 V. The reset that a power cycle was requested for has cause LADDER (log entry 62). -/
def execPowerOn (boot : BootIn) (s : State) : Out :=
  onUnit s (bootOk boot) <|
  if s.brd.powered then s
  else s.boot boot false false 4 (if s.rdF .RAS_OOS 0 0 8 = 5 then 4 else 0)

/-- Counted chip resets (R558): rule 2, straits, channels, the MCP and scrub watchdogs and hub SRAM. -/
def chipCounted (cause : Nat) : Bool := [4, 8, 9, 10, 11, 12].contains cause

/-- A chip reset waits for its dump, the end of a handover window and the TRNG (R556, R569, R486, R468). -/
def State.chipWaits (s : State) : Bool :=
  s.ras.needDump.contains 3 || s.ras.collecting.isSome || s.chipDumpOpen || s.upd.stage == .window || s.sec.trngFailed

/-- The causes of the chip resets that wait. -/
def State.chipCauses (s : State) : List Nat :=
  s.ras.resets.filterMap fun r => match r with
    | .chip c => some c
    | _ => none

/-- R556 to R560: a counted reset may become a power-cycle request. -/
def execChipResetSequence (boot : BootIn) (s : State) : Out :=
  onUnit s (bootOk boot) <|
  match s.chipCauses with
  | [] => s
  | cause :: _ =>
    if !s.brd.powered || s.chipWaits then s else
    let t := s.dropReset (.chip cause)
    let (t, acts) := if chipCounted cause then t.bumpRule 3 0 else (t, false)
    if acts then ((t.escalate 3 4 0 0).redomain 4).requestCycle
    else
      let t := if t.pair.mirrored then t.releaseLine 1 else t
      let t := (t.stopWork).resetEvent 3 0 cause 0
      t.boot boot true (cause == 5 && t.rdF .RAS_OOS 0 0 8 == 1) 3 cause

end Sys2Proof.Machine
end

