-- ==== Sys2Proof/Machine/Clocks.lean ====
section
/-! DEFINITION. References, PLLs and time sources (17 R608 to R617). -/

namespace Sys2Proof.Machine

open Sys2Proof

/- References and PLLs. -/

/-- REFCLK is lost: the package reference goes to the XO, and the host link goes down (R609, R635). -/
def State.refclkLost (s : State) : State :=
  let t := { s with clk := { s.clk with refLost := true } }
  let t := ((t.wrF .TIM_STATUS 0 7 1 1).wrF .TIM_CLK_LOCK 0 14 1 0).hwSet .TIM_EVT 0 8
  (t.setSignal 6 3).conventionalReset

/-- R609: two bad windows in a row. -/
def execRefclkWindow (bad : Bool) (s : State) : Out :=
  .next <|
  if !s.brd.powered || s.clk.refLost then s
  else
    let n := if bad then s.clk.refBad + 1 else 0
    let t := { s with clk := { s.clk with refBad := n } }
    if n = 2 then { t with clk := { t.clk with refBad := 0 } }.refclkLost else t

/-- R609: PCIE_CLK locks and the host link trains again; the package reference stays on the XO. -/
def execRefclkReturn (s : State) : Out :=
  .next <|
  if !s.clk.refLost then s else
  { s with clk := { s.clk with refLost := false }, lnk := { s.lnk with train := true } }.wrF .TIM_CLK_LOCK 0 14 1 1

/-- Domains with a PLL: AON_CLK is the XO itself and DBG_CLK comes from JTAG (R607). -/
def hasPll (d : Nat) : Bool := decide (d < 25) && d != 18 && d != 21

/-- R610: the domain's clock is gated until it relocks. -/
def execPllLossOfLock (domain : Nat) (s : State) : Out :=
  onUnit s (hasPll domain) <|
  if !bitAt (s.rdN .TIM_CLK_LOCK 0) domain then s else
  { s with clk := { s.clk with relock := s.clk.relock ++ [(domain, s.time)] } }.wrF .TIM_CLK_LOCK 0 domain 1 0

/-- The straits that end at an island die: its two ring straits and its hub strait (R24, R540). -/
def dieStraits (d : Nat) : List Nat := [d, (d + 3) % 4, 4 + d]

/-- Mark straits down (R27). -/
def State.straitsDown (s : State) (ks : List Nat) : State :=
  ks.foldl (fun t k => if t.fab.straitDown.contains k then t else
    { t with fab := { t.fab with straitTrain := t.fab.straitTrain.filter (· != k) } }.straitFail k) s

/-- The effect of a PLL that does not relock (R610). -/
def State.pllDead (s : State) (d : Nat) : State :=
  if d < 12 then s.straitsDown (dieStraits (d / 3))
  else if 22 ≤ d then s.straitsDown [8]
  else if d = 14 then
    let t := if s.lnk.up then s.conventionalReset else s
    { t with lnk := { t.lnk with up := false, rate := 0, lanes := [], train := false } }
  else if d = 16 then s.twinDown
  else if d = 12 ∨ d = 13 then (((s.count .RAS_WDOG 0 1).hwSet .RAS_EVT 0 16).log 4 9 0 0 0x32 0x1F 3 0 0 0).askChip 10
  else s.askChipDump 3

/-- R610: no relock within 1 ms. -/
def execPllRelockTimeout (domain : Nat) (s : State) : Out :=
  onUnit s (hasPll domain) <|
  if !(s.clk.relock.any fun e => e.1 == domain) then s else
  { s with clk := { s.clk with relock := s.clk.relock.filter fun e => e.1 != domain } }.pllDead domain

/- Time sources. -/

/-- R411, R616: offset is host PTM time minus TIME_NS. -/
def execPtmDialogue (offset : Int) (s : State) : Out :=
  .next <|
  if !s.lnk.up then s else
  ({ s with clk := { s.clk with ptm := true } }.wrI .TIM_PTM_OFS 64 offset).timeResult 1 offset

/-- R616: offset is the partner's TIME_NS minus this module's. -/
def execTimeSync (offset : Int) (s : State) : Out :=
  .next <|
  if s.twinState ≠ 2 then s else
  ({ s with clk := { s.clk with partner := true } }.wrI .TIM_PAIR_OFS 64 offset).timeResult 2 offset

/-- Two edges lie 1 s ± 100 µs apart (R616). -/
def ppsApart (a b : Nat) : Bool := decide (a + 999900000 ≤ b ∧ b ≤ a + 1000100000)

/-- TIME_NS mod 10^9, folded to ±5 × 10^8 (R624). -/
def ppsErr (t : Nat) : Int := if t % 1000000000 ≤ 500000000 then (t % 1000000000 : Nat) else ((t % 1000000000 : Nat) : Int) - 1000000000

/-- R616: time is the TIME_NS of the edge; valid after three edges 1 s apart. -/
def execPpsInEdge (time : Nat) (s : State) : Out :=
  onUnit s (decide (time < 2 ^ 64)) <|
  let es := (s.clk.ppsEdges ++ [time]).drop (s.clk.ppsEdges.length - 2)
  let ok := match es with
    | [a, b, c] => ppsApart a b && ppsApart b c
    | _ => false
  let t := { s with clk := { s.clk with ppsEdges := es } }.wrI .TIM_PPS_ERR 32 (ppsErr time)
  let t := if ok then t.wrF .TIM_STATUS 0 6 1 1 else t
  if t.rdF .TIM_STATUS 0 6 1 = 1 then t.timeResult 3 (-(ppsErr time)) else t

/-- R616: an edge is missing for 1.1 s. -/
def execPpsTimeout (s : State) : Out :=
  .next <|
  let t := { s with clk := { s.clk with ppsEdges := [] } }
  if s.rdF .TIM_STATUS 0 6 1 = 0 then t else ((t.wrF .TIM_STATUS 0 6 1 0).hwSet .TIM_EVT 0 16).sourceLost 3

end Sys2Proof.Machine
end

