-- ==== Sys2Proof/Machine/Contexts.lean ====
section
/-! DEFINITION. Programs, contexts and memory copies (09 R363, R364 group 0x2xx, R646, R647). -/

namespace Sys2Proof.Machine

open Sys2Proof

/-- The text of other slots of a function overlaps a run of bytes (R647). -/
def State.textMeets (s : State) (fn slot base len : Nat) : Bool :=
  s.part.progs.any fun e => e.1 / 64 == fn && e.1 % 64 != slot && runsMeet base len e.2.base e.2.len

/-- The lowest 4 KiB aligned offset at which a text fits an island store (R647; log entry 13). -/
def State.textBase (s : State) (fn slot len : Nat) : Option Nat :=
  ((List.range 1024).map (4096 * ·)).find? fun b => decide (b + len ≤ isBytes) && !s.textMeets fn slot b len

/-- An active context runs a program slot. -/
def State.progBusy (s : State) (fn slot : Nat) : Bool := s.fab.ctxs.any fun e => e.2.active && e.2.fn == fn && e.2.prog == slot

/-- A program image that can be placed: its checks passed, its stacks lie in local SRAM and its passes in the quota (R52, R220). -/
def State.imageOk (s : State) (fn : Nat) (i : ProgImage) : Bool :=
  i.wellFormed && i.stackTops.all (fun a => decide (a ≤ lsBytes)) && i.passes.all fun e => s.inQuota fn e.1

/-- Place a program's text in every island store of a partition, and keep what the image declares (R647). -/
def State.placeProg (s : State) (fn slot base : Nat) (i : ProgImage) : State :=
  let p : Prog := { len := i.text.length, base := base, entry := 0x0100_0000 + base + i.entry, gp := i.gp, text := i.text
                    active := i.active, stackTops := i.stackTops, zeroSram := i.zeroSram, replayable := i.replayable
                    passes := i.passes, digest := i.digest }
  { s with
    fab := { s.fab with istore := (s.islandsOf fn).foldl (fun m k => memWrite m (k * isBytes + base) i.text) s.fab.istore }
    part := { s.part with progs := tabSet s.part.progs (fn * 64 + slot) p } }

/-- R647: image is what the transfer fetched, with its relocations applied for the chosen base and its entry as an offset in the
text; none where the transfer failed (R363). A slot that an active context runs is in use. -/
def execProgLoad (fn mbx : Nat) (image : Option ProgImage) (s : State) : Out :=
  s.cmd fn mbx 0x200 fun s =>
  let slot := s.arg fn mbx 0
  if s.badLimit fn mbx 0x200 then s.respond fn mbx rLimit []
  else if s.progBusy fn slot then s.respond fn mbx rBusy []
  else
    let t := s.accept fn mbx
    match image with
    | none => (t.bulkFail fn).cmdDone fn mbx 0x200 rHostAccess []
    | some i =>
      if !s.imageOk fn i then t.cmdDone fn mbx 0x200 rBadImage [] else
      match s.textBase fn slot i.text.length with
      | none => t.cmdDone fn mbx 0x200 rNoSpace []
      | some b => (t.placeProg fn slot b i).cmdDone fn mbx 0x200 rOk [i.text.length, 0x0100_0000 + b, 0x0100_0000 + b + i.entry]

/-- R364. -/
def execProgUnload (fn mbx : Nat) (s : State) : Out :=
  s.cmd fn mbx 0x201 fun s =>
  let slot := s.arg fn mbx 0
  if 63 < slot then s.respond fn mbx rLimit []
  else if (s.prog fn slot).isNone then s.respond fn mbx rNotFound []
  else if s.progBusy fn slot then s.respond fn mbx rBusy []
  else { s with part := { s.part with progs := tabDel s.part.progs (fn * 64 + slot) } }.respond fn mbx rOk []

/-- The islands of a suspect's engine reset: CTX_START commands that name one are refused while replays are pending (R564). -/
def State.replayHolds (s : State) (is : List Nat) : Bool :=
  !s.ras.suspects.isEmpty && s.ras.suspectSrcs.any fun e => match islOfSrc e with | some i => is.contains i | none => false

/-- Compute is stopped: a trip, a supply stop, or a drain in solo mode (R516, R519, R602). -/
def State.noStarts (s : State) : Bool := s.pwr.trip || s.pwr.supply || s.soloDrain

/-- R646, R52. While nothing may start (R602), the answer is BUSY whatever the program slot holds (log entry 92). -/
def execCtxStart (fn mbx : Nat) (s : State) : Out :=
  s.cmd fn mbx 0x202 fun s =>
  let slot := s.arg fn mbx 0
  let mask := s.arg64 fn mbx 1
  let is := (maskBits mask 64).filterMap (s.nthIsland fn)
  if s.badLimit fn mbx 0x202 then s.respond fn mbx rLimit []
  else if s.noStarts then s.respond fn mbx rBusy []
  else if (s.prog fn slot).isNone then s.respond fn mbx rNotFound []
  else if is.any (fun i => (s.islCtx i).isSome || s.rdF .ISL_STATUS i 0 3 != 4) || s.replayHolds is then
    s.respond fn mbx rBusy []
  else
    let c := s.fab.nextCtx
    let p := s.prt fn
    let x : Ctx := { fn := fn, prog := slot, islands := is, arg := s.arg64 fn mbx 3, startT := s.time, seq := s.fab.starts
                     replayable := ((s.prog fn slot).map (·.replayable)).getD false, slotBase := p.abase, slotCount := p.acount }
    let t := { s with fab := { s.fab with nextCtx := c + 1, starts := s.fab.starts + 1 } }.setCtx c x
    (t.launch c).respond fn mbx rOk [c]

/-- A context of a function by the id that a command names. -/
def State.ownCtx (s : State) (fn c : Nat) : Option Ctx := (s.ctx c).filter fun x => x.fn == fn

/-- R364, R371: the context ends with status STOPPED. -/
def execCtxStop (fn mbx : Nat) (s : State) : Out :=
  s.cmd fn mbx 0x203 fun s =>
  let c := s.arg fn mbx 0
  match s.ownCtx fn c with
  | none => s.respond fn mbx rNotFound []
  | some x =>
    if !x.active then s.respond fn mbx rAlreadyDone []
    else if x.done then
      let t := s.setCtx c { x with restart := false }
      let t := { t with ras := { t.ras with suspects := t.ras.suspects.filter (· != c) } }.syncCtx x.islands
      let t := match x.serving with | some m => t.failStep fn m rProgram | none => t
      ((t.post fn 0x0201 [c, 3, 0]).remapFree x.islands).respond fn mbx rOk []
    else (s.stopCtx c .stopped none).respond fn mbx rOk []

/-- R364: the spec gives the state word no encoding, so it is a free value (log entry 3). -/
def execCtxQuery (fn mbx : Nat) (s : State) : Out :=
  s.cmd fn mbx 0x204 fun s =>
  let c := s.arg fn mbx 0
  match s.ownCtx fn c with
  | none => s.respond fn mbx rNotFound []
  | some x =>
    let n := fun st => (s.fab.threads.filter fun e => e.2.ctx == c && e.2.st == st).length
    let (w, t) := s.free
    t.respond fn mbx rOk ([w.toNat % 2 ^ 32, n .run, n .passWait, n .exited] ++ lohi x.startT)

/- Memory copies. -/

/-- The runs of a copy of len bytes: as many whole blocks of 32,768 × 32,768 as fit, then the rest in runs of 32,768, then bytes. -/
def copyRuns (len : Nat) : List (Nat × Nat × Nat) :=
  let big := len / 2 ^ 30
  let mid := len % 2 ^ 30 / 32768
  (List.range big).map (fun k => (k * 2 ^ 30, 32768, 32768)) ++ (if mid = 0 then [] else [(big * 2 ^ 30, 32768, mid)]) ++
  (if len % 32768 = 0 then [] else [(len / 32768 * 32768, len % 32768, 1)])

/-- Post the descriptors of a copy on channel 3 of a long ferry (R363; log entry 17). -/
def State.postCopy (s : State) (fn mbx src dst len : Nat) (into : Bool) : State :=
  let isl := (s.islandsOf fn).headD 0
  (copyRuns len).foldl (fun t r =>
    let c := t.chan 0x8003
    let d : Desc := { seq := c.posted + 1, raw := copyRaw (src + r.1) (dst + r.1) r.2.1 r.2.2 1 (b2n into) (b2n !into) 0 0, param := [], fn := fn
                      ctx := none, gid := s.fab.starts, island := isl, cmd := some (fn, mbx), long := true }
    t.setChan 0x8003 { c with posted := c.posted + 1, queue := c.queue ++ [d] })
    { s with fab := { s.fab with starts := s.fab.starts + 1 } }

/-- A MEM_COPY command: the view range lies within the view (R57, R364). -/
def State.memCopy (s : State) (fn mbx : Nat) (into : Bool) : State :=
  let a := s.arg64 fn mbx 0
  let b := s.arg64 fn mbx 2
  let len := s.arg64 fn mbx 4
  if s.badLimit fn mbx (if into then 0x205 else 0x206) then s.respond fn mbx rLimit []
  else (s.accept fn mbx).postCopy fn mbx a b len into

/-- R363. -/
def execMemCopyIn (fn mbx : Nat) (s : State) : Out := s.cmd fn mbx 0x205 fun s => s.memCopy fn mbx true

/-- R363. -/
def execMemCopyOut (fn mbx : Nat) (s : State) : Out := s.cmd fn mbx 0x206 fun s => s.memCopy fn mbx false

end Sys2Proof.Machine
end

