-- ==== Sys2Proof/Machine/Partitions.lean ====
section
/-! DEFINITION. Commands on partitions, pages and scrubs (09 R364 group 0x1xx, 10, 04 R160, R175). -/

namespace Sys2Proof.Machine

open Sys2Proof

/-- A binding command waits for the valley exit that it started (R622). -/
def State.partCmd (s : State) (fn mbx op : Nat) (f : State → State) : Out := s.cmd fn mbx op fun s => if s.inValley then s else f s

/-- The VF that an Own command names: the first argument from PF0, the issuer otherwise (R364). -/
def State.ownFn (s : State) (fn mbx : Nat) : Nat := if isPf0 fn then s.arg fn mbx 0 else fn

/-- A VF number. -/
def isVf (v : Nat) : Bool := decide (1 ≤ v ∧ v ≤ 16)

/-- Refuse a binding command; a forwarded one leaves its VFs UNSYNCED on the standby (R582). -/
def State.bindRefuse (s : State) (fn mbx code : Nat) (vs : List Nat) : State :=
  (if mbx = 16 then (vs.filter isVf).foldl (fun t v => t.setSync v 0) s else s).respond fn mbx code []

/-- A scrub of a VF is due or runs. -/
def State.scrubbing (s : State) (v : Nat) : Bool := (tabFind s.part.scrubs v).isSome

/-- R364: the fields of PART_BIND from the island mask on, the key epoch and STATE. -/
def execPartQuery (fn mbx : Nat) (s : State) : Out :=
  s.cmd fn mbx 0x100 fun s =>
  let v := s.ownFn fn mbx
  if !isVf v then s.respond fn mbx rLimit [] else
  let p := s.prt v
  s.respond fn mbx rOk (lohi p.islands ++ [p.hcores, p.npages, p.dec, p.enc, p.srt, p.qcount, p.abase, p.acount, p.npool, p.share] ++
    lohi p.lf ++ [p.budget, p.ramp, p.epoch, s.fnState v])

/-- R378, R376. -/
def execPartBind (fn mbx : Nat) (s : State) : Out :=
  s.partCmd fn mbx 0x101 fun s =>
  let v := s.arg fn mbx 0
  let p := s.bindArgs fn mbx 1
  if !isVf v || !p.inTable || !rampOk p.ramp || s.namesFailed p then s.bindRefuse fn mbx rLimit [v]
  else if (s.prt v).bound || s.scrubbing v then s.bindRefuse fn mbx rBusy [v]
  else if (s.others [v]).any (·.any p.meets) then s.bindRefuse fn mbx rTaken [v]
  else match lowestQuota p.qcount (s.others [v]).flatten with
  | none => s.bindRefuse fn mbx rNoSpace [v]
  | some q =>
    if s.pagesLeft < p.npages + p.npool || !s.countsFit [v] [p] then s.bindRefuse fn mbx rNoSpace [v]
    else (s.accept fn mbx).startScrub v .bind (some (fn, mbx)) 0 { p with qbase := q }

/-- R378: a VF that holds nothing has nothing to return. -/
def execPartUnbind (fn mbx : Nat) (s : State) : Out :=
  s.partCmd fn mbx 0x102 fun s =>
  let v := s.arg fn mbx 0
  if !isVf v then s.respond fn mbx rLimit []
  else if s.scrubbing v then s.respond fn mbx rBusy []
  else if !(s.prt v).bound then s.respond fn mbx rNotFound []
  else (s.accept fn mbx).startScrub v .unbind (some (fn, mbx)) 0 {}

/-- The moved adapter run lies at an end of the source's and next to the target's (R379). -/
def State.runMoves? (s : State) (a b : Nat) (m : Part) : Option Nat :=
  let p := s.prt a
  if m.acount = 0 then some (s.prt b).abase
  else if a ≠ 0 ∧ m.abase ≠ p.abase ∧ m.abase + m.acount ≠ p.abase + p.acount then none
  else if b = 0 then some 0 else joinRun (s.prt b).abase (s.prt b).acount m.abase m.acount

/-- R379, R376: source and target, 0 for the free pool. -/
def execPartRebind (fn mbx : Nat) (s : State) : Out :=
  s.partCmd fn mbx 0x103 fun s =>
  let a := s.arg fn mbx 0
  let b := s.arg fn mbx 1
  let m := s.bindArgs fn mbx 2
  let p := s.prt a
  match s.runMoves? a b m with
  | none => s.bindRefuse fn mbx rLimit [a, b]
  | some ab =>
    if 16 < a || 16 < b || a = b || !m.inTable || s.namesFailed m then s.bindRefuse fn mbx rLimit [a, b]
    else if s.scrubbing a || s.scrubbing b then s.bindRefuse fn mbx rBusy [a, b]
    else if (a ≠ 0 && !p.has m) || (a = 0 && (s.others []).any (·.any m.meets)) then s.bindRefuse fn mbx rTaken [a, b]
    else if a ≠ 0 && !p.covers m then s.bindRefuse fn mbx rNoSpace [a, b]
    else
      let src := if a = 0 then {} else p.minus m
      let others := (s.others [a, b]).flatten ++ [src]
      let t := s.prt b
      match (if b = 0 then some 0 else if m.qcount = 0 then some t.qbase else lowestQuota (t.qcount + m.qcount) others) with
      | none => s.bindRefuse fn mbx rNoSpace [a, b]
      | some q =>
        let dst := if b = 0 then {} else t.plus m q ab
        if b ≠ 0 && !dst.inTable then s.bindRefuse fn mbx rLimit [a, b]
        else if (a = 0 && s.pagesLeft < m.npages + m.npool) || !s.countsFit [a, b] [src, dst] then s.bindRefuse fn mbx rNoSpace [a, b]
        else
          let t := s.accept fn mbx
          let t := if a = 0 then t else t.startScrub a .give (if b = 0 then some (fn, mbx) else none) b src
          if b = 0 then t else t.startScrub b .take (some (fn, mbx)) a dst

/-- R390: a scrub with nothing moved. -/
def execPartReset (fn mbx : Nat) (s : State) : Out :=
  s.partCmd fn mbx 0x104 fun s =>
  let v := s.ownFn fn mbx
  if !isVf v then s.respond fn mbx rLimit []
  else if s.scrubbing v then s.respond fn mbx rBusy []
  else if !(s.prt v).bound then s.respond fn mbx rNotFound []
  else (s.accept fn mbx).startScrub v .reset (some (fn, mbx)) 0 (s.prt v)

/-- R237, R236: the shares follow N. -/
def execPartSetRamp (fn mbx : Nat) (s : State) : Out :=
  s.cmd fn mbx 0x105 fun s =>
  let v := s.arg fn mbx 0
  let n := s.arg fn mbx 1
  if !isVf v || !rampOk n then s.respond fn mbx rLimit []
  else if s.scrubbing v then s.respond fn mbx rBusy []
  else if !(s.prt v).bound then s.respond fn mbx rNotFound []
  else
    let t := s.setPrt v { s.prt v with ramp := n }
    { t with part := { t.part with stored := tabSet t.part.stored v (t.prt v) } }.respond fn mbx rOk []

/- Pages. -/

/-- An access of a thread to a page of the view is outstanding (R85). -/
def State.vpnBusy (s : State) (fn : Nat) (vs : List Nat) : Bool :=
  s.fab.threads.any fun e => s.thFn e.1 == fn &&
    ((e.2.loads.flatMap PLoad.addrs) ++ (match e.2.store with | some p => p.parts.map (·.1) | none => [])).any fun a =>
      decide (plainBase ≤ a) && vs.contains ((a - plainBase) / 65536)

/-- Unmap a VPN (R377). -/
def State.unmap (s : State) (fn vpn ppn : Nat) : State :=
  let t := { s with pln := { s.pln with maps := tabDel s.pln.maps (mapKey fn vpn) } }
  (t.setPrt fn { t.prt fn with pages := (t.prt fn).pages.erase ppn }).tlbDrop fn vpn

/-- The mapped VPNs of a range with their pages. -/
def State.mappedIn (s : State) (fn first n : Nat) : List (Nat × Nat) :=
  ((List.range n).map (first + ·)).filterMap fun v => (tabFind s.pln.maps (mapKey fn v)).map fun e => (v, e.ppn)

/-- PAGE_RELEASE (R377): accesses under way (R85), a migration (R176) and an epoch draw (R160) hold it back; it then stays unanswered. -/
def State.pageRelease (s : State) (fn mbx : Nat) : State :=
  let first := s.arg fn mbx 0
  let n := s.arg fn mbx 1
  if s.badLimit fn mbx 0x106 then s.respond fn mbx rLimit [] else
  let l := s.mappedIn fn first n
  if s.vpnBusy fn (l.map (·.1)) || l.any (fun e => (s.page e.2).migrating) then s
  else if l.isEmpty then s.respond fn mbx rOk []
  else match s.drawEpoch with
  | none => s.waitDraw fn mbx
  | some (v, t) => ((l.foldl (fun t e => t.unmap fn e.1 e.2) t).freshPages 0 v (l.map (·.2))).syncBindable.respond fn mbx rOk []

/-- R377. -/
def execPageRelease (fn mbx : Nat) (s : State) : Out := s.cmd fn mbx 0x106 fun s => s.pageRelease fn mbx

/-- Change the WRITE bit of mapped pages (R377). -/
def State.setWrites (s : State) (fn : Nat) (w : Bool) (l : List (Nat × Nat)) : State :=
  l.foldl (fun t e => { t with pln := { t.pln with maps := tabSet t.pln.maps (mapKey fn e.1) { ppn := e.2, write := w } } }.tlbDrop fn e.1) s

/-- PAGE_MAP (R377). -/
def State.pageMap (s : State) (fn mbx : Nat) : State :=
  let first := s.arg fn mbx 0
  let n := s.arg fn mbx 1
  let w := s.arg fn mbx 2
  if s.badLimit fn mbx 0x107 then s.respond fn mbx rLimit [] else
  let old := s.mappedIn fn first n
  let new := ((List.range n).map (first + ·)).filter fun v => (tabFind s.pln.maps (mapKey fn v)).isNone
  if s.vpnBusy fn (old.map (·.1)) then s
  else if s.pagesLeft < new.length then s.respond fn mbx rNoSpace []
  else if new.isEmpty then (s.setWrites fn (w == 1) old).respond fn mbx rOk []
  else match s.drawEpoch with
  | none => s.waitDraw fn mbx
  | some (v, t) =>
    let ps := s.alloc new.length
    let t := (t.freshPages fn v ps).setPrt fn { t.prt fn with pages := (t.prt fn).pages ++ ps }
    ((t.setWrites fn (w == 1) (new.zip ps)).setWrites fn (w == 1) old).respond fn mbx rOk []

/-- R377. -/
def execPageMap (fn mbx : Nat) (s : State) : Out := s.cmd fn mbx 0x107 fun s => s.pageMap fn mbx

/-- PAGE_REPLACE (R175): one epoch value serves the new page and a released old one. -/
def State.pageReplace (s : State) (fn mbx : Nat) : State :=
  let vpn := s.arg fn mbx 0
  if s.badLimit fn mbx 0x108 then s.respond fn mbx rLimit [] else
  match tabFind s.pln.maps (mapKey fn vpn) with
  | none => s.respond fn mbx rNotFound []
  | some e =>
    if (s.page e.ppn).migrating || s.vpnBusy fn [vpn] then s
    else if s.pagesLeft = 0 then s.respond fn mbx rNoSpace []
    else match s.alloc 1, s.drawEpoch with
    | [q], some (v, t) =>
      let t := (t.freshPages fn v [q]).freshPages 0 v [e.ppn]
      let t := { t with pln := { t.pln with maps := tabSet t.pln.maps (mapKey fn vpn) { e with ppn := q } } }
      let t := (t.setPrt fn { t.prt fn with pages := swapPage e.ppn q (t.prt fn).pages }).tlbDrop fn vpn
      t.syncBindable.respond fn mbx rOk [q]
    | _, _ => s.waitDraw fn mbx

/-- R175. -/
def execPageReplace (fn mbx : Nat) (s : State) : Out := s.cmd fn mbx 0x108 fun s => s.pageReplace fn mbx

/-- R160: the first draw that waits finds a value, and its command or scrub goes on. -/
def execEpochDrawResume (s : State) : Out :=
  .next <|
  match s.pln.drawWait with
  | [] => s
  | (f, m) :: r =>
    if s.drawEpoch.isNone then s else
    let t := { s with pln := { s.pln with drawWait := r } }
    if m = 16 then t.scrubGo f
    else match bits (t.mbxW f m 63) 0 12 with
    | 0x106 => if t.owned f m then t.pageRelease f m else t
    | 0x107 => if t.owned f m then t.pageMap f m else t
    | 0x108 => if t.owned f m then t.pageReplace f m else t
    | _ => t

/- Scrubs. -/

/-- R381, R388. -/
def execScrubStart (fn : Nat) (s : State) : Out :=
  onUnit s (isVf fn) <|
  match tabFind s.part.scrubs fn with
  | none => s
  | some x => if x.started || s.scrubHeld fn then s else s.scrubBegin fn x

/-- R382, R381: timedOut is that host reads are abandoned 1 ms after step 2 began. -/
def execScrubDrainEnd (fn : Nat) (timedOut : Bool) (s : State) : Out :=
  onUnit s (isVf fn) <|
  match tabFind s.part.scrubs fn with
  | none => s
  | some x =>
    if !x.started || x.drained then s else
    let t := { s with
      part := { s.part with scrubs := tabSet s.part.scrubs fn { x with drained := true } }
      lnk := if timedOut then { s.lnk with hostReads := tabUpd s.lnk.hostReads 0 fn (· + x.reads) } else s.lnk }
    t.scrubGo fn

/-- R383: a fatal error of the partition's domain, and a chip reset (R553). -/
def execScrubBoundExpiry (fn : Nat) (s : State) : Out :=
  onUnit s (isVf fn) <|
  match tabFind s.part.scrubs fn with
  | none => s
  | some x =>
    if !x.started || x.missed then s else
    let t := { s with part := { s.part with scrubs := tabSet s.part.scrubs fn { x with missed := true } } }
    let t := (t.count .RAS_WDOG 0 1).hwSet .RAS_EVT 0 16
    (t.log 4 0x1B 0 0 0x74 fn 3 0 0 0).askChipDump 11

/-- R382: a completion for an abandoned host read is discarded and logged, where each report counts in its entry. -/
def execUnexpectedCompletion (fn : Nat) (s : State) : Out :=
  onUnit s (isVf fn) <|
  if tabGet s.lnk.hostReads 0 fn = 0 then s else
  { s with lnk := { s.lnk with hostReads := tabUpd s.lnk.hostReads 0 fn (· - 1) } }.log 4 0x0C fn 0 0x42 fn 1 0 0 0

end Sys2Proof.Machine
end

