-- ==== Sys2Proof/Machine/Links.lean ====
section
/-! DEFINITION. Commands on the host link (11 R391 to R411): reset, training, BAR2, MSI-X, ATS, PASID, IDE, TDISP, and LINK_RESTORE
(R436). -/

namespace Sys2Proof.Machine

open Sys2Proof

/-- R400: kind is PERST_N (0), Hot Reset (1) or a link-down (2). -/
def execPcieConventionalReset (kind : Nat) (s : State) : Out := onUnit s (decide (kind < 3)) s.conventionalReset

/-- R393, R433 to R436: hostRate is the host port's best rate (1 for 2.5 GT/s to 6 for 64), good the lanes on which this training
succeeds, revOk that the host port trains a reversed set, and worn the lanes with more than 16 Recovery entries within 1 h. -/
def execPcieLinkTrain (hostRate : Nat) (good : List Nat) (revOk : Bool) (worn : List Nat) (s : State) : Out :=
  onUnit s (decide (1 ≤ hostRate) && good.all (fun l => decide (l < 16)) && worn.all fun l => decide (l < 16)) <|
  if s.hostCanTrain && (s.lnk.train || s.lnk.up) then s.trainHost hostRate good revOk worn else s

/-- Bytes of a VF's view. -/
def State.barBytes (s : State) (fn off len : Nat) : List Byte := s.readBytes fn 0 0 (plainBase + off) len

/-- R397, R174, R385. -/
def execBar2Read (fn off len : Nat) (s : State) : Out :=
  onUnit s (isVf fn) <|
  if s.fnState fn = fnScrubbing then { s with reply := .bytes (List.replicate len 0) }
  else if !s.barOk fn off len then { s with reply := .completerAbort }
  else if s.barWaits fn off len false then s
  else match s.plainBad fn (barAddrs off len) false with
  | some a => { s.failAt fn a 0 with reply := .completerAbort }
  | none => { s with reply := .bytes (s.barBytes fn off len) }

/-- R397, R174, R385, R580: a write that is dropped is counted. -/
def execBar2Write (fn off : Nat) (data : List Byte) (s : State) : Out :=
  onUnit s (isVf fn) <|
  if s.fnState fn = fnScrubbing || (s.pair.mirrored && s.role != roleStandby) then
    (s.count .FN_BAR2_DROPPED fn 1).hwSet .FN_EVT fn 8
  else if !s.barOk fn off data.length then s.dropWr fn
  else if s.barWaits fn off data.length true then s
  else match s.plainBad fn (barAddrs off data.length) true with
  | some a => (s.failAt fn a 0).dropWr fn
  | none => s.writeBytes fn 0 0 (plainBase + off) false data

/-- R399, R408: host software writes an MSI-X entry with its vector unmasked; a pending vector is sent once. -/
def execMsixUnmask (fn vec addr data : Nat) (s : State) : Out :=
  onUnit s (decide (fn ≤ 16) && decide (vec < vecCount fn)) <|
  let k := fn * 256 + vec
  let e : MsixEnt := { addr := addr, data := data, masked := false }
  s.cfgWrite fn (tabGet s.lnk.msix {} k != e) fun s =>
  let t := { s with lnk := { s.lnk with msix := tabSet s.lnk.msix k e } }
  if addr ≠ 0 ∧ t.lnk.pba.contains k then
    { t with lnk := { t.lnk with pba := t.lnk.pba.filter (· != k) }, mbx := { t.mbx with sent := tabUpd t.mbx.sent 0 k (· + 1) } }
  else t

/-- R402: the request completes at once, or once every request on host memory in its range has ended. -/
def execAtsInvalidate (fn addr size : Nat) (s : State) : Out :=
  onUnit s (decide (fn ≤ 16)) <|
  let atc := s.lnk.atc.filter fun (e : AtcEnt) => !(e.fn == fn && decide (addr < e.page * 4096 + 4096 ∧ e.page * 4096 < addr + size))
  let t := { s with lnk := { s.lnk with
    ats := if s.lnk.ats.contains fn then s.lnk.ats else fn :: s.lnk.ats
    atc := atc, inval := s.lnk.inval ++ [(fn, addr, size)] } }
  t.settleInval

/-- A started descriptor of a function reaches host memory. -/
def State.hostBusy (s : State) (fn : Nat) : Bool :=
  s.fry.chans.any fun e => e.2.queue.any fun x => x.started && x.fn == fn && ((fdesc x.raw).sasp == 1 || (fdesc x.raw).dasp == 1)

/-- R403, R408: ignored while the function issues host requests. -/
def execPasidWrite (fn value : Nat) (s : State) : Out :=
  onUnit s (decide (fn ≤ 16)) <|
  if s.hostBusy fn then s else
  s.cfgWrite fn (tabGet s.lnk.pasid 0 fn != value % 2 ^ 20) fun s =>
  { s with lnk := { s.lnk with pasid := tabSet s.lnk.pasid fn (value % 2 ^ 20) } }

/-- The size of a VF's BAR2 (R396). -/
def State.barSize (s : State) (fn : Nat) : Nat := tabGet s.lnk.bar2 (2 ^ 28) fn

/-- R396, R408: ignored while Memory Space Enable is 1, and for a size that the capability does not offer. -/
def execVfBarResize (fn size : Nat) (mse : Bool) (s : State) : Out :=
  onUnit s (isVf fn) <|
  if mse || !((List.range 10).any fun k => size == 2 ^ (28 + k)) then s else
  s.cfgWrite fn (s.barSize fn != size) fun s => { s with lnk := { s.lnk with bar2 := tabSet s.lnk.bar2 fn size } }

/-- VFs show on the link. -/
def Lnk.vfsOn (x : Lnk) : Bool := x.vfEnable && x.numVfs == 16

/-- R394: VFs that disappear take a partition reset; their resources stay bound. -/
def execNumvfsWrite (numVfs : Nat) (vfEnable : Bool) (s : State) : Out :=
  .next <|
  let n := if numVfs = 0 ∨ numVfs = 16 then numVfs else s.lnk.numVfs
  let t := { s with lnk := { s.lnk with numVfs := n, vfEnable := vfEnable } }
  if s.lnk.vfsOn && !t.lnk.vfsOn then
    let u := if t.boundVfs.isEmpty || !t.inValley then t else t.beginExit
    u.boundVfs.foldl (fun (x : State) v => x.startScrub v .numvfs none 0 (x.prt v)) u
  else t

/- IDE. -/

/-- Change an IDE stream. -/
def State.setIde (s : State) (k : Nat) (x : IdeStream) : State := { s with lnk := { s.lnk with ide := tabSet s.lnk.ide k x } }

/-- R404: keys come over DOE within an SPDM session; a stream with new keys goes Secure, stops, or switches its K-set. -/
def execIdeKm (stream : Nat) (op : IdeOp) (s : State) : Out :=
  onUnit s (decide (stream < 18)) <|
  if !(s.sec.sessions.any fun x => x.doe && x.done) then s else
  let x := tabGet s.lnk.ide {} stream
  match op with
  | .program => if s.sec.trngFailed then s else s.setIde stream { x with prog := true }
  | .setGo => if x.prog && !x.secure then s.setIde stream { x with secure := true, keyed := true, prog := false } else s
  | .setStop => s.setIde stream { x with secure := false, keyed := false }
  | .switch => if x.secure && x.prog then s.setIde stream { x with kset := 1 - x.kset, prog := false } else s

/-- R406. -/
def execIdeStreamFail (stream : Nat) (s : State) : Out := onUnit s (decide (stream < 18)) (s.ideInsecure stream)

/- TDISP. -/

/-- Answer a TDISP request. -/
def State.tdisp (s : State) (r : TdispResp) : State := { s with reply := .tdisp r }

/-- A VF's TDISP state. -/
def State.tdi (s : State) (fn : Nat) : Tdi := tabGet s.lnk.tdi .unlocked fn

/-- Move a VF's interface. -/
def State.setTdi (s : State) (fn : Nat) (v : Tdi) : State := { s with lnk := { s.lnk with tdi := tabSet s.lnk.tdi fn v } }

/-- R407. -/
def execTdispGetVersion (fn : Nat) (s : State) : Out := onUnit s (isVf fn) (s.tdisp .version)

/-- R407. -/
def execTdispGetCapabilities (fn : Nat) (s : State) : Out := onUnit s (isVf fn) (s.tdisp .capabilities)

/-- R408, R385: a function's PASID and ATS settings and BAR sizes count as programmed at every value. -/
def execLockInterfaceRequest (fn : Nat) (s : State) : Out :=
  onUnit s (isVf fn) <|
  if s.tdi fn == .unlocked && (s.prt fn).bound && s.fnState fn == fnReady && (tabGet s.lnk.ide {} (fn + 1)).secure then
    (s.setTdi fn .locked).tdisp .locked
  else s.tdisp .error

/-- R408, R461: in CONFIG_LOCKED or RUN. -/
def execGetDeviceInterfaceReport (fn : Nat) (s : State) : Out :=
  onUnit s (isVf fn) <|
  if s.cfgLocked fn then
    s.tdisp (.report [(0, 65536), (2, s.barSize fn), (4, 8192)] (s.layoutRecord fn) ((s.programDigest fn).getD (List.replicate 32 0)))
  else s.tdisp .error

/-- R407. -/
def execGetDeviceInterfaceState (fn : Nat) (s : State) : Out := onUnit s (isVf fn) (s.tdisp (.state (s.tdi fn)))

/-- R407, R385. -/
def execStartInterfaceRequest (fn : Nat) (s : State) : Out :=
  onUnit s (isVf fn) (if s.tdi fn == .locked then (s.setTdi fn .run).tdisp .started else s.tdisp .error)

/-- R409, R385: during a scrub the answer waits for step 8. -/
def execStopInterfaceRequest (fn : Nat) (s : State) : Out :=
  onUnit s (isVf fn) <|
  if (tabFind s.part.scrubs fn).any (·.started) then
    { s with lnk := { s.lnk with tdiStop := if s.lnk.tdiStop.contains fn then s.lnk.tdiStop else fn :: s.lnk.tdiStop } }
  else (s.setTdi fn .unlocked).tdisp .stopped

/-- R407. -/
def execTdispUnsupported (fn _code : Nat) (s : State) : Out := onUnit s (isVf fn) (s.tdisp .unsupportedRequest)

/-- R409. -/
def execTdispConfigViolation (fn : Nat) (s : State) : Out := onUnit s (isVf fn) (s.tdiError fn)

/-- R410. -/
def execTdiUnsecuredRequest (fn : Nat) (onStream tBit : Bool) (s : State) : Out :=
  onUnit s (isVf fn) <|
  if s.tdi fn == .run && (!onStream || !tBit) then { s.dropWr fn with reply := .unsupported } else s

/- LINK_RESTORE. -/

/-- A lane that was mapped out needs one failure to be mapped out again (R436). -/
def onProbation (t : Tab Nat) (lanes : List Nat) : Tab Nat := tabSetAll t lanes 1

/-- R436: upconfig is that the host port supports link upconfiguration. -/
def execLinkRestore (fn mbx : Nat) (upconfig : Bool) (s : State) : Out :=
  s.cmd fn mbx 0x007 fun s =>
  let link := s.arg fn mbx 0
  if 1 < link then s.respond fn mbx rLimit []
  else if (tabFind s.lnk.restore link).isSome || (if link = 0 then s.lnk.train else s.twinState == 1) then s.respond fn mbx rBusy []
  else if link = 0 then
    let was := s.lnk.lanes.length
    let t := (s.accept fn mbx).wrF .TWN_MAPOUT 0 8 16 0
    let t := { t with lnk := { t.lnk with
      hostLaneFail := onProbation t.lnk.hostLaneFail s.hostOut, restore := tabSet t.lnk.restore 0 (was, fn, mbx) } }
    if upconfig && t.lnk.up then { t with lnk := { t.lnk with train := true } } else t.restoreDone 0 was
  else
    let was := (maskBits (s.rdF .TWN_STATUS 0 16 8) 8).length
    let t := (s.accept fn mbx).wrF .TWN_MAPOUT 0 0 8 0
    let t := { t with lnk := { t.lnk with
      twinLaneFail := onProbation t.lnk.twinLaneFail s.twinOut, restore := tabSet t.lnk.restore 1 (was, fn, mbx) } }
    if t.twinState = 2 then t.twinRetrain else t.wrF .TWN_STATUS 0 0 2 1

end Sys2Proof.Machine
end

