-- ==== Sys2Proof/Machine/ModuleCmds.lean ====
section
/-! DEFINITION. The module's own commands (09 R364 group 0x0xx) and the valley state (17 R620 to R623). -/

namespace Sys2Proof.Machine

open Sys2Proof

/-- R364: NOP answers OK. -/
def execNop (fn mbx : Nat) (s : State) : Out := s.cmd fn mbx 0x009 fun s => s.respond fn mbx rOk []

/-- R364: the part code, serial and stepping are those of the sideband identity (R634), the interface version is FN_ID's. -/
def execModuleInfo (fn mbx : Nat) (s : State) : Out :=
  s.cmd fn mbx 0x000 fun s =>
  s.respond fn mbx rOk ([s.rdF .RAS_SB_IDENT 0 0 32] ++ lohi (s.rdN .RAS_SB_SERIAL 0) ++ [s.rdF .RAS_SB_IDENT 0 32 8, s.upd.slotA.ver,
    s.upd.slotB.ver, s.upd.running, 64, ((List.range 64).map s.exposed).sum, s.rdN .PLN_BINDABLE 0, s.rdF .FN_ID 0 8 16])

/-- R364: the spec names health summary bits and gives them no layout, so the word is a free value (log entry 3). -/
def execModuleStatus (fn mbx : Nat) (s : State) : Out :=
  s.cmd fn mbx 0x001 fun s =>
  let (w, t) := s.free
  t.respond fn mbx rOk ([t.rdN .FN_STATUS (if 17 ≤ fn then 0 else fn), w.toNat % 2 ^ 32, t.rdF .PWR_DRAW 0 0 16 * 1000,
    if t.pwr.leased then t.pwr.leaseW else 0] ++ lohi t.time)

/-- R619, R411. -/
def execTimeGet (fn mbx : Nat) (s : State) : Out :=
  s.cmd fn mbx 0x006 fun s =>
  s.respond fn mbx rOk (lohi s.time ++ [s.rdF .TIM_STATUS 0 0 3] ++ lohi (s.rdN .TIM_PTM_OFS 0))

/-- R643: 0 ends the blink. -/
def execLedIdentify (fn mbx : Nat) (s : State) : Out :=
  s.cmd fn mbx 0x008 fun s =>
  let n := s.arg fn mbx 0
  if 3600 < n then s.respond fn mbx rLimit []
  else { s with brd := { s.brd with identify := if n = 0 then 0 else s.time + n * 1000000000 } }.respond fn mbx rOk []

/-- R643. -/
def execLedIdentifyExpiry (s : State) : Out :=
  .next (if s.time < s.brd.identify then s else { s with brd := { s.brd with identify := 0 } })

/- The valley state. -/

/-- What refuses an entry into the valley state (R620). -/
def State.valleyBusy (s : State) : Bool :=
  s.fab.ctxs.any (fun e => e.2.active) || s.fry.chans.any (fun e => e.2.halted || !e.2.queue.isEmpty) ||
  s.srt.units.any (fun e => e.2.halted || !e.2.queue.isEmpty) || !s.vid.streams.isEmpty || !s.vid.jobs.isEmpty || !s.vid.jpeg.isEmpty ||
  !s.srv.reqs.isEmpty || !s.part.scrubs.isEmpty || s.pln.pages.any (fun e => e.2.migrating) || s.ras.collecting.isSome ||
  s.upd.st == .activating || s.upd.st == .confirming || s.pwr.trip || s.pwr.supply

/-- Entry begins: new work is refused (R621). -/
def State.beginEntry (s : State) : State :=
  let t := (List.range 64).foldl (fun t i => if t.rdF .ISL_PDM_CTL i 0 1 = 1 then t.wrF .ISL_PDM_CTL i 0 1 0 else t) s
  { t with clk := { t.clk with entering := true, valleyT := s.time } }.wrF .TIM_STATUS 0 9 1 1

/-- R620: peerOk is that the partner can enter too. A module that already lies in the valley state has entered (log entry 45). -/
def execValleyEnter (fn mbx : Nat) (peerOk : Bool) (s : State) : Out :=
  s.cmd fn mbx 0x004 fun s =>
  if s.clk.entering || s.clk.exiting || s.valleyBusy || (s.pair.mirrored && !peerOk) then s.respond fn mbx rBusy []
  else if s.rdF .TIM_STATUS 0 8 1 = 1 then (s.accept fn mbx).cmdDone fn mbx 0x004 rOk []
  else
    let t := (if s.pair.mirrored then s.twinSend 4 else s).accept fn mbx
    { t with clk := { t.clk with valleyCmd := some (fn, mbx) } }.beginEntry

/-- R623, R622. A module outside the valley state has left it (log entry 45). -/
def execValleyExit (fn mbx : Nat) (s : State) : Out :=
  s.cmd fn mbx 0x005 fun s =>
  if s.clk.entering || (s.clk.exiting && s.clk.valleyCmd.isSome) then s.respond fn mbx rBusy []
  else if s.rdF .TIM_STATUS 0 8 1 = 0 then (s.accept fn mbx).cmdDone fn mbx 0x005 rOk []
  else
    let t := (if s.pair.mirrored then s.twinSend 4 else s).accept fn mbx
    { t with clk := { t.clk with valleyCmd := some (fn, mbx) } }.beginExit

/-- Domains that stop in the valley state (R607). -/
def valleyDomains : List Nat := List.range 12 ++ [22, 23, 24]

/-- The lock bits of some domains (R624). -/
def State.setLocks (s : State) (ds : List Nat) (on : Bool) : State := ds.foldl (fun t d => t.wrF .TIM_CLK_LOCK 0 d 1 (b2n on)) s

/-- An island's STATE in the valley state or after it; an island that is off or FAILED stays so (R90, R621, R623). -/
def State.islValley (s : State) (i : Nat) (on : Bool) : State :=
  let st := s.rdF .ISL_STATUS i 0 3
  if on then (if st = 3 ∨ st = 4 then s.wrF .ISL_STATUS i 0 3 5 else s)
  else if st = 5 then s.wrF .ISL_STATUS i 0 3 (if s.islOwner i = 0 then 3 else 4) else s

/-- WIDTH of TWN_STATUS for a number of lanes (R428). -/
def twinWidth (n : Nat) : Nat := if n = 8 then 3 else if n = 4 then 2 else if n = 2 then 1 else 0

/-- The twin link's active lanes and width (R428). -/
def State.setTwinLanes (s : State) (mask : Nat) : State :=
  (s.wrF .TWN_STATUS 0 16 8 mask).wrF .TWN_STATUS 0 2 2 (twinWidth (maskBits mask 8).length)

/-- Both links narrow: the host link to x1 at 2.5 GT/s, the twin link to 2 lanes (R621). -/
def State.narrowLinks (s : State) : State :=
  let m := s.rdF .TWN_STATUS 0 16 8
  let t := { s with
    clk := { s.clk with hostFull := (s.lnk.rate, s.lnk.lanes), twinFull := m }
    lnk := if s.lnk.up then { s.lnk with rate := 1, lanes := s.lnk.lanes.take 1 } else s.lnk }
  if s.rdF .TWN_STATUS 0 0 2 = 2 then t.setTwinLanes (maskOf ((maskBits m 8).take 2)) else t

/-- The links widen again (R623). -/
def State.widenLinks (s : State) : State :=
  let t := if s.lnk.up then { s with lnk := { s.lnk with rate := s.clk.hostFull.1, lanes := s.clk.hostFull.2 } } else s
  if s.rdF .TWN_STATUS 0 0 2 = 2 then t.setTwinLanes s.clk.twinFull else t

/-- A transition ends: its time in µs, TIM_STATUS and TIM_EVT, and the command that waits for it (R621, R623). -/
def State.valleyDone (s : State) (enter : Bool) (us : Nat) : State :=
  let t := (s.wrF .TIM_STATUS 0 8 2 (b2n enter)).hwSet .TIM_EVT 0 (if enter then 64 else 128)
  let t := t.wrF .TIM_VALLEY_LAST 0 (if enter then 0 else 16) 16 (min us 65535)
  let c := t.clk.valleyCmd
  let t := { t with clk := { t.clk with entering := false, exiting := false, valleyCmd := none } }
  match c with
  | some (f, m) => t.cmdDone f m (if enter then 0x004 else 0x005) rOk []
  | none => t

/-- R621: us is what the entry took. -/
def execValleyEntryComplete (us : Nat) (s : State) : Out :=
  .next <|
  if !s.clk.entering then s else
  let t := (List.range 64).foldl (fun t i => t.islValley i true) s
  let t := t.wrF .PLN_STATUS 0 3 1 1
  let t := if t.rdF .VID_STATUS 0 0 2 = 1 then t.wrF .VID_STATUS 0 0 2 2 else t
  (((t.setLocks valleyDomains false).narrowLinks).count .TIM_VALLEY_CNT 0 1).valleyDone true us

/-- R623. -/
def execValleyExitComplete (us : Nat) (s : State) : Out :=
  .next <|
  if !s.clk.exiting then s else
  let t := (List.range 64).foldl (fun t i => t.islValley i false) s
  let t := t.wrF .PLN_STATUS 0 3 1 0
  let t := if t.rdF .VID_STATUS 0 0 2 = 2 then t.wrF .VID_STATUS 0 0 2 1 else t
  ((t.setLocks valleyDomains true).widenLinks).valleyDone false us

end Sys2Proof.Machine
end

