-- ==== Sys2Proof/Machine/Pair.lean ====
section
/-! DEFINITION. Commands on the pair (09 R364 group 0x9xx, 16): forming, mode, mirroring, digests, resynchronisation, the line, drain,
tray pull and power loss. -/

namespace Sys2Proof.Machine

open Sys2Proof

/- Commands. -/

/-- R364. -/
def execPairStatus (fn mbx : Nat) (s : State) : Out :=
  s.cmd fn mbx 0x900 fun s =>
  s.respond fn mbx rOk [s.rdF .TWN_PAIR_STATUS 0 0 1, s.role, s.rdF .TWN_LOCK_MV 0 0 12, s.rdN .TWN_DIVERGE 0,
    (maskBits (s.rdF .TWN_STATUS 0 16 8) 8).length]

/-- A change of holder is in progress (R577). -/
def State.changing (s : State) : Bool :=
  s.pair.claiming.isSome || s.pair.yieldDue.isSome || s.pair.failover || s.pair.modeNext.isSome

/-- A pair has formed (R576). -/
def State.paired (s : State) : Bool := s.rdF .TWN_PAIR_STATUS 0 5 1 == 1

/-- R577. -/
def execPairSetMode (fn mbx : Nat) (s : State) : Out :=
  s.cmd fn mbx 0x901 fun s =>
  let m := s.arg fn mbx 0
  if 1 < m then s.respond fn mbx rLimit []
  else if !s.paired then s.respond fn mbx rNotPaired []
  else if fwMajor s.pair.peerFw ≠ fwMajor (s.fwSlot s.upd.running).ver then s.respond fn mbx rLimit []
  else if s.changing then s.respond fn mbx rBusy []
  else
    let t := (s.accept fn mbx).twinSend 4
    { t with pair := { t.pair with modeNext := some (m == 1), modeCmd := some (fn, mbx) } }

/-- The mode changes: to mirrored a full resync begins; to solo mirroring ends at once (R577). -/
def State.setMode (s : State) (m : Bool) : State :=
  if s.pair.mirrored = m then s else
  let t := { s with pair := { s.pair with mirrored := m } }.wrF .TWN_PAIR_STATUS 0 0 1 (b2n m)
  let t := if m then t.resyncAll else
    let u := { t with pair := { t.pair with resyncLeft := [], stepHold := [], inputs := [], steps := [], admits := [] } }
    (u.boundVfs.foldl (fun (x : State) v => x.setSync v 3) u).flushHeld
  t.allFns fun t f => t.post f 0x0901 [b2n m, t.role, 6]

/-- R577: the step boundary of every model. -/
def execModeChangeApply (s : State) : Out :=
  .next <|
  match s.pair.modeNext with
  | none => s
  | some m =>
    if !s.atBoundary then s else
    let c := s.pair.modeCmd
    let t := { s with pair := { s.pair with modeNext := none, modeCmd := none } }.setMode m
    let t := match c with
      | some (f, b) => t.cmdDone f b 0x901 rOk []
      | none => t
    t.resumeSteps

/-- R599, R590. -/
def execPairTakeback (fn mbx : Nat) (s : State) : Out :=
  s.cmd fn mbx 0x902 fun s =>
  let v := s.arg fn mbx 0
  if 1 < v then s.respond fn mbx rLimit []
  else if v = 1 && s.degraded then s.respond fn mbx rPairDegraded []
  else ((s.wrF .TWN_PAIR_STATUS 0 11 1 v).twinSend 4).respond fn mbx rOk []

/-- R590, R591: in solo mode nothing is left to resynchronise. -/
def execPairResync (fn mbx : Nat) (s : State) : Out :=
  s.cmd fn mbx 0x903 fun s =>
  if !s.paired then s.respond fn mbx rNotPaired [] else
  let t := (s.accept fn mbx).wrF .TWN_PAIR_STATUS 0 6 1 0
  let t := { t with pair := { t.pair with mism := [] } }.wrN .TWN_DIVERGE_WIN 0 0
  if !t.pair.mirrored || t.boundVfs.isEmpty then t.cmdDone fn mbx 0x903 rOk []
  else { t with pair := { t.pair with resyncCmd := some (fn, mbx) } }.resyncAll

/- Forming. -/

/-- Primary and secondary where both straps read the same (R575). -/
def State.strapConflict (s : State) (serial : Nat) : State :=
  let t := { s with pair := { s.pair with primary := decide (s.rdN .RAS_SB_SERIAL 0 < serial) } }
  ((t.wrF .TWN_PAIR_STATUS 0 3 1 (b2n t.pair.primary)).wrF .TWN_PAIR_STATUS 0 12 1 1).log 6 0x18 5 0 0x78 0x1F 1 0 0 0

/-- R576, R575: secondary is the partner's strap. The class of the entry that a failing check logs is not given (log entry 49). -/
def execPairHello (chainOk sigOk : Bool) (fwVer serial certHash : Nat) (secondary : Bool) (s : State) : Out :=
  .next <|
  if s.rdF .TWN_STATUS 0 0 2 ≠ 2 then s else
  if !chainOk || !sigOk || fwMajor fwVer ≠ fwMajor (s.fwSlot s.upd.running).ver then
    let (w, t) := s.free
    t.log 4 0x19 0 0 (w.toNat % 256) 0x1F 1 0 0 0
  else
    let t := { s with
      pair := { s.pair with keyGen := s.pair.keyGen + 1, peerFw := fwVer, partnerYielded := false }
      sec := { s.sec with partnerCert := certHash } }
    let t := (t.wrF .TWN_PAIR_STATUS 0 5 1 1).hwSet .TWN_PAIR_EVT 0 64
    let t := if t.brd.strapSec == secondary && t.rdF .TWN_PAIR_STATUS 0 12 1 == 0 then t.strapConflict serial else t
    t.resyncAll

/-- R576, R616: the partner is no time source any more. -/
def execPairLinkLost (s : State) : Out :=
  .next (if s.paired then ((s.wrF .TWN_PAIR_STATUS 0 5 1 0).hwSet .TWN_PAIR_EVT 0 128).partnerTimeLost else s)

/- Mirroring. -/

/-- R578: a forwarded post, in the order of the active. -/
def execMirrorInput (fn opcode : Nat) (words : List Nat) (s : State) : Out :=
  onUnit s (decide (fn ≤ 16 ∧ words.length ≤ 63)) <|
  if !s.pair.mirrored || s.role ≠ roleStandby then s
  else { s with pair := { s.pair with inputs := s.pair.inputs ++ [(fn, opcode, words)] } }.loadMirror

/-- Raise or lower the pair-hold duty of a partition by how far the standby's completion trails (R520). -/
def State.pace (s : State) (fn : Nat) (trail : Int) : State :=
  (s.islandsOf fn).foldl (fun t i =>
    let d := tabGet t.pwr.pairHold 0 i
    let n := if 1000000 < trail then min 32 (d + 4) else if trail < 500000 then d - 4 else d
    { t with pwr := { t.pwr with pairHold := tabSet t.pwr.pairHold i n } }) s

/-- One MIRROR_CTL message (R579, R386, R520, R577, R588, R591, R598, R599, R601, R620). -/
def State.mirrorMsg (s : State) (msg : CtlMsg) : State :=
  match msg with
  | .admission fn l seed res =>
    { s with pair := { s.pair with admits := tabUpd s.pair.admits [] fn fun (x : List (Nat × Nat × Nat)) => x ++ [(l, seed, res)] } }
  | .stepRec fn m no rows =>
    { s with pair := { s.pair with steps := s.pair.steps ++ [(reqKey fn m, no, rows)] } }.nextStep fn m
  | .doneAt fn m no t =>
    match tabFind s.pair.doneT (reqKey fn m) with
    | some (k, mine) => if s.role = roleActive && k = no then s.pace fn ((t : Int) - mine) else s
    | none => s
  | .rebind fn => if s.role = roleStandby then s.startScrub fn .mirror none 0 (s.prt fn) else s
  | .layout fn args =>
    if s.role = roleStandby then
      { s with pair := { s.pair with inputs := s.pair.inputs ++ [(0, 0x101, fn :: args)] } }.loadMirror
    else s
  | .mode m => { s with pair := { s.pair with modeNext := some m } }
  | .kat passed => { s with pair := { s.pair with katPeer := some passed } }.settleKat
  | .tokens fn l toks recs =>
    match s.req fn l with
    | some r => s.setReq fn l { r with toks := toks, tokens := toks.length, recs := recs }
    | none => s
  | .takeback on => s.wrF .TWN_PAIR_STATUS 0 11 1 (b2n on)
  | .valley enter =>
    if enter then (if s.inValley || s.valleyBusy then s else s.beginEntry) else s.beginExit
  | .written keys =>
    let held := s.pair.held.filter fun (h : HeldOut) => !(s.role == roleStandby && keys.contains (digKey h.dig))
    { s with pair := { s.pair with held := held, peerKeys := keys, failover := false } }

/-- R579 and the rules of each message: fn names a function and a model where the message has them. -/
def execMirrorCtl (msg : CtlMsg) (s : State) : Out :=
  onUnit s (match msg with
    | .admission fn _ _ _ | .stepRec fn _ _ _ | .doneAt fn _ _ _ | .rebind fn | .layout fn _ | .tokens fn _ _ _ => decide (1 ≤ fn ∧ fn ≤ 16)
    | _ => true) (s.mirrorMsg msg)

/- Digests. -/

/-- A held output meets its partner's digest (R587, R588). -/
def State.meetHeld (s : State) (h : HeldOut) (d : Dig) : State :=
  let key := digKey d
  let mark := fun (f : HeldOut → HeldOut) =>
    { s with pair := { s.pair with held := s.pair.held.map fun x => if digKey x.dig = key then f x else x } }
  if !s.bothMatch h.dig d then (mark fun x => { x with diverged := true }).diverge h.dig
  else if s.katHolds d.fn then mark fun x => { x with matched := true }
  else s.releaseHeld key 0

/-- R585, R586, R587: compared with the held output, with one already written, or kept. -/
def execDigest (dig : Dig) (s : State) : Out :=
  onUnit s (decide (1 ≤ dig.fn ∧ dig.fn ≤ 16)) <|
  if !s.pair.mirrored then s else
  let key := digKey dig
  match s.pair.local_.find? (fun x => digKey x == key), s.pair.held.find? (fun h => digKey h.dig == key && !h.diverged) with
  | some x, _ =>
    let t := { s with pair := { s.pair with local_ := s.pair.local_.filter fun y => digKey y != key } }
    if s.bothMatch x dig then t else t.diverge x
  | none, some h => if s.role = roleStandby then s else s.meetHeld h dig
  | none, none => { s with pair := { s.pair with early := s.pair.early ++ [{ dig with time := s.time }] } }

/-- R585. -/
def execDigestKeepExpiry (s : State) : Out :=
  .next { s with pair := { s.pair with early := s.pair.early.filter fun d => decide (s.time < d.time + 100000000) } }

/-- R587: the first output that is held for its digest. -/
def execOutputHoldTimeout (s : State) : Out :=
  .next <|
  if s.role = roleStandby then s else
  match s.pair.held.find? fun h => !s.katHolds h.dig.fn with
  | none => s
  | some h => (s.releaseHeld (digKey h.dig) (if h.diverged then 2 else 1)).hwSet .TWN_PAIR_EVT 0 256

/-- R588, R589: failed names the physical cores that the test found failing. -/
def execKnownAnswerTestDone (passed : Bool) (failed : List Nat) (s : State) : Out :=
  onUnit s (failed.all fun k => decide (k < 64 * 66)) <|
  if s.rdF .TWN_PAIR_STATUS 0 13 1 = 0 || s.pair.katLocal.isSome then s else
  let t := { s with pair := { s.pair with katLocal := some passed, katFailed := failed } }
  ((if passed then t else t.hwSet .TWN_PAIR_EVT 0 4).twinSend 4).settleKat

/-- R588: a module without a result has failed. -/
def execKatResultTimeout (s : State) : Out :=
  .next <|
  if s.rdF .TWN_PAIR_STATUS 0 13 1 = 0 then s else
  let t := if s.pair.katLocal.isSome then s else s.hwSet .TWN_PAIR_EVT 0 4
  { t with pair := { t.pair with katLocal := some (t.pair.katLocal.getD false), katPeer := some (t.pair.katPeer.getD false) } }.settleKat

/- Resynchronisation. -/

/-- The page behind a number of a VF: its view, then its adapter pool. -/
def State.vfPage (s : State) (fn n : Nat) : Option Nat :=
  if n < (s.prt fn).npages then s.xlate fn n false else (s.prt fn).pool[n - (s.prt fn).npages]?

/-- The standby writes a page under its own keys (R591). -/
def State.takePage (s : State) (fn : Nat) (e : Nat × Bool × List Byte) : State :=
  match s.vfPage fn e.1 with
  | some p => s.plainPut p 0 e.2.1 (e.2.2.take 65536)
  | none => s

/-- Pages have gone to the partner; under 1,024 pages left the active holds the VF's next step boundary (R591). -/
def State.resyncSent (s : State) (fn : Nat) (sent : List Nat) (last : Bool) : State :=
  let ps := sent.filterMap (s.vfPage fn)
  let left := (tabGet s.pair.resyncLeft [] fn).filter fun p => !ps.contains p
  let t := { s with pair := { s.pair with
    resyncLeft := tabSet s.pair.resyncLeft fn left
    stepHold := if left.length < 1024 && !s.pair.stepHold.contains fn then fn :: s.pair.stepHold else s.pair.stepHold } }
  if last || left.isEmpty then t.synced fn else t

/-- R591: pages carry their number in the VF, whether they hold KV sectors, and their bytes. -/
def execResyncBulk (fn : Nat) (pages : List (Nat × Bool × List Byte)) (last : Bool) (s : State) : Out :=
  onUnit s (decide (1 ≤ fn ∧ fn ≤ 16)) <|
  if !s.pair.mirrored || (s.role ≠ roleStandby && s.syncOf fn ≠ 1) then s else
  let t := s.count .TWN_RESYNC_BYTES 0 ((pages.map fun e => e.2.2.length).sum)
  if s.role = roleStandby then
    let t := (pages.foldl (fun t e => t.takePage fn e) t).setSync fn 1
    if last then t.synced fn else t
  else t.resyncSent fn (pages.map (·.1)) last

/-- R591: with more than 1,024 pages left the hold ends and the pages go on; otherwise the VF is SYNCED. -/
def execResyncHoldTimeout (fn : Nat) (s : State) : Out :=
  onUnit s (decide (1 ≤ fn ∧ fn ≤ 16)) <|
  if !s.pair.stepHold.contains fn then s
  else if s.resyncPages fn ≤ 1024 then s.synced fn
  else { s with pair := { s.pair with stepHold := s.pair.stepHold.filter (· != fn) } }.resumeSteps

/- The holder. -/

/-- R598, R599: the partner asks for the role, or has yielded; under a line fault the role changes by the message alone (R595). -/
def execYield (request : Bool) (reason : Nat) (keys : List Nat) (s : State) : Out :=
  onUnit s (decide (reason ≤ 8)) <|
  if request then (if s.pair.holder then { s with pair := { s.pair with yieldDue := some 2 } } else s)
  else
    let t := { s with pair := { s.pair with partnerYielded := true, peerKeys := keys, reason := reason, failover := true } }.flushHeld.updGuard
    if t.pair.fault && t.role = roleStandby && !t.draining && t.fnState 0 ≠ fnOos && !t.pwr.trip && !t.pwr.supply then t.becomeHolder
    else t

/-- R598, R599, R602: the yield that waits for a step boundary, or for the end of live work in a drain. -/
def execHolderYield (reason : Nat) (s : State) : Out :=
  onUnit s (decide (reason ≤ 8)) <|
  if !s.pair.holder then s
  else if (s.pair.yieldDue = some reason && s.atBoundary) || (reason = 3 && s.soloDrain && !s.liveWork) then
    ((s.releaseLine reason).setLine lineFree).settleDrain
  else s

/-- The range that three consecutive samples lie in (R593). -/
def readingOf (samples : List Nat) : Option Nat :=
  match (samples.drop (samples.length - 3)).map lineRange with
  | [some a, some b, some c] => if a = b ∧ b = c then some a else none
  | _ => none

/-- A reading of the line (R592, R594, R595). -/
def State.reading (s : State) (r : Nat) : State :=
  let t := { s with pair := { s.pair with
    indet := none, freeSince := if r = 0 then some (s.pair.freeSince.getD s.time) else none } }
  let mine := t.pair.holder || t.pair.claiming.isSome
  match r with
  | 0 => (t.setLine lineFree).lineGood
  | 1 =>
    let t := (t.setLine (if mine then lineSelf else linePartner)).lineGood
    if t.pair.holder && t.role = roleSolo then (t.wrF .TWN_PAIR_STATUS 0 4 1 1).setRole roleActive 0 else t
  | 3 => (t.setLine (if mine && !t.partner then lineSelf else lineContended)).lineGood
  | 4 => t.lineFault 4 1
  | _ => t.lineFault 5 2

/-- R593: the last three samples in one range give a reading; samples between the ranges for 100 µs are INDETERMINATE. -/
def execPairLockReading (samples : List Nat) (s : State) : Out :=
  onUnit s (!samples.isEmpty && samples.all fun v => decide (v < 4096)) <|
  let t := s.wrF .TWN_LOCK_MV 0 0 12 (samples.getLast?.getD 0)
  (match readingOf samples with
  | some r => t.reading r
  | none =>
    if (lineRange (samples.getLast?.getD 0)).isSome then t else
    let since := t.pair.indet.getD t.time
    let t := { t with pair := { t.pair with indet := some since } }
    if since + 100000 ≤ t.time then t.lineFault 7 3 else t).settleDrain

/-- The line is open: a partner on the link, none on the line, and levels more than 0.3 V apart (R595). -/
def State.lineOpen (s : State) : Bool :=
  s.rdF .TWN_STATUS 0 0 2 == 2 && !s.partner &&
  decide (s.lnk.peer.lockMv + 300 < s.rdF .TWN_LOCK_MV 0 0 12 ∨ s.rdF .TWN_LOCK_MV 0 0 12 + 300 < s.lnk.peer.lockMv)

/-- R594: rise is what the probe measures in mV. -/
def execPairLockProbe (rise : Nat) (s : State) : Out :=
  onUnit s (decide (rise < 4096)) <|
  let t := s.wrF .TWN_LOCK_MV 0 12 12 rise
  if t.pair.holder then
    if t.line ≠ lineContended then t
    else if 75 < rise then (((t.wrF .TWN_PAIR_STATUS 0 4 1 0).setLine lineSelf).setRole roleSolo 8).flushHeld
    else { t.releaseLine 1 with pair := { (t.releaseLine 1).pair with backoff := true } }
  else if t.pair.claiming.isSome then t
  else
    let t := t.wrF .TWN_PAIR_STATUS 0 4 1 (b2n (decide (rise < 190)))
    if t.lineOpen then t.lineFault 6 3
    else if t.line = 6 then (t.setLine lineFree).lineGood else t

/-- R596. -/
def execPairLockClaim (s : State) : Out :=
  .next (if s.mayClaim then { s with pair := { s.pair with claiming := some s.time } } else s)

/-- R596: the reading of the 20 µs after the claim decides. -/
def execClaimSettle (s : State) : Out :=
  .next <|
  if s.pair.claiming.isNone then s
  else if s.line = lineSelf then s.becomeHolder
  else if s.line = lineFree && !s.pair.fault then s
  else { s with pair := { s.pair with claiming := none, backoff := true } }

/-- R596. -/
def execClaimBackoffEnd (s : State) : Out := .next { s with pair := { s.pair with backoff := false } }

/-- R599: the primary has been standby, healthy and SYNCED for 30 s. -/
def execTakebackTimer (s : State) : Out :=
  .next <|
  if s.pair.primary && s.role = roleStandby && s.pair.mirrored && s.allSynced && s.rdF .TWN_PAIR_STATUS 0 11 1 = 1 && !s.degraded &&
      s.paired && !s.pwr.trip && !s.pwr.supply && !s.draining && s.fnState 0 ≠ fnOos then
    { s with pair := { s.pair with reason := 2 } }.twinSend 2
  else s

/-- R595: 1 ms of a line fault with PEER_SILENT. -/
def execLineFaultSilent (s : State) : Out :=
  .next <|
  if !s.pair.fault || s.rdF .TWN_STATUS 0 4 1 = 0 then s
  else if s.pair.primary then { s with pair := { s.pair with reason := 5 } }.becomeHolder
  else s.releaseLine 5

/- Drain, tray pull and power loss. -/

/-- R602: a second drain while one is under way is BUSY. -/
def execModuleDrain (fn mbx : Nat) (s : State) : Out :=
  s.cmd fn mbx 0x002 fun s =>
  if s.pair.drainCmd.isSome then s.respond fn mbx rBusy []
  else if s.pair.drained then (s.accept fn mbx).cmdDone fn mbx 0x002 rOk []
  else
    let t := (s.accept fn mbx).wrF .TWN_PAIR_STATUS 0 10 1 1
    let t := { t with pair := { t.pair with drainCmd := some (fn, mbx), claiming := none } }
    let t := t.allFns fun t f => if t.fnState f = fnReady then t.setFnState f fnDraining else t
    if t.soloDrain then t.settleDrain
    else if t.pair.holder then { t with pair := { t.pair with yieldDue := some 3 } }
    else { t with pair := { t.pair with drained := true, drainCmd := none } }.cmdDone fn mbx 0x002 rOk []

/-- R602: the drain ends; its command, where it still waits, ends ABORTED (log entry 49). -/
def execModuleResume (fn mbx : Nat) (s : State) : Out :=
  s.cmd fn mbx 0x003 fun s =>
  if !s.draining then s.respond fn mbx rOk [] else
  let c := s.pair.drainCmd
  let t := s.wrF .TWN_PAIR_STATUS 0 10 1 0
  let t := { t with pair := { t.pair with
    drained := false, drainCmd := none, yieldDue := if t.pair.yieldDue = some 3 then none else t.pair.yieldDue } }
  let t := t.allFns fun t f => if t.fnState f = fnDraining then t.setFnState f (t.runState f) else t
  let t := match c with
    | some (f, m) => t.cmdDone f m 0x002 rAborted []
    | none => t
  let t := if t.role = roleStandby then t.resyncAll else t
  (t.respond fn mbx rOk []).resumeSteps

/-- R603. -/
def execPullWarnAssert (s : State) : Out :=
  .next <|
  if !s.brd.armed || s.brd.pullIgnored then s else
  let t := s.hwSet .TWN_PAIR_EVT 0 512
  if t.pair.mirrored then t.releaseLine 7 else t.pullSolo

/-- The module is without power: nothing runs, and both links are down (R604, R592). -/
def State.powerOff (s : State) : State :=
  let t := s.stopWork
  let t := { t with
    brd := { t.brd with powered := false, armed := false }
    pair := { t.pair with holder := false, claiming := none, yieldDue := none }
    lnk := { t.lnk with up := false, lanes := [] }
    mbx := { t.mbx with usbAttached := false, usbOut := [] } }
  (t.wrF .TWN_STATUS 0 0 2 0).allFns fun t f => t.wrF .FN_STATUS f 0 3 fnBooting

/-- R604: below 40 V. -/
def execPowerLoss (mv : Nat) (s : State) : Out :=
  onUnit s (decide (mv < 40000)) <|
  if !s.brd.powered then s
  else (if s.pair.mirrored then s else s.lastWordsNow 0).powerOff

end Sys2Proof.Machine
end

