-- ==== Sys2Proof/Machine/Plain.lean ====
section
/-! DEFINITION. Commands on the plain and the SRAM scrub (04). -/

namespace Sys2Proof.Machine

open Sys2Proof

/-- Sectors of the plain (R145). -/
abbrev sectors : Nat := 469762048

/-- R155 to R157, R161, R164, R173, R174: seen is what the read finds. A page that is UNWRITTEN is not read, and one that is QUARANTINED or
RETIRED is not served; the read waits for a channel that retrains (R148). -/
def execPlainSectorRead (psn : Nat) (who : Consumer) (seen : Seen) (s : State) : Out :=
  onUnit s (decide (psn < sectors) && seenOk seen) <|
  if (s.page (psn / 256)).st != .written || s.chanTrains (psnChannel psn) then s
  else if s.sectorBad psn seen then { s with pln := { s.pln with rereads := s.pln.rereads ++ [(psn, who)] } }
  else (s.readGood psn (s.consumerCtx who) (decide (badBytes seen 0 + badBytes seen 1 ≠ 0)) seen).1

/-- R173, R174: a second read that is correctable or clean makes the event a correctable one, and the MAC is checked then. -/
def execSectorReread (psn : Nat) (seen : Seen) (s : State) : Out :=
  onUnit s (decide (psn < sectors) && seenOk seen) <|
  match s.pln.rereads.find? fun e => e.1 == psn with
  | none => s
  | some e =>
    if s.chanTrains (psnChannel psn) then s else
    let ctx := s.consumerCtx e.2
    let t := { s with pln := { s.pln with rereads := s.pln.rereads.erase e } }
    if (t.page (psn / 256)).st != .written then t
    else if t.sectorBad psn seen then t.sectorUe psn seen ctx
    else (t.readGood psn ctx true seen).1

/-- R164 to R166, R174: function fn writes data from byte first of a sector; kv says that the write is KVPACK data. Part of a sector that
holds data is a read-modify-write, whose reads find seen and again; one that fails leaves the sector unchanged, as a write to a FAILED
channel does. A write to a page under another owner, RETIRED or QUARANTINED changes nothing, and one to a page under migration or a channel
that retrains waits. -/
def execPlainSectorWrite (fn psn first : Nat) (data : List Byte) (kv : Bool) (seen again : Seen) (s : State) : Out :=
  onUnit s (decide (fn ≤ 16 ∧ psn < sectors ∧ first + data.length ≤ 256) && seenOk seen && seenOk again) <|
  let p := s.page (psn / 256)
  if p.owner != ownerCode fn || p.migrating || !(p.st == .unwritten || p.st == .written) || data.isEmpty then s
  else if s.chanTrains (psnChannel psn) then s
  else if s.chanFailed (psnChannel psn) then s.chanUe psn 0
  else
    let (t, ok) := if p.st == .unwritten || data.length = 256 then (s, true) else s.readSector psn 0 seen again
    if ok then t.plainPut (psn / 256) (psn % 256 * 256 + first) kv data else t

/-- R148: one retry of a burst; ok says that it passed its EDC. The fourth that fails begins a retraining. -/
def execEdcRetry (channel : Nat) (ok : Bool) (s : State) : Out :=
  onUnit s (decide (channel < 32)) <|
  if s.rdF .PLN_CH_STATUS channel 16 2 ≠ 0 then s else
  let t := (s.count .PLN_EDC_RETRY 0 1).count .PLN_CH_EDC channel 1
  let n := tabGet t.pln.edcTries 0 channel + 1
  let put := fun k => { t with pln := { t.pln with edcTries := tabSet t.pln.edcTries channel k } }
  if ok then put 0 else if n < 4 then put n else
  ((put 0).trainChan channel).log (channel / 8) 6 channel 0xFF 0x16 0x1F 1 0 0 0

/-- R148, R149. -/
def execChannelRetrainDone (channel : Nat) (ok : Bool) (s : State) : Out :=
  onUnit s (decide (channel < 32)) <|
  if s.rdF .PLN_CH_STATUS channel 17 1 = 0 then s else
  let t := (s.wrF .PLN_CH_STATUS channel 17 1 0).count .PLN_CH_RETRAIN channel 1
  let t := if (List.range 32).any fun c => t.rdF .PLN_CH_STATUS c 17 1 == 1 then t else t.wrF .PLN_STATUS 0 4 1 0
  if ok then t.hwSet .PLN_EVT 0 8 else
  let t := (t.wrF .PLN_CH_STATUS channel 16 1 1).wrF .PLN_STATUS 0 5 1 1
  ((t.hwSet .PLN_EVT 0 16).log (channel / 8) 6 channel 0xFF 0x17 0x1F 3 0 0 0).askChipDump 9

/-- The time at which a condition began to hold without a break. -/
def sinceWhen (c : Bool) (old : Option Nat) (now : Nat) : Option Nat := if c then some (old.getD now) else none

/-- A condition has held for n ns. -/
def heldFor (o : Option Nat) (now n : Nat) : Bool := match o with | some t => decide (t + n ≤ now) | none => false

/-- What the firmware knows of the 32 channels: the temperature of the hotter device in °C, and the worst-lane eye margins in % UI at 24, 20
and 16 Gb/s. -/
def chansOk (l : List (Nat × Nat × Nat × Nat)) : Bool :=
  decide (l.length = 32) && l.all fun e => decide (e.1 < 256 ∧ e.2.1 < 256 ∧ e.2.2.1 < 256 ∧ e.2.2.2 < 256)

/-- TEMP and EYE of a channel, the margin being that of the rate in force (R186). -/
def State.showChan (s : State) (c : Nat) (e : Nat × Nat × Nat × Nat) : State :=
  let r := s.rdF .PLN_STATUS 0 0 2
  (s.wrF .PLN_CH_STATUS c 0 8 e.1).wrF .PLN_CH_STATUS c 8 8 (if r = 0 then e.2.1 else if r = 1 then e.2.2.1 else e.2.2.2)

/-- R150 to R152, R185, R186. -/
def execDataRateChoice (chans : List (Nat × Nat × Nat × Nat)) (s : State) : Out :=
  onUnit s (chansOk chans) <|
  let hot := (chans.map (·.1)).foldl max 0
  let eye24 := (chans.map (·.2.1)).foldl min 255
  let eye20 := (chans.map (·.2.2.1)).foldl min 255
  let p := { s.pln with hotSince := sinceWhen (100 < hot) s.pln.hotSince s.time, warmSince := sinceWhen (95 < hot) s.pln.warmSince s.time
                        coolSince := sinceWhen (hot ≤ 88) s.pln.coolSince s.time }
  let hot100 := heldFor p.hotSince s.time 100000000
  let hot95 := heldFor p.warmSince s.time 100000000
  let low20 := decide (eye20 < 15) || !bitAt p.rateOk 1
  let low24 := decide (eye24 < 15) || !bitAt p.rateOk 0
  let want : Nat := if hot100 || low20 then 2 else if hot95 || low24 then 1 else 0
  let temp := hot100 || (hot95 && !low20)
  let rate : Nat := if p.rate ≤ want then want else if heldFor p.coolSince s.time 60000000000 then p.rate - 1 else p.rate
  let tempRate := if rate = 0 then false else if p.rate < rate then temp else p.tempRate
  let t := { s with pln := { p with rate := rate, tempRate := tempRate } }
  let t := (t.wrF .PLN_STATUS 0 8 8 hot).putRate
  let t := chans.zipIdx.foldl (fun t e => t.showChan e.2 e.1) t
  (t.setReasons t.boundIslands thrMemTemp (rate != 0 && tempRate)).syncMargin

/-- R153. -/
def execRefreshRateChange (hot : Nat) (s : State) : Out :=
  onUnit s (decide (hot < 256)) <|
  if 85 < hot then s.wrF .PLN_STATUS 0 2 1 1 else if hot ≤ 80 then s.wrF .PLN_STATUS 0 2 1 0 else s

/-- R176, R177: the first of these commands on a page begins its migration, and the next performs it; reads gives what the copy's reads
of sectors find, with their rereads. A firmware page's contents move within the reservation and the page is retired (R147); a free page is
retired without a copy. -/
def execPageMigrate (ppn : Nat) (reads : List (Nat × Seen × Seen)) (s : State) : Out :=
  onUnit s (decide (ppn < 1835008) && reads.all fun e => decide (e.1 < 256) && seenOk e.2.1 && seenOk e.2.2) <|
  let e := s.page ppn
  match tabFind s.pln.migr ppn with
  | some q =>
    if (List.range 256).any fun k => s.chanTrains (plainChannel ppn k) then s else s.migrateEnd ppn q reads
  | none =>
    if e.ce ≤ s.ceThresh || !(e.st == .written || e.st == .unwritten) then s
    else if e.owner = 0 || e.owner = 0x1F || decide (1802240 ≤ ppn) then s.retire ppn
    else s.migrateStart ppn

/-- R178: a page released while QUARANTINED, or a free page with an uncorrectable finding, is tested under an epoch value of its
own, which its patterns leave in every sector; bad says that it showed an uncorrectable sector or a CE_COUNT above CE_THRESH. A page that
a full list quarantined is not tested (R177). -/
def execPageTest (ppn : Nat) (bad : Bool) (s : State) : Out :=
  onUnit s (decide (ppn < 1835008)) <|
  let e := s.page ppn
  if e.owner != 0 || s.pln.noTest.contains ppn || !(e.st == .quarantined || s.pln.freeUe.contains ppn) then s
  else match s.drawEpoch with
  | none => s
  | some (w, t) =>
    let psns := (List.range 256).map (ppn * 256 + ·)
    let t := { t with pln := { t.pln with
      freeUe := t.pln.freeUe.erase ppn
      data := memClear t.pln.data (ppn * 65536) 65536
      secEpoch := tabSetAll t.pln.secEpoch psns w
      secFmt := tabSetAll t.pln.secFmt psns 0 } }
    let t := if e.st == .quarantined && !(bad && s.retireFull) then t.wrN .PLN_QUARANTINED 0 (t.rdN .PLN_QUARANTINED 0 - 1) else t
    if bad then t.retire ppn
    else match t.drawEpoch with
    | none => s
    | some (v, t) => (t.setPage ppn { epoch := v }).syncBindable

/-- The patrol goes on to the next page; after the last, a pass is complete (R179, R160). -/
def State.patrolNext (s : State) : State :=
  let p := s.rdN .PLN_PATROL_POS 0 + 1
  let s := { s with pln := { s.pln with patrolDone := [] } }
  if p < 1835008 then s.wrN .PLN_PATROL_POS 0 p else
  let t := (s.wrN .PLN_PATROL_POS 0 0).wrN .PLN_PATROL_LAST 0 s.time
  { t with pln := { t.pln with drawsAtPass := t.pln.drawsAtStart, drawsAtStart := t.pln.draws } }.hwSet .PLN_EVT 0 1024

/-- The check of a patrol visit: no MAC, and a stale sector gets EPOCH = 0 (R179, R173). -/
def State.patrolSector (s : State) (psn : Nat) (seen again : Seen) : State :=
  let first := s.sectorBad psn seen
  if first && s.sectorBad psn again then s.sectorUe psn again 0 else
  let x := if first then again else seen
  let t := if first || badBytes x 0 + badBytes x 1 ≠ 0 then s.plainCe psn x 0 else s
  if s.seenEpoch psn x = (s.page (psn / 256)).epoch then t
  else { t with pln := { t.pln with secEpoch := tabSet t.pln.secEpoch psn 0 } }

/-- R179: the patrol visits a sector of the page at PLN_PATROL_POS, and goes on once it has visited all of them; seen and again are what
its read and reread find. It skips a page that is RETIRED or QUARANTINED, is suspended while the devices are in self-refresh, and waits for
a channel that retrains. -/
def execPatrolVisit (sector : Nat) (seen again : Seen) (s : State) : Out :=
  onUnit s (decide (sector < 256) && seenOk seen && seenOk again) <|
  let p := s.rdN .PLN_PATROL_POS 0
  let e := s.page p
  if s.rdF .PLN_STATUS 0 3 1 = 1 then s
  else if e.st == .retired || e.st == .quarantined then s.patrolNext
  else
    let psn := p * 256 + sector
    if s.chanTrains (psnChannel psn) then s else
    let t := s.patrolSector psn seen again
    let l := if t.pln.patrolDone.contains sector then t.pln.patrolDone else sector :: t.pln.patrolDone
    if l.length = 256 then t.patrolNext else { t with pln := { t.pln with patrolDone := l } }

/-- R180: core names a slot's local SRAM, or none the island store. -/
def execSramScrubVisit (island : Nat) (core : Option Nat) (addr : Nat) (err : SramErr) (s : State) : Out :=
  onUnit s (decide (island < 64) && (match core with | some c => decide (c < 64 ∧ addr < lsBytes) | none => decide (addr < isBytes))) <|
  if s.rdF .TIM_STATUS 0 8 1 = 1 then s else
  let slot := core.getD 0
  match err with
  | .correctable _ => s.sramCorrected island slot addr 0 core.isNone
  | .uncorrectable _ | .parity =>
    let w := match core with | some c => (c, addr / 8) | none => (64, addr / 16)
    let t := s.sramError island slot addr 0 (if core.isNone then 6 else 4)
    t.updIsl island fun x => { x with badWords := if x.badWords.contains w then x.badWords else w :: x.badWords }
  | .none => s

end Sys2Proof.Machine
end

