-- ==== Sys2Proof/Machine/Power.lean ====
section
/-! DEFINITION. Commands and events of power, cooling and ageing (09 R364 group 0x5xx, 14). -/

namespace Sys2Proof.Machine

open Sys2Proof

/- Commands. -/

/-- R364: s_p, the draw of the partition's islands, the granted points as in PWR_OP, and FN_THR_ACTIVE. -/
def execPwrStatus (fn mbx : Nat) (s : State) : Out :=
  s.cmd fn mbx 0x500 fun s =>
  let v := if isPf0 fn then s.arg fn mbx 0 else fn
  if v = 0 ∨ 16 < v then s.respond fn mbx rLimit []
  else s.respond fn mbx rOk [(s.prt v).budget, s.partPower v / 1000, s.rdF .PWR_OP 0 0 16, s.rdF .FN_THR_ACTIVE v 0 12]

/-- R502. -/
def execPwrSetPhases (fn mbx : Nat) (s : State) : Out :=
  s.cmd fn mbx 0x501 fun s =>
  let l := (List.range 8).map (s.arg fn mbx)
  if l.any (decide <| 5 < ·) then s.respond fn mbx rLimit []
  else { s with pwr := { s.pwr with table := tabSet s.pwr.table fn l } }.syncMargin.respond fn mbx rOk []

/-- R499. -/
def execPwrSetShare (fn mbx : Nat) (s : State) : Out :=
  s.cmd fn mbx 0x502 fun s =>
  let v := s.arg fn mbx 0
  let w := s.arg fn mbx 1
  if v = 0 ∨ 16 < v then s.respond fn mbx rLimit []
  else if !(s.prt v).bound then s.respond fn mbx rNotFound []
  else if 1250 < (((s.boundVfs.filter (· != v)).map fun x => (s.prt x).budget).sum + w) then s.respond fn mbx rNoSpace []
  else
    let t := s.setPrt v { s.prt v with budget := w }
    { t with part := { t.part with stored := tabSet t.part.stored v (t.prt v) } }.respond fn mbx rOk []

/-- R492. -/
def execPwrSetSafe (fn mbx : Nat) (s : State) : Out :=
  s.cmd fn mbx 0x503 fun s =>
  let w := s.arg fn mbx 0
  if w < 420 ∨ 1250 < w then s.respond fn mbx rLimit [] else (s.wrF .PWR_SAFE 0 0 16 w).respond fn mbx rOk []

/-- R492. -/
def execPwrOperatorCap (fn mbx : Nat) (s : State) : Out :=
  s.cmd fn mbx 0x504 fun s =>
  let w := s.arg fn mbx 0
  if w ≠ 0 ∧ (w < 420 ∨ 1250 < w) then s.respond fn mbx rLimit [] else (s.wrF .PWR_SAFE 0 16 16 w).respond fn mbx rOk []

/-- A throttle ring entry as bytes (R524). -/
def ThrEnt.bytes (e : ThrEnt) : List Byte :=
  natLe e.time 8 ++ natLe (e.fn + e.reason * 256 + b2n e.fin * 65536) 4 ++ natLe (e.duty + e.op * 256) 4 ++
  natLe (e.limit + e.draw * 65536) 4 ++ natLe 0 4 ++ natLe e.islands 8

/-- The layout of PWR_THROTTLE_READ for a function within a length (R525). -/
def State.throttleBytes (s : State) (v len : Nat) : List Byte :=
  let es := ((if v = 0 then s.pwr.ring else s.pwr.ring.filter fun e => e.fn == v)).take ((len - 112) / 32)
  ((List.range 12).flatMap fun r => natLe (s.rdN .PWR_THR_US (v * 16 + r)) 8) ++ natLe (s.rdN .FN_THR_TOTAL_US v) 8 ++
  natLe es.length 4 ++ natLe (s.rdN .PWR_THR_LOST 0) 4 ++ es.flatMap ThrEnt.bytes

/-- R525: PF0 names a function, 0 for the module. -/
def execPwrThrottleRead (fn mbx : Nat) (s : State) : Out :=
  s.cmd fn mbx 0x505 fun s =>
  let o := if isPf0 fn then 1 else 0
  let v := if isPf0 fn then s.arg fn mbx 0 else fn
  let len := s.arg fn mbx (o + 2)
  if 16 < v ∨ len < 112 then s.respond fn mbx rLimit [] else
  let l := s.throttleBytes v len
  match s.bulkPut fn (s.arg64 fn mbx o) l with
  | none => (s.logHostWrite fn).respond fn mbx rHostAccess []
  | some t => t.respond fn mbx rOk [l.length]

/-- R531, R529, R528: consumed life of the six dies, the retirement bits, and PWR_VOFS of the four island dies. -/
def execLifeQuery (fn mbx : Nat) (s : State) : Out :=
  s.cmd fn mbx 0x506 fun s =>
  s.respond fn mbx rOk ((List.range 6).map s.lifeOf ++ [s.rdF .PWR_OP 0 16 4] ++ (List.range 4).flatMap fun d => lohi (s.rdN .PWR_VOFS d))

/- Leases. -/

/-- SEQ is greater in 32-bit serial-number arithmetic (R495). -/
def seqGreater (a b : Nat) : Bool := let d := (a + 2 ^ 32 - b) % 2 ^ 32; decide (1 ≤ d ∧ d < 2 ^ 31)

/-- R494, R495. A write that does not cover 8 bytes is ignored. -/
def execLeaseWrite (bytes watts dur seq : Nat) (s : State) : Out :=
  onUnit s (decide (watts < 65536 ∧ dur < 65536 ∧ seq < 2 ^ 32)) <|
  if bytes ≠ 8 then s else
  let s := s.wrN .PWR_SB_LEASE 0 (watts + dur * 65536 + seq * 2 ^ 32)
  if dur = 0 || 10000 < dur || !(s.pwr.lastSeq.all (seqGreater seq)) then
    ((s.count .PWR_LEASE_REFUSED 0 1).hwSet .PWR_EVT 0 4 |>.wrF .PWR_SB_LSTAT 0 50 1 1).inBand
  else
    let w := max 420 (min 1250 watts)
    let late := if s.pwr.floor then some (s.pwr.lateLease.getD s.leaseTerm) else none
    let t := { s with pwr := { s.pwr with leaseW := w, leaseEnd := s.time + dur * 1000000, leased := true, lastSeq := some seq
                                          decayT := none, holdW := none, lateLease := late } }
    let t := ((t.wrN .PWR_LEASE_SEQ 0 seq).wrF .PWR_STATUS 0 0 2 1).hwSet .PWR_EVT 0 1
    let t := (t.wrF .PWR_SB_LSTAT 0 0 32 seq).wrF .PWR_SB_LSTAT 0 48 4 (1 + 8 * b2n (decide (watts < 420)))
    t.inBand.post 0 0x0502 ([w, seq] ++ lohi t.pwr.leaseEnd)

/-- R496. -/
def execLeaseExpiry (s : State) : Out :=
  .next <|
  if !s.pwr.leased then s else
  let falls := decide (s.safeW < s.pwr.leaseW)
  let t := { s with pwr := { s.pwr with
    leased := false, decayW := s.pwr.leaseW, decayT := if falls then some s.time else none
    holdW := if s.pwr.leaseW < s.safeW then some s.pwr.leaseW else none } }
  let t := (t.wrF .PWR_STATUS 0 0 2 (2 * b2n falls)).hwSet .PWR_EVT 0 2
  (t.wrF .PWR_SB_LSTAT 0 48 2 (2 * b2n falls)).post 0 0x0502 ([s.pwr.leaseW, s.rdN .PWR_LEASE_SEQ 0] ++ lohi s.pwr.leaseEnd)

/-- R496. -/
def execLeaseDecayEnd (s : State) : Out :=
  .next <|
  if s.pwr.decayT.isNone then s else
  ({ s with pwr := { s.pwr with decayT := none } }.wrF .PWR_STATUS 0 1 1 0).wrF .PWR_SB_LSTAT 0 49 1 0

/-- R491, R490: L, its reason, and forecasts equal to L while the MCP does not refresh its own. -/
def execLimitTick (s : State) : Out :=
  .next <|
  let l := s.limitNow
  let t := { s with pwr := { s.pwr with limit := l.1, bind := l.2 } }.wrN .PWR_LIMIT 0 (l.1 + l.2 * 65536)
  let t := t.wrF .PWR_SB_DEMAND 0 48 16 l.1
  if s.pwr.stale then (t.wrN .PWR_FORECAST 0 (l.1 * 65537)).wrF .PWR_SB_DEMAND 0 16 32 (l.1 * 65537) else t

/- Coolant. -/

/-- A temperature of a coolant write in 1/16 °C; one outside −10 to 80 °C is taken as 45 °C (R510). -/
def coolTemp (raw : Nat) : Int := let v := signed 16 raw; if -160 ≤ v ∧ v ≤ 1280 then v else 720

/-- R510, R513. -/
def execCoolantWrite (bytes inlet outlet flow : Nat) (motion holdup : Bool) (s : State) : Out :=
  onUnit s (decide (inlet < 65536 ∧ outlet < 65536 ∧ flow < 65536)) <|
  if bytes ≠ 8 then s else
  let s := s.wrN .PWR_SB_COOLANT 0 (inlet + outlet * 65536 + flow * 2 ^ 32 + b2n motion * 2 ^ 48 + b2n holdup * 2 ^ 49)
  let t := (s.wrF .PWR_STATUS 0 4 1 0).wrF .PWR_STATUS 0 7 2 (b2n motion + 2 * b2n holdup)
  (t.setCoolant (coolTemp inlet) (coolTemp outlet) flow).updGuard

/-- R510. -/
def execCoolantStale (s : State) : Out :=
  .next ((s.wrF .PWR_STATUS 0 4 1 1).setCoolant 720 (signed 16 (s.rdF .PWR_COOLANT 0 16 16)) 0)

/-- R510. -/
def execTrayFlagClear (s : State) : Out := .next (s.wrF .PWR_STATUS 0 7 2 0)

/- The power model. -/

/-- Set the flow request and announce it (R512, R494). -/
def State.setFlowReq (s : State) (q lead : Nat) : State :=
  let t := { s with pwr := { s.pwr with flowReq := q, reqLow := none } }.wrF .PWR_FLOW 0 16 16 q
  (t.wrN .PWR_SB_FLOWREQ 0 (q + lead * 65536 + (s.time + lead * 1000000) % 2 ^ 32 * 2 ^ 32)).inBand

/-- A rise is written with lead 200; a lower value only after it has held for 2 s (R512). -/
def State.flowRequest (s : State) (planPeak : Nat) : State :=
  let q := min 1400 (ceilDiv (11 * qReq planPeak s.pwr.inlet) 10)
  if s.pwr.flowReq < q then s.setFlowReq q 200
  else if q = s.pwr.flowReq then { s with pwr := { s.pwr with reqLow := none } }
  else match s.pwr.reqLow with
  | none => { s with pwr := { s.pwr with reqLow := some (q, s.time) } }
  | some (v, t0) => if t0 + 2000000000 ≤ s.time then s.setFlowReq (max v q) 0
      else { s with pwr := { s.pwr with reqLow := some (max v q, t0) } }

/-- The steps of a function in the scheduler's plans that run between two times from now (R286). -/
def State.plannedOf (s : State) (fn lo hi : Nat) : List StepMix :=
  (s.pwr.plans.filter fun e => e.1 / 65536 == fn).flatMap fun e =>
    e.2.filter fun x => decide (s.time + lo < x.start + x.tpred ∧ x.start ≤ s.time + hi)

/-- The power that an island is predicted to draw between two times from now (mW): by the power model where the plan covers its partition,
else what it draws now (R497; log entry 110). -/
def State.predictIsland (s : State) (lo hi i : Nat) : Nat :=
  let now := tabGet s.pwr.powerI 0 i
  let fn := s.islOwner i
  match s.plannedOf fn lo hi with
  | [] => now
  | l => l.foldl (fun m x => max m (tabGet s.pwr.mean now (meanKey fn x.phase (tabGet s.pwr.granted 5 (islDie i))))) 0

/-- The module's predicted draw between two times from now (W): the islands', and the measured draw outside them (R497). -/
def State.predictDraw (s : State) (lo hi : Nat) : Nat :=
  s.rdF .PWR_DRAW 0 16 16 + ceilDiv ((List.range 64).map (s.predictIsland lo hi)).sum 1000

/-- The plan covers the time up to n ns from now (R497). -/
def State.planCovers (s : State) (n : Nat) : Bool :=
  s.pwr.plans.any fun e => e.2.any fun x => decide (s.time + n ≤ x.start + x.tpred)

/-- The scheduler's plan holds a step that runs between two times from now. -/
def State.planHas (s : State) (lo hi : Nat) : Bool := s.boundVfs.any fun v => !(s.plannedOf v lo hi).isEmpty

/-- The highest draw predicted between two times from now: by the plan where it covers the time, else the highest 1-ms draw of the last
second (R497, R512). -/
def State.forecast (s : State) (lo hi : Nat) : Nat :=
  max (if s.planHas lo hi then s.predictDraw lo hi else 0) (if s.planCovers hi then 0 else s.peakDraw 1000000000)

/-- The scheduler's plan names a phase for a die within 100 µs that prefers a point (R506, R502). -/
def State.phaseSoon (s : State) (d op : Nat) : Bool :=
  s.boundVfs.any fun v => (s.diesOf v).contains d && (s.plannedOf v 0 100000).any fun x => s.phasePoint v x.phase == op

/-- R497, R512, R506: next is a die's faster point that the power model predicts to fit L, where the plan names a phase that wants
it. -/
def execPowerForecast (next : Option (Nat × Nat)) (s : State) : Out :=
  onUnit s (match next with | some (d, op) => decide (d < 4 ∧ op < 6) | none => true) <|
  let f1 := min 1250 (s.forecast 0 1000000000)
  let f10 := max f1 (min 1250 (s.peakDraw 10000000000))
  let t := { s with pwr := { s.pwr with stale := false } }.wrN .PWR_FORECAST 0 (f1 + f10 * 65536)
  let t := (t.wrF .PWR_SB_DEMAND 0 16 32 (f1 + f10 * 65536)).flowRequest (s.forecast 200000000 500000000)
  match next with
  | some (d, op) =>
    if s.phaseSoon d op && op < tabGet t.pwr.granted 5 d && !t.pwr.floor && !t.pwr.trip && !t.pwr.supply then
      { t with pwr := { t.pwr with preset := tabSet t.pwr.preset d (op, t.time) } } else t
  | none => t

/-- R490: forecasts equal the limit in force, and the flow request stays. -/
def execForecastStale (s : State) : Out :=
  .next <|
  let l := s.pwr.limit
  ({ s with pwr := { s.pwr with stale := true } }.wrN .PWR_FORECAST 0 (l * 65537)).wrF .PWR_SB_DEMAND 0 16 32 (l * 65537)

/- The actuator. -/

/-- What only lasted within the microsecond that ends: droop bubbles, and waits for the ramp governor (R88, R238, R522). -/
def State.endMicro (s : State) (i : Nat) : State :=
  let t := if (s.isl i).droopUs then s.updIsl i fun x => { x with droopUs := false } else s
  if t.rampWaits i then t else t.setReason i thrRamp false

/-- R498, R500, R493, R522, R523: one microsecond. draw, islandDraw and powers (one per island) are in mW, amps the input current in
10 mA. How far the current limit bubbles above 30 A is a free value (log entry 3). -/
def execDutyTick (draw islandDraw : Nat) (powers : List Nat) (amps : Nat) (s : State) : Out :=
  onUnit s (decide (powers.length = 64 ∧ amps < 65536)) <|
  let (w, s) := if 3000 < amps then s.free else (0, s)
  let cur := if 3000 < amps then w.toNat % 57 else 0
  let t := { s with pwr := { s.pwr with powerI := powers.zipIdx.map fun (e : Nat × Nat) => (e.2, e.1) } }
  let sp := t.split (s.pwr.limit * 1000 - (draw - islandDraw))
  let al := t.allocs sp
  let t := { t with pwr := { t.pwr with
    budget := (List.range 64).map fun i => (i, nextBudget (tabGet s.pwr.budget 0 i) (powers[i]?.getD 0) (tabFind al i)) } }.noteMicro
  let t := sp.foldl (fun (t : State) e => t.wrN .PWR_PH_SHARE e.1 (min 65535 (e.2 / 1000) + (t.prt e.1).budget * 65536)) t
  let t := (List.range 64).foldl (fun t i => t.islandDuty cur i) t
  let t := (List.range 17).foldl (fun t f => t.countReasons f) t
  let t := (List.range 64).foldl (fun t i => t.endMicro i) t
  ((t.averageDraw draw islandDraw).wrN .PWR_INPUT 0 (min 65535 s.pwr.mv + amps * 65536)).updGuard

/-- R524. -/
def execThrottleEndTimeout (fn reason : Nat) (s : State) : Out :=
  onUnit s (decide (fn ≤ 16 ∧ 1 ≤ reason ∧ reason ≤ 12)) <|
  let k := thrKey fn reason
  if (tabFind s.pwr.outSince k).isNone then s else
  let t := s.thrEntry fn reason true (tabGet s.pwr.thrMask 0 k)
  { t with pwr := { t.pwr with outSince := tabDel t.pwr.outSince k, thrMask := tabDel t.pwr.thrMask k } }

/-- A path-delay measurement runs on a die, and holds its point (R504). -/
def State.pdmRuns (s : State) (d : Nat) : Bool := (List.range 16).any fun k => s.rdF .ISL_PDM_CTL (16 * d + k) 0 1 == 1

/-- The point of a die that lies n steps below its requested point; an island above 105 °C keeps it at OP3 or slower (R503, R505,
R515). -/
def State.pointOf (s : State) (d n : Nat) : Nat :=
  let hot := (List.range 16).any fun k => tabGet s.pwr.junction 0 (16 * d + k) != 0
  max (if hot then 3 else 0) (min 5 (s.requestedOp d + n))

/-- The steps below the requested point that lead to a new point: as before, one more, or one fewer, where the budget duty has averaged
what R505 asks for; that the faster point fits L is the firmware's prediction. -/
def State.newSlow (s : State) (d op : Nat) : Option (Nat × Nat) :=
  let (n, r) := tabGet s.pwr.slow (0, 0) d
  if s.pointOf d n = op then some (n, r)
  else if s.pointOf d (n + 1) = op then (if s.slowDue d then some (n + 1, s.pwr.bind) else none)
  else if n ≠ 0 ∧ s.pointOf d (n - 1) = op ∧ s.fastDue d then some (n - 1, r) else none

/-- R503 to R507: the new point follows the requested one, or R505 moves it by one step; a faster one waits for the supply floor or a
trip to end, and any switch for a path-delay measurement. -/
def execOpGrantChange (die op : Nat) (s : State) : Out :=
  onUnit s (decide (die < 4 ∧ op < 6)) <|
  let old := tabGet s.pwr.granted 5 die
  match s.newSlow die op with
  | none => s
  | some x =>
    if op = old || s.pdmRuns die || (decide (op < old) && (s.pwr.floor || s.pwr.trip || s.pwr.supply)) then s else
    let t := if x.1 = (tabGet s.pwr.slow (0, 0) die).1 then s else s.clearHist die
    let t := { t with pwr := { t.pwr with slow := tabSet t.pwr.slow die x, preset := tabDel t.pwr.preset die } }.setOp die op
    let t := t.syncMargin
    (t.boundVfs.filter fun v => t.hasActive v && (t.diesOf v).contains die).foldl (fun t v =>
      if (t.diesOf v).all fun d => tabGet t.pwr.granted 5 d == t.requestedOp d then t.wrN .PWR_PH_SWITCH_T v t.time else t) t

/-- R506. -/
def execRailPresetExpiry (die : Nat) (s : State) : Out :=
  onUnit s (decide (die < 4)) { s with pwr := { s.pwr with preset := tabDel s.pwr.preset die } }

/- Temperature and supply. -/

/-- The hottest of some temperatures. -/
def hottest (l : List Int) : Int := l.foldl max (l.headD 0)

/-- Junction control of one island (R515). -/
def State.junctionIsland (s : State) (i : Nat) (v : Int) : State :=
  let t := { s with pwr := { s.pwr with temps := tabSet s.pwr.temps i v } }.wrF .ISL_HOTSPOT i 0 16 (unsignedOf 16 (v * 16))
  let was := tabGet s.pwr.junction 0 i
  let t := { t with pwr := { t.pwr with junction := tabSet t.pwr.junction i (if 105 ≤ v then 56 else if v < 102 then 0 else was) } }
  if v < 105 then t else
  let t := if was = 0 then t.hwSet .PWR_EVT 0 64 else t
  let t := if tabGet t.pwr.inForce 0 i < 56 then (t.setDuty i 56).setReason i thrJunction true else t
  if tabGet t.pwr.granted 5 (islDie i) < 3 then t.setOp (islDie i) 3 else t

/-- Hub and media junction control moves L by 50 W every 100 µs (R515). -/
def State.junctionHub (s : State) (v : Int) : State :=
  if s.time < s.pwr.hubT + 100000 then s else
  if 105 ≤ v then { s with pwr := { s.pwr with hubDrop := min 830 (s.pwr.hubDrop + 50), hubT := s.time } }
  else if v < 102 ∧ s.pwr.hubDrop ≠ 0 then { s with pwr := { s.pwr with hubDrop := s.pwr.hubDrop - 50, hubT := s.time } } else s

/-- R515, R516: one reading of every island and of the hub and media dies, in °C. -/
def execJunctionScan (islands : List Int) (hub media : Int) (s : State) : Out :=
  onUnit s (decide (islands.length = 64)) <|
  let t := islands.zipIdx.foldl (fun t e => t.junctionIsland e.2 e.1) s
  let t := t.junctionHub (max hub media)
  let dies := ((List.range 4).map fun d => hottest ((islands.drop (16 * d)).take 16)) ++ [hub, media]
  let t := dies.zipIdx.foldl (fun t e => t.wrF .PWR_TJ 0 (8 * e.2) 8 (unsignedOf 8 e.1)) t
  let hot := hottest dies
  let t := { t with pwr := { t.pwr with coolT := if hot ≤ 90 then some (t.pwr.coolT.getD t.time) else none } }
  (if 115 ≤ hot && !t.pwr.trip then t.tripNow false else t).updGuard

/-- R517: every die has stayed at or below 90 °C for 5 s, and L is at least 500 W; failed names the cores that fail self-test. -/
def execTripExit (failed : List Nat) (s : State) : Out :=
  onUnit s (failed.all fun k => decide (k < 64 * 66)) <|
  if !s.pwr.trip || s.limitNow.1 < 500 then s else
  ({ s with pwr := { s.pwr with trip := false } }.wrF .PWR_STATUS 0 5 1 0).tripOver failed

/-- R517, R519. -/
def execTripHoldTimeout (s : State) : Out :=
  .next (if s.pwr.supply then s.endHeld rAborted else if s.pwr.trip then s.endHeld rThermal else s)

/-- R518: the floor takes force within 20 µs. -/
def execPwrWarnAssert (s : State) : Out :=
  .next <|
  let t := { s with pwr := { s.pwr with warn := true, warnMin := true, floor := true } }.wrF .PWR_STATUS 0 2 1 1
  ((List.range 64).foldl (fun t i => (t.setDuty i (max 56 (tabGet t.pwr.inForce 0 i))).setReason i thrSupply true)
    (t.hwSet .PWR_EVT 0 8)).updGuard

/-- R518. -/
def execPwrWarnDeassert (s : State) : Out :=
  .next <|
  let t := { s with pwr := { s.pwr with warn := false } }
  if s.pwr.warnMin then t else t.floorEnd

/-- R518. -/
def execWarnFloorEnd (s : State) : Out :=
  .next <|
  let t := { s with pwr := { s.pwr with warnMin := false } }
  if s.pwr.warn then t else t.floorEnd

/-- R519: the input, in mV, has stayed outside 44 to 60 V for 50 µs. -/
def execInputOutOfRange (mv : Nat) (s : State) : Out :=
  onUnit s (decide (mv < 2 ^ 16)) <|
  if 44000 ≤ mv ∧ mv ≤ 60000 then s else
  let t := { s with pwr := { s.pwr with mv := mv } }.wrF .PWR_INPUT 0 0 16 mv
  if t.pwr.supply then t else t.tripNow true

/-- R519, R517: the input has stayed within 48 to 58 V for 1 s. -/
def execSupplyStopExit (mv : Nat) (failed : List Nat) (s : State) : Out :=
  onUnit s (failed.all fun k => decide (k < 64 * 66)) <|
  if !s.pwr.supply || mv < 48000 || 58000 < mv || s.pwr.warn || s.pwr.trip then s else
  let t := { s with pwr := { s.pwr with supply := false, mv := mv } }.wrF .PWR_INPUT 0 0 16 mv
  (t.wrF .PWR_STATUS 0 6 1 0).tripOver failed

/-- R519: 58 to 60 V. -/
def execSupplyExcursion (mv : Nat) (s : State) : Out :=
  onUnit s (decide (mv < 2 ^ 16)) <|
  if mv ≤ 58000 ∨ 60000 < mv then s else
  ({ s with pwr := { s.pwr with mv := mv } }.wrF .PWR_INPUT 0 0 16 mv).log 4 0x11 0 0 0x62 0x1F 0 0 mv 0

/- Ageing and life. -/

/-- R527: the 128 monitors of a die's islands are measured at its granted point; the lowest margin of the week is kept. -/
def execMarginMeasure (die : Nat) (taps : List Nat) (s : State) : Out :=
  onUnit s (decide (die < 4 ∧ taps.length = 128) && taps.all fun v => decide (v < 4096)) <|
  let op := tabGet s.pwr.granted 5 die
  let t := taps.zipIdx.foldl (fun t e =>
    t.wrN (pdmReg (e.2 % 8)) (16 * die + e.2 / 8) (e.1 + 4096 * (op % 8) + 32768)) s
  let t := (List.range 16).foldl (fun t k => (t.wrF .ISL_PDM_CTL (16 * die + k) 0 1 0).hwSet .ISL_EVT (16 * die + k) 64) t
  let low := taps.foldl min (tabGet s.pwr.lowMargin 0x3FF (die * 8 + op))
  { t with pwr := { t.pwr with lowMargin := tabSet t.pwr.lowMargin (die * 8 + op) low } }.showMargin die

/-- R528, R529, R151: the eyes tell whether 24, 20 and 16 Gb/s pass their margin. -/
def execWeeklyCheck (eye24 eye20 eye16 : Bool) (s : State) : Out :=
  .next <|
  let t := (List.range 4).foldl (fun t d => (List.range 6).foldl (fun t k => t.weeklyPoint d k) t) s
  let t := { t with pwr := { t.pwr with lowMargin := [] }, pln := { t.pln with rateOk := b2n eye24 + 2 * b2n eye20 + 4 * b2n eye16 } }
  ((List.range 4).foldl State.showMargin t).syncMargin

/-- R530, R531: the hottest junction of each die in °C, and the dies whose hour at or above 95 °C is complete. The counts go to the store
every hour. -/
def execRainflowSample (temps : List Int) (hourHot : List Nat) (s : State) : Out :=
  onUnit s (decide (temps.length = 6) && hourHot.all fun d => decide (d < 6)) <|
  let t := temps.zipIdx.foldl (fun t e => t.lifeSample e.2 e.1 (hourHot.contains e.2)) s
  if t.pwr.lifeT + 3600000000000 ≤ t.time then t.keepLife else t

end Sys2Proof.Machine
end

