-- ==== Sys2Proof/Machine/Ras.lean ====
section
/-! DEFINITION. Commands on errors, hangs, resets and crash dumps (09 R364 group 0x6xx, 15). -/

namespace Sys2Proof.Machine

open Sys2Proof

/-- The severities that R541 gives a class; none for a reserved code. -/
def classSevs (c : Nat) : List Nat :=
  if [0x01, 0x03, 0x05, 0x10, 0x16, 0x20, 0x38, 0x42, 0x43, 0x44, 0x45, 0x46, 0x6A, 0x78, 0x7C].contains c then [1]
  else if [0x02, 0x04, 0x06, 0x07, 0x08, 0x11, 0x12, 0x13, 0x21, 0x28, 0x29, 0x30, 0x31, 0x41, 0x50, 0x51, 0x68, 0x69, 0x71, 0x73].contains c
    then [2]
  else if [0x14, 0x15, 0x18, 0x33, 0x62, 0x63, 0x70, 0x72, 0xF0].contains c then [0]
  else if [0x17, 0x32, 0x39, 0x60, 0x61, 0x74, 0x75].contains c then [3]
  else if c = 0x40 then [1, 2] else []

/-- R542 to R547: a report reaches the log; its source and class are those of R539 to R541. An uncorrectable error of hub SRAM asks
for a chip reset (R558). -/
def execErrorReport (rep : Rep) (s : State) : Out :=
  onUnit s (decide (rep.die < 7 ∧ rep.unit ≤ 0x1B ∧ rep.inst < 256 ∧ rep.sub < 256) && (classSevs rep.cls).contains rep.sev) <|
  let t := s.report rep
  if rep.cls = 0x39 then t.askChipDump 12 else t

/-- R549: moved names the nodes that the detector saw make progress since its last scan. -/
def execHangScan (moved : List Nat) (s : State) : Out :=
  .next (if s.rdF .RAS_STATUS 0 0 1 = 1 then s.hangScan moved else s)

/- Watchdogs. -/

/-- A watchdog expires. -/
def State.watchdog (s : State) : State := (s.count .RAS_WDOG 0 1).hwSet .RAS_EVT 0 16

/-- R553, R564: the limit is 10 ms for a suspect in replay. -/
def execCoreProgressWatchdog (gid : Nat) (s : State) : Out :=
  onUnit s (decide (gid < 32768)) <|
  let t := s.th gid
  if t.st != .run || !s.ctxHangs t.ctx then s else
  let u := s.watchdog.logCore (thIsl gid) (thCore gid % 64) 0x31 2 0 0 t.ctx
  if u.ras.replaying = some t.ctx then { u with ras := { u.ras with replayHung := true } }
  else u.stopCtx t.ctx .watchdog (some (srcIsland (thIsl gid)))

/-- An engine of R554. -/
def isEngine (src : Nat) : Bool :=
  let d := bits src 0 3
  let n := bits src 8 8
  decide (src < 65536) && match bits src 3 5 with
  | 0 => decide (d < 4 ∧ n < 16)
  | 4 => decide (d < 4 ∧ n < 4)
  | 5 => decide (d < 4 ∧ n = 0)
  | 0x13 => decide (d = 5 ∧ n < 8)
  | 0x14 => decide (d = 5 ∧ n < 4)
  | 0x15 | 0x16 => decide (d = 5 ∧ n = 0)
  | _ => false

/-- R553: a unit still works for a context that is being reset. -/
def execUnitStopWatchdog (src : Nat) (s : State) : Out :=
  onUnit s (isEngine src) <|
  if !(s.fab.ctxs.any fun e => e.2.why.isSome && s.worksOn src e.1 e.2) then s else
  let t := s.watchdog.log (bits src 0 3) (bits src 3 5) (bits src 8 8) 0 0x31 (s.srcOwner src) 2 0 0 0
  (t.askReset (.engine src 3)).wantDump 1

/-- R553: the engine holds a picture. -/
def execVideoEngineWatchdog (eng : Nat) (s : State) : Out :=
  onUnit s (decide (eng < 12)) <|
  if !(s.vid.streams.any fun e => e.2.eng == eng && !e.2.queue.isEmpty) then s else
  let src := srcVideo eng
  let t := s.watchdog.log 5 (bits src 3 5) (bits src 8 8) 0 0x50 (s.srcOwner src) 2 0 0 0
  (t.askReset (.engine src 3)).wantDump 1

/-- R553: no dump precedes the reset (R567). -/
def execMcpWatchdog (s : State) : Out :=
  .next <|
  if s.upd.stage == .window || s.fnState 0 == fnBooting then s else
  (s.watchdog.log 4 9 0 0 0x32 0x1F 3 0 0 0).askChip 10

/- Resets and replays. -/

/-- R554, R569. -/
def execEngineReset (src cause : Nat) (failed : List Nat) (s : State) : Out :=
  onUnit s (isEngine src && failed.all fun k => decide (k < 64 * 66)) <|
  if !s.ras.resets.contains (.engine src cause) || (engineCounted cause && s.dumpHolds 1) then s
  else s.dueEngine src cause failed

/-- R557: the request is raised again with the next SEQ and a new interrupt. -/
def execPowerCycleRerequest (s : State) : Out :=
  .next <|
  if s.rdF .RAS_STATUS 0 4 1 = 0 then s else
  let n := s.ras.cycSeq + 1
  let t := { s with ras := { s.ras with cycSeq := n }, brd := { s.brd with ibi := s.brd.ibi + 1 } }
  (t.wrF .RAS_SB_CYCLE 0 32 32 n).hwSet .RAS_EVT 0 2048

/-- R564: one suspect at a time, the first in start order. -/
def execSuspectReplayStart (s : State) : Out :=
  .next <|
  match s.ras.replaying, s.ras.suspects with
  | none, c :: _ => s.startReplay c
  | _, _ => s

/-- R564, R565: the replay ends; a suspect that hung in it is quarantined. -/
def execSuspectReplayEnd (s : State) : Out :=
  .next <|
  match s.ras.replaying with
  | none => s
  | some c =>
    let t := if s.ras.replayHung then s.quarantineCtx c else s
    { t with ras := { t.ras with replaying := none, replayHung := false
                                 suspects := t.ras.suspects.filter (· != c) } }.replaysOver

/- Crash dumps. -/

/-- R567: domain is that of the reset that asks for it, 5 for a FATAL entry that has none; a dump due in a handover window begins
when the window closes. -/
def execCrashDumpStart (trigger domain : Nat) (s : State) : Out :=
  onUnit s (decide (trigger < 2 ^ 32 ∧ 1 ≤ domain ∧ domain ≤ 5)) <|
  if s.upd.stage == .window then s
  else if domain = 5 then (if s.ras.log.any (fun e => e.sev == 3 && !e.prior) then s.triggerDump trigger 5 else s)
  else if s.ras.needDump.contains domain then s.triggerDump trigger domain else s

/-- R568. -/
def execDumpUnitTimeout (src : Nat) (s : State) : Out :=
  onUnit s (decide (src < 2 ^ 24)) <|
  match s.ras.collecting with
  | none => s
  | some k => s.updDump k fun d => { d with sections := d.sections ++ [(src, 1)], partialDump := true }

/-- R568: the units that are left; none where every unit was read before the deadline. -/
def execDumpDeadline (left : List Nat) (s : State) : Out :=
  onUnit s (left.all fun u => decide (u < 2 ^ 24)) (s.endCollect left)

/-- R569, R570. -/
def execDumpWriteDone (slot : Nat) (s : State) : Out :=
  onUnit s (decide (slot < 4)) <|
  if (tabGet s.ras.dumps {} slot).st ≠ 2 then s else (s.updDump slot fun d => { d with st := 3 }).hwSet .RAS_EVT 0 512

/-- R570, R363: part of a slot, at most its LENGTH. -/
def execDumpRead (fn mbx : Nat) (s : State) : Out :=
  s.cmd fn mbx 0x602 fun s =>
  let k := s.arg fn mbx 0
  let d := tabGet s.ras.dumps {} k
  if 4 ≤ k then s.respond fn mbx rLimit []
  else if d.st = 0 then s.respond fn mbx rNotFound []
  else if d.st ≠ 3 then s.respond fn mbx rBusy []
  else
    let n := min (s.arg fn mbx 3) d.len
    let t := s.accept fn mbx
    match t.bulkPut fn (s.arg64 fn mbx 1) ((List.range n).map d.byte) with
    | some t => t.cmdDone fn mbx 0x602 rOk [n]
    | none => (t.logHostWrite fn).cmdDone fn mbx 0x602 rHostAccess []

/-- R570. -/
def execDumpClear (fn mbx : Nat) (s : State) : Out :=
  s.cmd fn mbx 0x603 fun s =>
  let k := s.arg fn mbx 0
  let st := (tabGet s.ras.dumps {} k).st
  if 4 ≤ k then s.respond fn mbx rLimit []
  else if st = 1 ∨ st = 2 then s.respond fn mbx rBusy []
  else (s.updDump k fun _ => {}).respond fn mbx rOk []

/- Commands on the log, the ladder and the page table. -/

/-- Release n entries (R538). -/
def State.logRelease (s : State) (n : Nat) : State :=
  let n := min n s.logHeld
  let t := { s with ras := { s.ras with log := s.ras.log.drop n } }
  (t.wrN .RAS_LOG_ACK 0 ((s.rdN .RAS_LOG_ACK 0 + n) % 2 ^ 32)).syncLogFull

/-- The bytes of a log entry (R539). -/
def LogEnt.bytes (e : LogEnt) : List Byte :=
  natLe e.time 8 ++ natLe (e.die + e.unit * 8 + e.inst * 256 + e.sub * 65536 + e.cls * 2 ^ 24) 4 ++
  natLe (e.count + e.func * 65536 + e.sev * 2 ^ 21 + b2n e.prior * 2 ^ 23) 4 ++ natLe e.addr 8 ++ natLe e.synd 4 ++ natLe e.ctx 4

/-- Entries that an index lies beyond the oldest held one, modulo 2^32; 0 for an index behind it (R537). -/
def logAhead (f ack : Nat) : Nat := let d := (f + 2 ^ 32 - ack) % 2 ^ 32; if d < 2 ^ 31 then d else 0

/-- R538. -/
def execLogRead (fn mbx : Nat) (s : State) : Out :=
  s.cmd fn mbx 0x600 fun s =>
  let f := s.arg fn mbx 0
  let t := s.logRelease (logAhead f (s.rdN .RAS_LOG_ACK 0))
  let es := t.ras.log.take (s.arg fn mbx 1)
  match t.bulkPut fn (s.arg64 fn mbx 2) (es.flatMap LogEnt.bytes) with
  | none => (s.logHostWrite fn).respond fn mbx rHostAccess []
  | some t => t.respond fn mbx rOk [es.length, (t.rdN .RAS_LOG_ACK 0 + es.length) % 2 ^ 32]

/-- R538. -/
def execLogClear (fn mbx : Nat) (s : State) : Out :=
  s.cmd fn mbx 0x601 fun s => (s.logRelease s.logHeld).respond fn mbx rOk []

/-- R561. -/
def execRasSetPolicy (fn mbx : Nat) (s : State) : Out :=
  s.cmd fn mbx 0x604 fun s =>
  let r := s.arg fn mbx 0
  let c := s.arg fn mbx 1
  let w := s.arg fn mbx 2
  if !([0, 1, 2, 3, 4, 8, 9, 10].contains r) || c = 0 || 65535 < c || w = 0 || 604800 < w then s.respond fn mbx rLimit []
  else { s with ras := { s.ras with policy := tabSet s.ras.policy r (c, w) } }.respond fn mbx rOk []

/-- PgState codes of R162. -/
def PgState.code : PgState → Nat
  | .unwritten => 0 | .written => 1 | .retired => 2 | .quarantined => 3

/-- The bytes of a page state entry (R162). -/
def Page.bytes (p : Page) : List Byte :=
  natLe (p.owner + p.st.code * 256 + b2n p.kvc * 1024 + b2n p.migrating * 2048 + p.ce * 65536 + p.epoch * 2 ^ 32) 8

/-- R162. -/
def execPageStateRead (fn mbx : Nat) (s : State) : Out :=
  s.cmd fn mbx 0x605 fun s =>
  let a := s.arg fn mbx 0
  let n := s.arg fn mbx 1
  if 1835008 < a + n then s.respond fn mbx rLimit []
  else match s.bulkPut fn (s.arg64 fn mbx 2) ((List.range n).flatMap fun k => (s.page (a + k)).bytes) with
  | none => (s.logHostWrite fn).respond fn mbx rHostAccess []
  | some t => t.respond fn mbx rOk [n]

/-- R80, R558: self-test is an engine reset of the island that counts for nothing. failed names the cores that failed. -/
def execSelftest (fn mbx : Nat) (failed : List Nat) (s : State) : Out :=
  s.cmd fn mbx 0x606 fun s =>
  if !(failed.all fun k => decide (k < 64 * 66)) then s else
  let i := s.arg fn mbx 0
  if s.badLimit fn mbx 0x606 then s.respond fn mbx rLimit [] else
  let is := if i = 0xFFFF then List.range 64 else [i]
  let t := is.foldl (fun t k => t.engineReset (srcIsland k) 5 true failed) (s.accept fn mbx)
  t.cmdDone fn mbx 0x606 rOk [(is.map fun k => (failedOn failed k).length).sum]

/-- R558, R562: an uncounted chip reset. -/
def execChipReset (fn mbx : Nat) (s : State) : Out :=
  s.cmd fn mbx 0x607 fun s => (s.accept fn mbx).askChip 5

/-- R562: RAS_LADDER, the reset counters in the order of R571, and the reason (log entry 47). -/
def execRasQuery (fn mbx : Nat) (s : State) : Out :=
  s.cmd fn mbx 0x608 fun s =>
  s.respond fn mbx rOk [(s.view .RAS_LADDER 0).toNat, s.rdN .RAS_CTX_RESETS 0, s.rdN .RAS_ENG_RESETS 0, s.rdN .RAS_PART_RESETS 0,
    s.rdN .RAS_OOS 0]

end Sys2Proof.Machine
end

