-- ==== Sys2Proof/Machine/Security.lean ====
section
/-! DEFINITION. Commands on trust (09 R364 group 0x7xx, 12): status, certificates, the owner lock, debug sessions, the TRNG and the alias
key, and the firmware's start (R372). -/

namespace Sys2Proof.Machine

open Sys2Proof

/-- R372. -/
def execFirmwareReady (s : State) : Out :=
  .next (if s.brd.powered && !s.sec.recovery && s.fnState 0 == fnBooting then s.firmwareReady.spdmGo else s)

/-- R439: the requests that waited for the alias key are answered. -/
def execAliasKeyReady (s : State) : Out :=
  .next <|
  if !s.brd.powered || s.sec.aliasReady || s.sec.trngFailed then s
  else s.aliasMade.spdmGo

/-- R364: the key epoch of PF0 is that of the firmware's pages. -/
def execSecStatus (fn mbx : Nat) (s : State) : Out :=
  s.cmd fn mbx 0x700 fun s =>
  s.respond fn mbx rOk [s.rdF .SEC_STATUS 0 2 1, s.rdF .SEC_STATUS 0 4 1, s.svnCounter,
    if isPf0 fn then s.pln.bootEpoch else (s.prt fn).epoch]

/-- R444: cert is the certificate of the index that the command names. -/
def execSecCertGet (fn mbx : Nat) (cert : List Byte) (s : State) : Out :=
  s.cmd fn mbx 0x701 fun s =>
  if 4 < s.arg fn mbx 0 ∨ s.arg fn mbx 3 < cert.length then s.respond fn mbx rLimit []
  else match s.bulkPut fn (s.arg64 fn mbx 1) cert with
  | some t => t.respond fn mbx rOk [cert.length]
  | none => (s.logHostWrite fn).respond fn mbx rHostAccess []

/- The owner lock. -/

/-- The SHA-256 of a token's key: its modulus and exponent (R465). -/
def tokenKey (l : List Byte) : Nat := (Config.digest (((l.drop 0x40).take 388).map (·.toNat))).toNat

/-- A token is valid for a command whose ACTION values are given (R465, R466). -/
def State.tokenOk (s : State) (l : List Byte) (sigOk : Bool) (actions : List Nat) : Bool :=
  sigOk && hdr l 0 4 == 0x4B434C4F && hdr l 8 8 == s.rdN .RAS_SB_SERIAL 0 && decide (s.sec.ownerSeq < hdr l 0x10 8) &&
  actions.contains (hdr l 4 4) &&
  (match s.sec.ownerKey with | some k => k == tokenKey l | none => hdr l 4 4 == 1)

/-- OWNER_LOCK and OWNER_ENROLLED take new values (R466, R470, R471). -/
def State.setOwner (s : State) (lock : Bool) (key : Option Nat) : State :=
  let t := { s with sec := { s.sec with ownerKey := key } }.wrF .SEC_STATUS 0 3 1 (b2n key.isSome)
  if t.rdF .SEC_STATUS 0 2 1 = b2n lock then t else (t.wrF .SEC_STATUS 0 2 1 (b2n lock)).hwSet .SEC_EVT 0 8

/-- What the checks of a token answer before its effect; none where it is valid. -/
def State.tokenCode (s : State) (len : Nat) (token : Option (List Byte)) (sigOk : Bool) (actions : List Nat) : Option Nat :=
  if len ≠ 896 then some rLimit else
  match token with
  | none => some rHostAccess
  | some l => if s.tokenOk l sigOk actions then none else some rBadToken

/-- A token is refused; BAD_TOKEN sets its bit (R466). -/
def State.refuseToken (s : State) (fn mbx code : Nat) : State :=
  (if code = rBadToken then s.hwSet .SEC_EVT 0 4 else if code = rHostAccess then s.bulkFail fn else s).respond fn mbx code []

/-- R465, R466, R480. -/
def execOwnerLock (fn mbx : Nat) (token : Option (List Byte)) (sigOk : Bool) (s : State) : Out :=
  s.cmd fn mbx 0x702 fun s =>
  match s.tokenCode (s.arg fn mbx 2) token sigOk [1] with
  | some code => s.refuseToken fn mbx code
  | none =>
    let l := token.getD []
    let t := s.setOwner true (some (tokenKey l))
    ({ t with sec := { t.sec with ownerSeq := hdr l 0x10 8 } }.respond fn mbx rOk []).updGuard

/-- R465, R466: ACTION 3 also removes the key. -/
def execOwnerUnlock (fn mbx : Nat) (token : Option (List Byte)) (sigOk : Bool) (s : State) : Out :=
  s.cmd fn mbx 0x703 fun s =>
  match s.tokenCode (s.arg fn mbx 2) token sigOk [2, 3] with
  | some code => s.refuseToken fn mbx code
  | none =>
    let l := token.getD []
    let t := s.setOwner false (if hdr l 4 4 = 3 then none else s.sec.ownerKey)
    { t with sec := { t.sec with ownerSeq := hdr l 0x10 8 } }.respond fn mbx rOk []

/- Debug. -/

/-- A session of a kind opens (R462, R464). -/
def State.openDebug (s : State) (kind : Nat) : State :=
  let t := if s.rdF .SEC_STATUS 0 4 1 = 1 then s else (s.wrF .SEC_STATUS 0 4 1 1).wrN .SEC_DEBUG_FIRST 0 s.time
  (((t.wrF .SEC_DEBUG 0 kind 1 1).wrF .SEC_DEBUG 0 (8 + kind) 1 1).hwSet .SEC_EVT 0 1)

/-- Sessions of the kinds in a mask close (R462, R471). -/
def State.closeDebug (s : State) (mask : Nat) : State :=
  let o := s.rdF .SEC_DEBUG 0 0 3
  if Nat.land o mask = 0 then s else (s.wrF .SEC_DEBUG 0 0 3 (o - Nat.land o mask)).hwSet .SEC_EVT 0 2

/-- R462, R464. -/
def execDebugOpen (fn mbx : Nat) (s : State) : Out :=
  s.cmd fn mbx 0x704 fun s =>
  let k := s.arg fn mbx 0
  if 2 < k then s.respond fn mbx rLimit [] else (s.openDebug k).respond fn mbx rOk []

/-- R462. -/
def execDebugClose (fn mbx : Nat) (s : State) : Out :=
  s.cmd fn mbx 0x705 fun s => (s.closeDebug 7).respond fn mbx rOk []

/-- The bytes that a session reads (R463). -/
def State.dbgRead (s : State) (r : DbgRef) : List Byte :=
  match r with
  | .sram c o n => memRead s.fab.lsram (c * 2 ^ 18 + o) n
  | .store i o n => memRead s.fab.istore (i * isBytes + o) n
  | .plain fn a n => s.readBytes fn 0 0 (plainBase + a) n
  | .x g r => natLe ((s.th g).xr r).toNat 8
  | .f g r => natLe (tabGet (s.th g).f 0 r).toNat 4
  | .v g r => natLe ((s.th g).vr r).toNat 64
  | .pc g => natLe (s.th g).pc.toNat 8
  | .trace g => natLe (tabGet s.fab.traceT 0 g) 8 ++ natLe (tabGet s.fab.traceDrops 0 (s.thFn g)) 8
  | .reg fn off => match s.regAt fn off with
    | some (_, r, i) => natLe (s.view r i).toNat (r.info.width / 8)
    | none => []

/-- A session changes memory or a thread's registers (R463; log entry 105). -/
def State.dbgWrite (s : State) (r : DbgRef) (l : List Byte) : State :=
  match r with
  | .sram c o n => { s with fab := { s.fab with lsram := memWrite s.fab.lsram (c * 2 ^ 18 + o) (l.take n) } }
  | .store i o n => { s with fab := { s.fab with istore := memWrite s.fab.istore (i * isBytes + o) (l.take n) } }
  | .plain fn a n => s.writeBytes fn 0 0 (plainBase + a) false (l.take n)
  | .x g r => s.updTh g (·.setX r (w64 (leNat l)))
  | .f g r => s.updTh g (·.setF r (leNat l))
  | .v g r => s.updTh g fun t => { t with v := tabSet t.v r (BitVec.ofNat 512 (leNat l)) }
  | .pc g => s.updTh g fun t => { t with pc := w64 (leNat l) }
  | .trace _ | .reg _ _ => s

/-- The place exists. -/
def dbgOk (r : DbgRef) : Bool :=
  match r with
  | .sram c o n => decide (c < 4096 ∧ o + n ≤ lsBytes)
  | .store i o n => decide (i < 64 ∧ o + n ≤ isBytes)
  | .plain fn _ _ => decide (1 ≤ fn ∧ fn ≤ 16)
  | .x g r | .f g r | .v g r => decide (g < 32768 ∧ r < 32)
  | .pc g | .trace g => decide (g < 32768)
  | .reg fn off => decide (fn ≤ 16 ∧ off < 65536)

/-- Every place that an instruction names exists. -/
def jtagOk (c : JtagOp) : Bool := match c with | .read r | .write r _ => dbgOk r | _ => true

/-- R462, R463: an instruction other than IDCODE and BYPASS opens a session, which reaches what it names. The spec gives no IDCODE value, so
it is a free value (log entry 55). -/
def execJtagInstruction (code : JtagOp) (s : State) : Out :=
  onUnit s (jtagOk code) <|
  let s := { s with brd := { s.brd with jtagTlr := false } }
  match code with
  | .idcode =>
    let (w, t) := s.free
    { t with reply := .jtag (w.toNat % 2 ^ 32) }
  | .bypass => s
  | .other => s.openDebug 0
  | .read r => { s.openDebug 0 with reply := .bytes ((s.openDebug 0).dbgRead r) }
  | .write r l => (s.openDebug 0).dbgWrite r l

/-- R462: 1 ms in Test-Logic-Reset. -/
def execJtagTlrTimeout (s : State) : Out := .next (if s.brd.jtagTlr then s.closeDebug 1 else s)

/-- R612: the JTAG TAP only. -/
def execJtagTapReset (s : State) : Out := .next { s with brd := { s.brd with jtagTlr := true } }

/- The TRNG. -/

/-- R468, R470, R471. -/
def execTrngHealthFail (s : State) : Out :=
  .next <|
  let t := { s with sec := { s.sec with trngFailed := true } }.wrF .SEC_STATUS 0 5 1 0
  ((t.hwSet .SEC_EVT 0 32).count .SEC_TRNG_FAIL 0 1).log 4 0x10 0 0 0x68 0x1F 2 0 0 0

/-- R468: draws resume and the work that waited goes on, or the module enters OUT_OF_SERVICE. -/
def execTrngRetest (ok : Bool) (s : State) : Out :=
  .next <|
  if !s.sec.trngFailed then s
  else if !ok then s.enterOos 3
  else
    let t := { s with sec := { s.sec with trngFailed := false } }.wrF .SEC_STATUS 0 5 1 1
    (t.part.scrubs.foldl (fun (u : State) e => u.scrubGo e.1) t).spdmGo

end Sys2Proof.Machine
end

