-- ==== Sys2Proof/Machine/Spdm.lean ====
section
/-! DEFINITION. SPDM requests over DOE on PF0 or MCTP on the tray sideband (12 R451 to R460); doe names the transport. -/

namespace Sys2Proof.Machine

open Sys2Proof

/-- R451. -/
def execSpdmGetVersion (doe : Bool) (s : State) : Out := .next (s.spdm doe .version)

/-- R452. -/
def execSpdmGetCapabilities (doe : Bool) (s : State) : Out := .next (s.spdm doe .capabilities)

/-- R453: each operand says that its row has a common value. -/
def execNegotiateAlgorithms (doe : Bool) (asym hash meas dhe aead sched : Bool) (s : State) : Out :=
  .next (s.spdm doe (.algorithms (asym && hash && meas && dhe && aead && sched)))

/-- R443, R460. -/
def execGetDigests (doe : Bool) (s : State) : Out := .next (s.spdm doe .digests)

/-- R443, R438. -/
def execGetCertificate (doe : Bool) (slot off len : Nat) (s : State) : Out := .next (s.spdm doe (.certificate slot off len))

/-- R453, R438. -/
def execChallenge (doe : Bool) (slot : Nat) (s : State) : Out := .next (s.spdm doe (.challenge slot))

/-- R455. -/
def execGetMeasurements (doe : Bool) (index : Nat) (s : State) : Out := .next (s.spdm doe (.measurements index))

/-- R454, R468. -/
def execKeyExchange (doe : Bool) (s : State) : Out := .next (s.spdm doe .keyExchange)

/-- R452: ok is that the finish verifies. -/
def execFinish (doe : Bool) (session : Nat) (ok : Bool) (s : State) : Out := .next (s.spdm doe (.finish session ok))

/-- R454. -/
def execSpdmHeartbeat (doe : Bool) (session : Nat) (s : State) : Out := .next (s.spdm doe (.heartbeat session))

/-- R452. -/
def execKeyUpdate (doe : Bool) (session : Nat) (s : State) : Out := .next (s.spdm doe (.keyUpdate session))

/-- R452. -/
def execEndSession (doe : Bool) (session : Nat) (s : State) : Out := .next (s.spdm doe (.endSession session))

/-- R452: the request that the chunks carry arrives as its own command after the last one. -/
def execChunkSend (doe : Bool) (seq : Nat) (last : Bool) (s : State) : Out := .next (s.spdm doe (.chunkSend seq last))

/-- R452. -/
def execChunkGet (doe : Bool) (seq : Nat) (s : State) : Out := .next (s.spdm doe (.chunkGet seq))

/-- R459: code is the deferred request's. -/
def execRespondIfReady (doe : Bool) (code : Nat) (s : State) : Out := .next (s.spdm doe (.respondIfReady code))

/-- R452: protocol 0 is IDE_KM, 1 TDISP, whose messages have rows of their own. -/
def execVendorDefinedRequest (doe : Bool) (proto : Nat) (s : State) : Out := .next (s.spdm doe (.vendor proto))

/-- R452. -/
def execSpdmUnsupported (doe : Bool) (_code : Nat) (s : State) : Out := .next (s.spdm doe .unsupported)

/-- R454: two heartbeat periods have passed. -/
def execSessionHeartbeatTimeout (session : Nat) (s : State) : Out := .next (s.dropSession session)

end Sys2Proof.Machine
end

