-- ==== Sys2Proof/Machine/VectorArith.lean ====
section
/-! DEFINITION. What the vector instructions compute for an element (02 R41, R43): V 1.0, Zvfh and Zvfbfmin at VLEN 512 and
ELEN 64. -/

namespace Sys2Proof.Machine

open Sys2Proof


/-- An element's result, with the floating-point flags and the saturation flag that it raises. -/
structure VRes where
  val : Nat
  fl : Nat := 0
  sat : Nat := 0
  deriving DecidableEq, Repr

/-- A result with its floating-point flags. -/
def VRes.ofFp (r : Nat × Nat) : VRes := { val := r.1, fl := r.2 }

/-- The floating-point format of a SEW (R43, Zvfh). -/
def vFmt (sew : Nat) : Option FFmt := if sew = 16 then some fp16 else if sew = 32 then some fp32 else none

/-- The value shifted right by d digits, rounded by vxrm: to nearest up, to nearest even, down, or to odd. -/
def roundOff (vxrm : Nat) (v : Int) (d : Nat) : Int :=
  let q := v / 2 ^ d
  let r := 2 * (v % 2 ^ d)
  let h : Int := 2 ^ d
  match vxrm with
  | 0 => if r ≥ h ∧ d ≠ 0 then q + 1 else q
  | 1 => if r > h ∨ (r = h ∧ q % 2 = 1) then q + 1 else q
  | 2 => q
  | _ => if r ≠ 0 ∧ q % 2 = 0 then q + 1 else q

/-- A value clipped to w bits, unsigned or not. -/
def clipTo (w : Nat) (uns : Bool) (v : Int) : VRes :=
  let lo : Int := if uns then 0 else -(2 ^ (w - 1))
  let hi : Int := if uns then 2 ^ w - 1 else 2 ^ (w - 1) - 1
  if v < lo then { val := unsignedOf w lo, sat := 1 } else if hi < v then { val := unsignedOf w hi, sat := 1 }
  else { val := unsignedOf w v }

/-- Exponent, mantissa and sign of a finite number of a format, a subnormal one normalised. -/
def FFmt.parts (f : FFmt) (v : Nat) : Int × Nat :=
  let e := bits v f.mb f.eb
  let m := bits v 0 f.mb
  if e = 0 then
    let lz := f.mb - bitLen m
    (-(lz : Int), m * 2 ^ (lz + 1) % 2 ^ f.mb)
  else (e, m)

/-- The 7-bit estimate of the reciprocal of the V standard: its table holds 2^16 / (257 + 2i), rounded, less 2^7. -/
def FFmt.rec7 (f : FFmt) (rm v : Nat) : Nat × Nat :=
  let neg := bitAt v (f.mb + f.eb)
  match f.read v with
  | .nan s => (f.nanBits, if s then 16 else 0)
  | .inf n => (f.sign n, 0)
  | .fin n m0 =>
    if m0 = 0 then ((f.write rne (.inf n)).1, 8) else
    let (e, m) := f.parts v
    if e < -1 then
      (f.sign neg + (if rm = 1 || (rm = 2 && !neg) || (rm = 3 && neg) then f.maxBits else f.maxBits + 1), 5)
    else
      let d := 257 + 2 * (m / 2 ^ (f.mb - 7))
      let sig := ((2 ^ 17 + d) / (2 * d) - 128) * 2 ^ (f.mb - 7)
      let out := 2 * (f.bias : Int) - 1 - e
      (f.sign neg + (if out ≤ 0 then (2 ^ f.mb + sig) / 2 ^ (1 - out).toNat else out.toNat * 2 ^ f.mb + sig), 0)

/-- The 7-bit estimate of the reciprocal square root: its table holds 2^8 / sqrt x at the middle of each of 64 intervals of [1, 2) and
[2, 4), rounded, less 2^7. -/
def FFmt.rsqrt7 (f : FFmt) (v : Nat) : Nat × Nat :=
  match f.read v with
  | .nan s => (f.nanBits, if s then 16 else 0)
  | .inf n => if n then (f.nanBits, 16) else (0, 0)
  | .fin n m0 =>
    if m0 = 0 then ((f.write rne (.inf n)).1, 8) else if n then (f.nanBits, 16) else
    let (e, m) := f.parts v
    let k := 129 + 2 * (m / 2 ^ (f.mb - 6))
    let r := isqrt (2 ^ 25 / (if e % 2 = 0 then 2 * k else k)) 20
    let out := (3 * (f.bias : Int) - 1 - e) / 2
    (out.toNat * 2 ^ f.mb + ((r + 1) / 2 - 128) * 2 ^ (f.mb - 7), 0)

/-- A conversion to an integer of w bits; NaN gives the largest. -/
def FVal.toW (rm w : Nat) (uns : Bool) (x : FVal) : VRes :=
  let lo : Int := if uns then 0 else -(2 ^ (w - 1))
  let hi : Int := if uns then 2 ^ w - 1 else 2 ^ (w - 1) - 1
  let (v, fl) := x.toInt rm lo hi hi
  { val := unsignedOf w v, fl := fl }

/-- An element of w bits as an integer. -/
def elemInt (w : Nat) (uns : Bool) (v : Nat) : Int := if uns then (v : Int) else signed w v

/-- A number in another format; a signalling NaN is invalid. -/
def FFmt.convert (f : FFmt) (rm : Nat) (x : FVal) : VRes :=
  let (v, fl) := f.write rm x
  { val := v, fl := if x.signals then Nat.lor fl 16 else fl }

/-- A sum of elements two at a time, in an order that pick chooses (the standard leaves the order of an unordered sum open). -/
def sumAny (f : FFmt) (rm : Nat) (pick : Nat → Nat) : Nat → List Nat → Nat × Nat
  | 0, l => (l.headD 0, 0)
  | _ + 1, [] => (0, 0)
  | _ + 1, [a] => (a, 0)
  | n + 1, l =>
    let i := pick (2 * n) % l.length
    let a := (l[i]?).getD 0
    let r := l.eraseIdx i
    let j := pick (2 * n + 1) % r.length
    let b := (r[j]?).getD 0
    let (v, fl) := f.finish rm ((f.read a).add rm (f.read b)) [f.read a, f.read b]
    let (w, gl) := sumAny f rm pick n (v :: r.eraseIdx j)
    (w, Nat.lor fl gl)

end Sys2Proof.Machine

namespace Sys2Proof

open Machine

/-- The operation is a floating-point one. -/
def VBin.isFp : VBin → Bool
  | .fadd | .fsub | .frsub | .fmul | .fdiv | .frdiv | .fmin | .fmax | .fsgnj | .fsgnjn | .fsgnjx => true
  | _ => false

/-- An integer operation on elements of w bits: a is vs2's, b the other operand's. -/
def VBin.int (op : VBin) (w vxrm a b : Nat) : VRes :=
  let x := signed w a
  let y := signed w b
  let u : Int := a
  let v : Int := b
  let sh := b % w
  let int := fun (i : Int) => ({ val := unsignedOf w i } : VRes)
  let nat := fun (n : Nat) => ({ val := n } : VRes)
  match op with
  | .add => int (u + v)
  | .sub => int (u - v)
  | .rsub => int (v - u)
  | .and => nat (Nat.land a b)
  | .or => nat (Nat.lor a b)
  | .xor => nat (Nat.xor a b)
  | .minu => nat (Nat.min a b)
  | .maxu => nat (Nat.max a b)
  | .min => nat (if x < y then a else b)
  | .max => nat (if x < y then b else a)
  | .mul => int (x * y)
  | .mulh => int (x * y / 2 ^ w)
  | .mulhu => int (u * v / 2 ^ w)
  | .mulhsu => int (x * v / 2 ^ w)
  | .divu => nat (if b = 0 then 2 ^ w - 1 else a / b)
  | .div => if b = 0 then nat (2 ^ w - 1) else int (x.tdiv y)
  | .remu => nat (if b = 0 then a else a % b)
  | .rem => if b = 0 then nat a else int (x.tmod y)
  | .sll => int (u * 2 ^ sh)
  | .srl => nat (a / 2 ^ sh)
  | .sra => int (x / 2 ^ sh)
  | .saddu => clipTo w true (u + v)
  | .sadd => clipTo w false (x + y)
  | .ssubu => clipTo w true (u - v)
  | .ssub => clipTo w false (x - y)
  | .aaddu => int (roundOff vxrm (u + v) 1)
  | .aadd => int (roundOff vxrm (x + y) 1)
  | .asubu => int (roundOff vxrm (u - v) 1)
  | .asub => int (roundOff vxrm (x - y) 1)
  | .smul => clipTo w false (roundOff vxrm (x * y) (w - 1))
  | .ssrl => int (roundOff vxrm u sh)
  | .ssra => int (roundOff vxrm x sh)
  | _ => nat a

/-- A floating-point operation on elements of format f: a is vs2's, b the other operand's. -/
def VBin.fp (op : VBin) (f : FFmt) (rm a b : Nat) : VRes :=
  let x := f.read a
  let y := f.read b
  .ofFp <| match op with
  | .fadd => f.finish rm (x.add rm y) [x, y]
  | .fsub => f.finish rm (x.add rm y.neg) [x, y]
  | .frsub => f.finish rm (y.add rm x.neg) [x, y]
  | .fmul => f.finish rm (x.mul y) [x, y]
  | .fdiv => f.div rm x y
  | .frdiv => f.div rm y x
  | .fmin => f.minmax false a b
  | .fmax => f.minmax true a b
  | .fsgnj => (f.signed 0 a b, 0)
  | .fsgnjn => (f.signed 1 a b, 0)
  | .fsgnjx => (f.signed 2 a b, 0)
  | _ => (a, 0)

/-- The multiply-add is a floating-point one. -/
def VMac.isFp : VMac → Bool
  | .macc | .nmsac | .madd | .nmsub => false
  | _ => true

/-- An integer multiply-add: d is vd's element, a the second operand's, b vs2's. -/
def VMac.int (op : VMac) (w d a b : Nat) : VRes :=
  let p : Int := a * b
  let q : Int := a * d
  { val := unsignedOf w (match op with
    | .macc => p + d
    | .nmsac => d - p
    | .madd => q + b
    | _ => b - q) }

/-- A floating-point multiply-add of format f. -/
def VMac.fp (op : VMac) (f : FFmt) (rm d a b : Nat) : VRes :=
  let z := f.read d
  let x := f.read a
  let y := f.read b
  .ofFp <| match op with
  | .fmacc => f.fma rm x y z
  | .fnmacc => f.fma rm x.neg y z.neg
  | .fmsac => f.fma rm x y z.neg
  | .fnmsac => f.fma rm x.neg y z
  | .fmadd => f.fma rm x z y
  | .fnmadd => f.fma rm x.neg z y.neg
  | .fmsub => f.fma rm x z y.neg
  | _ => f.fma rm x.neg z y

/-- The comparison is a floating-point one. -/
def VCmp.isFp : VCmp → Bool
  | .feq | .fne | .flt | .fle | .fgt | .fge => true
  | _ => false

/-- An integer comparison: a is vs2's element. -/
def VCmp.int (op : VCmp) (w a b : Nat) : Bool :=
  let x := signed w a
  let y := signed w b
  match op with
  | .eq => a == b
  | .ne => a != b
  | .ltu => decide (a < b)
  | .lt => decide (x < y)
  | .leu => decide (a ≤ b)
  | .le => decide (x ≤ y)
  | .gtu => decide (b < a)
  | _ => decide (y < x)

/-- A floating-point comparison with its flags. -/
def VCmp.fp (op : VCmp) (f : FFmt) (a b : Nat) : Bool × Nat :=
  let x := f.read a
  let y := f.read b
  match op with
  | .feq => cmpFlag true x y (x.eqv y)
  | .fne => cmpFlag true x y (!x.eqv y)
  | .flt => cmpFlag false x y (x.lt y)
  | .fle => cmpFlag false x y (x.le y)
  | .fgt => cmpFlag false x y (y.lt x)
  | _ => cmpFlag false x y (y.le x)

/-- The widening operation is a floating-point one. -/
def VWid.isFp : VWid → Bool
  | .fadd | .fsub | .fmul => true
  | _ => false

/-- A widening integer operation of sources of wa and w bits. -/
def VWid.int (op : VWid) (wa w a b : Nat) : VRes :=
  let x := signed wa a
  let y := signed w b
  { val := unsignedOf (2 * w) (match op with
    | .addu => ((a + b : Nat) : Int)
    | .add => x + y
    | .subu => (a : Int) - b
    | .sub => x - y
    | .mulu => ((a * b : Nat) : Int)
    | .mul => x * y
    | _ => x * (b : Int)) }

/-- A widening floating-point operation: the values are those of the sources, f the wide format. -/
def VWid.fp (op : VWid) (f : FFmt) (rm : Nat) (x y : FVal) : VRes :=
  .ofFp <| match op with
  | .fadd => f.finish rm (x.add rm y) [x, y]
  | .fsub => f.finish rm (x.add rm y.neg) [x, y]
  | _ => f.finish rm (x.mul y) [x, y]

/-- The widening multiply-add is a floating-point one. -/
def VWMac.isFp : VWMac → Bool
  | .maccu | .macc | .maccsu | .maccus => false
  | _ => true

/-- A widening integer multiply-add: d is vd's element of 2w bits, a the second operand's, b vs2's. -/
def VWMac.int (op : VWMac) (w d a b : Nat) : VRes :=
  let x := signed w a
  let y := signed w b
  { val := unsignedOf (2 * w) ((d : Int) + match op with
    | .maccu => ((a * b : Nat) : Int)
    | .macc => x * y
    | .maccsu => x * (b : Int)
    | _ => (a : Int) * y) }

/-- A widening floating-point multiply-add of wide format f. -/
def VWMac.fp (op : VWMac) (f : FFmt) (rm : Nat) (z x y : FVal) : VRes :=
  .ofFp <| match op with
  | .fmacc => f.fma rm x y z
  | .fnmacc => f.fma rm x.neg y z.neg
  | .fmsac => f.fma rm x y z.neg
  | _ => f.fma rm x.neg y z

/-- A narrowing shift or clip: a is the source element of 2w bits. -/
def VNar.val (op : VNar) (w vxrm a b : Nat) : VRes :=
  let sh := b % (2 * w)
  let x := signed (2 * w) a
  match op with
  | .srl => { val := a / 2 ^ sh % 2 ^ w }
  | .sra => { val := unsignedOf w (x / 2 ^ sh) }
  | .clipu => clipTo w true (roundOff vxrm a sh)
  | .clip => clipTo w false (roundOff vxrm x sh)

/-- A conversion from elements of w bits to elements of d bits; none where the formats do not exist (R43). -/
def VCvt.fn (op : VCvt) (w d rm : Nat) : Option (Nat → VRes) :=
  match op with
  | .toInt uns z => (vFmt w).map fun f a => (f.read a).toW (if z then rtz else rm) d uns
  | .ofInt uns => (vFmt d).map fun f a => f.convert rm (Machine.ofInt (elemInt w uns a))
  | .float odd => match vFmt w, vFmt d with
    | some f, some h => some fun a => h.convert (if odd then rod else rm) (f.read a)
    | _, _ => none
  | .bf16 =>
    if w = 16 ∧ d = 32 then some fun a => fp32.convert rm (Machine.bf16.read a)
    else if w = 32 ∧ d = 16 then some fun a => Machine.bf16.convert rm (fp32.read a) else none

/-- The reduction is a floating-point one. -/
def VRed.isFp : VRed → Bool
  | .fosum | .fusum | .fmin | .fmax | .fwosum | .fwusum => true
  | _ => false

/-- The reduction widens. -/
def VRed.wide : VRed → Bool
  | .wsumu | .wsum | .fwosum | .fwusum => true
  | _ => false

/-- One step of an integer reduction: acc has dw bits, a source element w. -/
def VRed.int (op : VRed) (w dw acc a : Nat) : Nat :=
  match op with
  | .sum | .wsumu => unsignedOf dw (acc + a : Nat)
  | .wsum => unsignedOf dw ((acc : Int) + signed w a)
  | .and => Nat.land acc a
  | .or => Nat.lor acc a
  | .xor => Nat.xor acc a
  | .minu => Nat.min acc a
  | .maxu => Nat.max acc a
  | .min => if signed w acc < signed w a then acc else a
  | _ => if signed w acc < signed w a then a else acc

/-- One step of a floating-point reduction in format f. -/
def VRed.fp (op : VRed) (f : FFmt) (rm acc a : Nat) : Nat × Nat :=
  match op with
  | .fmin => f.minmax false acc a
  | .fmax => f.minmax true acc a
  | _ => f.finish rm ((f.read acc).add rm (f.read a)) [f.read acc, f.read a]

/-- A logical operation on mask bits. -/
def VLog.val (op : VLog) (a b : Bool) : Bool :=
  match op with
  | .and => a && b
  | .nand => !(a && b)
  | .andn => a && !b
  | .or => a || b
  | .nor => !(a || b)
  | .orn => a || !b
  | .xor => a != b
  | .xnor => a == b

end Sys2Proof
end

