-- ==== Sys2Proof/Machine/VectorOps.lean ====
section
/-! DEFINITION. Vector instructions (02 R41, R43, R44, R50, R54): the V standard at VLEN 512 and ELEN 64. -/

namespace Sys2Proof.Machine

open Sys2Proof

/-- SEW of a vtype. -/
def vSew (vt : Word) : Nat := 8 * 2 ^ fld vt 3 3

/-- Eighths of a register that LMUL takes; 0 for the reserved code. -/
def vLmul8 (vt : Word) : Nat :=
  match fld vt 0 3 with
  | 0 => 8 | 1 => 16 | 2 => 32 | 3 => 64 | 5 => 1 | 6 => 2 | 7 => 4 | _ => 0

/-- vill. -/
def vIll (vt : Word) : Bool := fld vt 63 1 = 1

/-- VLMAX at VLEN 512. -/
def vlMax (vt : Word) : Nat := 64 * vLmul8 vt / vSew vt

/-- A vtype that the unit supports: SEW to 64, LMUL not reserved, SEW at most LMUL × ELEN, reserved bits zero. -/
def vtypeOk (vt : Word) : Bool :=
  decide (fld vt 3 3 ≤ 3) && vLmul8 vt != 0 && fld vt 8 56 == 0 && decide (vSew vt ≤ 8 * vLmul8 vt)

/-- Registers of a group of m8 eighths. -/
def groupRegs (m8 : Nat) : Nat := max 1 (m8 / 8)

/-- A register number begins a group of m8 eighths. -/
def groupOk (r m8 : Nat) : Bool := r % groupRegs m8 == 0 && decide (r + groupRegs m8 ≤ 32)

/-- Keys of a register group. -/
def groupKeys (r m8 : Nat) : List Nat := (List.range (groupRegs m8)).map (64 + r + ·)

/-- Element i of a register group. -/
def Thread.vElem (t : Thread) (r sew i : Nat) : Nat :=
  bits (t.vr (r + i * sew / 512)).toNat (i * sew % 512) sew

/-- Write element i of a register group. -/
def Thread.setElem (t : Thread) (r sew i v : Nat) : Thread :=
  let k := r + i * sew / 512
  let o := t.vr k
  t.setV k (BitVec.ofNat 512 (o.toNat - bits o.toNat (i * sew % 512) sew * 2 ^ (i * sew % 512) + v % 2 ^ sew * 2 ^ (i * sew % 512)))

/-- Mask bit i of v0. -/
def Thread.vMask (t : Thread) (i : Nat) : Bool := bitAt (t.vr 0).toNat i

/-- The elements that an instruction works on: from vstart to vl, where the mask allows. -/
def Thread.active (t : Thread) (vm : Bool) : List Nat :=
  (List.range t.vl).filter fun i => decide (t.vstart ≤ i) && (vm || t.vMask i)

/-- Fill agnostic elements: the V standard lets each keep its value or become all ones, so a free value says which of each (log entry
31). -/
def State.agnostic (s : State) (g vd sew : Nat) (is : List Nat) : State :=
  if is.isEmpty then s else
  { (s.updTh g fun x => is.foldl (fun x i =>
      if bitAt (Config.freeValue (s.fresh + i)).toNat 0 then x.setElem vd sew i (2 ^ sew - 1) else x) x) with fresh := s.fresh + 512 }

/-- The agnostic elements of a destination group: the tail where vta, the masked-off elements where vma. -/
def Thread.agnosticElems (t : Thread) (sew m8 : Nat) (vm : Bool) : List Nat :=
  let n := groupRegs m8 * 512 / sew
  (List.range n).filter fun i => decide (t.vstart ≤ i) && (if i < t.vl then !vm && !t.vMask i && fld t.vtype 7 1 == 1
    else fld t.vtype 6 1 == 1)

/-- Mask bit i of a register. -/
def Thread.mBit (t : Thread) (r i : Nat) : Bool := bitAt (t.vr r).toNat i

/-- Two groups that an instruction writes and reads may share registers: none, or of one element width, or the destination is the first
part of a wider source, or the last part of it is a narrower source of whole registers. -/
def overlapOk (d dw dm s sw sm : Nat) : Bool :=
  let dr := groupRegs dm
  let sr := groupRegs sm
  !overlaps d dr s sr || dw == sw || (decide (dw < sw) && d == s) ||
  (decide (sw < dw) && decide (8 ≤ sm) && s + sr == d + dr)

/-- The group does not overlap another. -/
def apart (d dm s sm : Nat) : Bool := !overlaps d (groupRegs dm) s (groupRegs sm)

/-- The second operand of an instruction as a number of w bits for element i: an x register or an immediate is sign-extended or cut, an f
register that is not NaN-boxed reads as the canonical NaN. -/
def Thread.vSrc (t : Thread) (src : VSrc) (w i : Nat) : Nat :=
  match src with
  | .v n => t.vElem n w i
  | .x n => (t.xr n).toNat % 2 ^ w
  | .i k => unsignedOf w k
  | .f n => if w = 16 then (if t.fr n / 65536 = 65535 then t.fr n % 65536 else fp16.nanBits) else t.fr n % 2 ^ w

/-- The second operand is a legal one: its register group, and a scalar of the right kind. -/
def VSrc.ok (src : VSrc) (fp : Bool) (m8 : Nat) : Bool :=
  match src with
  | .v n => groupOk n m8
  | .f _ => fp
  | _ => !fp

/-- The second operand may be read beside a destination group. -/
def VSrc.clear (src : VSrc) (d dw dm sw sm : Nat) : Bool := match src with | .v n => overlapOk d dw dm n sw sm | _ => true

/-- Retire a vector instruction that works on n elements of w bits: the unit is occupied for as many cycles without bubbles; vstart
returns to 0 (R50, R51). -/
def State.retireV (s : State) (g n w : Nat) : State :=
  let c := thCore g
  let t := { s with fab := { s.fab with vbusy := tabSet s.fab.vbusy c (s.activeCycle (thIsl g) + max 1 (ceilDiv (n * w) 512)) } }
  (t.updTh g fun x => { x with vstart := 0 }).retired g 4

/-- Add the flags of a result. -/
def Thread.vFlags (t : Thread) (r : VRes) : Thread :=
  if r.fl = 0 ∧ r.sat = 0 then t else { t with fflags := Nat.lor t.fflags r.fl, vxsat := Nat.lor t.vxsat r.sat }

/-- Write the active elements of a group of element width dw; the other ones follow the tail and mask policies; n elements of width w
occupy the unit. -/
def State.vWrite (s : State) (g vd dw dm w : Nat) (vm : Bool) (f : Nat → VRes) : State :=
  let t := s.th g
  let u := s.setTh g ((t.active vm).foldl (fun x i => (x.setElem vd dw i (f i).val).vFlags (f i)) t)
  (if t.vl ≤ t.vstart then u else u.agnostic g vd dw (t.agnosticElems dw dm vm)).retireV g t.vl w

/-- Write the bits of a mask register: the active ones, and those of the tail, which is always agnostic. -/
def State.vWriteMask (s : State) (g vd w : Nat) (vm : Bool) (f : Nat → Bool × Nat) : State :=
  let t := s.th g
  let u := s.setTh g ((t.active vm).foldl (fun x i => (x.setElem vd 1 i (b2n (f i).1)).vFlags { val := 0, fl := (f i).2 }) t)
  let rest := (List.range 512).filter fun i => decide (t.vl ≤ i) ||
    (decide (t.vstart ≤ i) && !vm && !t.vMask i && fld t.vtype 7 1 == 1)
  (if t.vl ≤ t.vstart then u else u.agnostic g vd 1 rest).retireV g t.vl w

/-- Write one element of a register, the others being its tail. -/
def State.vWriteOne (s : State) (g vd w n cyc : Nat) (r : VRes) : State :=
  let t := s.th g
  let u := if n = 0 then s else s.setTh g ((t.setElem vd w 0 r.val).vFlags r)
  let rest := ((List.range (512 / w)).drop 1).filter fun _ => fld t.vtype 6 1 == 1
  (if n = 0 then u else u.agnostic g vd w rest).retireV g (max 1 n) cyc

/-- An x register that a vector instruction writes. -/
def State.vWriteX (s : State) (g rd n w v : Nat) : State := (s.updTh g (·.putX rd (w64 v))).retireV g n w

/-- An instruction that is not as the standard has it raises cause 2 (log entry 86). -/
def State.vLegal (s : State) (g : Nat) (ok : Bool) (f : State → State) : State :=
  if ok && !vIll (s.th g).vtype then f s else s.exceptFree g 2

/-- A floating-point instruction is legal: a format for its width and a rounding mode in frm (R43). -/
def fpOk (fp : Bool) (w frm : Nat) : Bool := !fp || ((vFmt w).isSome && decide (frm < 5))

/-- The format of a width that fpOk has let through. -/
def vF (w : Nat) : FFmt := (vFmt w).getD fp32

/-- An instruction that its mask register does not stop: a masked one does not write v0. -/
def maskOk (vd : Nat) (vm : Bool) : Bool := vm || vd != 0

/-- vsetvl: vl follows AVL; between VLMAX and 2 × VLMAX the V standard leaves it open (log entry 3). With both registers x0, vl is
kept, which is reserved where VLMAX changes. -/
def State.vset (s : State) (g rd : Nat) (avl : VAvl) (vt : VType) : State :=
  let t := s.th g
  let vt := match vt with | .imm n => w64 n | .reg r => t.xr r
  let m := vlMax vt
  let done := fun (s : State) (n : Nat) => (s.updTh g fun x => { x.putX rd (w64 n) with vtype := vt, vl := n }).retireV g 0 8
  let ill := (s.updTh g fun x => { x.putX rd 0 with vtype := w64 (2 ^ 63), vl := 0 }).retireV g 0 8
  if !vtypeOk vt then ill else
  let set := fun a => if a ≤ m then done s a else if 2 * m ≤ a then done s m else
    let lo := ceilDiv a 2
    let (w, u) := s.free
    done u (lo + w.toNat % (m - lo + 1))
  match avl with
  | .imm n => set n
  | .reg r =>
    if r ≠ 0 then set (t.xr r).toNat else if rd ≠ 0 then done s m
    else if vIll t.vtype || vlMax t.vtype != m then ill else done s t.vl

/-- The width of the elements and the eighths of LMUL in force. -/
def Thread.vw (t : Thread) : Nat × Nat := (vSew t.vtype, vLmul8 t.vtype)

/-- An element-wise operation. -/
def State.vbin (s : State) (g : Nat) (op : VBin) (vd vs2 : Nat) (src : VSrc) (vm : Bool) : State :=
  let t := s.th g
  let (w, m) := t.vw
  s.vLegal g (fpOk op.isFp w t.frm && groupOk vd m && groupOk vs2 m && VSrc.ok src op.isFp m && maskOk vd vm) fun s =>
    s.vWrite g vd w m w vm fun i =>
      if op.isFp then op.fp (vF w) t.frm (t.vElem vs2 w i) (t.vSrc src w i) else op.int w t.vxrm (t.vElem vs2 w i) (t.vSrc src w i)

/-- vadc and vsbc, which read a carry from v0, and vmadc and vmsbc, which give one. -/
def State.vcarry (s : State) (g : Nat) (sub out : Bool) (vd vs2 : Nat) (src : VSrc) (vm : Bool) : State :=
  let t := s.th g
  let (w, m) := t.vw
  let val := fun i =>
    let c := b2n (!vm && t.vMask i)
    let a : Int := t.vElem vs2 w i
    let b : Int := t.vSrc src w i
    if sub then a - b - c else a + b + c
  s.vLegal g (groupOk vs2 m && VSrc.ok src false m &&
      (if out then overlapOk vd 1 8 vs2 w m && VSrc.clear src vd 1 8 w m else groupOk vd m && vd != 0 && !vm)) fun s =>
    if out then s.vWriteMask g vd w true fun i => (decide (val i < 0 ∨ 2 ^ w ≤ val i), 0)
    else s.vWrite g vd w m w true fun i => { val := unsignedOf w (val i) }

/-- A multiply-add. -/
def State.vmac (s : State) (g : Nat) (op : VMac) (vd : Nat) (src : VSrc) (vs2 : Nat) (vm : Bool) : State :=
  let t := s.th g
  let (w, m) := t.vw
  s.vLegal g (fpOk op.isFp w t.frm && groupOk vd m && groupOk vs2 m && VSrc.ok src op.isFp m && maskOk vd vm) fun s =>
    s.vWrite g vd w m w vm fun i =>
      if op.isFp then op.fp (vF w) t.frm (t.vElem vd w i) (t.vSrc src w i) (t.vElem vs2 w i)
      else op.int w (t.vElem vd w i) (t.vSrc src w i) (t.vElem vs2 w i)

/-- A comparison. -/
def State.vcmp (s : State) (g : Nat) (op : VCmp) (vd vs2 : Nat) (src : VSrc) (vm : Bool) : State :=
  let t := s.th g
  let (w, m) := t.vw
  s.vLegal g (fpOk op.isFp w t.frm && groupOk vs2 m && VSrc.ok src op.isFp m && overlapOk vd 1 8 vs2 w m && VSrc.clear src vd 1 8 w m) fun s =>
    s.vWriteMask g vd w vm fun i =>
      if op.isFp then op.fp (vF w) (t.vElem vs2 w i) (t.vSrc src w i) else (op.int w (t.vElem vs2 w i) (t.vSrc src w i), 0)

/-- A widening operation; the first operand may be wide already. -/
def State.vwide (s : State) (g : Nat) (op : VWid) (wideA : Bool) (vd vs2 : Nat) (src : VSrc) (vm : Bool) : State :=
  let t := s.th g
  let (w, m) := t.vw
  let wa := if wideA then 2 * w else w
  let ma := if wideA then 2 * m else m
  s.vLegal g (decide (w ≤ 32 ∧ m ≤ 32) && fpOk op.isFp w t.frm && fpOk op.isFp (2 * w) t.frm && groupOk vd (2 * m) && groupOk vs2 ma &&
      VSrc.ok src op.isFp m && maskOk vd vm && overlapOk vd (2 * w) (2 * m) vs2 wa ma && VSrc.clear src vd (2 * w) (2 * m) w m) fun s =>
    s.vWrite g vd (2 * w) (2 * m) (2 * w) vm fun i =>
      if op.isFp then op.fp (vF (2 * w)) t.frm ((vF wa).read (t.vElem vs2 wa i)) ((vF w).read (t.vSrc src w i))
      else op.int wa w (t.vElem vs2 wa i) (t.vSrc src w i)

/-- A widening multiply-add. -/
def State.vwmac (s : State) (g : Nat) (op : VWMac) (vd : Nat) (src : VSrc) (vs2 : Nat) (vm : Bool) : State :=
  let t := s.th g
  let (w, m) := t.vw
  s.vLegal g (decide (w ≤ 32 ∧ m ≤ 32) && fpOk op.isFp w t.frm && fpOk op.isFp (2 * w) t.frm && groupOk vd (2 * m) && groupOk vs2 m &&
      VSrc.ok src op.isFp m && maskOk vd vm && overlapOk vd (2 * w) (2 * m) vs2 w m && VSrc.clear src vd (2 * w) (2 * m) w m) fun s =>
    s.vWrite g vd (2 * w) (2 * m) (2 * w) vm fun i =>
      let d := t.vElem vd (2 * w) i
      let a := t.vSrc src w i
      let b := t.vElem vs2 w i
      if op.isFp then op.fp (vF (2 * w)) t.frm ((vF (2 * w)).read d) ((vF w).read a) ((vF w).read b) else op.int w d a b

/-- A narrowing shift or clip. -/
def State.vnarrow (s : State) (g : Nat) (op : VNar) (vd vs2 : Nat) (src : VSrc) (vm : Bool) : State :=
  let t := s.th g
  let (w, m) := t.vw
  s.vLegal g (decide (w ≤ 32 ∧ m ≤ 32) && groupOk vd m && groupOk vs2 (2 * m) && VSrc.ok src false m && maskOk vd vm &&
      overlapOk vd w m vs2 (2 * w) (2 * m)) fun s =>
    s.vWrite g vd w m (2 * w) vm fun i => op.val w t.vxrm (t.vElem vs2 (2 * w) i) (t.vSrc src w i)

/-- An operation of one operand. -/
def State.vun (s : State) (g : Nat) (op : VUn) (vd vs2 : Nat) (vm : Bool) : State :=
  let t := s.th g
  let (w, m) := t.vw
  match op with
  | .ext k sext =>
    s.vLegal g (decide (8 * k ≤ w ∧ k ≤ m) && groupOk vd m && groupOk vs2 (m / k) && maskOk vd vm &&
        overlapOk vd w m vs2 (w / k) (m / k)) fun s =>
      s.vWrite g vd w m w vm fun i => { val := unsignedOf w (elemInt (w / k) (!sext) (t.vElem vs2 (w / k) i)) }
  | _ =>
    s.vLegal g (fpOk true w t.frm && groupOk vd m && groupOk vs2 m && maskOk vd vm) fun s =>
      s.vWrite g vd w m w vm fun i =>
        let f := vF w
        let a := t.vElem vs2 w i
        match op with
        | .fsqrt => .ofFp (f.sqrt t.frm (f.read a))
        | .frsqrt7 => .ofFp (f.rsqrt7 a)
        | .frec7 => .ofFp (f.rec7 t.frm a)
        | _ => { val := f.fclass a }

/-- A conversion between elements of width sw and dw, whose groups take sm and dm eighths. -/
def State.vconv (s : State) (g : Nat) (op : VCvt) (vd dw dm vs2 sw sm : Nat) (vm : Bool) : State :=
  let t := s.th g
  match op.fn sw dw t.frm with
  | none => s.exceptFree g 2
  | some f =>
    s.vLegal g (decide (t.frm < 5 ∧ dw ≤ 64 ∧ sw ≤ 64 ∧ dm ≤ 64 ∧ sm ≤ 64) && groupOk vd dm && groupOk vs2 sm && maskOk vd vm &&
        overlapOk vd dw dm vs2 sw sm) fun s =>
      s.vWrite g vd dw dm (max dw sw) vm fun i => f (t.vElem vs2 sw i)

/-- A reduction: element 0 of vs1 and the active elements of vs2 give element 0 of vd. -/
def State.vred (s : State) (g : Nat) (op : VRed) (vd vs2 vs1 : Nat) (vm : Bool) : State :=
  let t := s.th g
  let (w, m) := t.vw
  let dw := if op.wide then 2 * w else w
  let es := (t.active vm).map (t.vElem vs2 w)
  let a0 := t.vElem vs1 dw 0
  let widen := fun a => if op.wide then ((vF dw).write rne ((vF w).read a)).1 else a
  s.vLegal g (t.vstart == 0 && decide (dw ≤ 64) && fpOk op.isFp w t.frm && fpOk op.isFp dw t.frm && groupOk vs2 m) fun s =>
    match op with
    | .fusum | .fwusum =>
      let k := s.fresh
      let r := sumAny (vF dw) t.frm (fun i => (Config.freeValue (k + i)).toNat) es.length (a0 :: es.map widen)
      let nv := if op.wide && es.any (fun a => ((vF w).read a).signals) then 16 else 0
      { s with fresh := k + 2 * es.length }.vWriteOne g vd dw t.vl dw { val := r.1, fl := Nat.lor r.2 nv }
    | _ =>
      if op.isFp then
        let r := es.foldl (fun (p : Nat × Nat) a =>
          let (v, fl) := op.fp (vF dw) t.frm p.1 (widen a)
          (v, Nat.lor p.2 (Nat.lor fl (if op.wide && ((vF w).read a).signals then 16 else 0)))) (a0, 0)
        s.vWriteOne g vd dw t.vl dw { val := r.1, fl := r.2 }
      else s.vWriteOne g vd dw t.vl dw { val := es.foldl (op.int w dw) a0 }

/-- The active elements whose bit in a mask register is set. -/
def Thread.mSet (t : Thread) (r : Nat) (vm : Bool) : List Nat := (t.active vm).filter (t.mBit r)

/-- vmsbf, vmsif and vmsof. -/
def State.vmset (s : State) (g : Nat) (op : VFirst) (vd vs2 : Nat) (vm : Bool) : State :=
  let t := s.th g
  let first := (t.mSet vs2 vm).head?
  s.vLegal g (t.vstart == 0 && maskOk vd vm && vd != vs2) fun s =>
    s.vWriteMask g vd 1 vm fun i => (match first, op with
      | none, .sof => false
      | none, _ => true
      | some k, .sbf => decide (i < k)
      | some k, .sif => decide (i ≤ k)
      | some k, .sof => i == k, 0)

/-- viota. -/
def State.viota (s : State) (g vd vs2 : Nat) (vm : Bool) : State :=
  let t := s.th g
  let (w, m) := t.vw
  s.vLegal g (t.vstart == 0 && groupOk vd m && maskOk vd vm && apart vd m vs2 8) fun s =>
    s.vWrite g vd w m w vm fun i => { val := ((t.mSet vs2 vm).filter fun k => decide (k < i)).length }

/-- vmerge, which takes the second operand where the mask is set. -/
def State.vmerge (s : State) (g vd vs2 : Nat) (src : VSrc) : State :=
  let t := s.th g
  let (w, m) := t.vw
  let fp := match src with | .f _ => true | _ => false
  s.vLegal g (fpOk fp w t.frm && groupOk vd m && vd != 0 && groupOk vs2 m && VSrc.ok src fp m) fun s =>
    s.vWrite g vd w m w true fun i => { val := if t.vMask i then t.vSrc src w i else t.vElem vs2 w i }

/-- vmv.v and vfmv.v. -/
def State.vmv (s : State) (g vd : Nat) (src : VSrc) : State :=
  let t := s.th g
  let (w, m) := t.vw
  let fp := match src with | .f _ => true | _ => false
  s.vLegal g (fpOk fp w t.frm && groupOk vd m && VSrc.ok src fp m) fun s =>
    s.vWrite g vd w m w true fun i => { val := t.vSrc src w i }

/-- An offset or index operand: an x register whole, or an immediate of five bits. -/
def Thread.vIndex (t : Thread) (src : VSrc) (w i : Nat) : Nat :=
  match src with
  | .x n => (t.xr n).toNat
  | .i k => unsignedOf 5 k
  | _ => t.vSrc src w i

/-- vslideup and vslidedown. -/
def State.vslide (s : State) (g : Nat) (up : Bool) (vd vs2 : Nat) (src : VSrc) (vm : Bool) : State :=
  let t := s.th g
  let (w, m) := t.vw
  let off := t.vIndex src w 0
  let max := vlMax t.vtype
  s.vLegal g (groupOk vd m && groupOk vs2 m && VSrc.ok src false m && (match src with | .v _ => false | _ => true) && maskOk vd vm &&
      (!up || apart vd m vs2 m)) fun s =>
    s.vWrite g vd w m w vm fun i => { val :=
      if up then (if i < off then t.vElem vd w i else t.vElem vs2 w (i - off))
      else if i + off < max then t.vElem vs2 w (i + off) else 0 }

/-- vslide1up, vslide1down and their floating-point forms. -/
def State.vslide1 (s : State) (g : Nat) (up : Bool) (vd vs2 : Nat) (src : VSrc) (vm : Bool) : State :=
  let t := s.th g
  let (w, m) := t.vw
  let fp := match src with | .f _ => true | _ => false
  s.vLegal g (fpOk fp w t.frm && groupOk vd m && groupOk vs2 m && (match src with | .x _ | .f _ => true | _ => false) && maskOk vd vm &&
      (!up || apart vd m vs2 m)) fun s =>
    s.vWrite g vd w m w vm fun i => { val :=
      if up then (if i = 0 then t.vSrc src w 0 else t.vElem vs2 w (i - 1))
      else if i + 1 = t.vl then t.vSrc src w 0 else t.vElem vs2 w (i + 1) }

/-- vrgather. -/
def State.vgather (s : State) (g vd vs2 : Nat) (src : VSrc) (vm : Bool) : State :=
  let t := s.th g
  let (w, m) := t.vw
  s.vLegal g (groupOk vd m && groupOk vs2 m && VSrc.ok src false m && maskOk vd vm && apart vd m vs2 m &&
      (match src with | .v n => apart vd m n m | _ => true)) fun s =>
    s.vWrite g vd w m w vm fun i =>
      { val := if t.vIndex src w i < vlMax t.vtype then t.vElem vs2 w (t.vIndex src w i) else 0 }

/-- vrgatherei16. -/
def State.vgather16 (s : State) (g vd vs2 vs1 : Nat) (vm : Bool) : State :=
  let t := s.th g
  let (w, m) := t.vw
  let m16 := 16 * m / w
  s.vLegal g (decide (1 ≤ m16 ∧ m16 ≤ 64) && groupOk vd m && groupOk vs2 m && groupOk vs1 m16 && maskOk vd vm && apart vd m vs2 m &&
      apart vd m vs1 m16) fun s =>
    s.vWrite g vd w m w vm fun i =>
      { val := if t.vElem vs1 16 i < vlMax t.vtype then t.vElem vs2 w (t.vElem vs1 16 i) else 0 }

/-- vcompress: the elements whose mask bit is set, one after the other; those after them are the tail. -/
def State.vcompress (s : State) (g vd vs2 vs1 : Nat) : State :=
  let t := s.th g
  let (w, m) := t.vw
  let sel := (List.range t.vl).filter (t.mBit vs1)
  s.vLegal g (t.vstart == 0 && groupOk vd m && groupOk vs2 m && apart vd m vs2 m && apart vd m vs1 8) fun s =>
    let u := s.setTh g (sel.zipIdx.foldl (fun x e => x.setElem vd w e.2 (t.vElem vs2 w e.1)) t)
    let rest := (List.range (groupRegs m * 512 / w)).filter fun i => decide (sel.length ≤ i) && fld t.vtype 6 1 == 1
    (if t.vl = 0 then u else u.agnostic g vd w rest).retireV g t.vl w

/-- vmv1r to vmv8r: whole registers from element vstart on. -/
def State.vmvR (s : State) (g vd vs2 n : Nat) : State :=
  let t := s.th g
  let w := vSew t.vtype
  s.vLegal g ([1, 2, 4, 8].contains n && vd % n == 0 && vs2 % n == 0) fun s =>
    let es := (List.range (n * 512 / w)).filter fun i => decide (t.vstart ≤ i)
    (s.setTh g (es.foldl (fun x i => x.setElem vd w i (t.vElem vs2 w i)) t)).retireV g (n * 512 / w) w

/- Memory. -/

/-- EMUL in eighths of a memory instruction of element width eew, if it is legal. -/
def emul8 (vt : Word) (eew : Nat) : Option Nat :=
  let e := eew * vLmul8 vt / vSew vt
  if !vIll vt && [8, 16, 32, 64].contains eew && eew * vLmul8 vt % vSew vt == 0 && decide (1 ≤ e ∧ e ≤ 64) then some e else none

/-- The shape of a memory access: the width of its elements, the eighths of a field's group, the number of fields, and the number of
elements of a field. -/
structure VShape where
  w : Nat
  m8 : Nat
  nf : Nat
  evl : Nat
  deriving DecidableEq, Repr

/-- The shape of a memory instruction, none where it is illegal. -/
def Thread.vShape (t : Thread) (eew : Nat) (mode : VMode) (nf : Nat) (vm : Bool) : Option VShape :=
  match mode with
  | .whole => if vm && [1, 2, 4, 8].contains nf then some ⟨eew, 8 * nf, 1, nf * 512 / eew⟩ else none
  | .mask => if vm && nf == 1 && !vIll t.vtype then some ⟨8, 8, 1, ceilDiv t.vl 8⟩ else none
  | .indexed _ _ => if vIll t.vtype then none else some ⟨vSew t.vtype, vLmul8 t.vtype, nf, t.vl⟩
  | _ => (emul8 t.vtype eew).map fun m => ⟨eew, m, nf, t.vl⟩

/-- The groups of a memory access are legal: the fields take at most eight registers and end at register 31, an index group is aligned
and does not meet a destination that it may not. -/
def Thread.vGroups (t : Thread) (vd : Nat) (mode : VMode) (sh : VShape) (vm load : Bool) : Bool :=
  decide (1 ≤ sh.nf ∧ groupRegs sh.m8 * sh.nf ≤ 8 ∧ vd + groupRegs sh.m8 * sh.nf ≤ 32) && vd % groupRegs sh.m8 == 0 &&
  (!load || maskOk vd vm) &&
  (match mode with
   | .indexed v w => match emul8 t.vtype w with
     | some m => groupOk v m && (!load || (if sh.nf = 1 then overlapOk vd sh.w sh.m8 v w m
         else !overlaps vd (groupRegs sh.m8 * sh.nf) v (groupRegs m)))
     | none => false
   | _ => true)

/-- The elements that a memory access works on. -/
def Thread.vActive (t : Thread) (sh : VShape) (vm : Bool) : List Nat :=
  (List.range sh.evl).filter fun i => decide (t.vstart ≤ i) && (vm || t.vMask i)

/-- The elements of a vector memory access with their addresses, segment by segment; the elements of field k come after those of
field k - 1 in the register groups. -/
def Thread.vAddrs (t : Thread) (rs1 : Nat) (mode : VMode) (sh : VShape) (vm : Bool) : List (Nat × Nat) :=
  let b := sh.w / 8
  let span := groupRegs sh.m8 * 512 / sh.w
  (t.vActive sh vm).flatMap fun i => (List.range sh.nf).map fun k =>
    (k * span + i, ((t.xr rs1).toNat + k * b + match mode with
      | .strided r => i * (t.xr r).toNat
      | .indexed v w => t.vElem v w i
      | _ => i * sh.nf * b) % 2 ^ 64)

/-- A fault-only-first load of elements: those before the first one that would fault, and the vl that is left; element 0 still
faults. -/
def State.vFirst (s : State) (g n nf : Nat) (es : List (Nat × Nat)) (span vl : Nat) : List (Nat × Nat) × Nat :=
  match es.find? fun e => (s.accessFault g e.2 n false).isSome with
  | some e => if e.1 % span = 0 then (es, vl) else (es.filter fun x => decide (x.1 % span < e.1 % span ∧ x.1 / span < nf), e.1 % span)
  | none => (es, vl)

/-- The elements that a load reads, and the vl that it leaves. -/
def State.vElems (s : State) (g rs1 : Nat) (mode : VMode) (sh : VShape) (vm : Bool) : List (Nat × Nat) × Nat :=
  let t := s.th g
  let all := t.vAddrs rs1 mode sh vm
  if mode = .first then s.vFirst g (sh.w / 8) sh.nf all (groupRegs sh.m8 * 512 / sh.w) t.vl else (all, t.vl)

/-- The agnostic elements of a memory access's destination, field by field. -/
def Thread.vAgnostic (t : Thread) (mode : VMode) (sh : VShape) (vm : Bool) : List Nat :=
  let span := groupRegs sh.m8 * 512 / sh.w
  match mode with
  | .whole => []
  | .mask => (List.range span).filter fun i => decide (sh.evl ≤ i)
  | _ => (List.range sh.nf).flatMap fun k => (t.agnosticElems sh.w sh.m8 vm).map (k * span + ·)

/-- A vector load: its elements are in flight until THREAD_LOAD_RETURN (R44, R50, R54). -/
def State.vload (s : State) (g vd rs1 eew : Nat) (mode : VMode) (nf : Nat) (vm : Bool) : State :=
  let t := s.th g
  match t.vShape eew mode nf vm with
  | none => s.exceptFree g 2
  | some sh =>
    if !t.vGroups vd mode sh vm true then s.exceptFree g 2 else
    let (es, vl) := s.vElems g rs1 mode sh vm
    let l : PLoad := { pc := t.pc, rd := vd, addr := (t.xr rs1).toNat, kind := .vec sh.w es }
    let u := s.startLoad g 0 l
    if (u.th g).loads.length = t.loads.length then u else
    let u := if es.isEmpty then u.updTh g fun x => { x with loads := x.loads.dropLast } else u
    let u := u.updTh g fun x => { x with vl := vl }
    let u := if sh.evl ≤ t.vstart then u else u.agnostic g vd sh.w ((u.th g).vAgnostic mode sh vm)
    (u.updTh g fun x => { x with instret := t.instret, pc := t.pc }).retireV g (sh.evl * sh.nf) sh.w

/-- A vector store (R44, R50, R167). -/
def State.vstore (s : State) (g vs3 rs1 eew : Nat) (mode : VMode) (nf : Nat) (vm : Bool) : State :=
  let t := s.th g
  match t.vShape eew mode nf vm with
  | none => s.exceptFree g 2
  | some sh =>
    if !t.vGroups vs3 mode sh vm false then s.exceptFree g 2 else
    let parts := (t.vAddrs rs1 mode sh vm).map fun e => (e.2, natLe (t.vElem vs3 sh.w e.1) (sh.w / 8))
    let u := s.startStore g 4 parts
    if (u.th g).pc = t.pc then u else
    (u.updTh g fun x => { x with instret := t.instret, pc := t.pc }).retireV g (sh.evl * sh.nf) sh.w

/- The instruction. -/

/-- The effect of a vector instruction at issue (R41, R43, R50). -/
def State.vector (s : State) (g : Nat) (op : VecOp) : State :=
  let t := s.th g
  let (w, m) := t.vw
  match op with
  | .vset rd avl vt => s.vset g rd avl vt
  | .bin op vd vs2 src vm => s.vbin g op vd vs2 src vm
  | .carry sub out vd vs2 src vm => s.vcarry g sub out vd vs2 src vm
  | .mac op vd src vs2 vm => s.vmac g op vd src vs2 vm
  | .cmp op vd vs2 src vm => s.vcmp g op vd vs2 src vm
  | .wide op wa vd vs2 src vm => s.vwide g op wa vd vs2 src vm
  | .wmac op vd src vs2 vm => s.vwmac g op vd src vs2 vm
  | .narrow op vd vs2 src vm => s.vnarrow g op vd vs2 src vm
  | .un op vd vs2 vm => s.vun g op vd vs2 vm
  | .cvt op vd vs2 vm => s.vconv g op vd w m vs2 w m vm
  | .wcvt op vd vs2 vm => s.vconv g op vd (2 * w) (2 * m) vs2 w m vm
  | .ncvt op vd vs2 vm => s.vconv g op vd w m vs2 (2 * w) (2 * m) vm
  | .red op vd vs2 vs1 vm => s.vred g op vd vs2 vs1 vm
  | .mlog op vd vs2 vs1 => s.vLegal g true (·.vWriteMask g vd 1 true fun i => (op.val (t.mBit vs2 i) (t.mBit vs1 i), 0))
  | .cpop rd vs2 vm => s.vLegal g (t.vstart == 0) (·.vWriteX g rd t.vl 1 (t.mSet vs2 vm).length)
  | .vfirst rd vs2 vm => s.vLegal g (t.vstart == 0) (·.vWriteX g rd t.vl 1 (((t.mSet vs2 vm).head?).getD (2 ^ 64 - 1)))
  | .mset op vd vs2 vm => s.vmset g op vd vs2 vm
  | .iota vd vs2 vm => s.viota g vd vs2 vm
  | .id vd vm => s.vLegal g (groupOk vd m && maskOk vd vm) (·.vWrite g vd w m w vm fun i => { val := i })
  | .merge vd vs2 src => s.vmerge g vd vs2 src
  | .mv vd src => s.vmv g vd src
  | .mvXS rd vs2 => s.vLegal g true (·.vWriteX g rd 1 w (unsignedOf 64 (signed w (t.vElem vs2 w 0))))
  | .mvSX vd rs1 => s.vLegal g true (·.vWriteOne g vd w (t.vl - t.vstart) w { val := t.vSrc (.x rs1) w 0 })
  | .mvFS fd vs2 => s.vLegal g (fpOk true w t.frm) fun s =>
      (s.updTh g (·.putF fd (if w = 16 then 0xFFFF0000 + t.vElem vs2 16 0 else t.vElem vs2 w 0))).retireV g 1 w
  | .mvSF vd fs1 => s.vLegal g (fpOk true w t.frm) (·.vWriteOne g vd w (t.vl - t.vstart) w { val := t.vSrc (.f fs1) w 0 })
  | .slide up vd vs2 src vm => s.vslide g up vd vs2 src vm
  | .slide1 up vd vs2 src vm => s.vslide1 g up vd vs2 src vm
  | .gather vd vs2 src vm => s.vgather g vd vs2 src vm
  | .gather16 vd vs2 vs1 vm => s.vgather16 g vd vs2 vs1 vm
  | .compress vd vs2 vs1 => s.vcompress g vd vs2 vs1
  | .mvR vd vs2 n => s.vmvR g vd vs2 n
  | .load vd rs1 eew mode nf vm => s.vload g vd rs1 eew mode nf vm
  | .store vs3 rs1 eew mode nf vm => s.vstore g vs3 rs1 eew mode nf vm

/-- Registers of a second operand. -/
def VSrc.keys (src : VSrc) (m8 : Nat) : List Nat :=
  match src with
  | .v n => groupKeys n m8
  | .x n => [n]
  | .i _ => []
  | .f n => [32 + n]

/-- The register that masks an instruction. -/
def maskKey (vm : Bool) : List Nat := if vm then [] else [64]

/-- Registers that a vector instruction reads: its operands, and its destination group, whose tail, masked-off or earlier elements it
keeps (R48). -/
def VecOp.keys (op : VecOp) (t : Thread) : List Nat :=
  let m := vLmul8 t.vtype
  match op with
  | .vset _ avl vt => (match avl with | .reg r => [r] | .imm _ => []) ++ (match vt with | .reg r => [r] | .imm _ => [])
  | .bin _ vd a src vm | .cmp _ vd a src vm | .slide _ vd a src vm | .slide1 _ vd a src vm | .gather vd a src vm |
    .mac _ vd src a vm => groupKeys vd m ++ groupKeys a m ++ VSrc.keys src m ++ maskKey vm
  | .carry _ _ vd a src vm => groupKeys vd m ++ groupKeys a m ++ VSrc.keys src m ++ maskKey vm
  | .wide _ wa vd a src vm => groupKeys vd (2 * m) ++ groupKeys a (if wa then 2 * m else m) ++ VSrc.keys src m ++ maskKey vm
  | .wmac _ vd src a vm => groupKeys vd (2 * m) ++ groupKeys a m ++ VSrc.keys src m ++ maskKey vm
  | .narrow _ vd a src vm => groupKeys vd m ++ groupKeys a (2 * m) ++ VSrc.keys src m ++ maskKey vm
  | .un _ vd a vm | .cvt _ vd a vm => groupKeys vd m ++ groupKeys a m ++ maskKey vm
  | .wcvt _ vd a vm => groupKeys vd (2 * m) ++ groupKeys a m ++ maskKey vm
  | .ncvt _ vd a vm => groupKeys vd m ++ groupKeys a (2 * m) ++ maskKey vm
  | .red _ vd a b vm => [64 + vd, 64 + b] ++ groupKeys a m ++ maskKey vm
  | .mlog _ vd a b => [64 + vd, 64 + a, 64 + b]
  | .cpop _ a vm | .vfirst _ a vm => [64 + a] ++ maskKey vm
  | .mset _ vd a vm => [64 + vd, 64 + a] ++ maskKey vm
  | .iota vd a vm => [64 + a] ++ groupKeys vd m ++ maskKey vm
  | .id vd vm => groupKeys vd m ++ maskKey vm
  | .merge vd a src => [64] ++ groupKeys vd m ++ groupKeys a m ++ VSrc.keys src m
  | .mv vd src => groupKeys vd m ++ VSrc.keys src m
  | .mvXS _ a | .mvFS _ a => [64 + a]
  | .mvSX vd r => [64 + vd, r]
  | .mvSF vd r => [64 + vd, 32 + r]
  | .gather16 vd a b vm => groupKeys vd m ++ groupKeys a m ++ groupKeys b (16 * m / vSew t.vtype) ++ maskKey vm
  | .compress vd a b => [64 + b] ++ groupKeys vd m ++ groupKeys a m
  | .mvR vd a n => groupKeys vd (8 * n) ++ groupKeys a (8 * n)
  | .load v r eew mode nf vm | .store v r eew mode nf vm =>
    let data := match t.vShape eew mode nf vm with
      | some sh => (List.range sh.nf).flatMap fun k => groupKeys (v + k * groupRegs sh.m8) sh.m8
      | none => []
    r :: data ++ maskKey vm ++ (match mode with
      | .strided q => [q]
      | .indexed q w => groupKeys q (w * m / vSew t.vtype)
      | _ => [])

/-- The number of a second operand is one that the standard encodes. -/
def VSrc.enc (src : VSrc) : Bool :=
  match src with
  | .v n | .x n | .f n => decide (n < 32)
  | .i k => decide (-16 ≤ k ∧ k < 32)

/-- Register numbers and widths that the V standard encodes. -/
def VecOp.ok (op : VecOp) : Bool :=
  let r := fun (n : Nat) => decide (n < 32)
  match op with
  | .vset rd avl vt => r rd && (match avl with | .reg n | .imm n => r n) && (match vt with | .reg n => r n | .imm n => decide (n < 2048))
  | .bin _ a b src _ | .carry _ _ a b src _ | .mac _ a src b _ | .cmp _ a b src _ | .wide _ _ a b src _ | .wmac _ a src b _ |
    .narrow _ a b src _ | .merge a b src | .slide _ a b src _ | .slide1 _ a b src _ | .gather a b src _ => r a && r b && VSrc.enc src
  | .un (.ext k _) a b _ => r a && r b && [2, 4, 8].contains k
  | .un _ a b _ | .cvt _ a b _ | .wcvt _ a b _ | .ncvt _ a b _ | .cpop a b _ | .vfirst a b _ | .mset _ a b _ | .iota a b _ |
    .mvXS a b | .mvSX a b | .mvFS a b | .mvSF a b => r a && r b
  | .red _ a b c _ | .gather16 a b c _ => r a && r b && r c
  | .mlog _ a b c | .compress a b c => r a && r b && r c
  | .id a _ => r a
  | .mv a src => r a && VSrc.enc src
  | .mvR a b n => r a && r b && [1, 2, 4, 8].contains n
  | .load a b e m nf _ | .store a b e m nf _ => r a && r b && [8, 16, 32, 64].contains e && decide (1 ≤ nf ∧ nf ≤ 8) && (match m with
    | .strided q => r q | .indexed v w => r v && [8, 16, 32, 64].contains w | _ => true)

/-- The vector unit of a thread's core is free (R48, R50, R51). -/
def State.vecFree (s : State) (g : Nat) : Bool := decide (tabGet s.fab.vbusy 0 (thCore g) ≤ s.activeCycle (thIsl g))

/-- The memory access of a vector instruction is one that the quota and the holds let issue (R48, R54). -/
def State.vTaken (s : State) (g : Nat) (op : VecOp) : Bool :=
  let t := s.th g
  match op with
  | .load _ r e m nf vm => match t.vShape e m nf vm with
    | some sh => !s.loadWaits g (sh.w / 8) ((s.vElems g r m sh vm).1.map (·.2))
    | none => true
  | .store v r e m nf vm => match t.vShape e m nf vm with
    | some sh => !s.storeWaits g ((t.vAddrs r m sh vm).map fun x => (x.2, natLe (t.vElem v sh.w x.1) (sh.w / 8)))
    | none => true
  | _ => true

end Sys2Proof.Machine
end

