-- ==== Sys2Proof/Machine/TensorOps.lean ====
section
/-! DEFINITION. The tensor unit's arithmetic (03 R109 to R118), the epilogue (R123 to R131) and reductions (R132), and what its
commands share (R137 to R142, R235). -/

namespace Sys2Proof.Machine

open Sys2Proof

/- Accumulators. -/

/-- Word (i, j) of an accumulator. -/
def Thread.accW (t : Thread) (a i j : Nat) : Nat := (tabGet t.acc 0 (a * 256 + i * 16 + j)).toNat

/-- Replace an accumulator by a function of the element. -/
def Thread.setAcc (t : Thread) (a : Nat) (f : Nat → Nat → Nat) : Thread :=
  { t with acc := (List.range 256).foldl (fun m k => tabSet m (a * 256 + k) (w32 (f (k / 16) (k % 16)))) t.acc }

/-- Clear an accumulator (R118). -/
def Thread.clearAcc (t : Thread) (a : Nat) : Thread :=
  { t with acc := t.acc.filter fun e => !decide (e.1 / 256 = a) }

/- Operands. -/

/-- Element (i, k) of an A block (R109). -/
def aElem (c : Word) (l : List Byte) (i k : Nat) : Nat :=
  elemAt (fmtBits (tAfmt c)) l (if tAlay c = 0 then i * kOf c + k else k * 16 + i)

/-- Element (k, j) of a B block (R109). -/
def bElem (c : Word) (l : List Byte) (k j : Nat) : Nat :=
  elemAt (fmtBits (tBfmt c)) l (if tBlay c = 0 then j * kOf c + k else k * 16 + j)

/-- The scale of a row or column block under SMODE (R106, R110); an unscaled operand has scale 1. -/
def scaleOf (on : Bool) (l : List Byte) (nb r b : Nat) : FVal :=
  if !on then .fin false (2 ^ unitExp)
  else match e8m0 (l[r * nb + b]?.getD 0).toNat with
  | some m => .fin false m
  | none => .nan false

/-- The operand bytes of a TMMA or TMMAS. -/
structure MMIn where
  a : List Byte
  b : List Byte
  sa : List Byte
  sb : List Byte

/-- Read the operands of an entry (R108, R110). -/
def State.mmIn (s : State) (e : TEntry) : MMIn :=
  let c := thCore e.gid
  let rd := fun a n => s.lsRead c a n
  let n := blockBytes e.tcfg
  let k := kOf e.tcfg / 32 * 16
  match e.op with
  | .tmma a b => ⟨rd a n, rd b n, [], []⟩
  | .tmmas a b => ⟨rd a n, rd b n, rd e.scaleA.toNat k, rd e.scaleB.toNat k⟩
  | _ => ⟨[], [], [], []⟩

/-- The terms that a floating-point TMMA adds to element (i, j): products (R113), or the rounded block terms of TMMAS (R116). -/
def mmTerms (c : Word) (scaled : Bool) (m : MMIn) (i j : Nat) : List FVal :=
  let p := fun k => (readFmt (tAfmt c) (aElem c m.a i k)).mul (readFmt (tBfmt c) (bElem c m.b k j))
  let nb := kOf c / 32
  if !scaled then (List.range (kOf c)).map p
  else (List.range nb).map fun b =>
    let sum := exactSum ((List.range 32).map fun k => p (32 * b + k))
    let x := (scaleOf (tSmode c % 2 == 1) m.sa nb i b).mul (scaleOf (tSmode c / 2 == 1) m.sb nb j b)
    f32 (toF32 (sum.mul x))

/-- The integer sum of element (i, j) (R112, R115). -/
def mmInt (c : Word) (m : MMIn) (i j : Nat) : Int :=
  let w := fmtBits (tAfmt c)
  ((List.range (kOf c)).map fun k => signed w (aElem c m.a i k) * signed w (bElem c m.b k j)).sum

/-- Element (i, j) of the result of a TMMA or TMMAS; w is the free value of the element. -/
def mmElem (e : TEntry) (m : MMIn) (w : Word) (acc i j : Nat) : Nat :=
  if tAcck e.tcfg = 0 then unsignedOf 32 (acc + mmInt e.tcfg m i j)
  else
    let scaled := match e.op with | .tmmas _ _ => true | _ => false
    floatSum w (kOf e.tcfg + 1) (f32 acc :: mmTerms e.tcfg scaled m i j)

/-- Write the result of the TMMA or TMMAS of an entry to its accumulator (R112, R116). Each element has a free value of its
own. -/
def State.finishMM (s : State) (e : TEntry) : State :=
  let m := s.mmIn e
  let t := s.th e.gid
  let n := s.fresh
  { (s.setTh e.gid (t.setAcc e.acc fun i j => mmElem e m (Config.freeValue (n + i * 16 + j)) (t.accW e.acc i j) i j)) with
    fresh := n + 256 }

/- The epilogue. -/

/-- An FP32 operation on bits, rounded to nearest even. -/
def fmul32 (a b : Nat) : Nat := toF32 ((f32 a).mul (f32 b))
def fadd32 (a b : Nat) : Nat := toF32 ((f32 a).add 0 (f32 b))

/-- An accumulator word as FP32 (R125 step 1, R132). -/
def accF32 (c : Word) (w : Nat) : Nat := if tAcck c = 0 then toF32 (ofInt (signed 32 w)) else w

/-- e^z of a magnitude in units of 2^-400, for z below 256: the series of e^(z / 512), squared nine times. -/
def expFix (z : Nat) : Nat :=
  let one := 2 ^ unitExp
  let y := z / 512
  let s := (List.range 80).foldl (fun (p : Nat × Nat) k => let t := p.1 * y / one / (k + 1); (t, p.2 + t)) (one, one)
  (List.range 9).foldl (fun r _ => r * r / one) s.2

/-- x / (1 + e^-z) for magnitudes of x and z of one sign, in units of 2^-400: the shape of SiLU and of GELU. -/
def sigMul (neg : Bool) (x z : Nat) : Nat :=
  let one := 2 ^ unitExp
  if 256 * one ≤ z then (if neg then 0 else x)
  else
    let e := expFix z
    if neg then x * one / (one + e) else x * e / (one + e)

/-- The formulas of R128 evaluated on a finite value: GELU is x / (1 + e^-2u) with u = 0.797885 (x + 0.044715 x³). -/
def actExact (gelu : Bool) (neg : Bool) (m : Nat) : FVal :=
  let z := if gelu then (m + m * m * m * 44715 / (10 ^ 6 * 2 ^ (2 * unitExp))) * 1595770 / 10 ^ 6 else m
  .fin neg (sigMul neg m z)

/-- A value within 2^-18 relative or 2^-24 absolute of the formula, whichever is larger (R128); the evaluation above errs by less than
2^-100. -/
def actWithin (ref : FVal) (cand : Nat) : Bool :=
  match ref, f32 cand with
  | .fin a m, .fin b k => decide ((signedMag a m - signedMag b k).natAbs + 2 ^ (unitExp - 100) ≤ max (m / 2 ^ 18) (2 ^ (unitExp - 24)))
  | _, _ => false

/-- GELU or SiLU of a finite FP32 number: the bits that B0's function gives where they lie within the bound, and the formula rounded
otherwise (R128; log entries 4 and 5). -/
def smooth (gelu : Bool) (x : Nat) : Nat :=
  match f32 x with
  | .fin neg m =>
    let ref := actExact gelu neg m
    let cand := (if gelu then Config.gelu (w32 x) else Config.silu (w32 x)).toNat
    if actWithin ref cand then cand else toF32 ref
  | _ => x

/-- The activations (R128). -/
def activate (act lo hi x : Nat) : Nat :=
  let v := f32 x
  if v.isNan then fp32.nanBits else
  match act with
  | 1 => if (FVal.fin false 0).lt v then x else 0
  | 2 => if v.isInf then (if v.negative then 2 ^ 31 else x) else smooth true x
  | 3 => if v.isInf then (if v.negative then 2 ^ 31 else x) else smooth false x
  | 4 =>
    let y := if !(f32 lo).isNan && v.ltz (f32 lo) then lo else x
    if !(f32 hi).isNan && (f32 hi).ltz (f32 y) then hi else y
  | _ => x

/-- The entry for a layer of an adapter slot, as the slot was when the thread's context started (R122, R293). -/
def State.adapterEntry (s : State) (g t layer : Nat) : Option AdLayer :=
  ((s.ctx (s.th g).ctx).bind fun x => tabFind x.slots t).bind fun a => a.layers.find? fun l => l.layer == layer

/-- FP32 1.0. -/
def oneBits : Nat := 0x3F80_0000

/-- Step 3 of R125 on x: the value for a channel, or the identity of the entry's mode beyond its channels. A slot with no entry for the
layer names no mode, so a free value w chooses between x + 0 and x × 1 (R127, R293; log entry 3). -/
def adapterStep (l : Option AdLayer) (w : Word) (ch x : Nat) : Nat :=
  match l with
  | none => if bitAt w.toNat 0 then fadd32 x 0 else fmul32 x oneBits
  | some l =>
    let v := if l.channels ≤ ch then (if l.mul then oneBits else 0) else (l.vals[ch / 2 ^ l.gshift]?).getD 0
    if l.mul then fmul32 x v else fadd32 x v

/-- Element (i, j) through the epilogue, as bits of OFMT (R125, R126). -/
def State.epiElem (s : State) (e : TEntry) (d : List Byte) (i j : Nat) : Nat :=
  let t := s.th e.gid
  let core := thCore e.gid
  let ctl := at_ d 0x10 4
  let w := t.accW e.acc i j
  let ofmt := bits ctl 0 4
  if bits ctl 4 7 = 0 && (ofmt == (if tAcck e.tcfg = 0 then 8 else 7)) then w
  else
    let x := accF32 e.tcfg w
    let x := if bitAt ctl 8 then fmul32 x (s.lsNat core (at_ d 4 4 + 4 * j) 4) else x
    let x := if bitAt ctl 9 then fadd32 x (s.lsNat core (at_ d 8 4 + 4 * j) 4) else x
    let tag := (e.tags[i]?).getD 0xFFF
    let x := if bitAt ctl 10 && e.layer != 0xFFFF && tag != 0xFFF then
        adapterStep (s.adapterEntry e.gid tag e.layer) (Config.freeValue (s.fresh + i * 16 + j)) (at_ d 0x0E 2 + j) x
      else x
    saturate ofmt (f32 (activate (bits ctl 4 4) (at_ d 0x14 4) (at_ d 0x18 4) x))

/-- Sixteen elements of w bits packed little-endian, low nibble first (R109, R130). -/
def packRow (w : Nat) (l : List Nat) : List Byte := natLe ((l.zipIdx.map fun e => e.1 % 2 ^ w * 2 ^ (w * e.2)).sum) (2 * w)

/-- Write the output tile of a TEPI, and clear its accumulator under ACC_CLEAR (R130, R131). -/
def State.finishEpi (s : State) (e : TEntry) (d : List Byte) : State :=
  let ctl := at_ d 0x10 4
  let w := fmtBits (bits ctl 0 4)
  let col := bitAt ctl 11
  let t := (List.range 16).foldl (fun t r =>
    t.lsWrite (thCore e.gid) (at_ d 0 4 + r * at_ d 0x0C 2)
      (packRow w ((List.range 16).map fun c => if col then s.epiElem e d c r else s.epiElem e d r c)))
    { s with fresh := s.fresh + 256 * b2n (bitAt ctl 10) }
  if bitAt ctl 12 then t.updTh e.gid (·.clearAcc e.acc) else t

/-- The adapter lines that a TEPI needs: slot, layer and first channel (R127, R295). -/
def State.linesFor (s : State) (e : TEntry) (d : List Byte) : List (Nat × Nat × Nat) :=
  if !bitAt (at_ d 0x10 4) 10 || e.layer == 0xFFFF then [] else
  ((e.tags.filter (· != 0xFFF)).eraseDups.filter fun t =>
    (s.adapterEntry e.gid t e.layer).any fun l => decide (at_ d 0x0E 2 < l.channels)).map fun t => (t, e.layer, at_ d 0x0E 2)

/- Reductions. -/

/-- The largest of FP32 words: any NaN gives NaN, and +0.0 ranks above −0.0 (R132). -/
def maxF32 (l : List Nat) : Nat :=
  if l.any fun x => (f32 x).isNan then fp32.nanBits
  else match l with
  | [] => 0
  | x :: r => r.foldl (fun m y => if (f32 m).ltz (f32 y) then y else m) x

/-- One reduction (R132): SUM and SUMSQ are formed in an unspecified order, so a free value w names the result within a bound
that holds every order (log entry 3). -/
def redElem (op : Nat) (w : Word) (l : List Nat) : Nat :=
  match op with
  | 0 => maxF32 l
  | 1 => floatSum w 17 (l.map f32)
  | _ => floatSum w 33 (l.map fun x => (f32 x).mul (f32 x))

/-- Write the sixteen results of a TRED (R132). -/
def State.finishRed (s : State) (e : TEntry) (op : Nat) (col : Bool) (vd : Nat) : State :=
  let t := s.th e.gid
  let x := fun i j => accF32 e.tcfg (t.accW e.acc i j)
  let row := fun r => (List.range 16).map fun k => if col then x k r else x r k
  let v := ((List.range 16).map fun r => redElem op (Config.freeValue (s.fresh + r)) (row r) * 2 ^ (32 * r)).sum
  { (s.updTh e.gid (·.setV vd (BitVec.ofNat 512 v))) with fresh := s.fresh + 16 }

/- Issue and dispatch. -/

/-- The first local SRAM check that fails: alignment, then range (R137). Each check holds address, length, alignment and the two
causes. -/
def firstFault (l : List (Nat × Nat × Nat × Nat × Nat)) : Option (Nat × Nat) :=
  l.findSome? fun c => let (a, n, al, mis, acc) := c
    if a % al ≠ 0 then some (mis, a) else if lsBytes < a + n then some (acc, a) else none

/-- The queue takes another entry of a thread (R48, R141). -/
def State.queueRoom (s : State) (g : Nat) : Bool :=
  let q := (s.ten (thCore g)).queue
  decide (q.length < 16) && decide ((q.filter fun e => e.gid == g).length < 8)

/-- The entry that a thread's instruction makes (R98). -/
def State.entry (s : State) (g acc : Nat) (op : TOp) : TEntry :=
  let t := s.th g
  { gid := g, acc := acc, op := op, tcfg := t.tcfg, scaleA := t.scaleA, scaleB := t.scaleB, layer := t.layer.toNat % 65536,
    tags := (List.range 16).map fun r => tabGet t.tags 0xFFF (acc * 16 + r), pc := t.pc, ord := t.instret }

/-- Queue an instruction and retire it (R97). -/
def State.enqueue (s : State) (e : TEntry) : State :=
  let c := thCore e.gid
  (s.setTen c { s.ten c with queue := (s.ten c).queue ++ [e] }).retired e.gid 4

/-- The array serves this instruction; the epilogue stage serves the others (R142). -/
def TOp.onArray : TOp → Bool
  | .tmma _ _ | .tmmas _ _ | .tzero _ => true
  | _ => false

/-- The instruction needs admission from the ramp governor (R235). -/
def TOp.isMM : TOp → Bool
  | .tmma _ _ | .tmmas _ _ => true
  | _ => false

/-- An entry touches an accumulator of its thread. -/
def TEntry.touches (e : TEntry) (acc : Nat) : Bool := match e.op with | .tzero true => true | _ => e.acc == acc

/-- The dispatch conditions of R142 but for admission and bubbles; nothing dispatches behind a TMMA that executes again (R78). -/
def Tensor.canDispatch (u : Tensor) (e : TEntry) : Bool :=
  let clash := fun (o : Option TEntry) => o.any fun x => x.gid == e.gid && (x.touches e.acc || e.touches x.acc)
  !u.reexec && (if e.op.onArray then u.arr.isNone && !clash u.epi else u.epi.isNone && !clash u.arr)

/-- Two range lists share a byte. -/
def meet (l m : List (Nat × Nat)) : Bool := l.any fun a => m.any fun b => overlaps a.1 a.2 b.1 b.2

/-- An older entry of the thread, in the other stage, writes what this one reads or writes, or reads what it writes: their accesses of
local SRAM take effect in program order (R135). -/
def Tensor.sramHeld (u : Tensor) (e : TEntry) : Bool :=
  (u.arr.toList ++ u.epi.toList).any fun x => x.gid == e.gid && decide (x.ord < e.ord) &&
    (meet x.writes (e.reads ++ e.writes) || meet x.reads e.writes)

/-- The first address of a local SRAM range in a word that the scrub found uncorrectable (R180). -/
def State.badIn (s : State) (core a n : Nat) : Option Nat :=
  ((s.isl (core / 64)).badWords.find? fun e => e.1 == core % 64 && overlaps a n (8 * e.2) 8).map fun e => max a (8 * e.2)

/-- The address of the SRAM data fault that an entry's reads meet: a word that the scrub marked, or the range that the check names
(R139). -/
def State.badRead (s : State) (e : TEntry) (err : SramErr) : Option Nat :=
  match e.reads.findSome? fun r => s.badIn (thCore e.gid) r.1 r.2, err with
  | some a, _ => some a
  | none, .uncorrectable k => some ((e.reads[k]?).getD (0, 0)).1
  | none, _ => none

/-- After an entry has left the tensor unit, its thread may become EXITED (R66). -/
def State.afterXyt (s : State) (e : TEntry) : State := s.settleExit e.gid

end Sys2Proof.Machine
end

