-- ==== Sys2Proof/Machine/Tensor.lean ====
section
/-! DEFINITION. Xyt, pass and fence instructions, the tensor unit's own events, and the ramp governor (03, 05 R223 to R238). -/

namespace Sys2Proof.Machine

open Sys2Proof

/-- Issue an Xyt or pass instruction whose word has the right opcode and funct3: where a field that R100 marks 0 is not, it is
illegal. -/
def State.xyt (s : State) (g w op f3 : Nat) (fieldsOk : Bool) (ks : List Nat) (f : State → State) : State :=
  if !isXyt w op f3 then s else s.issue g 4 ks fun s => if fieldsOk then f s else s.exceptFree g 2

/-- R101, R103. -/
def execTcfg (gid word : Nat) (s : State) : Out :=
  onUnit s (decide (gid < 32768)) <|
  s.xyt gid word custom0 3 (fF7 word == 0 && fRs2 word == 0) [fRs1 word] fun s =>
  let v := (s.th gid).xr (fRs1 word)
  if !tcfgValid v then s.exceptFree gid 2 else
  let old := (s.th gid).tcfg
  (s.updTh gid fun t => { t with tcfg := v }).retireX gid 4 (fRd word) old

/-- An instruction that reads local SRAM at its issue meets a word that the scrub found uncorrectable (R56, R180). -/
def State.exceptSram (s : State) (g a : Nat) : State :=
  if s.faultWaits g (s.th g).instret then s else (s.sramError (thIsl g) (thCore g % 64) a (s.th g).ctx 4).except g 26 a

/-- R119, R120, R122. -/
def execTrowtag (gid word : Nat) (s : State) : Out :=
  onUnit s (decide (gid < 32768)) <|
  s.xyt gid word custom0 4 (decide (fF7 word < 2) && fRs2 word == 0 && fRd word == 0) [fRs1 word] fun s =>
  let a := ((s.th gid).xr (fRs1 word)).toNat
  match firstFault [(a, 32, 32, 4, 5)] with
  | some (c, a) => s.except gid c a
  | none =>
    if s.loadHeld gid a 32 then s else
    match s.badIn (thCore gid) a 32 with
    | some b => s.exceptSram gid b
    | none =>
    let tags := (List.range 16).map fun r => s.lsNat (thCore gid) (a + 2 * r) 2 % 4096
    let bound := fun t => match s.ctx (s.th gid).ctx with
      | some x => decide (x.slotBase ≤ t ∧ t < x.slotBase + x.slotCount)
      | none => false
    if !(tags.all fun t => t == 0xFFF || bound t) then s.except gid 5 a
    else (s.updTh gid fun t => { t with tags := tags.zipIdx.foldl (fun m e => tabSet m (fAcc word * 16 + e.2) e.1) t.tags }).retired gid 4

/-- R108, R112, R137, R138. -/
def execTmma (gid word : Nat) (s : State) : Out :=
  onUnit s (decide (gid < 32768)) <|
  s.xyt gid word custom0 0 (decide (fF7 word < 2) && fRd word == 0) [fRs1 word, fRs2 word] fun s =>
  let t := s.th gid
  let a := (t.xr (fRs1 word)).toNat
  let b := (t.xr (fRs2 word)).toNat
  if tAfmt t.tcfg = 6 ∨ tBfmt t.tcfg = 6 then s.exceptFree gid 2 else
  let n := blockBytes t.tcfg
  match firstFault [(a, n, 256, 4, 5), (b, n, 256, 4, 5)] with
  | some (c, a) => s.except gid c a
  | none => if s.queueRoom gid then s.enqueue (s.entry gid (fAcc word) (.tmma a b)) else s

/-- R110, R111, R116, R137, R138. -/
def execTmmas (gid word : Nat) (s : State) : Out :=
  onUnit s (decide (gid < 32768)) <|
  s.xyt gid word custom0 1 (decide (fF7 word < 4) && fRd word == 0) [fRs1 word, fRs2 word] fun s =>
  let t := s.th gid
  let a := (t.xr (fRs1 word)).toNat
  let b := (t.xr (fRs2 word)).toNat
  if tSmode t.tcfg = 0 then s.exceptFree gid 2 else
  let n := blockBytes t.tcfg
  let k := kOf t.tcfg / 32 * 16
  let sa := tSmode t.tcfg % 2 == 1
  let sb := tSmode t.tcfg / 2 == 1
  match firstFault ([(a, n, 256, 4, 5), (b, n, 256, 4, 5)] ++ (if sa then [(t.scaleA.toNat, k, 16, 4, 5)] else []) ++
      (if sb then [(t.scaleB.toNat, k, 16, 4, 5)] else [])) with
  | some (c, a) => s.except gid c a
  | none =>
    if !s.queueRoom gid then s else
    let u := s.enqueue (s.entry gid (fAcc word) (.tmmas a b))
    if bits word 26 1 = 0 then u else
    u.updTh gid fun t => { t with scaleA := if sa then t.scaleA + w64 k else t.scaleA, scaleB := if sb then t.scaleB + w64 k else t.scaleB }

/-- R118. -/
def execTzero (gid word : Nat) (s : State) : Out :=
  onUnit s (decide (gid < 32768)) <|
  s.xyt gid word custom0 2 (decide (fF7 word < 4) && fRs2 word == 0 && fRs1 word == 0 && fRd word == 0) [] fun s =>
  if s.queueRoom gid then s.enqueue (s.entry gid (fAcc word) (.tzero (bits word 26 1 == 1))) else s

/-- The rows of R124 from the second on, in order. -/
def tepiFault (d : List Byte) : Option (Nat × Nat) :=
  let ctl := at_ d 0x10 4
  let out := at_ d 0 4
  let st := at_ d 0x0C 2
  let vec := (if bitAt ctl 8 then [at_ d 4 4] else []) ++ (if bitAt ctl 9 then [at_ d 8 4] else [])
  if out % 8 ≠ 0 ∨ st % 8 ≠ 0 ∨ st < rowBytes d then some (6, out)
  else match vec.find? (· % 64 != 0), vec.find? (fun a => decide (lsBytes < a + 64)) with
  | some a, _ => some (4, a)
  | none, some a => some (5, a)
  | none, none => if lsBytes < out + 15 * st + rowBytes d then some (7, out) else none

/-- The first row of R124. -/
def tepiLegal (d : List Byte) : Bool :=
  let ctl := at_ d 0x10 4
  let o := bits ctl 0 4
  bits ctl 13 19 == 0 && at_ d 0x1C 4 == 0 && decide (bits ctl 4 4 ≤ 4) && o != 6 && decide (o ≤ 8)

/-- R123, R124, R137, R138: a descriptor that lies in local SRAM is checked by the first row of R124 before its address. -/
def execTepi (gid word : Nat) (s : State) : Out :=
  onUnit s (decide (gid < 32768)) <|
  s.xyt gid word custom0 5 (decide (fF7 word < 2) && fRs2 word == 0 && fRd word == 0) [fRs1 word] fun s =>
  let a := ((s.th gid).xr (fRs1 word)).toNat
  let d := s.lsRead (thCore gid) a 32
  let here := decide (a + 32 ≤ lsBytes)
  if here && s.loadHeld gid a 32 then s
  else if here && !tepiLegal d then s.exceptFree gid 2
  else match firstFault [(a, 32, 32, 4, 5)], s.badIn (thCore gid) a 32 with
  | some (c, a), _ => s.except gid c a
  | none, some b => s.exceptSram gid b
  | none, none => match tepiFault d with
    | some (c, a) => s.except gid c a
    | none =>
      let e := s.entry gid (fAcc word) (.tepi d)
      if !s.queueRoom gid || e.writes.any (fun r => (s.th gid).loads.any (s.hits gid r.1 r.2)) then s else s.enqueue e

/-- R132. -/
def execTred (gid word : Nat) (s : State) : Out :=
  onUnit s (decide (gid < 32768)) <|
  s.xyt gid word custom0 6 (decide (fF7 word < 16) && bits word 27 2 != 3 && fRs2 word == 0 && fRs1 word == 0) [64 + fRd word] fun s =>
  if s.queueRoom gid then s.enqueue (s.entry gid (fAcc word) (.tred (bits word 27 2) (bits word 26 1 == 1) (fRd word))) else s

/- Passes and fences. -/

/-- A pass instruction's pass id and its exceptions (R133, R224). -/
def State.passArg (s : State) (g word cause : Nat) (f : Nat → State) : State :=
  let p := ((s.th g).xr (fRs1 word)).toNat
  if 1024 ≤ p then s.exceptFree g 2
  else if !s.inQuota (s.thFn g) p then s.exceptFree g cause
  else if (s.pass p).target = 0 then s.exceptFree g 28
  else f p

/-- R223, R136, R233: the thread waits until its earlier accesses and queued Xyt work are done. -/
def execPassArrive (gid word : Nat) (s : State) : Out :=
  onUnit s (decide (gid < 32768)) <|
  s.xyt gid word custom1 0 (fF7 word == 0 && fRs2 word == 0 && fRd word == 0) [fRs1 word] fun s =>
  s.passArg gid word 7 fun p =>
  if !(s.th gid).loads.isEmpty || !s.xytIdle gid then s else
  ((s.slotUsed gid).updTh gid fun t => { t with stall := .arrive p }).arrive p (some gid)

/-- R223. -/
def execPassWait (gid word : Nat) (s : State) : Out :=
  onUnit s (decide (gid < 32768)) <|
  s.xyt gid word custom1 1 (fF7 word == 0 && fRs2 word == 0) [fRs1 word] fun s =>
  s.passArg gid word 5 fun p =>
  let c := s.pass p
  let wait := fun g => (s.slotUsed gid).updTh gid fun t => { t with st := .passWait, stall := .wait p g (fRd word) none }
  match (s.th gid).latch with
  | some (q, g) =>
    if q ≠ p then wait c.gen
    else if g < c.gen then
      (s.updTh gid fun t => { t with latch := none }).retireX gid 4 (fRd word) (w64 (c.stampOf g))
    else wait g
  | none => wait c.gen

/-- R134, R136, R232: with W the thread waits for its loads and its queued Xyt work; it has no store in flight when it issues, and a
ferry's writes come before its completion shows, so nothing else is left to order. -/
def execFenceF (gid word : Nat) (s : State) : Out :=
  onUnit s (decide (gid < 32768)) <|
  s.xyt gid word custom1 2 (decide (fF7 word < 4) && fF7 word != 0 && fRs2 word == 0 && fRs1 word == 0 && fRd word == 0) [] fun s =>
  if bits word 25 1 = 1 && (!s.xytIdle gid || !(s.th gid).loads.isEmpty) then s else s.retired gid 4

/- The tensor unit. -/

/-- Admit up to n waiting units of an island in slot order from the slot after the last one admitted, and count them in the window
(R236). -/
def State.admitIssue (s : State) (i : Nat) : Nat → Nat → State
  | 0, _ => s
  | _, 0 => s
  | f + 1, n + 1 =>
    let slot := ((s.isl i).lastAdmit + 1) % 64
    let found := ((List.range 64).map fun k => (slot + k) % 64).find? fun k => (s.ten (i * 64 + k)).waiting
    match found with
    | none => s
    | some k =>
      let u := s.ten (i * 64 + k)
      ((s.setTen (i * 64 + k) { u with waiting := false, admitted := true }).updIsl i fun x =>
        { x with lastAdmit := k, winUsed := x.winUsed + 1 }).admitIssue i f n

/-- The ramp governor admits what the window of the present cycle still allows, in a cycle that is no bubble (R32, R236). -/
def State.admitUnits (s : State) (i : Nat) : State :=
  if !s.hasCycle i then s else
  let w := s.islCycle i / 32
  let t := if (s.isl i).winNo = w then s else s.updIsl i fun x => { x with winNo := w, winUsed := 0 }
  t.admitIssue i 64 (t.rampShare (t.islOwner i) i - (t.isl i).winUsed)

/-- R142, R235: the head entry dispatches in a cycle that is no bubble; an idle unit waits for admission first. -/
def execTensorDispatch (island slot : Nat) (s : State) : Out :=
  onUnit s (decide (island < 64 ∧ slot < 64)) <|
  let c := island * 64 + slot
  match (s.ten c).queue with
  | [] => s
  | e :: q =>
    if !(s.ten c).canDispatch e || !s.islClkOn (islDie island) || !s.hasCycle island then s
    else
      let ask := e.op.isMM && !(s.ten c).issuing && !(s.ten c).admitted
      let s := if ask then (s.setTen c { s.ten c with waiting := true }).admitUnits island else s
      let u := s.ten c
      if ask && !u.admitted then s.syncRamp island
      else match e.op with
      | .tmma _ _ | .tmmas _ _ =>
        s.setTen c { u with queue := q, arr := some e, reexec := false, issuing := true, admitted := false, waiting := false }
      | .tzero all =>
        let t := s.setTen c { u with queue := q }
        (t.updTh e.gid fun x => if all then (x.clearAcc 0).clearAcc 1 else x.clearAcc e.acc).afterXyt e
      | _ => s.setTen c { u with queue := q, epi := some e }

/-- The array is free again. -/
def State.freeArr (s : State) (c : Nat) : State := s.setTen c { s.ten c with arr := none, reexec := false }

/-- The epilogue stage is free again. -/
def State.freeEpi (s : State) (c : Nat) : State := s.setTen c { s.ten c with epi := none }

/-- A correctable error in an entry's reads (R56). -/
def State.readCorrected (s : State) (e : TEntry) (err : SramErr) : State :=
  match err with
  | .correctable k =>
    s.sramCorrected (thIsl e.gid) (thCore e.gid % 64) ((e.reads[k]?).getD (0, 0)).1 (s.th e.gid).ctx false
  | _ => s

/-- A queued instruction faults: it leaves its stage with no effect (R139). -/
def State.xytFault (s : State) (e : TEntry) (cause : Nat) : State :=
  let (w, t) := s.free
  t.throwAt e.gid cause w.toNat e.pc

/-- R75, R76, R112, R116: the check passes, or the unit executes the TMMA again. An uncorrectable operand read faults (R139). -/
def execTmmaComplete (island slot : Nat) (mismatch : Bool) (err : SramErr) (s : State) : Out :=
  onUnit s (decide (island < 64 ∧ slot < 64)) <|
  let c := island * 64 + slot
  match (s.ten c).arr with
  | none => s
  | some e =>
    if (s.ten c).reexec || (s.ten c).sramHeld e then s else
    let ctx := (s.th e.gid).ctx
    match s.badRead e err, err with
    | some a, _ =>
      if s.faultWaits e.gid e.ord then s else ((s.sramError island slot a ctx 4).freeArr c).throwAt e.gid 26 a e.pc
    | none, .parity => if s.faultWaits e.gid e.ord then s else ((s.sramError island slot 0 ctx 7).freeArr c).xytFault e 27
    | none, _ =>
      let s := s.readCorrected e err
      if mismatch then
        let t := s.setTen c { s.ten c with reexec := true }
        let t := ((t.count .ISL_RES_CORR island 1).hwSet .ISL_EVT island 1).logCore island slot 1 1 0 0 ctx
        (t.spareEvent 9 island (t.physOf island slot)).remapFree [island]
      else ((s.finishMM e).freeArr c).afterXyt e

/-- R77, R79. -/
def execTensorReexecDone (island slot : Nat) (mismatch : Bool) (s : State) : Out :=
  onUnit s (decide (island < 64 ∧ slot < 64)) <|
  let c := island * 64 + slot
  match (s.ten c).arr with
  | none => s
  | some e =>
    if !(s.ten c).reexec then s
    else if !mismatch then ((s.finishMM e).freeArr c).afterXyt e
    else if s.faultWaits e.gid e.ord then s
    else
      let ph := s.physOf island slot
      let k := island * 66 + ph
      let t := ((s.freeArr c).count .ISL_ARITH_FLT island 1).hwSet .ISL_EVT island 2
      let t := t.logFault island slot 2 0 (t.th e.gid).ctx
      let t := { t with fab := { t.fab with cores := tabUpd t.fab.cores {} k fun h => { h with suspect := true } } }
      ((t.spareEvent 8 island ph).remapFree [island]).xytFault e 24

/-- R130, R131, R139, R127: the tile is written once the adapter lines are there. bad names the slots whose lines met a cache error: they
leave the cache and are fetched again. -/
def execTepiComplete (island slot : Nat) (err : SramErr) (bad : List Nat) (s : State) : Out :=
  onUnit s (decide (island < 64 ∧ slot < 64)) <|
  let c := island * 64 + slot
  match (s.ten c).epi with
  | none => s
  | some e => match e.op with
    | .tepi d =>
      let ctx := (s.th e.gid).ctx
      let lost := (s.linesFor e d).filter fun l => bad.contains l.1
      if (s.ten c).sramHeld e || !((s.linesFor e d).all (s.isl island).lines.contains) then s
      else if !lost.isEmpty then s.updIsl island fun x => { x with lines := x.lines.filter fun l => !lost.contains l }
      else match s.badRead e err, err with
      | some a, _ =>
        if s.faultWaits e.gid e.ord then s else ((s.sramError island slot a ctx 4).freeEpi c).throwAt e.gid 26 a e.pc
      | none, .parity => if s.faultWaits e.gid e.ord then s else ((s.sramError island slot 0 ctx 7).freeEpi c).xytFault e 27
      | none, _ => (((s.readCorrected e err).finishEpi e d).freeEpi c).afterXyt e
    | _ => s

/-- R132, R139. -/
def execTredComplete (island slot : Nat) (parity : Bool) (s : State) : Out :=
  onUnit s (decide (island < 64 ∧ slot < 64)) <|
  let c := island * 64 + slot
  match (s.ten c).epi with
  | none => s
  | some e => match e.op with
    | .tred op col vd =>
      if parity then
        if s.faultWaits e.gid e.ord then s else ((s.sramError island slot 0 (s.th e.gid).ctx 7).freeEpi c).xytFault e 27
      else ((s.finishRed e op col vd).freeEpi c).afterXyt e
    | _ => s

/-- R127, R295: a line of adapter, layer and group (the first of its 16 channels) fills, of at most 512. Which line of a full
cache makes room is a free value (log entry 3). ue says that the fill met a plain data error. -/
def execAdapterCacheFill (island slot adapter layer group : Nat) (ue : Bool) (s : State) : Out :=
  onUnit s (decide (island < 64 ∧ slot < 64)) <|
  let c := island * 64 + slot
  match (s.ten c).epi with
  | none => s
  | some e => match e.op with
    | .tepi d =>
      if !(s.linesFor e d).contains (adapter, layer, group) || (s.isl island).lines.contains (adapter, layer, group) then s
      else if ue then (if s.faultWaits e.gid e.ord then s else (s.freeEpi c).xytFault e 25)
      else if (s.isl island).lines.length < 512 then
        s.updIsl island fun x => { x with lines := x.lines ++ [(adapter, layer, group)] }
      else
        let (w, t) := s.free
        t.updIsl island fun x => { x with lines := x.lines.eraseIdx (w.toNat % 512) ++ [(adapter, layer, group)] }
    | _ => s

/-- R235: 256 cycles have passed with no TMMA or TMMAS dispatched. -/
def execTensorIdleTimeout (island slot : Nat) (s : State) : Out :=
  onUnit s (decide (island < 64 ∧ slot < 64)) <|
  let c := island * 64 + slot
  s.setTen c { s.ten c with issuing := false }

/-- R236. -/
def execRampWindow (island : Nat) (s : State) : Out :=
  onUnit s (decide (island < 64)) <|
  (s.admitUnits island).syncRamp island

end Sys2Proof.Machine
end

