-- ==== Sys2Proof/Machine/Threads.lean ====
section
/-! DEFINITION. Commands on threads, contexts, claim counters and islands (02). -/

namespace Sys2Proof.Machine

open Sys2Proof

/- Scalar instructions. -/

/-- The f registers that an F operation reads: none where it reads an x register. -/
def FpOp.sources (op : FpOp) (a b c : Nat) : List Nat :=
  match op with
  | .madd | .msub | .nmsub | .nmadd => [a, b, c]
  | .sqrt | .cls | .mvXW | .cvtWS | .cvtWUS | .cvtLS | .cvtLUS => [a]
  | .mvWX | .cvtSW | .cvtSWU | .cvtSL | .cvtSLU => []
  | _ => [a, b]

/-- Registers that a scalar instruction reads (R48). -/
def opKeys (op : ScalarOp) : List Nat :=
  match op with
  | .lui _ _ | .auipc _ _ | .jal _ _ | .nop | .wfi | .illegal _ | .parity => []
  | .alu _ _ _ a b | .store b a _ _ | .branch _ a b _ => [a, b]
  | .alui _ _ _ a _ | .load _ a _ _ _ | .jalr _ a _ | .flw _ a _ => [a]
  | .fsw b a _ => [a, 32 + b]
  | .fp op _ a b c _ => (if FpOp.fromX op then [a] else []) ++ (FpOp.sources op a b c).map (32 + ·)

/-- Register numbers are below 32 and access sizes are those of RV64I. -/
def opOk (op : ScalarOp) : Bool :=
  (match op with
    | .lui rd _ | .auipc rd _ | .jal rd _ => decide (rd < 32)
    | .alu _ _ rd a b => decide (rd < 32 ∧ a < 32 ∧ b < 32)
    | .alui _ _ rd a _ | .jalr rd a _ | .flw rd a _ => decide (rd < 32 ∧ a < 32)
    | .load rd a _ n _ => decide (rd < 32 ∧ a < 32) && [1, 2, 4, 8].contains n
    | .store b a _ n => decide (b < 32 ∧ a < 32) && [1, 2, 4, 8].contains n
    | .fsw b a _ => decide (b < 32 ∧ a < 32)
    | .branch _ a b _ => decide (a < 32 ∧ b < 32)
    | .fp _ rd a b c rm => decide (rd < 32 ∧ a < 32 ∧ b < 32 ∧ c < 32 ∧ rm < 8)
    | _ => true)

/-- The operations with an immediate form. -/
def hasImm (op : AluOp) : Bool :=
  match op with
  | .add | .sll | .slt | .sltu | .xor | .srl | .sra | .or | .and => true
  | _ => false

/-- The effect of a scalar integer or floating-point instruction at issue (R41). -/
def State.scalar (s : State) (g len : Nat) (op : ScalarOp) : State :=
  let t := s.th g
  let imm := fun (i : Int) => w64 (unsignedOf 64 i)
  let ea := fun rs1 (i : Int) => (t.xr rs1 + imm i).toNat
  match op with
  | .lui rd v => s.retireX g len rd (sext32 (v % 2 ^ 20 * 2 ^ 12))
  | .auipc rd v => s.retireX g len rd (t.pc + sext32 (v % 2 ^ 20 * 2 ^ 12))
  | .alu op w rd a b =>
    if w && !AluOp.hasW op then s.exceptFree g 2
    else s.retireX g len rd ((if w then alu32 else alu64) op (t.xr a) (t.xr b))
  | .alui op w rd a i =>
    if !hasImm op || (w && !AluOp.hasW op) then s.exceptFree g 2
    else s.retireX g len rd ((if w then alu32 else alu64) op (t.xr a) (imm i))
  | .load rd a i n sext => s.load g len rd (ea a i) (.int n sext)
  | .flw rd a i => s.load g len rd (ea a i) .fp
  | .store b a i n => s.store g len (ea a i) (natLe (t.xr b).toNat n)
  | .fsw b a i => s.store g len (ea a i) (natLe (t.fr b) 4)
  | .jal rd off => (s.retireX g len rd (t.pc + w64 len)).updTh g fun x => { x with pc := t.pc + imm off }
  | .jalr rd a off => (s.retireX g len rd (t.pc + w64 len)).updTh g fun x => { x with pc := (t.xr a + imm off) &&& ~~~1 }
  | .branch c a b off =>
    if BrCond.holds c (t.xr a) (t.xr b) then (s.retired g len).updTh g fun x => { x with pc := t.pc + imm off }
    else s.retired g len
  | .fp op rd a b c rm =>
    match (if FpOp.rounds op then effRm rm t.frm else some 0) with
    | none => s.exceptFree g 2
    | some m =>
      if FpOp.toX op then
        let (v, fl) := fpToInt op m (t.fr a) (t.fr b)
        (s.updTh g fun x => { x.putX rd v with fflags := Nat.lor x.fflags fl }).retired g len
      else
        let (v, fl) := fpResult op m (t.fr a) (t.fr b) (t.fr c) (t.xr a)
        (s.updTh g fun x => { x.putF rd v with fflags := Nat.lor x.fflags fl }).retired g len
  | .nop => s.retired g len
  | .wfi | .illegal _ => s.exceptFree g 2
  | .parity =>
    if s.faultWaits g t.instret then s else (s.sramError (thIsl g) (thCore g % 64) 0 t.ctx 7).exceptFree g 27

/-- The effective address of a load or store, none for another instruction. -/
def ScalarOp.addr (op : ScalarOp) (t : Thread) : Option Nat :=
  let ea := fun rs1 (i : Int) => (t.xr rs1 + w64 (unsignedOf 64 i)).toNat
  match op with
  | .load _ a i _ _ | .flw _ a i | .store _ a i _ | .fsw _ a i => some (ea a i)
  | _ => none

/-- The unit that a scalar instruction of a thread needs takes it: an access that would exceed the quota, or that a hold of R75 or R135
keeps back, does not issue (R48, R54). -/
def State.opTaken (s : State) (g : Nat) (op : ScalarOp) : Bool :=
  let t := s.th g
  match op, ScalarOp.addr op t with
  | .load _ _ _ n _, some a => decide (winBase ≤ a) || !s.loadWaits g n [a]
  | .flw _ _ _, some a => decide (winBase ≤ a) || !s.loadWaits g 4 [a]
  | .store b _ _ n, some a => decide (winBase ≤ a) || !s.storeWaits g [(a, natLe (t.xr b).toNat n)]
  | .fsw b _ _, some a => decide (winBase ≤ a) || !s.storeWaits g [(a, natLe (t.fr b) 4)]
  | _, _ => true

/-- The thread that a core issues from: the first ready one after the thread that issued last (R47, R48). -/
def State.pickThread (s : State) (core : Nat) (op : ScalarOp) : Option Nat :=
  ((List.range 8).map fun k => core * 8 + (tabGet s.fab.rr 7 core + 1 + k) % 8).find? fun g =>
    s.ready g (opKeys op) && s.opTaken g op

/-- R47, R48: op is the instruction at the chosen thread's pc, len its bytes. -/
def execThreadIssue (island slot : Nat) (op : ScalarOp) (len : Nat) (s : State) : Out :=
  onUnit s (decide (island < 64 ∧ slot < 64) && (len == 2 || len == 4) && opOk op) <|
  match s.pickThread (island * 64 + slot) op with
  | some g => s.issue g len (opKeys op) (·.scalar g len op)
  | none => s

/-- R50: op is the instruction at the thread's pc. -/
def execVectorInstruction (gid : Nat) (op : VecOp) (s : State) : Out :=
  onUnit s (decide (gid < 32768) && VecOp.ok op) <|
  if s.vecFree gid && s.vTaken gid op then s.issue gid 4 (VecOp.keys op (s.th gid)) (·.vector gid op) else s

/- Completions of loads and stores. -/

/-- Write the data of a load to its register. -/
def Thread.deliver (t : Thread) (l : PLoad) (data : List (List Byte)) : Thread :=
  if l.dead then t else
  match l.kind with
  | .int n sext =>
    let v := leNat (data.headD [])
    t.setX l.rd (w64 (if sext then unsignedOf 64 (signed (8 * n) v) else v))
  | .fp => t.setF l.rd (leNat (data.headD []))
  | .vec eew es => (es.zip data).foldl (fun t e => t.setElem l.rd eew e.1.1 (leNat e.2)) t

/-- The address of a thread lies in a SRAM word that the scrub found uncorrectable (R180). -/
def State.badWord (s : State) (g a : Nat) : Bool := (s.locOf (s.thFn g) (thIsl g) (thCore g) a false).any s.badLoc

/-- An error of the SRAM word behind an address of a thread, charged to the island that holds it (R56, R73): fault is that it is
uncorrectable. -/
def State.sramAt (s : State) (g a : Nat) (fault : Bool) : State :=
  let ctx := (s.th g).ctx
  match s.locOf (s.thFn g) (thIsl g) (thCore g) a false with
  | some (.lsram c o) => if fault then s.sramError (thIsl g) (c % 64) o ctx 4 else s.sramCorrected (thIsl g) (c % 64) o ctx false
  | some (.istore i o) => if fault then s.sramError i 0 o ctx 6 else s.sramCorrected i 0 o ctx true
  | _ => s

/-- The address lies in local SRAM or an island store. -/
def State.inSram (s : State) (g a : Nat) : Bool :=
  match s.locOf (s.thFn g) (thIsl g) (thCore g) a false with
  | some (.lsram _ _) | some (.istore _ _) => true
  | _ => false

/-- What a load finds: a plain data fault, an uncorrectable SRAM word, a parity error of its destination, or its data with the
address of a corrected word. -/
inductive Found where
  | plain (a : Nat)
  | sram (a : Nat)
  | parity
  | data (ce : Option Nat)

/-- The first failure of a load's elements, from pages that are QUARANTINED, channels that have FAILED, SRAM words that the scrub marked,
and the check that the command reports (R56, R71, R174, R180). -/
def State.found (s : State) (g : Nat) (l : PLoad) (err : SramErr) : Found :=
  match s.plainBad (s.thFn g) l.addrs false, l.addrs.find? (s.badWord g), err with
  | some a, _, _ => .plain a
  | none, some a, _ => .sram a
  | none, none, .uncorrectable k =>
    let a := (l.addrs[k]?).getD 0
    if s.inSram g a then .sram a else .data none
  | none, none, .parity => .parity
  | none, none, .correctable k => .data ((l.addrs[k]?).filter (s.inSram g))
  | none, none, .none => .data none

/-- An earlier load of the thread that is in flight reads a byte that this one reads: accesses of one location take effect in order
(R230). -/
def State.sameBefore (s : State) (g n : Nat) (l : PLoad) : Bool :=
  ((s.th g).loads.take n).any fun o => l.addrs.any fun a => s.hits g a l.kind.bytes o

/-- R56, R71, R174, R230: n is the load's place among those that the thread has outstanding, err what a check of local SRAM, the island
store or the register file found. A faulting load waits until every earlier instruction has completed. -/
def execThreadLoadReturn (gid n : Nat) (err : SramErr) (s : State) : Out :=
  onUnit s (decide (gid < 32768)) <|
  match (s.th gid).loads[n]? with
  | none => s
  | some l =>
    if s.addrsTrain (s.thFn gid) (thIsl gid) (thCore gid) l.addrs || s.sameBefore gid n l then s else
    let drop := fun (s : State) => s.updTh gid fun t => { t with loads := t.loads.eraseIdx n }
    let wait := s.faultWaits gid l.ord
    match s.found gid l err with
    | .plain a => if wait then s else (drop (s.failAt (s.thFn gid) a (s.th gid).ctx)).throwAt gid 25 a l.pc
    | .sram a => if wait then s else (drop (s.sramAt gid a true)).throwAt gid 26 a l.pc
    | .parity =>
      if wait then s else
      let (w, t) := (drop (s.sramError (thIsl gid) (thCore gid % 64) 0 (s.th gid).ctx 7)).free
      t.throwAt gid 27 w.toNat l.pc
    | .data ce =>
      let data := l.addrs.map fun a => s.readBytes (s.thFn gid) (thIsl gid) (thCore gid) a l.kind.bytes
      let u := (drop s).updTh gid fun t => t.deliver l data
      match ce with
      | some a => u.sramAt gid a false
      | none => u

/-- R167, R165, R174: a store waits for the migration of its page (R176), and one that faults for the thread's earlier instructions. -/
def execThreadStoreComplete (gid : Nat) (s : State) : Out :=
  onUnit s (decide (gid < 32768)) <|
  match (s.th gid).store with
  | none => s
  | some p =>
    let done := fun (s : State) => s.updTh gid fun t => { t with store := none }
    let as := p.parts.map (·.1)
    if s.addrsTrain (s.thFn gid) (thIsl gid) (thCore gid) as || s.addrsMove (s.thFn gid) as then s else
    match s.plainBad (s.thFn gid) as true with
    | some a => if s.faultWaits gid p.ord then s else (done (s.failAt (s.thFn gid) a (s.th gid).ctx)).throwAt gid 25 a p.pc
    | none => done (s.landParts (s.thFn gid) (thIsl gid) (thCore gid) p.parts)

/- Fences, system instructions and CSRs. -/

/-- R231: the sets hold I 8, O 4, R 2, W 1. -/
def execFence (gid pred _succ : Nat) (s : State) : Out :=
  onUnit s (decide (gid < 32768)) <|
  if (pred / 2 % 2 = 1 && !(s.th gid).loads.isEmpty) || (pred % 4 ≠ 0 && !s.xytIdle gid) then s
  else s.issue gid 4 [] (·.retired gid 4)

/-- R46: the thread issues again 64 cycles later. -/
def execFenceI (gid : Nat) (s : State) : Out :=
  onUnit s (decide (gid < 32768)) <|
  s.issue gid 4 [] fun s => (s.retired gid 4).updTh gid fun t => { t with stall := .icache (s.islCycle (thIsl gid) + 64) }

/-- An operator debug session is open (R462). -/
def State.debugOpen (s : State) : Bool := s.rdF .SEC_DEBUG 0 0 3 != 0

/-- R74. -/
def execEbreak (gid len : Nat) (s : State) : Out :=
  onUnit s (decide (gid < 32768)) <|
  s.issue gid len [] fun s =>
    if s.debugOpen then (s.slotUsed gid).updTh gid fun t => { t with st := .halted } else s.exceptFree gid 3

/-- The value of a U-level CSR, none for a number that R69 does not list. -/
def State.csrRead (s : State) (g n : Nat) : Option Word :=
  let t := s.th g
  let i := thIsl g
  let fn := s.thFn g
  match n with
  | 0x001 => some (w64 t.fflags)
  | 0x002 => some (w64 t.frm)
  | 0x003 => some (w64 (t.fflags + 32 * t.frm))
  | 0x008 => some (w64 t.vstart)
  | 0x009 => some (w64 t.vxsat)
  | 0x00A => some (w64 t.vxrm)
  | 0x00F => some (w64 (t.vxsat + 2 * t.vxrm))
  | 0x800 => some t.tcfg
  | 0x801 => some t.scaleA
  | 0x802 => some t.scaleB
  | 0x803 => some t.layer
  | 0x808 => some (w64 (tabGet s.pwr.phase 0 fn))
  | 0xC00 => some (w64 (s.islCycle i))
  | 0xC01 => some (w64 s.time)
  | 0xC02 => some (w64 t.instret)
  | 0xC20 => some (w64 t.vl)
  | 0xC21 => some t.vtype
  | 0xC22 => some 64
  | 0xCC0 => some (w64 i)
  | 0xCC1 => some (w64 (s.islIndex fn i))
  | 0xCC2 => some (w64 (thCore g % 64))
  | 0xCC3 => some (w64 g)
  | 0xCC4 => some (w64 (s.exposed i))
  | 0xCC5 => some (w64 (s.islandsOf fn).length)
  | 0xCC6 => some (w64 fn)
  | 0xCC7 => some (w64 (tabGet s.pwr.granted 5 (islDie i)))
  | 0xCC8 => some (w64 (tabGet s.pwr.inForce 0 i))
  | 0xCC9 => some (w64 (s.prt fn).ramp)
  | 0xCCA => some (w64 (s.islIndex fn i * 512 + g % 512))
  | _ => none

/-- Write a U-level CSR; none where the write raises an illegal-instruction exception (R69, R103). -/
def State.csrWrite (s : State) (g n : Nat) (v : Word) : Option State :=
  let u := fun (f : Thread → Thread) => some (s.updTh g f)
  match n with
  | 0x001 => u fun t => { t with fflags := fld v 0 5 }
  | 0x002 => u fun t => { t with frm := fld v 0 3 }
  | 0x003 => u fun t => { t with fflags := fld v 0 5, frm := fld v 5 3 }
  | 0x008 => u fun t => { t with vstart := fld v 0 9 }
  | 0x009 => u fun t => { t with vxsat := fld v 0 1 }
  | 0x00A => u fun t => { t with vxrm := fld v 0 2 }
  | 0x00F => u fun t => { t with vxsat := fld v 0 1, vxrm := fld v 1 2 }
  | 0x800 => if tcfgValid v then u fun t => { t with tcfg := v } else none
  | 0x801 => u fun t => { t with scaleA := v }
  | 0x802 => u fun t => { t with scaleB := v }
  | 0x803 => u fun t => { t with layer := v &&& 0xFFFF }
  | 0x808 => some (s.setPhase (s.thFn g) v.toNat)
  | _ => none

/-- What a CSR instruction writes, given the old value and its source; none where it only reads. -/
def csrNew (op : CsrOp) (old v : Word) (src : Nat) : Option Word :=
  match op with
  | .rw | .rwi => some v
  | .rs | .rsi => if src = 0 then none else some (old ||| v)
  | .rc | .rci => if src = 0 then none else some (old &&& ~~~v)

/-- The source is an immediate. -/
def csrImm (op : CsrOp) : Bool := match op with | .rwi | .rsi | .rci => true | _ => false

/-- R69: src is the source register, or the immediate of an immediate form. -/
def execCsrAccess (gid csr : Nat) (op : CsrOp) (rd src : Nat) (s : State) : Out :=
  onUnit s (decide (gid < 32768 ∧ csr < 4096 ∧ rd < 32 ∧ src < 32)) <|
  s.issue gid 4 (if csrImm op then [] else [src]) fun s =>
  match s.csrRead gid csr with
  | none => s.exceptFree gid 2
  | some old =>
    let v := if csrImm op then w64 src else (s.th gid).xr src
    match csrNew op old v src with
    | none => s.retireX gid 4 rd old
    | some new => match s.csrWrite gid csr new with
      | none => s.exceptFree gid 2
      | some t => t.retireX gid 4 rd old

/-- R70: a thread of a running context writes yphase. -/
def execYphaseWrite (gid value : Nat) (s : State) : Out :=
  onUnit s (decide (gid < 32768)) <| if s.ctxRuns gid then s.setPhase (s.thFn gid) value else s

/-- R508. -/
def execPwrPhPhaseStore (gid value : Nat) (s : State) : Out :=
  onUnit s (decide (gid < 32768)) <| if s.ctxRuns gid then s.setPhase (s.thFn gid) value else s

/- Monitor calls (R66). -/

/-- R66: a7 = 0. -/
def execExit (gid : Nat) (s : State) : Out :=
  onUnit s (decide (gid < 32768)) <|
  if (s.th gid).xr 17 ≠ 0 || s.monHeld then s else
  s.issue gid 4 [10, 17] fun s => ((s.retired gid 4).updTh gid fun t => { t with exiting := true }).settleExit gid

/-- Words of a byte list, four bytes each. -/
def toWords : Nat → List Byte → List Nat
  | 0, _ => []
  | n + 1, l => leNat (l.take 4) :: toWords n (l.drop 4)

/-- R66, R67: a7 = 1. -/
def execTrace (gid : Nat) (s : State) : Out :=
  onUnit s (decide (gid < 32768)) <|
  let t := s.th gid
  if t.xr 17 ≠ 1 || s.monHeld then s else
  s.issue gid 4 [10, 11, 17] fun s =>
  let a := (t.xr 10).toNat
  let n := (t.xr 11).toNat
  if n = 0 ∨ 256 < n ∨ lsBytes < a + n then s.retireX gid 4 10 (w64 (unsignedOf 64 (-2)))
  else if (match tabFind s.fab.traceT gid with | some x => decide (s.time < x + 100000) | none => false) then
    let fn := s.thFn gid
    { s with fab := { s.fab with traceDrops := tabUpd s.fab.traceDrops 0 fn (· + 1) } }.retireX gid 4 10 1
  else
    let data := s.lsRead (thCore gid) a n
    let u := s.post (s.thFn gid) 0x0206 ([t.ctx, gid, n] ++ toWords (ceilDiv n 4) data)
    { u with fab := { u.fab with traceT := tabSet u.fab.traceT gid s.time } }.retireX gid 4 10 0

/-- R66: a7 = 2. -/
def execAbort (gid : Nat) (s : State) : Out :=
  onUnit s (decide (gid < 32768)) <|
  let t := s.th gid
  if t.xr 17 ≠ 2 || s.monHeld then s else
  s.issue gid 4 [10, 17] fun s => (s.retired gid 4).stopCtx t.ctx (.abort ((t.xr 10).toNat % 2 ^ 32)) none

/-- R66: any other a7. -/
def execEcallUnknown (gid : Nat) (s : State) : Out :=
  onUnit s (decide (gid < 32768)) <|
  if ((s.th gid).xr 17).toNat < 3 || s.monHeld then s else
  s.issue gid 4 [10, 17] fun s => s.retireX gid 4 10 (w64 (2 ^ 64 - 1))

/- Contexts. -/

/-- The engine reset that a context's reset has been replaced by waits (R560). -/
def State.engineAsked (s : State) (x : Ctx) : Bool :=
  match x.charge with
  | some src => x.reported && s.ras.resets.any fun r => match r with | .engine e _ => e == src | _ => false
  | none => false

/-- R72, R554, R649: the fault event, the ladder, and the reset. -/
def execContextReset (ctx : Nat) (s : State) : Out :=
  onUnit s (decide (ctx < 2 ^ 32)) <|
  match s.ctx ctx with
  | none => s
  | some x => match x.why with
    | none => s
    | some why =>
      if x.done || s.engineAsked x then s else
      let t := (s.faultEvent ctx x why).setCtx ctx { x with reported := true }
      let (t, engine) := t.countCtx ctx
      if engine then t else (t.finishCtx ctx why false).remapFree x.islands

/-- Every active thread of a context has exited and its Xyt work has completed (R53). -/
def State.ctxFinished (s : State) (c : Nat) : Bool :=
  s.fab.threads.all fun e => e.2.ctx != c || e.2.st == .idle || (e.2.st == .exited && s.xytIdle e.1)

/-- R53, R649: CTX_DONE with status EXIT. -/
def execContextDone (ctx : Nat) (s : State) : Out :=
  onUnit s (decide (ctx < 2 ^ 32)) <|
  match s.ctx ctx with
  | none => s
  | some x =>
    if x.done || x.why.isSome || !s.ctxFinished ctx then s else
    let t := { s with fab := { s.fab with threads := s.fab.threads.filter fun e => e.2.ctx != ctx } }
    let t := (t.setCtx ctx { x with done := true }).syncCtx x.islands
    let t := match x.serving with
      | some m => t.failStep x.fn m rProgram
      | none => t
    (t.post x.fn 0x0201 [ctx, 0, 0]).remapFree x.islands

/- Claim counters (R62). -/

/-- A fetch operation of a claim counter by a thread's 64-bit load. -/
def State.claimOp (s : State) (g n k rd reg : Nat) : State :=
  s.issue g 4 [] fun s => s.load g 4 rd (winBase + 0x100000 + n * 0x1000 + k * 0x40 + reg) (.int 8 false)

/-- R62, offset 0x08. -/
def execClaimFetchInc (gid n k rd : Nat) (s : State) : Out :=
  onUnit s (decide (gid < 32768 ∧ n < 64 ∧ k < 64 ∧ rd < 32)) (s.claimOp gid n k rd 0x08)

/-- R62, offset 0x18. -/
def execClaimFetchAdd (gid n k rd : Nat) (s : State) : Out :=
  onUnit s (decide (gid < 32768 ∧ n < 64 ∧ k < 64 ∧ rd < 32)) (s.claimOp gid n k rd 0x18)

/-- R62, offset 0x20. -/
def execClaimBoundedInc (gid n k rd : Nat) (s : State) : Out :=
  onUnit s (decide (gid < 32768 ∧ n < 64 ∧ k < 64 ∧ rd < 32)) (s.claimOp gid n k rd 0x20)

/- Islands. -/

/-- A serving context of the island runs a step now (R81). -/
def State.midStep (s : State) (i : Nat) : Bool :=
  s.fab.ctxs.any fun e => e.2.active && e.2.islands.contains i &&
    (match e.2.serving with
     | some m => (match s.model e.2.fn m with | some c => c.step.isSome | none => false)
     | none => false)

/-- R81: 10 min after the marking. -/
def execRemapDeadline (island : Nat) (s : State) : Out :=
  onUnit s (decide (island < 64)) <|
  if s.rdF .ISL_STATUS island 24 1 = 0 then s
  else if s.midStep island then s.updIsl island fun x => { x with remapDue := true } else s.askRemap island

/-- R81: 100 ms later, in the middle of the step. -/
def execRemapForceMidstep (island : Nat) (s : State) : Out :=
  onUnit s (decide (island < 64)) <| if (s.isl island).remapDue then s.askRemap island else s

/-- The translation that a cache takes from the map, with its copy of the page's state (R165, R169). -/
def State.tlbEntry (s : State) (fn vpn : Nat) (e : MapEnt) : TlbEnt :=
  let p := s.page e.ppn
  { fn := fn, vpn := vpn, ppn := e.ppn, write := e.write, owner := p.owner, st := p.st, epoch := p.epoch }

/-- A miss fills an island's TLB: 2,048 entries in 256 sets of 8 ways (02, the island). Which entry of a full set makes room is a free value
(log entry 3). -/
def State.fillIsland (s : State) (island : Nat) (ent : TlbEnt) : State :=
  let set := (s.isl island).tlb.filter fun x => x.vpn % 256 == ent.vpn % 256
  if set.length < 8 then s.updIsl island fun x => { x with tlb := x.tlb ++ [ent] } else
  let (w, t) := s.free
  match set[w.toNat % 8]? with
  | some v => t.updIsl island fun x => { x with tlb := x.tlb.erase v ++ [ent] }
  | none => t

/-- R169, R85, R172: cache names an island's TLB (0 to 63), the cache of a long ferry (64 + ferry) or that of the hub (80). An island's TLB
serves its owner; the spec gives the other caches no size (log entry 104). -/
def execTlbFill (cache fn vpn : Nat) (s : State) : Out :=
  onUnit s (decide (cache < 81 ∧ fn ≤ 16 ∧ vpn < 2 ^ 21)) <|
  match tabFind s.pln.maps (mapKey fn vpn) with
  | none => s
  | some e =>
    let ent := s.tlbEntry fn vpn e
    let held := fun (l : List TlbEnt) => l.any fun x => decide (x.fn = fn ∧ x.vpn = vpn)
    if cache < 64 then
      if s.islOwner cache ≠ fn || held (s.isl cache).tlb then s else s.fillIsland cache ent
    else
      let l := tabGet s.pln.caches [] (cache - 64)
      if held l then s else { s with pln := { s.pln with caches := tabSet s.pln.caches (cache - 64) (l ++ [ent]) } }

/-- The droop threshold of an island in mV (R93). -/
def State.droopMv (s : State) (i : Nat) : Nat := 20 + 5 * min 8 (s.rdF .ISL_DROOP_CFG i 0 4)

/-- R87, R88, R93: drop is by how many mV the supply fell below the operating point's voltage; 64 cycles of droop bubbles begin, or
begin again. -/
def execDroopCrossing (island drop : Nat) (s : State) : Out :=
  onUnit s (decide (island < 64)) <|
  if drop ≤ s.droopMv island then s else
  let t := s.accrueSteps.updIsl island fun x => { x with droopAt := some (s.islCycle island), droopUs := true }
  (((t.wrF .ISL_BUBBLE island 7 1 1).count .ISL_DROOP_FIRES island 1).hwSet .ISL_EVT island 32).setReason island thrCurrent true

/-- R87, R88: the 64 cycles have passed since the last crossing. CURRENT stays for the microsecond, at whose end DUTY_TICK looks again
(R522). -/
def execDroopBubbleEnd (island : Nat) (s : State) : Out :=
  onUnit s (decide (island < 64)) <|
  match (s.isl island).droopAt with
  | none => s
  | some c =>
    if s.islCycle island < c + 64 then s else
    (s.accrueSteps.updIsl island fun x => { x with droopAt := none }).wrF .ISL_BUBBLE island 7 1 0

/-- R89. -/
def execIslWinSelWrite (value : Nat) (s : State) : Out := .next (s.swWrite 0 .ISL_WIN_SEL 0 value)

/-- R89, R95. -/
def execPdmStart (island : Nat) (s : State) : Out := onUnit s (decide (island < 64)) (s.pdmStart island)

/-- R94, R89: margins holds the taps that the eight monitors measured. -/
def execPdmDone (island : Nat) (margins : List Nat) (s : State) : Out :=
  onUnit s (decide (island < 64)) <|
  if s.rdF .ISL_PDM_CTL island 0 1 = 0 then s else
  let op := tabGet s.pwr.granted 5 (islDie island)
  let t := (List.range 8).foldl (fun t k =>
    t.wrN (pdmReg k) island ((margins[k]?).getD 0 % 4096 + 4096 * (op % 8) + 32768)) (s.wrF .ISL_PDM_CTL island 0 1 0)
  t.hwSet .ISL_EVT island 64

end Sys2Proof.Machine
end

