-- ==== Sys2Proof/Machine/Twin.lean ====
section
/-! DEFINITION. Commands on the twin link and the cables (11 R418 to R435): training, flits, heartbeats, cable management. -/

namespace Sys2Proof.Machine

open Sys2Proof

/-- R418, R419, R432: failed are the lanes on which receiver detect, lock or equalisation fails. -/
def execTwinTrain (peerMask inverted : Nat) (reversed : Bool) (failed : List Nat) (s : State) : Out :=
  onUnit s (decide (peerMask < 256 ∧ inverted < 256) && failed.all fun l => decide (l < 8)) <|
  if !s.brd.powered || s.twinState = 2 || !bitAt (s.rdN .TIM_CLK_LOCK 0) 16 || (tabGet s.lnk.cables {} 1).wrong then s
  else s.trainTwin peerMask inverted reversed failed

/-- R419: 1 s without a good lane set. -/
def execTwinTrainRetry (s : State) : Out :=
  .next (if s.brd.powered && s.twinState == 0 then s.wrF .TWN_STATUS 0 0 2 1 else s)

/-- R420 to R422, R433: symbols were corrected; fecOk that no codeword of the flit is uncorrectable; worn are the lanes whose symbol
error ratio over 1 s is above 10^−4. -/
def execTwinFlitReceive (seq ack : Nat) (ackv : Bool) (symbols : Nat) (fecOk crcOk aligned : Bool) (worn : List Nat) (s : State) : Out :=
  onUnit s (decide (seq < 4096 ∧ ack < 4096) && worn.all fun l => decide (l < 8)) <|
  if s.twinState ≠ 2 then s
  else if !aligned then s.twinRetrain
  else
    let t := s.count .TWN_FEC_CORR 0 symbols
    let t := if !fecOk then (t.count .TWN_FEC_UNC 0 1).twinDiscard
      else if !crcOk then (t.count .TWN_CRC_FAIL 0 1).twinDiscard
      else
        let t := if ackv then t.twinAck ack else t
        if seq = t.lnk.rxSeq then t.twinTake seq
        else if (t.lnk.rxSeq + 4096 - seq) % 4096 < 2048 then t else t.twinDiscard
    t.wearTwin (worn.filter fun l => !t.twinOut.contains l)

/-- R421, R422: the flits after ACK go again; a SEQ resent for the eighth time makes the link retrain. -/
def execTwinNak (ack : Nat) (s : State) : Out :=
  onUnit s (decide (ack < 4096)) <|
  if s.twinState ≠ 2 then s else
  let t := (s.twinAck ack).twinResend
  if t.lnk.unacked.any fun f => decide (8 ≤ f.resent) then t.twinRetrain else t

/-- The body of a HEARTBEAT; the spec gives its health flags no layout (R426; log entry 3). -/
def State.heartbeatBody (s : State) (health : Nat) : List Nat :=
  lohi s.time ++ [s.lnk.hbSent % 2 ^ 32, b2n s.pair.mirrored + 2 ^ 8 * s.role + 2 ^ 16 * (health % 2 ^ 16),
    s.rdF .TWN_LOCK_MV 0 0 12 + 2 ^ 16 * (maskBits (s.rdF .TWN_STATUS 0 16 8) 8).length, 0, 0, 0]

/-- R426. -/
def execHeartbeatSend (s : State) : Out :=
  .next <|
  if !s.brd.powered then s else
  let (w, t) := s.free
  { t with lnk := { t.lnk with hbSent := t.lnk.hbSent + 1 } }.twinMsg 0 0 32 (s.heartbeatBody w.toNat)

/-- The cause of an UNSYNCED VF has ended with the silence (R582). -/
def State.endSilence (s : State) : State :=
  if s.rdF .TWN_STATUS 0 4 1 = 0 then s else
  let t := s.wrF .TWN_STATUS 0 4 1 0
  if !t.pair.mirrored then t else (t.boundVfs.filter fun v => t.syncOf v == 0).foldl State.startResync t

/-- R426, R582, R595. -/
def execHeartbeat (time count mode role health lockMv lanes : Nat) (s : State) : Out :=
  .next <|
  if s.twinState ≠ 2 then s else
  let p : Peer := { time := time, count := count, mode := mode, role := role, health := health, lockMv := lockMv, lanes := lanes }
  let t := { s with lnk := { s.lnk with peer := p } }.endSilence
  if t.lineOpen && !t.pair.claiming.isSome then t.lineFault 6 3 else t

/-- R426, R587: nothing holds outputs for a silent partner. -/
def execPeerSilent (s : State) : Out :=
  .next <|
  if s.rdF .TWN_STATUS 0 4 1 = 1 then s
  else (((s.wrF .TWN_STATUS 0 4 1 1).hwSet .TWN_EVT 0 16).count .TWN_HB_MISS 0 1).flushHeld

/-- R582: PEER_SILENT has lasted 1 s. -/
def execPeerSilentLong (s : State) : Out :=
  .next (if s.rdF .TWN_STATUS 0 4 1 = 1 && s.pair.mirrored then s.unsyncAll.flushHeld else s)

/- Cables. -/

/-- A cable by its number: 0 host, 1 twin. -/
def State.cable (s : State) (c : Nat) : Cable := tabGet s.lnk.cables {} c

/-- Replace a cable; TWN_CBL_STATUS shows it (R431). -/
def State.setCable (s : State) (c : Nat) (x : Cable) : State :=
  { s with lnk := { s.lnk with cables := tabSet s.lnk.cables c x } }.wrN .TWN_CBL_STATUS c
    (b2n x.present + 2 * b2n x.valid + 4 * b2n x.fault + 8 * min x.retimers 2 + x.hot % 256 * 2 ^ 8 + x.eye % 256 * 2 ^ 16)

/-- A cable target takes a dynamic address, which the spec does not give (R432; log entry 59). -/
def State.assignAddr (s : State) (c target : Nat) : State :=
  let (w, t) := s.free
  t.setCable c { t.cable c with daddr := tabSet (t.cable c).daddr target (w.toNat % 128) }

/-- The retimers and the ID target of a cable. -/
def cableTargets (retimers : Nat) : List Nat := [0x50, 0x20, 0x21].take (1 + retimers)

/-- R432: typeOk is that the type matches the port. -/
def execCableAttach (cable : Nat) (checksumOk typeOk : Bool) (retimers : Nat) (s : State) : Out :=
  onUnit s (decide (cable < 2 ∧ retimers ≤ 2)) <|
  let x : Cable := { present := true, valid := checksumOk && typeOk, fault := checksumOk && !typeOk, wrong := checksumOk && !typeOk
                     retimers := if checksumOk then retimers else 0 }
  (cableTargets x.retimers).foldl (fun (t : State) a => t.assignAddr cable a) ((s.setCable cable x).hwSet .TWN_EVT 0 32)

/-- R432. -/
def execCableHotJoin (cable target : Nat) (s : State) : Out :=
  onUnit s (decide (cable < 2) && (cableTargets 2).contains target) (s.assignAddr cable target)

/-- A target of a cable is faulty (R432). -/
def State.cableFault (s : State) (c : Nat) : State :=
  if (s.cable c).fault then s else
  ((s.setCable c { s.cable c with fault := true }).hwSet .TWN_EVT 0 64).log 4 0x0F c 0 0x45 0x1F 1 0 0 0

/-- Twin lanes whose eye margin was low at this check and at the one before fail (R433). -/
def State.eyeWear (s : State) (c : Nat) (low : List Nat) : State :=
  let two := low.filter (s.cable c).low.contains
  let t := s.setCable c { s.cable c with low := low }
  if c = 1 then t.wearTwin (two.filter fun l => !t.twinOut.contains l) else t

/-- R432, R433: answered is that every target answers; hot is the hottest retimer in °C, eyes the margin of each lane in % UI. -/
def execCablePoll (cable : Nat) (answered : Bool) (hot : Nat) (eyes : List Nat) (s : State) : Out :=
  onUnit s (decide (cable < 2)) <|
  let x := s.cable cable
  if !x.present then s
  else if !answered then
    let t := s.setCable cable { x with misses := x.misses + 1 }
    if 2 ≤ x.misses then t.cableFault cable else t
  else
    let t := s.setCable cable { x with misses := 0, hot := hot, eye := eyes.foldl min (eyes.headD 0) }
    let t := if 110 < hot then t.cableFault cable else t
    t.eyeWear cable ((List.range eyes.length).filter fun l => decide (eyes[l]?.getD 0 < 10))

end Sys2Proof.Machine
end

