-- ==== Sys2Proof/Machine/Update.lean ====
section
/-! DEFINITION. Commands on firmware (09 R364 group 0x8xx, 13): receiving, committing and activating an image, the handover window,
confirmation and rollback. -/

namespace Sys2Proof.Machine

open Sys2Proof

/- Receiving. -/

/-- The first check of R475 that refuses a header; OK where none does. -/
def State.beginCode (s : State) (l : List Byte) (len : Nat) (sigOk keyOk : Bool) : Nat :=
  if !s.hdrOk l len then rBadImage
  else if !sigOk || s.revoked (slotOf l).keyIdx then rVerifyFail
  else if (slotOf l).svn < s.svnCounter then rRollback
  else if !keyOk then rVerifyFail else rOk

/-- R475, R479, R481: fetched is the buffer that the module read, or none where the transfer failed. -/
def execUpdateBegin (fn mbx : Nat) (fetched : Option (List Byte)) (sigOk keyOk : Bool) (s : State) : Out :=
  s.cmd fn mbx 0x800 fun s =>
  let len := s.arg fn mbx 0
  if s.arg fn mbx 3 ≠ 12288 then s.respond fn mbx rLimit []
  else if s.upd.st != .idle || (!s.sec.recovery && !s.upd.confirmed) then s.respond fn mbx rBusy []
  else match s.updBlocked, fetched with
  | some code, _ => s.respond fn mbx code []
  | none, none => (s.bulkFail fn).respond fn mbx rHostAccess []
  | none, some l =>
    let code := s.beginCode l len sigOk keyOk
    if code ≠ rOk then s.respond fn mbx code [] else
    let t := (s.setSlot s.target (slotOf l)).setUpd .receiving
    { t with upd := { t.upd with blocks := [] } }.respond fn mbx rOk [s.target, blockCount len]

/-- What refuses a command that acts on an update which must be in one state. -/
def State.notIn (s : State) (st : UpdState) : Option Nat :=
  if s.upd.st == .idle then some rNoUpdate else if s.upd.st != st then some rBusy else s.updBlocked

/-- The offset and length name a block of the image (R476). -/
def blockOk (off len image : Nat) : Bool := off % 65536 == 0 && decide (off < image) && len == min 65536 (image - off)

/-- R476, R479, R481: fetched is the block that the module read, or none where the transfer failed, tagOk that the tag passes. -/
def execUpdateBlock (fn mbx : Nat) (fetched : Option (List Byte)) (tagOk : Bool) (s : State) : Out :=
  s.cmd fn mbx 0x801 fun s =>
  let off := s.arg fn mbx 0
  match s.notIn .receiving with
  | some code => s.respond fn mbx code []
  | none =>
    if !blockOk off (s.arg fn mbx 1) (s.fwSlot s.target).len then s.respond fn mbx rLimit []
    else match fetched with
    | none => (s.bulkFail fn).respond fn mbx rHostAccess []
    | some d =>
      if !tagOk then s.respond fn mbx rBlockTag []
      else
        let b := off / 65536
        let l := if s.upd.blocks.contains b then s.upd.blocks else b :: s.upd.blocks
        let t := s.setSlot s.target ((s.fwSlot s.target).putBlock b ((List.range 4).map fun k => s.arg fn mbx (2 + k)) d)
        { t with upd := { t.upd with blocks := l } }.respond fn mbx rOk [l.length]

/-- R477. -/
def execUpdateStatus (fn mbx : Nat) (s : State) : Out :=
  s.cmd fn mbx 0x805 fun s =>
  match s.bulkPut fn (s.arg64 fn mbx 0) (natLe (maskOf s.upd.blocks) 96) with
  | none => (s.logHostWrite fn).respond fn mbx rHostAccess []
  | some t => t.respond fn mbx rOk [s.upd.st.code, s.upd.blocks.length, if s.upd.st == .idle then 0 else (s.fwSlot s.target).ver]

/-- R478: a commit that runs ends ABORTED. -/
def execUpdateAbort (fn mbx : Nat) (s : State) : Out :=
  s.cmd fn mbx 0x804 fun s =>
  match s.upd.st with
  | .idle => s.respond fn mbx rNoUpdate []
  | .activating | .confirming => s.respond fn mbx rBusy []
  | st =>
    let t := (s.setSlot s.target {}).setUpd .idle
    let t := { t with upd := { t.upd with blocks := [] }, sec := { t.sec with staged := false } }
    (if st == .committing then t.endOwner 0x802 rAborted else t).respond fn mbx rOk []

/- Commit. -/

/-- R482, R449, R479. -/
def execUpdateCommit (fn mbx : Nat) (s : State) : Out :=
  s.cmd fn mbx 0x802 fun s =>
  match s.notIn .receiving with
  | some code => s.respond fn mbx code []
  | none =>
    if (s.fwSlot s.target).svn < s.svnCounter then s.respond fn mbx rRollback []
    else
      let t := (s.accept fn mbx).setUpd .committing
      { t with upd := { t.upd with owner := some (fn, mbx) } }

/-- Every block of the target's image has been received. -/
def State.complete (s : State) : Bool :=
  (List.range (blockCount (s.fwSlot s.target).len)).all fun b => s.upd.blocks.contains b

/-- The commit succeeds: a staged alias key, or in recovery the boot record names slot A and a chip reset follows (R482, R441, R460). -/
def State.committed (s : State) (digests : List Nat) : State :=
  let k := s.target
  let t := (s.setSlot k { s.fwSlot k with st := 2, ok := true, digests := digests }).setUpd .committed
  if s.sec.recovery then
    let t := { t.setSlot k { t.fwSlot k with st := 4 } with upd := { t.upd with active := 0, trial := false, trialBooted := false } }
    ((t.setUpd .idle).endOwner 0x802 rOk).askChip 13
  else { t with sec := { t.sec with staged := true } }.endOwner 0x802 rOk

/-- R482, R448, R480, R468: tagsOk is that every tag passes again, rulesOk that the component rules and digests hold, digests those of
MCP firmware, island microcode and media firmware. -/
def execCommitComplete (tagsOk rulesOk : Bool) (digests : List Nat) (s : State) : Out :=
  .next <|
  if s.upd.st != .committing || s.sec.trngFailed then s else
  match s.updBlocked with
  | some code => (s.setUpd .receiving).endOwner 0x802 code
  | none =>
    if !s.complete then (s.setUpd .receiving).endOwner 0x802 rIncomplete
    else if !tagsOk || !rulesOk then
      ((s.setSlot s.target { s.fwSlot s.target with st := 5 }).setUpd .idle).endOwner 0x802 rVerifyFail
    else s.committed digests

/- Activation. -/

/-- R483, R484, R485, R479. -/
def execUpdateActivate (fn mbx : Nat) (s : State) : Out :=
  s.cmd fn mbx 0x803 fun s =>
  match s.notIn .committed with
  | some code => s.respond fn mbx code []
  | none =>
    let k := s.target
    if s.rdF .TIM_STATUS 0 8 1 = 1 || s.clk.entering || (s.pair.mirrored && s.role == roleActive) then s.respond fn mbx rBusy []
    else
      let t := ((s.setSlot k { s.fwSlot k with st := 3 }).setUpd .activating).accept fn mbx
      let t := { t with upd := { t.upd with owner := some (fn, mbx) } }
      if fwMajor (s.fwSlot k).ver ≠ fwMajor (s.fwSlot s.upd.running).ver then
        { t with upd := { t.upd with active := k, trial := true, trialBooted := false, viaReset := true } }.askChipDump 13
      else { t with upd := { t.upd with stage := .preparing } }

/-- No command executes on the MCP, no scrub, page migration or crash dump runs, and every model is between steps (R485). -/
def State.quiescent (s : State) : Bool :=
  (List.range 19).all (fun f => (List.range 17).all fun m => !s.owned f m) && !(s.part.scrubs.any fun e => e.2.started) &&
  !(s.pln.pages.any fun e => e.2.migrating) && s.ras.collecting.isNone && s.srv.models.all fun e => e.2.step.isNone && e.2.solos.isEmpty

/-- R486. -/
def execQuiescentPoint (s : State) : Out :=
  .next (if s.upd.stage == .preparing && s.quiescent then s.openWindow false else s)

/-- R485. -/
def execQuiescentTimeout (s : State) : Out :=
  .next <|
  if s.upd.stage != .preparing then s else
  let t := s.setSlot s.target { s.fwSlot s.target with st := 2 }
  ({ t with upd := { t.upd with st := .committed, stage := .none } }.endOwner 0x803 rBusy).resumeSteps

/-- R486. -/
def execHandoverAdoptTimeout (s : State) : Out :=
  .next (if s.upd.stage == .window && !s.upd.reverse then s.abortWindow else s)

/- Confirmation and rollback. -/

/-- R488. -/
def execFwConfirm (s : State) : Out :=
  .next <|
  if s.upd.stage != .watching || s.upd.fatal then s else
  { s with upd := { s.upd with
    st := .idle, stage := .none, active := s.upd.running, trial := false, trialBooted := false, confirmed := true
    viaReset := false } }.updEvent 0 rOk

/-- R489: recordOk is that the new firmware can write the handover record; the timer also stands for a fatal error before
confirmation. -/
def execRollbackTimer (recordOk : Bool) (s : State) : Out :=
  .next <|
  if s.upd.stage != .watching then s
  else if !s.upd.viaReset && recordOk then s.openWindow true
  else
    let (w, t) := if s.upd.fatal then s.free else (w64 rHang, s)
    let t := t.setSlot t.upd.running { t.fwSlot t.upd.running with st := 5, ok := false }
    let t := { t with upd := { t.upd with st := .idle, stage := .none } }
    (t.updEvent 0 (w.toNat % 65536)).askChipDump 13

/-- R450: the counter follows the lower SVN of the two valid slots while no supply condition defers it. -/
def execSvnCounterBurn (s : State) : Out :=
  .next <|
  if !s.upd.confirmed || !s.upd.slotA.ok || !s.upd.slotB.ok || s.pwr.warn || s.rdF .PWR_STATUS 0 8 1 = 1 || decide (s.pwr.mv < 48000) ||
      decide (min s.upd.slotA.svn s.upd.slotB.svn ≤ s.svnCounter) || decide (64 ≤ s.svnCounter) then s
  else (s.wrF .SEC_SVN 0 0 7 (s.svnCounter + 1)).hwSet .SEC_EVT 0 16

end Sys2Proof.Machine
end

