-- ==== Sys2Proof/Machine/Usb.lean ====
section
/-! DEFINITION. Frames of the USB service port (11 R412 to R416). -/

namespace Sys2Proof.Machine

open Sys2Proof

/-- An upper-case hex digit. -/
def hexDigit (d : Nat) : Char := Char.ofNat (if d < 10 then 48 + d else 55 + d)

/-- The module serial as 16 upper-case hex digits (R413). -/
def serialText (n : Nat) : String := String.ofList ((List.range 16).map fun k => hexDigit (n / 16 ^ (15 - k) % 16))

/-- The descriptors that the service port presents (R413). Endpoint sizes are those at SuperSpeed. -/
def State.usbDesc (s : State) : UsbDesc :=
  { bcdUsb := 0x0320, cls := 0xEF, sub := 0x02, proto := 0x01, maxPacket0 := 9, vendor := 0x3AF5, product := 0x0B40, bcdDevice := 0x0B00
    manufacturer := "Afunmet", productName := "Blupiric AFM-BL4096 service", serial := serialText (s.rdN .RAS_SB_SERIAL 0)
    attributes := 0xC0, maxPower := 0
    ifaces := [
      { number := 0, cls := 0xFF, sub := 0, proto := 0
        eps := [{ addr := 0x01, bytes := 1024, burst := 15 }, { addr := 0x81, bytes := 1024, burst := 15 }] },
      { number := 1, cls := 0x02, sub := 0x02, proto := 0, iad := some 1, eps := [{ addr := 0x83, interrupt := true, bytes := 16 }] },
      { number := 2, cls := 0x0A, sub := 0, proto := 0, iad := some 1
        eps := [{ addr := 0x02, bytes := 1024 }, { addr := 0x82, bytes := 1024 }] }]
    bos := [.usb2Lpm, .superSpeed, .superSpeedPlus] }

/-- R412, R413: VBUS appears, and the port enumerates with its descriptors. -/
def execUsbAttach (s : State) : Out :=
  .next (if s.brd.powered then { s with mbx := { s.mbx with usbAttached := true }, reply := .usb s.usbDesc } else s)

/-- R415: the staging area is zeroed, and what waited for the endpoint is gone. -/
def execUsbDetach (s : State) : Out :=
  .next { s with mbx := { s.mbx with usbAttached := false, usbOut := [], usbDropped := 0, staging := [] } }

/-- A frame is discarded and counted in PF0's FN_DROPPED_WR (R414). -/
def State.usbDiscard (s : State) : State := s.dropWr 0

/-- Commands that the ROM serves in recovery (R441). -/
def romServes (op : Nat) : Bool := [0x000, 0x800, 0x801, 0x802, 0x805].contains op

/-- The header write of a POST frame: the ROM in recovery takes what it serves itself. -/
def State.usbHeader (s : State) (mbx header : Nat) : State :=
  if s.sec.recovery && romServes (bits header 0 12) && bitAt header 31 then
    let t := s.setMbxW 17 mbx 63 (bits header 0 27 + 2 ^ 31)
    { t with mbx := { t.mbx with postT := tabSet t.mbx.postT (17 * 32 + mbx) t.time } }.take 17 mbx
  else s.postHeader 17 mbx header

/-- R414, R361: the payload writes, then the header write. -/
def execUsbPost (mbx : Nat) (words : List Nat) (s : State) : Out :=
  onUnit s (decide (mbx < 16)) <|
  if !s.mbx.usbAttached then s
  else if words.length ≠ 64 || s.owned 17 mbx then s.usbDiscard
  else (s.setMbxWs 17 mbx 0 (words.take 63)).usbHeader mbx (words[63]?.getD 0)

/-- Bytes of the staging area (R415). -/
abbrev stagingBytes : Nat := 0x200_0000

/-- R414: a frame that reaches beyond the staging area is discarded (log entry 58). -/
def execUsbStageWrite (off : Nat) (data : List Byte) (s : State) : Out :=
  .next <|
  if !s.mbx.usbAttached then s
  else if stagingBytes < off + data.length then s.usbDiscard
  else { s with mbx := { s.mbx with staging := memWrite s.mbx.staging off data } }

/-- R414: at most 1 MiB. -/
def execUsbStageRead (off len : Nat) (s : State) : Out :=
  .next <|
  if !s.mbx.usbAttached then s
  else if 0x10_0000 < len ∨ stagingBytes < off + len then s.usbDiscard
  else { s with mbx := { s.mbx with usbOut := s.mbx.usbOut ++ [.stage off (memRead s.mbx.staging off len)] } }

/-- R414. -/
def execUsbBadFrame (s : State) : Out := .next (if s.mbx.usbAttached then s.usbDiscard else s)

/-- R416: the host takes the oldest frame; an EVT_OVERRUN record follows drops once there is room. -/
def execUsbInTransfer (s : State) : Out :=
  .next <|
  let t := { s with mbx := { s.mbx with usbOut := s.mbx.usbOut.drop 1 } }
  let d := t.mbx.usbDropped
  if d = 0 || 256 ≤ t.usbRecs then t
  else { t with mbx := { t.mbx with usbDropped := 0 } }.usbEvt 4 t.time [d % 2 ^ 32, d / 2 ^ 32]

end Sys2Proof.Machine
end

