-- ==== Sys2Proof/Machine/Video.lean ====
section
/-! DEFINITION. The video commands (08 R324, 09 R364 group 0x4xx) and the engines' own steps. -/

namespace Sys2Proof.Machine

open Sys2Proof

/-- A video command: MEDIA_DOWN while the strait is down, after the argument limits (R324, R365). -/
def State.vidCmd (s : State) (fn mbx op : Nat) (f : State → State) : Out :=
  s.cmd fn mbx op fun s => if s.mediaDown && !s.badLimit fn mbx op then s.respond fn mbx rMediaDown [] else f s

/-- The lowest stream id that is free (log entry 13). -/
def State.freeStream (s : State) : Nat :=
  let used := s.vid.streams.map (·.1) ++ (s.vid.closed.filter fun e => s.frameLeft e.1).map (·.1)
  ((List.range (used.length + 1)).find? fun k => !used.contains k).getD used.length

/-- R316, R319, R320, R327, R328. -/
def execVidStreamOpen (fn mbx : Nat) (s : State) : Out :=
  s.vidCmd fn mbx 0x400 fun s =>
  let v := s.openArgs fn mbx
  let on := (s.vid.streams.filter fun e => e.2.eng == v.eng).map (·.2)
  if s.badLimit fn mbx 0x400 then s.respond fn mbx rLimit []
  else if decide ((if v.enc then 8 else 16) ≤ on.length) || decide ((if v.enc then 61200 else 122400) < (on.map (·.cost)).sum + v.cost) then
    s.respond fn mbx rCapacity []
  else if s.poolFree < v.slots.length then (s.hwSet .VID_EVT 0 32).respond fn mbx rNoPool []
  else
    let k := s.freeStream
    (s.setStream k v).respond fn mbx rOk [k, v.cost]

/-- R344: queued units are discarded, pictures already decoded are still output, and then the stream ends. -/
def execVidStreamClose (fn mbx : Nat) (s : State) : Out :=
  s.vidCmd fn mbx 0x401 fun s =>
  let k := s.arg fn mbx 0
  match s.ownStream fn k with
  | none => s.respond fn mbx rNotFound []
  | some v => ((s.accept fn mbx).setStream k { v with queue := [], waiting := [], closing := some (fn, mbx) }).settleClose k

/-- R321, R325. -/
def execVidDecodeSubmit (fn mbx : Nat) (s : State) : Out :=
  s.vidCmd fn mbx 0x402 fun s =>
  let k := s.arg fn mbx 0
  let len := s.arg fn mbx 3
  if s.badLimit fn mbx 0x402 then s.respond fn mbx rLimit [] else
  match s.ownStream fn k with
  | none => s.respond fn mbx rNotFound []
  | some v =>
    if v.enc then s.respond fn mbx rNotFound []
    else if 16 ≤ v.queue.length then s.respond fn mbx rQueueFull []
    else (s.setStream k { v with queue := v.queue ++ [{ addr := s.arg64 fn mbx 1, len := len, pts := s.arg64 fn mbx 4 }] }).respond
      fn mbx rOk [v.queue.length + 1]

/-- R321, R336. -/
def execVidEncodeSubmit (fn mbx : Nat) (s : State) : Out :=
  s.vidCmd fn mbx 0x403 fun s =>
  let k := s.arg fn mbx 0
  let w := s.arg fn mbx
  match s.ownStream fn k with
  | none => s.respond fn mbx rNotFound []
  | some v =>
    if !v.enc then s.respond fn mbx rNotFound []
    else if !prepOk (w 3) (w 4) (w 5) (w 6) (s.sarg fn mbx 7) (w 8) v.w v.h then s.respond fn mbx rLimit []
    else if 16 ≤ v.queue.length then s.respond fn mbx rQueueFull []
    else (s.setStream k { v with queue := v.queue ++ [{ addr := s.arg64 fn mbx 1, len := 0, pts := s.arg64 fn mbx 9
                                                        geom := [w 3, w 4, w 5, w 6, w 7, w 8] }] }).respond
      fn mbx rOk [v.queue.length + 1]

/-- R324: from the stream's next picture on. -/
def execVidEncodeSet (fn mbx : Nat) (s : State) : Out :=
  s.vidCmd fn mbx 0x404 fun s =>
  let k := s.arg fn mbx 0
  let w := s.arg fn mbx
  match s.ownStream fn k with
  | none => s.respond fn mbx rNotFound []
  | some v =>
    if !v.enc then s.respond fn mbx rNotFound []
    else if !encSetOk v.codec (w 1) (w 2) (w 3) (w 4) then s.respond fn mbx rLimit []
    else (s.setStream k { v with q := w 1, maxbr := w 2, window := w 3, keyInt := w 4 }).respond fn mbx rOk []

/-- The job that VID_CONVERT_JOB asks for (R340). -/
def State.jobArgs (s : State) (fn mbx : Nat) : CJob :=
  let w := s.arg fn mbx
  { stream := w 1, outW := w 8, outH := w 9, channels := if w 14 = 2 then 4 else if w 13 = 2 then 1 else 3, ebytes := fmtBits (w 15) / 8
    params := (List.range 22).map w, planar := w 14 == 1, drop := w 22 == 1 }

/-- R336, R340. -/
def execVidConvertJob (fn mbx : Nat) (s : State) : Out :=
  s.vidCmd fn mbx 0x405 fun s =>
  let w := s.arg fn mbx
  if s.badLimit fn mbx 0x405 then s.respond fn mbx rLimit []
  else if w 1 = 0xFFFF then (s.setJob fn (w 0) (s.jobArgs fn mbx)).respond fn mbx rOk []
  else match s.ownStream fn (w 1) with
  | none => s.respond fn mbx rNotFound []
  | some v =>
    if v.enc then s.respond fn mbx rNotFound []
    else if v.w < w 2 + w 4 ∨ v.h < w 3 + w 5 then s.respond fn mbx rLimit []
    else (s.setJob fn (w 0) (s.jobArgs fn mbx)).respond fn mbx rOk []

/-- R344. -/
def execVidJobCancel (fn mbx : Nat) (s : State) : Out :=
  s.vidCmd fn mbx 0x406 fun s =>
  let j := s.arg fn mbx 0
  if (s.job fn j).isNone || decide (256 ≤ j) then s.respond fn mbx rNotFound []
  else (s.endJob fn j).respond fn mbx rOk []

/-- R322, R323. -/
def execVidJpegSubmit (fn mbx : Nat) (s : State) : Out :=
  s.vidCmd fn mbx 0x407 fun s =>
  let mine := (s.vid.jpeg.filter fun x => x.fn == fn).length
  if s.badLimit fn mbx 0x407 then s.respond fn mbx rLimit []
  else if 32 ≤ mine then s.respond fn mbx rQueueFull []
  else
    let n := tabGet s.vid.jpegNo 0 fn
    let x : JImg := { fn := fn, no := n, addr := s.arg64 fn mbx 0, len := s.arg fn mbx 2, dst := s.arg64 fn mbx 3
                      pts := s.arg64 fn mbx 5 }
    { s with vid := { s.vid with jpegNo := tabSet s.vid.jpegNo fn (n + 1), jpeg := s.vid.jpeg ++ [x] } }.respond fn mbx rOk [mine + 1]

/-- R324. -/
def execVidStreamQuery (fn mbx : Nat) (s : State) : Out :=
  s.vidCmd fn mbx 0x408 fun s =>
  match s.ownStream fn (s.arg fn mbx 0) with
  | none => s.respond fn mbx rNotFound []
  | some v => s.respond fn mbx rOk (v.params ++ [v.queue.length] ++ lohi v.pics ++ lohi v.concealed)

/-- R327. -/
def execVidOutputAck (fn mbx : Nat) (s : State) : Out :=
  s.vidCmd fn mbx 0x409 fun s =>
  let k := s.arg fn mbx 0
  let rp := s.arg64 fn mbx 1
  match s.ownStream fn k with
  | none => s.respond fn mbx rNotFound []
  | some v =>
    if !v.enc then s.respond fn mbx rNotFound []
    else if rp < v.rp ∨ v.wp < rp then s.respond fn mbx rLimit []
    else (s.setStream k { v with rp := rp }).respond fn mbx rOk (lohi v.wp)

/- Engines. -/

/-- A slot that can take a picture (R330). -/
def VStream.freeSlot (v : VStream) : Option Nat := v.slots.findIdx? fun x => x.mark == .unused && !x.hold

/-- The slot for a picture: a free one, or after the rule of DPB_OVERFLOW the oldest slot that nothing reads, and else the oldest
slot (R330; log entry 40). -/
def State.takeSlot (s : State) (k : Nat) : State × Nat × Bool :=
  match s.stream k with
  | none => (s, 0, false)
  | some v => match v.freeSlot with
    | some i => (s, i, false)
    | none =>
      let t := s.outputPic k 0
      match t.stream k with
      | none => (t, 0, true)
      | some u =>
        let busy := (t.jobsOf u.fn k).flatMap fun e => e.2.queue.map (·.pic)
        let oldest := fun (l : List (PicSlot × Nat)) => l.foldl (fun m e => match m with
          | none => some e
          | some (x : PicSlot × Nat) => if e.1.ord < x.1.ord then some e else some x) none
        let held := u.slots.zipIdx.filter fun e => e.1.hold && !busy.contains e.1.pic
        let t := match oldest held with
          | some e => t.setStream k { u with slots := u.slots.modify e.2 fun x => { x with hold := false } }
          | none => t
        match (t.stream k).bind (·.freeSlot) with
        | some i => (t, i, true)
        | none => (t, (oldest u.slots.zipIdx).elim 0 (·.2), true)

/-- The most recent picture of a stream without a concealed CTU, as its buffer's bytes (R333). -/
def State.cleanPic (s : State) (v : VStream) : Option (List Byte) :=
  let best := v.slots.zipIdx.foldl (fun m e =>
    if e.1.ord = 0 || e.1.concealed then m else
    match m with
    | none => some e
    | some (x : PicSlot × Nat) => if x.1.ord < e.1.ord then some e else some x) none
  best.map fun e => s.mcpRead v.fn (v.bufAddr e.2) (picBytes v.w v.h v.depth)

/-- The decoded or concealed buffer of a picture: a LOST one after an engine reset copies the last output picture (R333, R334). -/
def State.pictureBytes (s : State) (v : VStream) (wait : Bool) (lost : List Nat) (p : PicIn) : List Byte :=
  if wait then match v.lastOut with
    | some i => s.mcpRead v.fn (v.bufAddr i) (picBytes v.w v.h v.depth)
    | none => concealBuf v none [] lost []
  else if lost.isEmpty then p.samples.take (picBytes v.w v.h v.depth)
  else concealBuf v (s.cleanPic v) (p.motions.map fun e => (e.1, e.2.1, e.2.2)) lost p.samples

/-- Decode the oldest unit of a stream (R321, R330 to R334). -/
def State.decodeUnit (s : State) (eng k : Nat) (p : PicIn) : State :=
  let (s, i, spill) := s.takeSlot k
  match s.stream k with
  | none => s
  | some v => match v.queue with
    | [] => s
    | au :: rest =>
      let n := ctusOf v.w * ctusOf v.h
      let wait := v.waitKey && !p.key
      let whole := wait || p.lost
      let errs := (if wait || p.missing then [(⟨4, 0, 0⟩ : DecErr)] else []) ++ (if spill then [⟨6, 0, 0⟩] else []) ++ p.errs
      let lost := if whole then List.range n else lostCtus n p.errs
      let ref := fun (x : PicSlot) => x.concealed || x.damaged
      let damaged := !p.key && (p.refs.any fun r => (v.slots[r]?).any ref)
      let slots := v.slots.zipIdx.map fun e => { e.1 with mark := (p.marks[e.2]?).getD e.1.mark }
      let slots := slots.modify i fun x => { x with ord := v.count + 1, hold := true, concealed := !lost.isEmpty, damaged := damaged }
      let t := s.mcpWrite v.fn (v.bufAddr i) (s.pictureBytes v wait lost p)
      let t := t.setStream k { v with
        queue := rest, count := v.count + 1, slots := slots, waitKey := v.waitKey && !p.key, concealed := v.concealed + lost.length
        decoded := v.decoded ++ [{ au := au, slot := i, key := p.key, lost := whole, damaged := damaged, errs := errs, ctus := lost }] }
      let t := (t.count .VID_ENG_PICS eng 1).count .VID_ENG_CONCEAL eng lost.length
      let t := if errs.isEmpty then t else t.hwSet .VID_EVT 0 1
      if lost.isEmpty then t else t.hwSet .VID_EVT 0 2

/-- R321, R330 to R334, R487: in a handover window the next picture waits for the media controller. -/
def execDecodePicture (eng : Nat) (pic : PicIn) (s : State) : Out :=
  onUnit s (decide (eng < 8)) <|
  if !s.engUp eng || s.upd.stage == .window then s else
  match s.nextStream eng with
  | none => s
  | some k => { (s.decodeUnit eng k pic) with vid := { (s.decodeUnit eng k pic).vid with
      rr := tabSet (s.decodeUnit eng k pic).vid.rr eng k } }

/-- R326, R330, R335, R343, R344: which of the decoded pictures is next in output order is the bitstream's. -/
def execPictureOutput (stream which : Nat) (s : State) : Out :=
  onUnit s (decide (stream < 65536)) <|
  match s.stream stream with
  | none => s
  | some v => if s.mediaDown || s.blocked v.fn stream then s else (s.outputPic stream which).settleClose stream

/-- Code the oldest input picture of an encode stream (R338, R339, R327): b is the bits of its access unit, and blocks the predictions that
its search proposes, of which it codes those inside the window (R337). A picture coded with every block skipped has none. -/
def State.encodeUnit (s : State) (eng k b : Nat) (blocks : List EncBlock) : State :=
  let (w, s) := s.free
  match s.stream k with
  | none => s
  | some v => match v.queue with
    | [] => s
    | _ :: rest =>
      let key := v.waitKey || v.sinceKey = 0 || decide (v.keyInt ≤ v.sinceKey)
      let typ := if key then 0 else 1
      let o := v.offset typ (w.toNat % 2 ^ 32)
      let pred := v.predict typ o (w.toNat % 2 ^ 32)
      let skip := !key && o == (rateStep v.codec).2 && decide (v.bucket < v.full + pred)
      let full := v.fuller b
      let spill := key && decide (v.bucket < full)
      let len := ceilDiv b 8
      let wait := !v.fits len
      let u : Coded := { pic := v.pics, len := len, qp := v.q + o
                         flags := b2n key + 2 * b2n skip + 4 * b2n spill + 8 * b2n wait
                         blocks := if skip || key then [] else codedBlocks blocks }
      let t := s.setStream k { v with
        queue := rest, pics := v.pics + 1, waitKey := false, sinceKey := if key then 1 else v.sinceKey + 1, off := o, full := full
        last := tabSet v.last typ (b, v.q + o), waiting := v.waiting ++ [u] }
      let t := { t with vid := { t.vid with win := tabSet t.vid.win eng (winAt (ctusOf v.h - 1) (ctusOf v.w - 1)) } }
      let t := t.count .VID_ENG_PICS eng 1
      let t := if skip then t.hwSet .VID_EVT 0 8 else t
      if spill then t.hwSet .VID_EVT 0 16 else t

/-- R321, R327, R337, R338, R339. -/
def execEncodePictureDone (eng bits : Nat) (blocks : List EncBlock) (s : State) : Out :=
  onUnit s (decide (8 ≤ eng ∧ eng < 12)) <|
  if !s.engUp eng then s else
  match s.nextStream eng with
  | none => s
  | some k =>
    let t := s.encodeUnit eng k bits blocks
    { t with vid := { t.vid with rr := tabSet t.vid.rr eng k } }

/-- R327, R326: the oldest finished unit is written where it fits, and VID_AU_DONE follows. The coded bytes are the encoder's: free
values (log entry 39). -/
def execAuRingWrite (stream : Nat) (s : State) : Out :=
  onUnit s (decide (stream < 65536)) <|
  match s.stream stream with
  | none => s
  | some v => match v.waiting with
    | [] => s
    | u :: rest =>
      if s.mediaDown || !v.fits u.len then s else
      let p := v.place u.len
      let data := (List.range u.len).map fun i => BitVec.ofNat 8 (Config.freeValue (s.fresh + i)).toNat
      let ok := s.hostOk v.fn
      let t := { s with fresh := s.fresh + u.len }.setStream stream { v with waiting := rest, wp := p + u.len }
      let t := if s.standby v.fn then t else if ok then t.hostPut v.fn (v.ring + p % v.ringLen) data else t.logHostWrite v.fn
      t.post v.fn 0x0402 ([stream] ++ lohi u.pic ++ lohi p ++ [u.len, u.qp, u.flags])

/-- The function whose image the JPEG decoder serves next (R322). -/
def State.nextJpeg (s : State) : Option JImg :=
  let fns := ((s.vid.jpeg.filter fun x => x.strips != 0 || !s.blocked x.fn 0xFFFF).map (·.fn)).eraseDups
  match roundRobin (some s.vid.jpegLast) fns with
  | none => none
  | some f => s.vid.jpeg.find? fun x => x.fn == f

/-- A JPEG image's buffer lies in the view on pages with WRITE = 1 (R323). -/
def State.jpegFits (s : State) (x : JImg) (w h : Nat) : Bool :=
  let n := picBytes w h 8
  s.inView x.fn x.dst n && ((List.range (n / 65536 + 1)).all fun k =>
    (s.xlate x.fn ((x.dst + min (65536 * k) (n - 1) - plainBase) / 65536) true).isSome)

/-- An image is finished: VID_JPEG_DONE, and its picture goes to the jobs on the JPEG queue (R323, R340). -/
def State.jpegDone (s : State) (x : JImg) (w h : Nat) (lost : Bool) : State :=
  let t := { s with vid := { s.vid with jpeg := s.vid.jpeg.filter fun y => !(y.fn == x.fn && y.no == x.no) } }
  let t := if lost then t else (t.jobsOf x.fn 0xFFFF).foldl (fun t e => t.giveJob x.fn 0xFFFF e.1
    { pic := x.no, buf := x.dst, w := w, h := h, depth := 8 }) t
  (t.count .VID_ENG_PICS 12 1).post x.fn 0x0403 (lohi x.no ++ lohi x.pts ++ [w, h,
    1 + 2 * b2n (x.lostStrips != 0) + 8 * b2n lost, x.lostStrips, min 65535 x.errors, x.firstCls])

/-- The bytes of one strip of 64 rows: its luma rows at the strip's place, then its chroma rows (R329). -/
def State.writeStrip (s : State) (x : JImg) (w h : Nat) (l : List Byte) : State :=
  let p := picPitch w 8
  let t := s.mcpWrite x.fn (x.dst + x.strips * 64 * p) (l.take (64 * p))
  t.mcpWrite x.fn (x.dst + ceilDiv h 64 * 64 * p + x.strips * 32 * p) ((l.drop (64 * p)).take (32 * p))

/-- R322, R323, R332, R333: samples holds the strip's 64 luma rows and 32 chroma rows; err is the class of an error in it. -/
def execJpegStrip (w h : Nat) (samples : List Byte) (err : Option Nat) (s : State) : Out :=
  .next <|
  if s.mediaDown then s else
  match s.nextJpeg with
  | none => s
  | some x =>
    let s := { s with vid := { s.vid with jpegLast := x.fn } }
    if w = 0 ∨ h = 0 ∨ 16384 < w ∨ 16384 < h then
      (s.hwSet .VID_EVT 0 1).jpegDone { x with errors := x.errors + 1, firstCls := err.getD 5 } w h true
    else if !s.jpegFits x w h then (s.hwSet .VID_EVT 0 1).jpegDone { x with errors := x.errors + 1, firstCls := 2 } w h true
    else
      let bytes := if err.isSome then List.replicate (96 * picPitch w 8) (128 : Byte) else samples
      let y : JImg := { x with strips := x.strips + 1, lostStrips := x.lostStrips + b2n err.isSome, errors := x.errors + b2n err.isSome
                               firstCls := if x.errors = 0 then err.getD 0 else x.firstCls }
      let t := s.writeStrip x w h bytes
      let t := if err.isSome then (t.hwSet .VID_EVT 0 3).count .VID_ENG_CONCEAL 12 (ctusOf w) else t
      if ctusOf h ≤ y.strips then t.jpegDone y w h false
      else { t with vid := { t.vid with jpeg := t.vid.jpeg.map fun z => if z.fn == y.fn && z.no == y.no then y else z } }

/-- A FRAME descriptor of a job waits to take output (R343). -/
def State.frameWaits (s : State) (fn j : Nat) : Bool :=
  s.fry.chans.any fun e => e.2.queue.any fun x => x.fn == fn && x.ended.isNone && (fdesc x.raw).xform == 8 && (fdesc x.raw).src == j

/-- Make the next strip of 64 rows of the first picture that is not whole. -/
def makeStrip (h : Nat) : List CPic → List CPic
  | [] => []
  | p :: r => if p.made < h then { p with made := min h (p.made + 64) } :: r else p :: makeStrip h r

/-- R343. -/
def execConverterStrip (fn job : Nat) (s : State) : Out :=
  onUnit s (decide (1 ≤ fn ∧ fn ≤ 16 ∧ job < 256)) <|
  match s.job fn job with
  | none => s
  | some c => if s.mediaDown || !s.frameWaits fn job then s else s.setJob fn job { c with queue := makeStrip c.outH c.queue }

/-- R334, R344. -/
def execVideoEngineReset (eng : Nat) (s : State) : Out :=
  onUnit s (decide (eng < 12)) (s.resetVideo eng)

end Sys2Proof.Machine
end

