-- ==== Sys2Proof/Machine/Dispatch.lean ====
section
/-! DEFINITION. The meaning of each command: one arm per constructor of Instr. -/

namespace Sys2Proof.Machine

def exec (i : Instr) (s : State) : Host.Outcome State Fault Refusal :=
  match i with
  | .registerWrite fn off width value => Sys2Proof.Machine.execRegisterWrite fn off width value s
  | .bar0BadAccess fn off width write value => Sys2Proof.Machine.execBar0BadAccess fn off width write value s
  | .splitLowRead fn off => Sys2Proof.Machine.execSplitLowRead fn off s
  | .splitLowWrite fn off value => Sys2Proof.Machine.execSplitLowWrite fn off value s
  | .splitHighWrite fn off value => Sys2Proof.Machine.execSplitHighWrite fn off value s
  | .w1cClearWrite fn off value hw => Sys2Proof.Machine.execW1cClearWrite fn off value hw s
  | .straitFlitFail strait ok => Sys2Proof.Machine.execStraitFlitFail strait ok s
  | .straitRetrainDone strait ok => Sys2Proof.Machine.execStraitRetrainDone strait ok s
  | .threadIssue island slot op len => Sys2Proof.Machine.execThreadIssue island slot op len s
  | .vectorInstruction gid op => Sys2Proof.Machine.execVectorInstruction gid op s
  | .threadLoadReturn gid n err => Sys2Proof.Machine.execThreadLoadReturn gid n err s
  | .threadStoreComplete gid => Sys2Proof.Machine.execThreadStoreComplete gid s
  | .fence gid pred succ => Sys2Proof.Machine.execFence gid pred succ s
  | .fenceI gid => Sys2Proof.Machine.execFenceI gid s
  | .ebreak gid len => Sys2Proof.Machine.execEbreak gid len s
  | .csrAccess gid csr op rd src => Sys2Proof.Machine.execCsrAccess gid csr op rd src s
  | .yphaseWrite gid value => Sys2Proof.Machine.execYphaseWrite gid value s
  | .pwrPhPhaseStore gid value => Sys2Proof.Machine.execPwrPhPhaseStore gid value s
  | .exit gid => Sys2Proof.Machine.execExit gid s
  | .trace gid => Sys2Proof.Machine.execTrace gid s
  | .abort gid => Sys2Proof.Machine.execAbort gid s
  | .ecallUnknown gid => Sys2Proof.Machine.execEcallUnknown gid s
  | .contextReset ctx => Sys2Proof.Machine.execContextReset ctx s
  | .contextDone ctx => Sys2Proof.Machine.execContextDone ctx s
  | .claimFetchInc gid n k rd => Sys2Proof.Machine.execClaimFetchInc gid n k rd s
  | .claimFetchAdd gid n k rd => Sys2Proof.Machine.execClaimFetchAdd gid n k rd s
  | .claimBoundedInc gid n k rd => Sys2Proof.Machine.execClaimBoundedInc gid n k rd s
  | .tensorReexecDone island slot mismatch => Sys2Proof.Machine.execTensorReexecDone island slot mismatch s
  | .remapDeadline island => Sys2Proof.Machine.execRemapDeadline island s
  | .remapForceMidstep island => Sys2Proof.Machine.execRemapForceMidstep island s
  | .tlbFill cache fn vpn => Sys2Proof.Machine.execTlbFill cache fn vpn s
  | .droopCrossing island drop => Sys2Proof.Machine.execDroopCrossing island drop s
  | .droopBubbleEnd island => Sys2Proof.Machine.execDroopBubbleEnd island s
  | .islWinSelWrite value => Sys2Proof.Machine.execIslWinSelWrite value s
  | .pdmStart island => Sys2Proof.Machine.execPdmStart island s
  | .pdmDone island margins => Sys2Proof.Machine.execPdmDone island margins s
  | .tcfg gid word => Sys2Proof.Machine.execTcfg gid word s
  | .trowtag gid word => Sys2Proof.Machine.execTrowtag gid word s
  | .tmma gid word => Sys2Proof.Machine.execTmma gid word s
  | .tmmas gid word => Sys2Proof.Machine.execTmmas gid word s
  | .tzero gid word => Sys2Proof.Machine.execTzero gid word s
  | .tepi gid word => Sys2Proof.Machine.execTepi gid word s
  | .tred gid word => Sys2Proof.Machine.execTred gid word s
  | .passArrive gid word => Sys2Proof.Machine.execPassArrive gid word s
  | .passWait gid word => Sys2Proof.Machine.execPassWait gid word s
  | .fenceF gid word => Sys2Proof.Machine.execFenceF gid word s
  | .tensorDispatch island slot => Sys2Proof.Machine.execTensorDispatch island slot s
  | .tmmaComplete island slot mismatch err => Sys2Proof.Machine.execTmmaComplete island slot mismatch err s
  | .tepiComplete island slot err bad => Sys2Proof.Machine.execTepiComplete island slot err bad s
  | .tredComplete island slot parity => Sys2Proof.Machine.execTredComplete island slot parity s
  | .adapterCacheFill island slot adapter layer group ue => Sys2Proof.Machine.execAdapterCacheFill island slot adapter layer group ue s
  | .tensorIdleTimeout island slot => Sys2Proof.Machine.execTensorIdleTimeout island slot s
  | .rampWindow island => Sys2Proof.Machine.execRampWindow island s
  | .plainSectorRead psn who seen => Sys2Proof.Machine.execPlainSectorRead psn who seen s
  | .sectorReread psn seen => Sys2Proof.Machine.execSectorReread psn seen s
  | .plainSectorWrite fn psn first data kv seen again => Sys2Proof.Machine.execPlainSectorWrite fn psn first data kv seen again s
  | .edcRetry channel ok => Sys2Proof.Machine.execEdcRetry channel ok s
  | .channelRetrainDone channel ok => Sys2Proof.Machine.execChannelRetrainDone channel ok s
  | .dataRateChoice chans => Sys2Proof.Machine.execDataRateChoice chans s
  | .refreshRateChange hot => Sys2Proof.Machine.execRefreshRateChange hot s
  | .pageMigrate ppn reads => Sys2Proof.Machine.execPageMigrate ppn reads s
  | .pageTest ppn bad => Sys2Proof.Machine.execPageTest ppn bad s
  | .patrolVisit sector seen again => Sys2Proof.Machine.execPatrolVisit sector seen again s
  | .sramScrubVisit island core addr err => Sys2Proof.Machine.execSramScrubVisit island core addr err s
  | .fryPost gid ch addr => Sys2Proof.Machine.execFryPost gid ch addr s
  | .ferryPostResume gid => Sys2Proof.Machine.execFerryPostResume gid s
  | .ferryDescriptorStart ch => Sys2Proof.Machine.execFerryDescriptorStart ch s
  | .ferryDescriptorComplete ch host => Sys2Proof.Machine.execFerryDescriptorComplete ch host s
  | .ferryErrorCompletion ch code addr host => Sys2Proof.Machine.execFerryErrorCompletion ch code addr host s
  | .hostTimeout ch addr host => Sys2Proof.Machine.execHostTimeout ch addr host s
  | .pasTargetStore gid pass value => Sys2Proof.Machine.execPasTargetStore gid pass value s
  | .passArrivalCount pass => Sys2Proof.Machine.execPassArrivalCount pass s
  | .passArriveAck gid => Sys2Proof.Machine.execPassArriveAck gid s
  | .passWaiterResume island pass => Sys2Proof.Machine.execPassWaiterResume island pass s
  | .islSrtPost gid k addr => Sys2Proof.Machine.execIslSrtPost gid k addr s
  | .sorterPostResume gid => Sys2Proof.Machine.execSorterPostResume gid s
  | .sorterJobStart k => Sys2Proof.Machine.execSorterJobStart k s
  | .sorterJobComplete k => Sys2Proof.Machine.execSorterJobComplete k s
  | .sorterJobError k code addr => Sys2Proof.Machine.execSorterJobError k code addr s
  | .serveConfig fn mbx => Sys2Proof.Machine.execServeConfig fn mbx s
  | .serveSubmit fn mbx prompt => Sys2Proof.Machine.execServeSubmit fn mbx prompt s
  | .serveCancel fn mbx => Sys2Proof.Machine.execServeCancel fn mbx s
  | .serveQuery fn mbx => Sys2Proof.Machine.execServeQuery fn mbx s
  | .stopsetSet fn mbx fetched => Sys2Proof.Machine.execStopsetSet fn mbx fetched s
  | .adapterLoad fn mbx fetched => Sys2Proof.Machine.execAdapterLoad fn mbx fetched s
  | .adapterFree fn mbx => Sys2Proof.Machine.execAdapterFree fn mbx s
  | .serveStats fn mbx => Sys2Proof.Machine.execServeStats fn mbx s
  | .serveUnconfig fn mbx => Sys2Proof.Machine.execServeUnconfig fn mbx s
  | .slackRecompute fn model => Sys2Proof.Machine.execSlackRecompute fn model s
  | .stepResultProcess fn model => Sys2Proof.Machine.execStepResultProcess fn model s
  | .servingContextRestart ctx => Sys2Proof.Machine.execServingContextRestart ctx s
  | .vidStreamOpen fn mbx => Sys2Proof.Machine.execVidStreamOpen fn mbx s
  | .vidStreamClose fn mbx => Sys2Proof.Machine.execVidStreamClose fn mbx s
  | .vidDecodeSubmit fn mbx => Sys2Proof.Machine.execVidDecodeSubmit fn mbx s
  | .vidEncodeSubmit fn mbx => Sys2Proof.Machine.execVidEncodeSubmit fn mbx s
  | .vidEncodeSet fn mbx => Sys2Proof.Machine.execVidEncodeSet fn mbx s
  | .vidConvertJob fn mbx => Sys2Proof.Machine.execVidConvertJob fn mbx s
  | .vidJobCancel fn mbx => Sys2Proof.Machine.execVidJobCancel fn mbx s
  | .vidJpegSubmit fn mbx => Sys2Proof.Machine.execVidJpegSubmit fn mbx s
  | .vidStreamQuery fn mbx => Sys2Proof.Machine.execVidStreamQuery fn mbx s
  | .vidOutputAck fn mbx => Sys2Proof.Machine.execVidOutputAck fn mbx s
  | .decodePicture eng pic => Sys2Proof.Machine.execDecodePicture eng pic s
  | .pictureOutput stream which => Sys2Proof.Machine.execPictureOutput stream which s
  | .encodePictureDone eng bits blocks => Sys2Proof.Machine.execEncodePictureDone eng bits blocks s
  | .auRingWrite stream => Sys2Proof.Machine.execAuRingWrite stream s
  | .jpegStrip w h samples err => Sys2Proof.Machine.execJpegStrip w h samples err s
  | .converterStrip fn job => Sys2Proof.Machine.execConverterStrip fn job s
  | .videoEngineReset eng => Sys2Proof.Machine.execVideoEngineReset eng s
  | .mailboxPost fn mbx header => Sys2Proof.Machine.execMailboxPost fn mbx header s
  | .mailboxPayloadWrite fn mbx word value => Sys2Proof.Machine.execMailboxPayloadWrite fn mbx word value s
  | .evtRingEnable fn value => Sys2Proof.Machine.execEvtRingEnable fn value s
  | .evtRingConfigWrite fn off value => Sys2Proof.Machine.execEvtRingConfigWrite fn off value s
  | .fnEvtAckWrite fn value => Sys2Proof.Machine.execFnEvtAckWrite fn value s
  | .vectorMapWrite fn off value => Sys2Proof.Machine.execVectorMapWrite fn off value s
  | .interruptCoalesceTimeout fn vec => Sys2Proof.Machine.execInterruptCoalesceTimeout fn vec s
  | .functionLevelReset fn => Sys2Proof.Machine.execFunctionLevelReset fn s
  | .moduleInfo fn mbx => Sys2Proof.Machine.execModuleInfo fn mbx s
  | .moduleStatus fn mbx => Sys2Proof.Machine.execModuleStatus fn mbx s
  | .moduleDrain fn mbx => Sys2Proof.Machine.execModuleDrain fn mbx s
  | .moduleResume fn mbx => Sys2Proof.Machine.execModuleResume fn mbx s
  | .valleyEnter fn mbx peerOk => Sys2Proof.Machine.execValleyEnter fn mbx peerOk s
  | .valleyExit fn mbx => Sys2Proof.Machine.execValleyExit fn mbx s
  | .timeGet fn mbx => Sys2Proof.Machine.execTimeGet fn mbx s
  | .linkRestore fn mbx upconfig => Sys2Proof.Machine.execLinkRestore fn mbx upconfig s
  | .ledIdentify fn mbx => Sys2Proof.Machine.execLedIdentify fn mbx s
  | .nop fn mbx => Sys2Proof.Machine.execNop fn mbx s
  | .partQuery fn mbx => Sys2Proof.Machine.execPartQuery fn mbx s
  | .partBind fn mbx => Sys2Proof.Machine.execPartBind fn mbx s
  | .partUnbind fn mbx => Sys2Proof.Machine.execPartUnbind fn mbx s
  | .partRebind fn mbx => Sys2Proof.Machine.execPartRebind fn mbx s
  | .partReset fn mbx => Sys2Proof.Machine.execPartReset fn mbx s
  | .partSetRamp fn mbx => Sys2Proof.Machine.execPartSetRamp fn mbx s
  | .pageRelease fn mbx => Sys2Proof.Machine.execPageRelease fn mbx s
  | .pageMap fn mbx => Sys2Proof.Machine.execPageMap fn mbx s
  | .pageReplace fn mbx => Sys2Proof.Machine.execPageReplace fn mbx s
  | .progLoad fn mbx image => Sys2Proof.Machine.execProgLoad fn mbx image s
  | .progUnload fn mbx => Sys2Proof.Machine.execProgUnload fn mbx s
  | .ctxStart fn mbx => Sys2Proof.Machine.execCtxStart fn mbx s
  | .ctxStop fn mbx => Sys2Proof.Machine.execCtxStop fn mbx s
  | .ctxQuery fn mbx => Sys2Proof.Machine.execCtxQuery fn mbx s
  | .memCopyIn fn mbx => Sys2Proof.Machine.execMemCopyIn fn mbx s
  | .memCopyOut fn mbx => Sys2Proof.Machine.execMemCopyOut fn mbx s
  | .pwrStatus fn mbx => Sys2Proof.Machine.execPwrStatus fn mbx s
  | .pwrSetPhases fn mbx => Sys2Proof.Machine.execPwrSetPhases fn mbx s
  | .pwrSetShare fn mbx => Sys2Proof.Machine.execPwrSetShare fn mbx s
  | .pwrSetSafe fn mbx => Sys2Proof.Machine.execPwrSetSafe fn mbx s
  | .pwrOperatorCap fn mbx => Sys2Proof.Machine.execPwrOperatorCap fn mbx s
  | .pwrThrottleRead fn mbx => Sys2Proof.Machine.execPwrThrottleRead fn mbx s
  | .lifeQuery fn mbx => Sys2Proof.Machine.execLifeQuery fn mbx s
  | .logRead fn mbx => Sys2Proof.Machine.execLogRead fn mbx s
  | .logClear fn mbx => Sys2Proof.Machine.execLogClear fn mbx s
  | .dumpRead fn mbx => Sys2Proof.Machine.execDumpRead fn mbx s
  | .dumpClear fn mbx => Sys2Proof.Machine.execDumpClear fn mbx s
  | .rasSetPolicy fn mbx => Sys2Proof.Machine.execRasSetPolicy fn mbx s
  | .pageStateRead fn mbx => Sys2Proof.Machine.execPageStateRead fn mbx s
  | .selftest fn mbx failed => Sys2Proof.Machine.execSelftest fn mbx failed s
  | .chipReset fn mbx => Sys2Proof.Machine.execChipReset fn mbx s
  | .rasQuery fn mbx => Sys2Proof.Machine.execRasQuery fn mbx s
  | .secStatus fn mbx => Sys2Proof.Machine.execSecStatus fn mbx s
  | .secCertGet fn mbx cert => Sys2Proof.Machine.execSecCertGet fn mbx cert s
  | .ownerLock fn mbx token sigOk => Sys2Proof.Machine.execOwnerLock fn mbx token sigOk s
  | .ownerUnlock fn mbx token sigOk => Sys2Proof.Machine.execOwnerUnlock fn mbx token sigOk s
  | .debugOpen fn mbx => Sys2Proof.Machine.execDebugOpen fn mbx s
  | .debugClose fn mbx => Sys2Proof.Machine.execDebugClose fn mbx s
  | .updateBegin fn mbx fetched sigOk keyOk => Sys2Proof.Machine.execUpdateBegin fn mbx fetched sigOk keyOk s
  | .updateBlock fn mbx fetched tagOk => Sys2Proof.Machine.execUpdateBlock fn mbx fetched tagOk s
  | .updateCommit fn mbx => Sys2Proof.Machine.execUpdateCommit fn mbx s
  | .commitComplete tagsOk rulesOk digests => Sys2Proof.Machine.execCommitComplete tagsOk rulesOk digests s
  | .updateActivate fn mbx => Sys2Proof.Machine.execUpdateActivate fn mbx s
  | .updateAbort fn mbx => Sys2Proof.Machine.execUpdateAbort fn mbx s
  | .updateStatus fn mbx => Sys2Proof.Machine.execUpdateStatus fn mbx s
  | .rollbackTimer recordOk => Sys2Proof.Machine.execRollbackTimer recordOk s
  | .pairStatus fn mbx => Sys2Proof.Machine.execPairStatus fn mbx s
  | .pairSetMode fn mbx => Sys2Proof.Machine.execPairSetMode fn mbx s
  | .pairTakeback fn mbx => Sys2Proof.Machine.execPairTakeback fn mbx s
  | .pairResync fn mbx => Sys2Proof.Machine.execPairResync fn mbx s
  | .scrubStart fn => Sys2Proof.Machine.execScrubStart fn s
  | .scrubDrainEnd fn timedOut => Sys2Proof.Machine.execScrubDrainEnd fn timedOut s
  | .scrubBoundExpiry fn => Sys2Proof.Machine.execScrubBoundExpiry fn s
  | .unexpectedCompletion fn => Sys2Proof.Machine.execUnexpectedCompletion fn s
  | .pcieLinkTrain hostRate good revOk worn => Sys2Proof.Machine.execPcieLinkTrain hostRate good revOk worn s
  | .bar2Read fn off len => Sys2Proof.Machine.execBar2Read fn off len s
  | .bar2Write fn off data => Sys2Proof.Machine.execBar2Write fn off data s
  | .msixUnmask fn vec addr data => Sys2Proof.Machine.execMsixUnmask fn vec addr data s
  | .atsInvalidate fn addr size => Sys2Proof.Machine.execAtsInvalidate fn addr size s
  | .pasidWrite fn value => Sys2Proof.Machine.execPasidWrite fn value s
  | .vfBarResize fn size mse => Sys2Proof.Machine.execVfBarResize fn size mse s
  | .numvfsWrite numVfs vfEnable => Sys2Proof.Machine.execNumvfsWrite numVfs vfEnable s
  | .ideKm stream op => Sys2Proof.Machine.execIdeKm stream op s
  | .ideStreamFail stream => Sys2Proof.Machine.execIdeStreamFail stream s
  | .tdiUnsecuredRequest fn onStream tBit => Sys2Proof.Machine.execTdiUnsecuredRequest fn onStream tBit s
  | .usbPost mbx words => Sys2Proof.Machine.execUsbPost mbx words s
  | .usbStageWrite off data => Sys2Proof.Machine.execUsbStageWrite off data s
  | .usbStageRead off len => Sys2Proof.Machine.execUsbStageRead off len s
  | .twinFlitReceive seq ack ackv symbols fecOk crcOk aligned worn => Sys2Proof.Machine.execTwinFlitReceive seq ack ackv symbols fecOk crcOk aligned worn s
  | .twinNak ack => Sys2Proof.Machine.execTwinNak ack s
  | .heartbeat time count mode role health lockMv lanes => Sys2Proof.Machine.execHeartbeat time count mode role health lockMv lanes s
  | .cableAttach cable checksumOk typeOk retimers => Sys2Proof.Machine.execCableAttach cable checksumOk typeOk retimers s
  | .cableHotJoin cable target => Sys2Proof.Machine.execCableHotJoin cable target s
  | .sessionHeartbeatTimeout session => Sys2Proof.Machine.execSessionHeartbeatTimeout session s
  | .leaseWrite bytes watts dur seq => Sys2Proof.Machine.execLeaseWrite bytes watts dur seq s
  | .coolantWrite bytes inlet outlet flow motion holdup => Sys2Proof.Machine.execCoolantWrite bytes inlet outlet flow motion holdup s
  | .dutyTick draw islandDraw powers amps => Sys2Proof.Machine.execDutyTick draw islandDraw powers amps s
  | .throttleEndTimeout fn reason => Sys2Proof.Machine.execThrottleEndTimeout fn reason s
  | .opGrantChange die op => Sys2Proof.Machine.execOpGrantChange die op s
  | .railPresetExpiry die => Sys2Proof.Machine.execRailPresetExpiry die s
  | .powerForecast next => Sys2Proof.Machine.execPowerForecast next s
  | .junctionScan islands hub media => Sys2Proof.Machine.execJunctionScan islands hub media s
  | .tripExit failed => Sys2Proof.Machine.execTripExit failed s
  | .inputOutOfRange mv => Sys2Proof.Machine.execInputOutOfRange mv s
  | .supplyStopExit mv failed => Sys2Proof.Machine.execSupplyStopExit mv failed s
  | .powerLoss mv => Sys2Proof.Machine.execPowerLoss mv s
  | .marginMeasure die taps => Sys2Proof.Machine.execMarginMeasure die taps s
  | .weeklyCheck eye24 eye20 eye16 => Sys2Proof.Machine.execWeeklyCheck eye24 eye20 eye16 s
  | .rainflowSample temps hourHot => Sys2Proof.Machine.execRainflowSample temps hourHot s
  | .errorReport rep => Sys2Proof.Machine.execErrorReport rep s
  | .hangScan moved => Sys2Proof.Machine.execHangScan moved s
  | .coreProgressWatchdog gid => Sys2Proof.Machine.execCoreProgressWatchdog gid s
  | .unitStopWatchdog src => Sys2Proof.Machine.execUnitStopWatchdog src s
  | .videoEngineWatchdog eng => Sys2Proof.Machine.execVideoEngineWatchdog eng s
  | .engineReset src cause failed => Sys2Proof.Machine.execEngineReset src cause failed s
  | .chipResetSequence boot => Sys2Proof.Machine.execChipResetSequence boot s
  | .crashDumpStart trigger domain => Sys2Proof.Machine.execCrashDumpStart trigger domain s
  | .dumpUnitTimeout src => Sys2Proof.Machine.execDumpUnitTimeout src s
  | .dumpDeadline left => Sys2Proof.Machine.execDumpDeadline left s
  | .dumpWriteDone slot => Sys2Proof.Machine.execDumpWriteDone slot s
  | .pairHello chainOk sigOk fwVer serial certHash secondary => Sys2Proof.Machine.execPairHello chainOk sigOk fwVer serial certHash secondary s
  | .mirrorInput fn opcode words => Sys2Proof.Machine.execMirrorInput fn opcode words s
  | .mirrorCtl msg => Sys2Proof.Machine.execMirrorCtl msg s
  | .digest dig => Sys2Proof.Machine.execDigest dig s
  | .knownAnswerTestDone passed failed => Sys2Proof.Machine.execKnownAnswerTestDone passed failed s
  | .resyncBulk fn pages last => Sys2Proof.Machine.execResyncBulk fn pages last s
  | .resyncHoldTimeout fn => Sys2Proof.Machine.execResyncHoldTimeout fn s
  | .yield request reason keys => Sys2Proof.Machine.execYield request reason keys s
  | .holderYield reason => Sys2Proof.Machine.execHolderYield reason s
  | .powerOn boot => Sys2Proof.Machine.execPowerOn boot s
  | .refclkWindow bad => Sys2Proof.Machine.execRefclkWindow bad s
  | .pllLossOfLock domain => Sys2Proof.Machine.execPllLossOfLock domain s
  | .pllRelockTimeout domain => Sys2Proof.Machine.execPllRelockTimeout domain s
  | .ppsInEdge time => Sys2Proof.Machine.execPpsInEdge time s
  | .timeSync offset => Sys2Proof.Machine.execTimeSync offset s
  | .valleyEntryComplete us => Sys2Proof.Machine.execValleyEntryComplete us s
  | .valleyExitComplete us => Sys2Proof.Machine.execValleyExitComplete us s
  | .supplyExcursion mv => Sys2Proof.Machine.execSupplyExcursion mv s
  | .holdupBankCheck percent => Sys2Proof.Machine.execHoldupBankCheck percent s
  | .pcieConventionalReset kind => Sys2Proof.Machine.execPcieConventionalReset kind s
  | .tdispGetVersion fn => Sys2Proof.Machine.execTdispGetVersion fn s
  | .tdispGetCapabilities fn => Sys2Proof.Machine.execTdispGetCapabilities fn s
  | .lockInterfaceRequest fn => Sys2Proof.Machine.execLockInterfaceRequest fn s
  | .getDeviceInterfaceReport fn => Sys2Proof.Machine.execGetDeviceInterfaceReport fn s
  | .getDeviceInterfaceState fn => Sys2Proof.Machine.execGetDeviceInterfaceState fn s
  | .startInterfaceRequest fn => Sys2Proof.Machine.execStartInterfaceRequest fn s
  | .stopInterfaceRequest fn => Sys2Proof.Machine.execStopInterfaceRequest fn s
  | .tdispUnsupported fn code => Sys2Proof.Machine.execTdispUnsupported fn code s
  | .tdispConfigViolation fn => Sys2Proof.Machine.execTdispConfigViolation fn s
  | .ptmDialogue offset => Sys2Proof.Machine.execPtmDialogue offset s
  | .twinTrain peerMask inverted reversed failed => Sys2Proof.Machine.execTwinTrain peerMask inverted reversed failed s
  | .cablePoll cable answered hot eyes => Sys2Proof.Machine.execCablePoll cable answered hot eyes s
  | .spdmGetVersion doe => Sys2Proof.Machine.execSpdmGetVersion doe s
  | .spdmGetCapabilities doe => Sys2Proof.Machine.execSpdmGetCapabilities doe s
  | .negotiateAlgorithms doe asym hash meas dhe aead sched => Sys2Proof.Machine.execNegotiateAlgorithms doe asym hash meas dhe aead sched s
  | .getDigests doe => Sys2Proof.Machine.execGetDigests doe s
  | .getCertificate doe slot off len => Sys2Proof.Machine.execGetCertificate doe slot off len s
  | .challenge doe slot => Sys2Proof.Machine.execChallenge doe slot s
  | .getMeasurements doe index => Sys2Proof.Machine.execGetMeasurements doe index s
  | .keyExchange doe => Sys2Proof.Machine.execKeyExchange doe s
  | .finish doe session ok => Sys2Proof.Machine.execFinish doe session ok s
  | .spdmHeartbeat doe session => Sys2Proof.Machine.execSpdmHeartbeat doe session s
  | .keyUpdate doe session => Sys2Proof.Machine.execKeyUpdate doe session s
  | .endSession doe session => Sys2Proof.Machine.execEndSession doe session s
  | .chunkSend doe seq last => Sys2Proof.Machine.execChunkSend doe seq last s
  | .chunkGet doe seq => Sys2Proof.Machine.execChunkGet doe seq s
  | .respondIfReady doe code => Sys2Proof.Machine.execRespondIfReady doe code s
  | .vendorDefinedRequest doe proto => Sys2Proof.Machine.execVendorDefinedRequest doe proto s
  | .spdmUnsupported doe code => Sys2Proof.Machine.execSpdmUnsupported doe code s
  | .jtagInstruction code => Sys2Proof.Machine.execJtagInstruction code s
  | .trngRetest ok => Sys2Proof.Machine.execTrngRetest ok s
  | .pairLockReading samples => Sys2Proof.Machine.execPairLockReading samples s
  | .pairLockProbe rise => Sys2Proof.Machine.execPairLockProbe rise s
  | .signalLineMonitor signal code => Sys2Proof.Machine.execSignalLineMonitor signal code s
  | .sidebandAddressAssign addr setdasa => Sys2Proof.Machine.execSidebandAddressAssign addr setdasa s
  | .epochDrawResume => Sys2Proof.Machine.execEpochDrawResume s
  | .firmwareReady => Sys2Proof.Machine.execFirmwareReady s
  | .quiescentPoint => Sys2Proof.Machine.execQuiescentPoint s
  | .quiescentTimeout => Sys2Proof.Machine.execQuiescentTimeout s
  | .handoverAdoptTimeout => Sys2Proof.Machine.execHandoverAdoptTimeout s
  | .fwConfirm => Sys2Proof.Machine.execFwConfirm s
  | .svnCounterBurn => Sys2Proof.Machine.execSvnCounterBurn s
  | .usbAttach => Sys2Proof.Machine.execUsbAttach s
  | .usbDetach => Sys2Proof.Machine.execUsbDetach s
  | .usbBadFrame => Sys2Proof.Machine.execUsbBadFrame s
  | .twinTrainRetry => Sys2Proof.Machine.execTwinTrainRetry s
  | .heartbeatSend => Sys2Proof.Machine.execHeartbeatSend s
  | .peerSilent => Sys2Proof.Machine.execPeerSilent s
  | .peerSilentLong => Sys2Proof.Machine.execPeerSilentLong s
  | .aliasKeyReady => Sys2Proof.Machine.execAliasKeyReady s
  | .jtagTlrTimeout => Sys2Proof.Machine.execJtagTlrTimeout s
  | .jtagTapReset => Sys2Proof.Machine.execJtagTapReset s
  | .trngHealthFail => Sys2Proof.Machine.execTrngHealthFail s
  | .coolantStale => Sys2Proof.Machine.execCoolantStale s
  | .trayFlagClear => Sys2Proof.Machine.execTrayFlagClear s
  | .leaseExpiry => Sys2Proof.Machine.execLeaseExpiry s
  | .leaseDecayEnd => Sys2Proof.Machine.execLeaseDecayEnd s
  | .limitTick => Sys2Proof.Machine.execLimitTick s
  | .forecastStale => Sys2Proof.Machine.execForecastStale s
  | .tripHoldTimeout => Sys2Proof.Machine.execTripHoldTimeout s
  | .pwrWarnAssert => Sys2Proof.Machine.execPwrWarnAssert s
  | .pwrWarnDeassert => Sys2Proof.Machine.execPwrWarnDeassert s
  | .warnFloorEnd => Sys2Proof.Machine.execWarnFloorEnd s
  | .mcpWatchdog => Sys2Proof.Machine.execMcpWatchdog s
  | .powerCycleRerequest => Sys2Proof.Machine.execPowerCycleRerequest s
  | .suspectReplayStart => Sys2Proof.Machine.execSuspectReplayStart s
  | .suspectReplayEnd => Sys2Proof.Machine.execSuspectReplayEnd s
  | .pairLinkLost => Sys2Proof.Machine.execPairLinkLost s
  | .modeChangeApply => Sys2Proof.Machine.execModeChangeApply s
  | .digestKeepExpiry => Sys2Proof.Machine.execDigestKeepExpiry s
  | .outputHoldTimeout => Sys2Proof.Machine.execOutputHoldTimeout s
  | .katResultTimeout => Sys2Proof.Machine.execKatResultTimeout s
  | .lineFaultSilent => Sys2Proof.Machine.execLineFaultSilent s
  | .pairLockClaim => Sys2Proof.Machine.execPairLockClaim s
  | .claimSettle => Sys2Proof.Machine.execClaimSettle s
  | .claimBackoffEnd => Sys2Proof.Machine.execClaimBackoffEnd s
  | .takebackTimer => Sys2Proof.Machine.execTakebackTimer s
  | .pullWarnAssert => Sys2Proof.Machine.execPullWarnAssert s
  | .pullWarnArm => Sys2Proof.Machine.execPullWarnArm s
  | .pullWarnOpen => Sys2Proof.Machine.execPullWarnOpen s
  | .reversePolarity => Sys2Proof.Machine.execReversePolarity s
  | .refclkReturn => Sys2Proof.Machine.execRefclkReturn s
  | .ppsTimeout => Sys2Proof.Machine.execPpsTimeout s
  | .ledIdentifyExpiry => Sys2Proof.Machine.execLedIdentifyExpiry s
  | .usbInTransfer => Sys2Proof.Machine.execUsbInTransfer s

end Sys2Proof.Machine
end

