-- ==== Sys2Proof/Machine/Idle.lean ====
section
/-! DEFINITION. One nanosecond of TIME_CLK, which passes when no command waits (17 R607, R610, 13 R486, 11 R402). -/

namespace Sys2Proof.Machine

open Sys2Proof

/-- The time in which a PLL relocks (R610). -/
abbrev relockNs : Nat := 100000

/-- A PLL that lost lock 100 µs ago is locked again (R610). -/
def State.relockDue (s : State) : State :=
  match s.clk.relock.find? fun e => decide (e.2 + relockNs ≤ s.time) with
  | none => s
  | some e =>
    ({ s with clk := { s.clk with relock := s.clk.relock.filter fun x => x.1 != e.1 } }.wrF .TIM_CLK_LOCK 0 e.1 1 1).hwSet .TIM_EVT 0 32

/-- Islands that insert bubbles now. -/
def State.bubbling (s : State) : List Nat :=
  (List.range 64).filter fun i => tabGet s.pwr.inForce 0 i != 0 || (s.isl i).droopAt.isSome

/-- Each island die counts ISL_CLK at its granted point, and each island its bubbles (R69, R501, R51). -/
def State.countCycles (s : State) : State :=
  let t := { s with fab := { s.fab with dieCyc := (List.range 4).foldl (fun t d =>
      if s.islClkOn d then tabUpd t 0 d (· + opTenths (tabGet s.pwr.granted 5 d)) else t) s.fab.dieCyc } }
  s.bubbling.foldl (fun t i => t.countBubbles i (s.islCycle i)) t

/-- TIME_NS advances once AON is up, and what only time brings about follows: clock cycles, a relocked PLL, the end of a handover window,
a completed Invalidate Request (DESIGN CHOICE, log entry 1). -/
def tick (s : State) : State :=
  if !s.brd.powered then s
  else (({ s with time := (s.time + 1) % 2 ^ 64 }.countCycles).relockDue).closeWindow.settleInval

end Sys2Proof.Machine
end

