-- ==== Sys2Proof/Premises.lean ====
section
/-! DEFINITION. The premises that statements about commands share. -/

namespace Sys2Proof.Machine

open Sys2Proof

/-- A posted command of an opcode waits in a mailbox that exists, and no handover window holds it (R358). -/
def State.posted (s : State) (fn mbx opcode : Nat) : Bool := decide (fn ≤ 18 ∧ mbx ≤ 16) && s.executes fn mbx opcode

/-- A thread can issue an instruction of len bytes that uses these registers, and its fetch faults nowhere (R45, R48). -/
def State.canIssue (s : State) (g len : Nat) (ks : List Nat) : Bool :=
  s.ready g ks && fetchOk (s.th g).pc.toNat && fetchOk ((s.th g).pc.toNat + len - 1)

end Sys2Proof.Machine
end

