-- ==== Sys2Proof/Safety.lean ====
section
/-! DEFINITION. What a sound state is, and what a safe step is, in the terms that statements use. -/

namespace Sys2Proof.Machine

open Sys2Proof

/-- Every memory of the module, and what it has written of host memory, is in canonical form (log entry 2). -/
def State.memOk (s : State) : Bool := s.fab.lsram.wf && s.fab.istore.wf && s.pln.data.wf && s.host.wf && s.mbx.staging.wf

/-- Every register holds a value of its own width (R15). -/
def State.regsOk (s : State) : Bool := s.regs.all fun e => e.1.reg.fit e.2 == e.2

/-- A sound state: memories canonical, registers within their widths, TIME_NS a 64-bit count (R5), at most 256 FATAL entries in the store
(R545) and at most 16,384 pages in the stored retirement list (R177). -/
structure State.Inv (s : State) : Prop where
  mem : s.memOk = true
  regs : s.regsOk = true
  time : s.time < 2 ^ 64
  fatal : s.ras.nvFatal.length ≤ 256
  retired : s.pln.retired.length ≤ 16384

/-- A safe step: it neither faults nor refuses. -/
def Safe (o : Out) : Prop := ∃ t, o = .next t

end Sys2Proof.Machine
end

