-- ==== Sys2Proof/WellFormed.lean ====
section
/-! DEFINITION. Well-formed commands: every operand names a function, mailbox, island, core, channel, pass or other unit that R3 and the
unit's own chapter give the module, in the width that the chapter gives the operand. -/

namespace Sys2Proof

open Machine

/-- The operands of a command lie in their ranges (R3, and the rule that each constructor of Instr cites). -/
def Instr.wf (i : Instr) : Bool :=
  match i with
  | .registerWrite fn off _ _ => decide (fn ≤ 16 ∧ off < 65536)
  | .bar0BadAccess fn off _ _ _ => decide (fn ≤ 16 ∧ off < 65536)
  | .splitLowRead fn off => decide (fn ≤ 16 ∧ off < 65536)
  | .splitLowWrite fn off _ => decide (fn ≤ 16 ∧ off < 65536)
  | .splitHighWrite fn off _ => decide (fn ≤ 16 ∧ off < 65536)
  | .w1cClearWrite fn off _ _ => decide (fn ≤ 16 ∧ off < 65536)
  | .straitFlitFail strait _ => decide (strait < 9)
  | .straitRetrainDone strait _ => decide (strait < 9)
  | .threadIssue island slot op len => decide (island < 64 ∧ slot < 64) && (len == 2 || len == 4) && opOk op
  | .vectorInstruction gid op => decide (gid < 32768) && VecOp.ok op
  | .threadLoadReturn gid _ _ => decide (gid < 32768)
  | .threadStoreComplete gid => decide (gid < 32768)
  | .fence gid _ _ => decide (gid < 32768)
  | .fenceI gid => decide (gid < 32768)
  | .ebreak gid _ => decide (gid < 32768)
  | .csrAccess gid csr _ rd src => decide (gid < 32768 ∧ csr < 4096 ∧ rd < 32 ∧ src < 32)
  | .yphaseWrite gid _ => decide (gid < 32768)
  | .pwrPhPhaseStore gid _ => decide (gid < 32768)
  | .exit gid => decide (gid < 32768)
  | .trace gid => decide (gid < 32768)
  | .abort gid => decide (gid < 32768)
  | .ecallUnknown gid => decide (gid < 32768)
  | .contextReset ctx => decide (ctx < 2 ^ 32)
  | .contextDone ctx => decide (ctx < 2 ^ 32)
  | .claimFetchInc gid n k rd => decide (gid < 32768 ∧ n < 64 ∧ k < 64 ∧ rd < 32)
  | .claimFetchAdd gid n k rd => decide (gid < 32768 ∧ n < 64 ∧ k < 64 ∧ rd < 32)
  | .claimBoundedInc gid n k rd => decide (gid < 32768 ∧ n < 64 ∧ k < 64 ∧ rd < 32)
  | .tensorReexecDone island slot _ => decide (island < 64 ∧ slot < 64)
  | .remapDeadline island => decide (island < 64)
  | .remapForceMidstep island => decide (island < 64)
  | .tlbFill cache fn vpn => decide (cache < 81 ∧ fn ≤ 16 ∧ vpn < 2 ^ 21)
  | .droopCrossing island _ => decide (island < 64)
  | .droopBubbleEnd island => decide (island < 64)
  | .islWinSelWrite _ => true
  | .pdmStart island => decide (island < 64)
  | .pdmDone island _ => decide (island < 64)
  | .tcfg gid _ => decide (gid < 32768)
  | .trowtag gid _ => decide (gid < 32768)
  | .tmma gid _ => decide (gid < 32768)
  | .tmmas gid _ => decide (gid < 32768)
  | .tzero gid _ => decide (gid < 32768)
  | .tepi gid _ => decide (gid < 32768)
  | .tred gid _ => decide (gid < 32768)
  | .passArrive gid _ => decide (gid < 32768)
  | .passWait gid _ => decide (gid < 32768)
  | .fenceF gid _ => decide (gid < 32768)
  | .tensorDispatch island slot => decide (island < 64 ∧ slot < 64)
  | .tmmaComplete island slot _ _ => decide (island < 64 ∧ slot < 64)
  | .tepiComplete island slot _ _ => decide (island < 64 ∧ slot < 64)
  | .tredComplete island slot _ => decide (island < 64 ∧ slot < 64)
  | .adapterCacheFill island slot _ _ _ _ => decide (island < 64 ∧ slot < 64)
  | .tensorIdleTimeout island slot => decide (island < 64 ∧ slot < 64)
  | .rampWindow island => decide (island < 64)
  | .plainSectorRead psn _ seen => decide (psn < sectors) && seenOk seen
  | .sectorReread psn seen => decide (psn < sectors) && seenOk seen
  | .plainSectorWrite fn psn first data _ seen again => decide (fn ≤ 16 ∧ psn < sectors ∧ first + data.length ≤ 256) && seenOk seen && seenOk again
  | .edcRetry channel _ => decide (channel < 32)
  | .channelRetrainDone channel _ => decide (channel < 32)
  | .dataRateChoice chans => chansOk chans
  | .refreshRateChange hot => decide (hot < 256)
  | .epochDrawResume => true
  | .pageMigrate ppn reads => decide (ppn < 1835008) && reads.all fun e => decide (e.1 < 256) && seenOk e.2.1 && seenOk e.2.2
  | .pageTest ppn _ => decide (ppn < 1835008)
  | .patrolVisit sector seen again => decide (sector < 256) && seenOk seen && seenOk again
  | .sramScrubVisit island core addr _ =>
    (decide (island < 64) && (match core with | some c => decide (c < 64 ∧ addr < lsBytes) | none => decide (addr < isBytes)))
  | .fryPost gid ch _ => decide (gid < 32768) && isChan ch
  | .ferryPostResume gid => decide (gid < 32768)
  | .ferryDescriptorStart ch => isChan ch
  | .ferryDescriptorComplete ch _ => isChan ch
  | .ferryErrorCompletion ch code _ _ => isChan ch && decide (1 ≤ code ∧ code ≤ 10)
  | .hostTimeout ch _ _ => isChan ch
  | .pasTargetStore gid pass _ => decide (gid < 32768 ∧ pass < 1024)
  | .passArrivalCount pass => decide (pass < 1024)
  | .passArriveAck gid => decide (gid < 32768)
  | .passWaiterResume island pass => decide (island < 64 ∧ pass < 1024)
  | .islSrtPost gid k _ => decide (gid < 32768 ∧ k < 4)
  | .sorterPostResume gid => decide (gid < 32768)
  | .sorterJobStart k => decide (k < 4)
  | .sorterJobComplete k => decide (k < 4)
  | .sorterJobError k code _ => decide (k < 4) && decide (1 ≤ code ∧ code ≤ 5)
  | .serveConfig fn mbx => decide (fn ≤ 18 ∧ mbx ≤ 16)
  | .serveSubmit fn mbx _ => decide (fn ≤ 18 ∧ mbx ≤ 16)
  | .serveCancel fn mbx => decide (fn ≤ 18 ∧ mbx ≤ 16)
  | .serveQuery fn mbx => decide (fn ≤ 18 ∧ mbx ≤ 16)
  | .stopsetSet fn mbx _ => decide (fn ≤ 18 ∧ mbx ≤ 16)
  | .adapterLoad fn mbx _ => decide (fn ≤ 18 ∧ mbx ≤ 16)
  | .adapterFree fn mbx => decide (fn ≤ 18 ∧ mbx ≤ 16)
  | .serveStats fn mbx => decide (fn ≤ 18 ∧ mbx ≤ 16)
  | .serveUnconfig fn mbx => decide (fn ≤ 18 ∧ mbx ≤ 16)
  | .slackRecompute fn model => decide (1 ≤ fn ∧ fn ≤ 16 ∧ model < 65536)
  | .stepResultProcess fn model => decide (1 ≤ fn ∧ fn ≤ 16 ∧ model < 65536)
  | .servingContextRestart _ => true
  | .vidStreamOpen fn mbx => decide (fn ≤ 18 ∧ mbx ≤ 16)
  | .vidStreamClose fn mbx => decide (fn ≤ 18 ∧ mbx ≤ 16)
  | .vidDecodeSubmit fn mbx => decide (fn ≤ 18 ∧ mbx ≤ 16)
  | .vidEncodeSubmit fn mbx => decide (fn ≤ 18 ∧ mbx ≤ 16)
  | .vidEncodeSet fn mbx => decide (fn ≤ 18 ∧ mbx ≤ 16)
  | .vidConvertJob fn mbx => decide (fn ≤ 18 ∧ mbx ≤ 16)
  | .vidJobCancel fn mbx => decide (fn ≤ 18 ∧ mbx ≤ 16)
  | .vidJpegSubmit fn mbx => decide (fn ≤ 18 ∧ mbx ≤ 16)
  | .vidStreamQuery fn mbx => decide (fn ≤ 18 ∧ mbx ≤ 16)
  | .vidOutputAck fn mbx => decide (fn ≤ 18 ∧ mbx ≤ 16)
  | .decodePicture eng _ => decide (eng < 8)
  | .pictureOutput stream _ => decide (stream < 65536)
  | .encodePictureDone eng _ _ => decide (8 ≤ eng ∧ eng < 12)
  | .auRingWrite stream => decide (stream < 65536)
  | .jpegStrip _ _ _ _ => true
  | .converterStrip fn job => decide (1 ≤ fn ∧ fn ≤ 16 ∧ job < 256)
  | .videoEngineReset eng => decide (eng < 12)
  | .mailboxPost fn mbx _ => decide (fn ≤ 16 ∧ mbx < 16)
  | .mailboxPayloadWrite fn mbx word _ => decide (fn ≤ 16 ∧ mbx < 16 ∧ word < 63)
  | .evtRingEnable fn _ => decide (fn ≤ 16)
  | .evtRingConfigWrite fn off _ => decide (fn ≤ 16) && [0x2000, 0x2008, 0x2010].contains off
  | .fnEvtAckWrite fn _ => decide (fn ≤ 16)
  | .vectorMapWrite fn off _ => decide (fn ≤ 16 ∧ 0x100 ≤ off ∧ off < 0x120) && off % 4 == 0
  | .interruptCoalesceTimeout fn vec => decide (fn ≤ 16) && decide (vec < vecCount fn)
  | .functionLevelReset fn => decide (fn ≤ 16)
  | .firmwareReady => true
  | .moduleInfo fn mbx => decide (fn ≤ 18 ∧ mbx ≤ 16)
  | .moduleStatus fn mbx => decide (fn ≤ 18 ∧ mbx ≤ 16)
  | .moduleDrain fn mbx => decide (fn ≤ 18 ∧ mbx ≤ 16)
  | .moduleResume fn mbx => decide (fn ≤ 18 ∧ mbx ≤ 16)
  | .valleyEnter fn mbx _ => decide (fn ≤ 18 ∧ mbx ≤ 16)
  | .valleyExit fn mbx => decide (fn ≤ 18 ∧ mbx ≤ 16)
  | .timeGet fn mbx => decide (fn ≤ 18 ∧ mbx ≤ 16)
  | .linkRestore fn mbx _ => decide (fn ≤ 18 ∧ mbx ≤ 16)
  | .ledIdentify fn mbx => decide (fn ≤ 18 ∧ mbx ≤ 16)
  | .nop fn mbx => decide (fn ≤ 18 ∧ mbx ≤ 16)
  | .partQuery fn mbx => decide (fn ≤ 18 ∧ mbx ≤ 16)
  | .partBind fn mbx => decide (fn ≤ 18 ∧ mbx ≤ 16)
  | .partUnbind fn mbx => decide (fn ≤ 18 ∧ mbx ≤ 16)
  | .partRebind fn mbx => decide (fn ≤ 18 ∧ mbx ≤ 16)
  | .partReset fn mbx => decide (fn ≤ 18 ∧ mbx ≤ 16)
  | .partSetRamp fn mbx => decide (fn ≤ 18 ∧ mbx ≤ 16)
  | .pageRelease fn mbx => decide (fn ≤ 18 ∧ mbx ≤ 16)
  | .pageMap fn mbx => decide (fn ≤ 18 ∧ mbx ≤ 16)
  | .pageReplace fn mbx => decide (fn ≤ 18 ∧ mbx ≤ 16)
  | .progLoad fn mbx _ => decide (fn ≤ 18 ∧ mbx ≤ 16)
  | .progUnload fn mbx => decide (fn ≤ 18 ∧ mbx ≤ 16)
  | .ctxStart fn mbx => decide (fn ≤ 18 ∧ mbx ≤ 16)
  | .ctxStop fn mbx => decide (fn ≤ 18 ∧ mbx ≤ 16)
  | .ctxQuery fn mbx => decide (fn ≤ 18 ∧ mbx ≤ 16)
  | .memCopyIn fn mbx => decide (fn ≤ 18 ∧ mbx ≤ 16)
  | .memCopyOut fn mbx => decide (fn ≤ 18 ∧ mbx ≤ 16)
  | .pwrStatus fn mbx => decide (fn ≤ 18 ∧ mbx ≤ 16)
  | .pwrSetPhases fn mbx => decide (fn ≤ 18 ∧ mbx ≤ 16)
  | .pwrSetShare fn mbx => decide (fn ≤ 18 ∧ mbx ≤ 16)
  | .pwrSetSafe fn mbx => decide (fn ≤ 18 ∧ mbx ≤ 16)
  | .pwrOperatorCap fn mbx => decide (fn ≤ 18 ∧ mbx ≤ 16)
  | .pwrThrottleRead fn mbx => decide (fn ≤ 18 ∧ mbx ≤ 16)
  | .lifeQuery fn mbx => decide (fn ≤ 18 ∧ mbx ≤ 16)
  | .logRead fn mbx => decide (fn ≤ 18 ∧ mbx ≤ 16)
  | .logClear fn mbx => decide (fn ≤ 18 ∧ mbx ≤ 16)
  | .dumpRead fn mbx => decide (fn ≤ 18 ∧ mbx ≤ 16)
  | .dumpClear fn mbx => decide (fn ≤ 18 ∧ mbx ≤ 16)
  | .rasSetPolicy fn mbx => decide (fn ≤ 18 ∧ mbx ≤ 16)
  | .pageStateRead fn mbx => decide (fn ≤ 18 ∧ mbx ≤ 16)
  | .selftest fn mbx failed => (failed.all fun k => decide (k < 64 * 66)) && decide (fn ≤ 18 ∧ mbx ≤ 16)
  | .chipReset fn mbx => decide (fn ≤ 18 ∧ mbx ≤ 16)
  | .rasQuery fn mbx => decide (fn ≤ 18 ∧ mbx ≤ 16)
  | .secStatus fn mbx => decide (fn ≤ 18 ∧ mbx ≤ 16)
  | .secCertGet fn mbx _ => decide (fn ≤ 18 ∧ mbx ≤ 16)
  | .ownerLock fn mbx _ _ => decide (fn ≤ 18 ∧ mbx ≤ 16)
  | .ownerUnlock fn mbx _ _ => decide (fn ≤ 18 ∧ mbx ≤ 16)
  | .debugOpen fn mbx => decide (fn ≤ 18 ∧ mbx ≤ 16)
  | .debugClose fn mbx => decide (fn ≤ 18 ∧ mbx ≤ 16)
  | .updateBegin fn mbx _ _ _ => decide (fn ≤ 18 ∧ mbx ≤ 16)
  | .updateBlock fn mbx _ _ => decide (fn ≤ 18 ∧ mbx ≤ 16)
  | .updateCommit fn mbx => decide (fn ≤ 18 ∧ mbx ≤ 16)
  | .commitComplete _ _ _ => true
  | .updateActivate fn mbx => decide (fn ≤ 18 ∧ mbx ≤ 16)
  | .updateAbort fn mbx => decide (fn ≤ 18 ∧ mbx ≤ 16)
  | .updateStatus fn mbx => decide (fn ≤ 18 ∧ mbx ≤ 16)
  | .quiescentPoint => true
  | .quiescentTimeout => true
  | .handoverAdoptTimeout => true
  | .fwConfirm => true
  | .rollbackTimer _ => true
  | .svnCounterBurn => true
  | .pairStatus fn mbx => decide (fn ≤ 18 ∧ mbx ≤ 16)
  | .pairSetMode fn mbx => decide (fn ≤ 18 ∧ mbx ≤ 16)
  | .pairTakeback fn mbx => decide (fn ≤ 18 ∧ mbx ≤ 16)
  | .pairResync fn mbx => decide (fn ≤ 18 ∧ mbx ≤ 16)
  | .scrubStart fn => isVf fn
  | .scrubDrainEnd fn _ => isVf fn
  | .scrubBoundExpiry fn => isVf fn
  | .unexpectedCompletion fn => isVf fn
  | .pcieConventionalReset kind => decide (kind < 3)
  | .pcieLinkTrain hostRate good _ worn => decide (1 ≤ hostRate) && good.all (fun l => decide (l < 16)) && worn.all fun l => decide (l < 16)
  | .bar2Read fn _ _ => isVf fn
  | .bar2Write fn _ _ => isVf fn
  | .msixUnmask fn vec _ _ => decide (fn ≤ 16) && decide (vec < vecCount fn)
  | .atsInvalidate fn _ _ => decide (fn ≤ 16)
  | .pasidWrite fn _ => decide (fn ≤ 16)
  | .vfBarResize fn _ _ => isVf fn
  | .numvfsWrite _ _ => true
  | .ideKm stream _ => decide (stream < 18)
  | .ideStreamFail stream => decide (stream < 18)
  | .tdispGetVersion fn => isVf fn
  | .tdispGetCapabilities fn => isVf fn
  | .lockInterfaceRequest fn => isVf fn
  | .getDeviceInterfaceReport fn => isVf fn
  | .getDeviceInterfaceState fn => isVf fn
  | .startInterfaceRequest fn => isVf fn
  | .stopInterfaceRequest fn => isVf fn
  | .tdispUnsupported fn _ => isVf fn
  | .tdispConfigViolation fn => isVf fn
  | .tdiUnsecuredRequest fn _ _ => isVf fn
  | .ptmDialogue _ => true
  | .usbAttach => true
  | .usbDetach => true
  | .usbPost mbx _ => decide (mbx < 16)
  | .usbStageWrite _ _ => true
  | .usbStageRead _ _ => true
  | .usbBadFrame => true
  | .twinTrain peerMask inverted _ failed => decide (peerMask < 256 ∧ inverted < 256) && failed.all fun l => decide (l < 8)
  | .twinTrainRetry => true
  | .twinFlitReceive seq ack _ _ _ _ _ worn => decide (seq < 4096 ∧ ack < 4096) && worn.all fun l => decide (l < 8)
  | .twinNak ack => decide (ack < 4096)
  | .heartbeatSend => true
  | .heartbeat _ _ _ _ _ _ _ => true
  | .peerSilent => true
  | .peerSilentLong => true
  | .cableAttach cable _ _ retimers => decide (cable < 2 ∧ retimers ≤ 2)
  | .cableHotJoin cable target => decide (cable < 2) && (cableTargets 2).contains target
  | .cablePoll cable _ _ _ => decide (cable < 2)
  | .aliasKeyReady => true
  | .spdmGetVersion _ => true
  | .spdmGetCapabilities _ => true
  | .negotiateAlgorithms _ _ _ _ _ _ _ => true
  | .getDigests _ => true
  | .getCertificate _ _ _ _ => true
  | .challenge _ _ => true
  | .getMeasurements _ _ => true
  | .keyExchange _ => true
  | .finish _ _ _ => true
  | .spdmHeartbeat _ _ => true
  | .keyUpdate _ _ => true
  | .endSession _ _ => true
  | .chunkSend _ _ _ => true
  | .chunkGet _ _ => true
  | .respondIfReady _ _ => true
  | .vendorDefinedRequest _ _ => true
  | .spdmUnsupported _ _ => true
  | .sessionHeartbeatTimeout _ => true
  | .jtagInstruction code => jtagOk code
  | .jtagTlrTimeout => true
  | .jtagTapReset => true
  | .trngHealthFail => true
  | .trngRetest _ => true
  | .leaseWrite _ watts dur seq => decide (watts < 65536 ∧ dur < 65536 ∧ seq < 2 ^ 32)
  | .coolantWrite _ inlet outlet flow _ _ => decide (inlet < 65536 ∧ outlet < 65536 ∧ flow < 65536)
  | .coolantStale => true
  | .trayFlagClear => true
  | .leaseExpiry => true
  | .leaseDecayEnd => true
  | .limitTick => true
  | .dutyTick _ _ powers amps => decide (powers.length = 64 ∧ amps < 65536)
  | .throttleEndTimeout fn reason => decide (fn ≤ 16 ∧ 1 ≤ reason ∧ reason ≤ 12)
  | .opGrantChange die op => decide (die < 4 ∧ op < 6)
  | .railPresetExpiry die => decide (die < 4)
  | .powerForecast next => (match next with | some (d, op) => decide (d < 4 ∧ op < 6) | none => true)
  | .forecastStale => true
  | .junctionScan islands _ _ => decide (islands.length = 64)
  | .tripExit failed => failed.all fun k => decide (k < 64 * 66)
  | .tripHoldTimeout => true
  | .pwrWarnAssert => true
  | .pwrWarnDeassert => true
  | .warnFloorEnd => true
  | .inputOutOfRange mv => decide (mv < 2 ^ 16)
  | .supplyStopExit _ failed => failed.all fun k => decide (k < 64 * 66)
  | .powerLoss mv => decide (mv < 40000)
  | .marginMeasure die taps => decide (die < 4 ∧ taps.length = 128) && taps.all fun v => decide (v < 4096)
  | .weeklyCheck _ _ _ => true
  | .rainflowSample temps hourHot => decide (temps.length = 6) && hourHot.all fun d => decide (d < 6)
  | .errorReport rep => decide (rep.die < 7 ∧ rep.unit ≤ 0x1B ∧ rep.inst < 256 ∧ rep.sub < 256) && (classSevs rep.cls).contains rep.sev
  | .hangScan _ => true
  | .coreProgressWatchdog gid => decide (gid < 32768)
  | .unitStopWatchdog src => isEngine src
  | .videoEngineWatchdog eng => decide (eng < 12)
  | .mcpWatchdog => true
  | .engineReset src _ failed => isEngine src && failed.all fun k => decide (k < 64 * 66)
  | .powerCycleRerequest => true
  | .chipResetSequence boot => bootOk boot
  | .suspectReplayStart => true
  | .suspectReplayEnd => true
  | .crashDumpStart trigger domain => decide (trigger < 2 ^ 32 ∧ 1 ≤ domain ∧ domain ≤ 5)
  | .dumpUnitTimeout src => decide (src < 2 ^ 24)
  | .dumpDeadline left => left.all fun u => decide (u < 2 ^ 24)
  | .dumpWriteDone slot => decide (slot < 4)
  | .pairHello _ _ _ _ _ _ => true
  | .pairLinkLost => true
  | .modeChangeApply => true
  | .mirrorInput fn _ words => decide (fn ≤ 16 ∧ words.length ≤ 63)
  | .mirrorCtl msg =>
    (match msg with
    | .admission fn _ _ _ | .stepRec fn _ _ _ | .doneAt fn _ _ _ | .rebind fn | .layout fn _ | .tokens fn _ _ _ =>
      decide (1 ≤ fn ∧ fn ≤ 16)
    | _ => true)
  | .digest dig => decide (1 ≤ dig.fn ∧ dig.fn ≤ 16)
  | .digestKeepExpiry => true
  | .outputHoldTimeout => true
  | .knownAnswerTestDone _ failed => failed.all fun k => decide (k < 64 * 66)
  | .katResultTimeout => true
  | .resyncBulk fn _ _ => decide (1 ≤ fn ∧ fn ≤ 16)
  | .resyncHoldTimeout fn => decide (1 ≤ fn ∧ fn ≤ 16)
  | .yield _ reason _ => decide (reason ≤ 8)
  | .holderYield reason => decide (reason ≤ 8)
  | .pairLockReading samples => !samples.isEmpty && samples.all fun v => decide (v < 4096)
  | .lineFaultSilent => true
  | .pairLockProbe rise => decide (rise < 4096)
  | .pairLockClaim => true
  | .claimSettle => true
  | .claimBackoffEnd => true
  | .takebackTimer => true
  | .pullWarnAssert => true
  | .pullWarnArm => true
  | .pullWarnOpen => true
  | .powerOn boot => bootOk boot
  | .reversePolarity => true
  | .refclkWindow _ => true
  | .refclkReturn => true
  | .pllLossOfLock domain => hasPll domain
  | .pllRelockTimeout domain => hasPll domain
  | .ppsInEdge time => decide (time < 2 ^ 64)
  | .ppsTimeout => true
  | .timeSync _ => true
  | .valleyEntryComplete _ => true
  | .valleyExitComplete _ => true
  | .signalLineMonitor signal code => (signalCodes signal).contains code
  | .ledIdentifyExpiry => true
  | .supplyExcursion mv => decide (mv < 2 ^ 16)
  | .holdupBankCheck _ => true
  | .usbInTransfer => true
  | .sidebandAddressAssign addr _ => decide (addr < 128)

end Sys2Proof
end

