-- ==== Sys2Proof/Certificates/Slice0/Obligations.lean ====
section
/-! DEFINITION. The statements about the model, for the provers. -/

section

open Sys2Proof Sys2Proof.Machine

/-- A step takes the command at the front of the queue and runs it with the queue's rest. (R359) -/
def Obligations.StepRunsFrontCommand : Prop :=
  ∀ (c : Instr) (s : State), step { s with pending := c :: s.pending } = exec c s

/-- A step with no command waiting lets one nanosecond pass. (R607, R610, R486, R402) -/
def Obligations.IdleStepPassesOneNanosecond : Prop :=
  (∀ (s : State), s.pending = [] → s.brd.powered = true → s.clk.relock = [] → s.upd.stage ≠ .window → s.lnk.inval = [] → step s =
    .next { s with time := (s.time + 1) % 2 ^ 64 }.countCycles) ∧
  (∀ (s : State), s.pending = [] → s.brd.powered = false → step s = .next s)

/-- The state after reset is sound, has an empty queue, and gives every register its reset value. (R5, R7, R15, R16, R545) -/
def Obligations.ResetIsSound : Prop :=
  State.reset.Inv ∧ State.reset.pending = [] ∧ State.reset.fab.lsram = [] ∧ State.reset.fab.istore = [] ∧ State.reset.pln.data = [] ∧
  (∀ (r : Reg) (i : Nat), State.reset.rd r i = r.resetVal i) ∧ State.reset.rdF .PWR_SAFE 0 0 16 = 700

/-- Every step keeps the module sound. (R5, R15, R164, R177, R545) -/
def Obligations.EveryStepKeepsSoundness : Prop :=
  ∀ (s t : State), s.Inv → step s = .next t → t.Inv

/-- No command changes the queue of waiting commands. (R359) -/
def Obligations.CommandsKeepTheQueue : Prop :=
  ∀ (c : Instr) (s t : State), exec c s = .next t → t.pending = s.pending

/-- Every command answers a next state, which keeps the queue and soundness;with operands that name no unit it changes nothing. (R3, R13, R365) -/
def Obligations.EveryCommandAnswers : Prop :=
  ∀ (c : Instr) (s : State), ∃ t, exec c s = .next t ∧ t.pending = s.pending ∧ (s.Inv → t.Inv) ∧ (c.wf = false → t = s)

/-- A mailbox command that is not posted, or that a handover window holds, changes nothing. (R356, R358) -/
def Obligations.UnpostedCommandsChangeNothing : Prop :=
  ∀ (fn mbx : Nat) (s : State) (e : Instr × Nat), fn ≤ 18 → mbx ≤ 16 →
    e ∈ [(.moduleInfo fn mbx, 0x000), (.moduleStatus fn mbx, 0x001), (.moduleDrain fn mbx, 0x002), (.moduleResume fn mbx, 0x003), (.valleyExit fn mbx, 0x005), (.timeGet fn mbx, 0x006), (.ledIdentify fn mbx, 0x008), (.nop fn mbx, 0x009), (.partQuery fn mbx, 0x100), (.partBind fn mbx, 0x101), (.partUnbind fn mbx, 0x102), (.partRebind fn mbx, 0x103), (.partReset fn mbx, 0x104), (.partSetRamp fn mbx, 0x105), (.pageRelease fn mbx, 0x106), (.pageMap fn mbx, 0x107), (.pageReplace fn mbx, 0x108), (.progUnload fn mbx, 0x201), (.ctxStart fn mbx, 0x202), (.ctxStop fn mbx, 0x203), (.ctxQuery fn mbx, 0x204), (.memCopyIn fn mbx, 0x205), (.memCopyOut fn mbx, 0x206), (.serveConfig fn mbx, 0x300), (.serveCancel fn mbx, 0x302), (.serveQuery fn mbx, 0x303), (.adapterFree fn mbx, 0x306), (.serveStats fn mbx, 0x307), (.serveUnconfig fn mbx, 0x308), (.vidStreamOpen fn mbx, 0x400), (.vidStreamClose fn mbx, 0x401), (.vidDecodeSubmit fn mbx, 0x402), (.vidEncodeSubmit fn mbx, 0x403), (.vidEncodeSet fn mbx, 0x404), (.vidConvertJob fn mbx, 0x405), (.vidJobCancel fn mbx, 0x406), (.vidJpegSubmit fn mbx, 0x407), (.vidStreamQuery fn mbx, 0x408), (.vidOutputAck fn mbx, 0x409), (.pwrStatus fn mbx, 0x500), (.pwrSetPhases fn mbx, 0x501), (.pwrSetShare fn mbx, 0x502), (.pwrSetSafe fn mbx, 0x503), (.pwrOperatorCap fn mbx, 0x504), (.pwrThrottleRead fn mbx, 0x505), (.lifeQuery fn mbx, 0x506), (.logRead fn mbx, 0x600), (.logClear fn mbx, 0x601), (.dumpRead fn mbx, 0x602), (.dumpClear fn mbx, 0x603), (.rasSetPolicy fn mbx, 0x604), (.pageStateRead fn mbx, 0x605), (.chipReset fn mbx, 0x607), (.rasQuery fn mbx, 0x608), (.secStatus fn mbx, 0x700), (.debugOpen fn mbx, 0x704), (.debugClose fn mbx, 0x705), (.updateCommit fn mbx, 0x802), (.updateActivate fn mbx, 0x803), (.updateAbort fn mbx, 0x804), (.updateStatus fn mbx, 0x805), (.pairStatus fn mbx, 0x900), (.pairSetMode fn mbx, 0x901), (.pairTakeback fn mbx, 0x902), (.pairResync fn mbx, 0x903)] → s.executes fn mbx e.2 = false → exec e.1 s = .next s

/-- Query commands change nothing but mailboxes, pending vectors and forwarded posts. (R357, R364) -/
def Obligations.QueryCommandsFrame : Prop :=
  ∀ (fn mbx : Nat) (s t : State) (c : Instr), c ∈ [.nop fn mbx, .moduleInfo fn mbx, .timeGet fn mbx, .pwrStatus fn mbx, .lifeQuery fn mbx, .rasQuery fn mbx, .secStatus fn mbx, .pairStatus fn mbx, .serveStats fn mbx, .vidStreamQuery fn mbx, .partQuery fn mbx] → exec c s = .next t → t = { s with mbx := t.mbx, lnk := { s.lnk with pba := t.lnk.pba }, pair := { s.pair with inputs := t.pair.inputs } }

/-- A posted command with an argument outside its limits answers LIMIT and changes nothing else. (R357, R363, R364) -/
def Obligations.LimitRefusals : Prop :=
  ∀ (fn mbx : Nat) (image : Option ProgImage) (failed : List Nat) (s : State) (e : Instr × Nat), e ∈ [(.pageRelease fn mbx, 0x106), (.pageMap fn mbx, 0x107), (.pageReplace fn mbx, 0x108), (.progLoad fn mbx image, 0x200), (.ctxStart fn mbx, 0x202), (.memCopyIn fn mbx, 0x205), (.memCopyOut fn mbx, 0x206), (.vidStreamOpen fn mbx, 0x400), (.vidDecodeSubmit fn mbx, 0x402), (.vidConvertJob fn mbx, 0x405), (.vidJpegSubmit fn mbx, 0x407), (.selftest fn mbx failed, 0x606)] → (failed.all (fun k => decide (k < 64 * 66)) = true) → s.posted fn mbx e.2 = true → s.badLimit fn mbx e.2 = true → exec e.1 s = .next (s.respond fn mbx rLimit [])

/-- Integer instructions change one register, the pc and the issue slot of their thread, and nothing else. (R41, R47, R71) -/
def Obligations.IntegerInstructionFrame : Prop :=
  ∀ (i sl g len rd a b v : Nat) (imm : Int) (o1 o2 : AluOp) (w1 w2 : Bool) (c : BrCond) (op : ScalarOp) (s : State), i < 64 → sl < 64 →
    len = 2 ∨ len = 4 → rd < 32 → a < 32 → b < 32 → w1 = false ∨ AluOp.hasW o1 = true → w2 = false ∨ AluOp.hasW o2 = true →
    hasImm o2 = true →
    op ∈ [.alu o1 w1 rd a b, .alui o2 w2 rd a imm, .lui rd v, .auipc rd v, .jal rd imm, .jalr rd a imm, .branch c a b imm] →
    s.pickThread (i * 64 + sl) op = some g → s.canIssue g len (opKeys op) = true → ∃ t, exec (.threadIssue i sl op len) s = .next t ∧
    t = { s with fab := { s.fab with threads := t.fab.threads, rr := t.fab.rr, used := t.fab.used } } ∧
    (∀ h, h ≠ g → t.th h = s.th h) ∧ (∀ r, r ≠ rd → (t.th g).xr r = (s.th g).xr r) ∧ (t.th g).xr 0 = 0 ∧
    (t.th g).loads.map (fun l => { l with dead := false }) = (s.th g).loads.map (fun l => { l with dead := false }) ∧
    t.th g = { s.th g with x := (t.th g).x, loads := (t.th g).loads, pc := (t.th g).pc, instret := (s.th g).instret + 1, lastIssue := (t.th g).lastIssue, stall := .none }

/-- A write of the plain changes the bytes it writes and no other byte of the plain. (R164, R165, R166, R167, R588) -/
def Obligations.PlainWriteFrame : Prop :=
  ∀ (fn psn first p o : Nat) (data : List Byte) (kv : Bool) (x y : Seen) (s : State), fn ≤ 16 → psn < sectors →
    first + data.length ≤ 256 → seenOk x = true → seenOk y = true → data ≠ [] → (s.page (psn / 256)).owner = ownerCode fn →
    (s.page (psn / 256)).migrating = false → s.chanTrains (psnChannel psn) = false → s.chanFailed (psnChannel psn) = false →
    (((s.page (psn / 256)).st = .written ∧
    (data.length = 256 ∨ s.readSector psn 0 x y = (s, true))) ∨ ((s.page (psn / 256)).st = .unwritten ∧ ∀ q, q / 256 = psn / 256 →
    tabGet s.pln.secEpoch 0 q ≠ (s.page (psn / 256)).epoch)) →
    p * 65536 + o < psn * 256 + first ∨ psn * 256 + first + data.length ≤ p * 65536 + o →
    ∃ t, exec (.plainSectorWrite fn psn first data kv x y) s = .next t ∧ t.plainByte p o = s.plainByte p o ∧
    t = { s with pln := t.pln, fab := { s.fab with islands := t.fab.islands }, pair := { s.pair with resyncLeft := t.pair.resyncLeft } } ∧
    ∀ i, t.isl i = { s.isl i with tlb := (t.isl i).tlb }

/-- A STAGE_WRITE puts its data at its offset of the staging area and changes nothing else. (R414) -/
def Obligations.StagingAreaFrame : Prop :=
  ∀ (off : Nat) (data : List Byte) (s : State), s.Inv → s.mbx.usbAttached = true → off + data.length ≤ stagingBytes →
    ∃ t, exec (.usbStageWrite off data) s = .next t ∧ t = { s with mbx := { s.mbx with staging := t.mbx.staging } } ∧
    memRead t.mbx.staging off data.length = data ∧
    ∀ a, a < off ∨ off + data.length ≤ a → memGet t.mbx.staging a = memGet s.mbx.staging a

/-- W1C status registers and their event counters. (R547) -/
def Obligations.W1cBitsAndEventCounters : Prop :=
  (∀ (fn off value hw i : Nat) (r : Reg) (s : State), s.Inv → fn ≤ 16 → off < 65536 → s.regAt fn off = some (off, r, i) →
    r.info.w1c ≠ 0 → s.fnState fn ≠ fnScrubbing → ∃ c t, r.counterOf = some c ∧ exec (.w1cClearWrite fn off value hw) s = .next t ∧
    (∀ b, r.info.w1c.getLsbD b = true → (t.rd r i).getLsbD b = ((w64 hw).getLsbD b || ((s.rd r i).getLsbD b && !(w64 value).getLsbD b))) ∧
    (let base := if s.rd r i &&& w64 value &&& r.info.w1c = 0 then s.rdN c i else 0
    t.rdN c i = if w64 hw &&& r.info.w1c = 0 then base else min (base + 1) 255) ∧
    (∀ q j, ¬(q = r ∧ j = i) → ¬(q = c ∧ j = i) → t.rd q j = s.rd q j) ∧
    t = { s with regs := t.regs, mbx := { s.mbx with heldLow := t.mbx.heldLow } }) ∧
  (∀ (r c : Reg) (i m : Nat) (s : State), r.counterOf = some c → (s.hwSet r i m).rdN c i = min (s.rdN c i + 1) 255 ∧
    (s.hwSet r i m).rd r i = r.fit (s.rd r i ||| w64 m))

/-- A report that finds a held entry of its source, class, severity and syndrome within 1 ms coalesces into it. (R542) -/
def Obligations.LogReportsCoalesce : Prop :=
  ∀ (pre post : List LogEnt) (e : LogEnt) (die unit inst sub cls func sev addr synd ctx : Nat) (s : State), s.ras.log = pre ++ e :: post → post.length < 64 → e.die = die → e.unit = unit → e.inst = inst → e.sub = sub → e.cls = cls → e.sev = sev → e.synd = synd → s.time < e.time + 1000000 → (∀ x ∈ pre.drop (pre.length + 1 + post.length - 64), ¬(x.die = die ∧ x.unit = unit ∧ x.inst = inst ∧ x.sub = sub ∧ x.cls = cls ∧ x.sev = sev ∧ x.synd = synd ∧ s.time < x.time + 1000000)) → s.log die unit inst sub cls func sev addr synd ctx = { s with ras := { s.ras with log := pre ++ { e with count := min (e.count + 1) 65535 } :: post } }

/-- A vector that is masked or whose entry holds address 0 is held pending, and is sent once when it is unmasked. (R399) -/
def Obligations.MaskedVectorsPendAndGoOnce : Prop :=
  ∀ (fn vec addr data n : Nat) (s : State), fn ≤ 16 → vec < vecCount fn →
    (tabGet s.lnk.msix {} (fn * 256 + vec)).masked = true ∨ (tabGet s.lnk.msix {} (fn * 256 + vec)).addr = 0 → s.cfgLocked fn = false →
    addr ≠ 0 → ∃ t, exec (.msixUnmask fn vec addr data) (Nat.repeat (fun u => u.raiseVec fn vec) (n + 1) s) = .next t ∧
    (Nat.repeat (fun u => u.raiseVec fn vec) (n + 1) s).lnk.pba.contains (fn * 256 + vec) = true ∧
    (Nat.repeat (fun u => u.raiseVec fn vec) (n + 1) s).mbx.sent = s.mbx.sent ∧
    tabGet t.mbx.sent 0 (fn * 256 + vec) = tabGet s.mbx.sent 0 (fn * 256 + vec) + 1 ∧
    t.lnk.pba.contains (fn * 256 + vec) = false

/-- A request to a VF in RUN that is off its stream or lacks the T bit. (R410) -/
def Obligations.UnsecuredTdiRequestsAreRefused : Prop :=
  ∀ (fn : Nat) (onStream tBit : Bool) (s : State), 1 ≤ fn → fn ≤ 16 → s.tdi fn = .run → onStream = false ∨ tBit = false →
    ∃ t, exec (.tdiUnsecuredRequest fn onStream tBit) s = .next t ∧ t.reply = .unsupported ∧
    t.rdN .FN_DROPPED_WR fn = min (s.rdN .FN_DROPPED_WR fn + 1) (2 ^ 32 - 1) ∧ ∀ f, t.tdi f = s.tdi f

/-- SEC_CERT_GET writes the whole certificate, or nothing with LIMIT. (R444) -/
def Obligations.CertificateReads : Prop :=
  (∀ (fn mbx : Nat) (cert : List Byte) (s : State), s.Inv → fn ≤ 16 → s.posted fn mbx 0x701 = true → s.hostOk fn = true →
    s.owned fn 16 = false → s.arg fn mbx 0 ≤ 4 → cert.length ≤ s.arg fn mbx 3 → exec (.secCertGet fn mbx cert) s =
    .next ((s.hostPut fn (s.arg64 fn mbx 1) cert).respond fn mbx rOk [cert.length]) ∧
    memRead (s.hostPut fn (s.arg64 fn mbx 1) cert).host (hostKey fn (s.arg64 fn mbx 1)) cert.length = cert) ∧
  (∀ (fn mbx : Nat) (cert : List Byte) (s : State), s.posted fn mbx 0x701 = true → 4 < s.arg fn mbx 0 ∨ s.arg fn mbx 3 < cert.length →
    exec (.secCertGet fn mbx cert) s = .next (s.respond fn mbx rLimit []) ∧ (s.respond fn mbx rLimit []).host = s.host)

/-- UPDATE_STATUS writes one bit for each block received, and answers the state, the count and the version. (R477) -/
def Obligations.UpdateStatusBitmap : Prop :=
  ∀ (fn mbx : Nat) (l : List Byte) (s : State), fn ≤ 16 → s.posted fn mbx 0x805 = true → s.hostOk fn = true → s.owned fn 16 = false →
    l.length = 96 → (∀ b, b < 768 → (l.getD (b / 8) 0).getLsbD (b % 8) = s.upd.blocks.contains b) → exec (.updateStatus fn mbx) s =
    .next ((s.hostPut fn (s.arg64 fn mbx 0) l).respond fn mbx 0
    [s.upd.st.code, s.upd.blocks.length, if s.upd.st = .idle then 0 else (s.fwSlot s.target).ver])

/-- A register write of the register's own width, the two halves of a split write, and a write-1-to-clear write. (R14, R15, R16, R385)
Answers a next state for: registerWrite, splitLowWrite, splitHighWrite, w1cClearWrite. -/
def Obligations.RegisterWriteEffects : Prop :=
  (∀ (fn off width value i : Nat) (r : Reg) (s : State), fn ≤ 16 → off < 65536 → s.regAt fn off = some (off, r, i) →
    width * 8 = r.info.width → exec (.registerWrite fn off width value) s = .next ((s.swWrite fn r i value).unhold fn off)) ∧
  (∀ (fn off value i : Nat) (r : Reg) (s : State), fn ≤ 16 → off < 65536 → s.regAt fn off = some (off, r, i) → r.info.width = 64 →
    s.fnState fn ≠ fnScrubbing → exec (.splitLowWrite fn off value) s =
    .next ({ s with mbx := { s.mbx with heldLow := tabSet s.mbx.heldLow (halfKey fn off) (w32 value) } })) ∧
  (∀ (fn off value i : Nat) (l : BitVec 32) (r : Reg) (s : State), fn ≤ 16 → off < 65532 → s.regAt fn (off + 4) = some (off, r, i) →
    r.info.width = 64 → tabFind s.mbx.heldLow (halfKey fn off) = some l → exec (.splitHighWrite fn (off + 4) value) s =
    .next ((s.swWrite fn r i (l.toNat + value % 2 ^ 32 * 2 ^ 32)).unhold fn off)) ∧
  (∀ (fn off value i : Nat) (r : Reg) (s : State), fn ≤ 16 → off < 65532 → s.regAt fn (off + 4) = some (off, r, i) → r.info.width = 64 →
    tabFind s.mbx.heldLow (halfKey fn off) = none → exec (.splitHighWrite fn (off + 4) value) s =
    .next ((s.swWrite fn r i ((s.view r i).toNat % 2 ^ 32 + value % 2 ^ 32 * 2 ^ 32)).unhold fn off)) ∧
  (∀ (fn off value hw i : Nat) (r : Reg) (s : State), fn ≤ 16 → off < 65536 → s.regAt fn off = some (off, r, i) → r.info.w1c ≠ 0 →
    s.fnState fn ≠ fnScrubbing → exec (.w1cClearWrite fn off value hw) s = .next ((s.w1cWrite r i (w64 value) (w64 hw)).unhold fn off)) ∧
  (∀ (fn off value hw i : Nat) (r : Reg) (s : State), fn ≤ 16 → off < 65536 → s.regAt fn off = some (off, r, i) →
    s.fnState fn = fnScrubbing → (r.info.width = 64 → exec (.splitLowWrite fn off value) s = .next (s.dropWr fn)) ∧
    (r.info.w1c ≠ 0 → exec (.w1cClearWrite fn off value hw) s = .next ((s.dropWr fn).w1cWrite r i 0 (w64 hw))))

/-- Reads of BAR0: the low half of a split read, and an access of a bad width or alignment. (R13, R14)
Answers a next state for: splitLowRead, bar0BadAccess. -/
def Obligations.RegisterReadEffects : Prop :=
  (∀ (fn off i : Nat) (r : Reg) (s : State), fn ≤ 16 → off < 65536 → s.regAt fn off = some (off, r, i) → r.info.width = 64 →
    exec (.splitLowRead fn off) s = .next ({ s with
    mbx := { s.mbx with latch := tabSet s.mbx.latch (halfKey fn off) (w32 ((s.view r i).toNat / 2 ^ 32)) },
    reply := .word ((s.view r i).toNat % 2 ^ 32) })) ∧
  (∀ (fn off width value : Nat) (s : State), fn ≤ 16 → off < 65536 → s.goodAccess fn off width = false →
    width ≠ 4 ∨ s.regAt fn off = none → exec (.bar0BadAccess fn off width false value) s =
    .next ({ s with reply := .bytes ((List.range width).map fun k => s.bar0Byte fn (off + k)) })) ∧
  (∀ (fn off value i : Nat) (r : Reg) (s : State), fn ≤ 16 → off < 65532 → s.regAt fn (off + 4) = some (off, r, i) → r.info.width = 64 →
    exec (.bar0BadAccess fn (off + 4) 4 false value) s =
    .next ({ s with reply := .word (match tabFind s.mbx.latch (halfKey fn off) with | some h => h.toNat | none => (s.view r i).toNat / 2 ^ 32) })) ∧
  (∀ (fn off width value : Nat) (s : State), fn ≤ 16 → off < 65536 → s.goodAccess fn off width = false →
    exec (.bar0BadAccess fn off width true value) s = .next (s.dropWr fn))

/-- A strait's failed flits and the end of its retraining. (R26, R27)
Answers a next state for: straitFlitFail, straitRetrainDone. -/
def Obligations.StraitRecovery : Prop :=
  (∀ (k : Nat) (s : State), k < 9 → s.fab.straitDown.contains k = false → s.fab.straitTrain.contains k = false →
    exec (.straitFlitFail k true) s = .next ({ s with fab := { s.fab with
    straitCorr := tabUpd s.fab.straitCorr 0 k (· + 1),
    straitFails := tabSet s.fab.straitFails k 0 } })) ∧
  (∀ (k : Nat) (s : State), k < 9 → s.fab.straitDown.contains k = false → s.fab.straitTrain.contains k = false →
    tabGet s.fab.straitFails 0 k < 7 → exec (.straitFlitFail k false) s = .next ({ s with fab := { s.fab with
    straitCorr := tabUpd s.fab.straitCorr 0 k (· + 1),
    straitFails := tabSet s.fab.straitFails k (tabGet s.fab.straitFails 0 k + 1) } })) ∧
  (∀ (k : Nat) (s : State), k < 9 → s.fab.straitDown.contains k = false → s.fab.straitTrain.contains k = false →
    tabGet s.fab.straitFails 0 k = 7 → exec (.straitFlitFail k false) s = .next ({ s with fab := { s.fab with
    straitCorr := tabUpd s.fab.straitCorr 0 k (· + 1),
    straitFails := tabSet s.fab.straitFails k 0,
    straitTrain := k :: s.fab.straitTrain } }.log (straitDie k) 7 k 0 0x20 0x1F 1 0 0 0)) ∧
  (∀ (k : Nat) (ok : Bool) (s : State), k < 9 → s.fab.straitTrain.contains k = true → exec (.straitRetrainDone k ok) s =
    .next (if ok then { s with fab := { s.fab with straitTrain := s.fab.straitTrain.erase k, straitFails := tabSet s.fab.straitFails k 0 } }
    else { s with fab := { s.fab with straitTrain := s.fab.straitTrain.erase k, straitFails := tabSet s.fab.straitFails k 0 } }.straitFail k))

/-- Integer instructions at issue: register results, jumps and branches, and illegal ones. (R41, R47, R48, R71)
Answers a next state for: threadIssue. -/
def Obligations.ScalarIntegerResults : Prop :=
  (∀ (i sl g len rd a b : Nat) (op : AluOp) (w : Bool) (s : State), i < 64 → sl < 64 → len = 2 ∨ len = 4 → rd < 32 → a < 32 → b < 32 →
    s.pickThread (i * 64 + sl) (.alu op w rd a b) = some g → s.canIssue g len (opKeys (.alu op w rd a b)) = true →
    w = false ∨ AluOp.hasW op = true → exec (.threadIssue i sl (.alu op w rd a b) len) s =
    .next (s.retireX g len rd ((if w then alu32 else alu64) op ((s.th g).xr a) ((s.th g).xr b)))) ∧
  (∀ (i sl g len rd a : Nat) (imm : Int) (op : AluOp) (w : Bool) (s : State), i < 64 → sl < 64 → len = 2 ∨ len = 4 → rd < 32 → a < 32 →
    s.pickThread (i * 64 + sl) (.alui op w rd a imm) = some g → s.canIssue g len (opKeys (.alui op w rd a imm)) = true →
    hasImm op = true → w = false ∨ AluOp.hasW op = true → exec (.threadIssue i sl (.alui op w rd a imm) len) s =
    .next (s.retireX g len rd ((if w then alu32 else alu64) op ((s.th g).xr a) (w64 (unsignedOf 64 imm))))) ∧
  (∀ (i sl g len rd v : Nat) (s : State), i < 64 → sl < 64 → len = 2 ∨ len = 4 → rd < 32 → s.canIssue g len [] = true →
    (s.pickThread (i * 64 + sl) (.lui rd v) = some g →
    exec (.threadIssue i sl (.lui rd v) len) s = .next (s.retireX g len rd (sext32 (v % 2 ^ 20 * 2 ^ 12)))) ∧
    (s.pickThread (i * 64 + sl) (.auipc rd v) = some g →
    exec (.threadIssue i sl (.auipc rd v) len) s = .next (s.retireX g len rd ((s.th g).pc + sext32 (v % 2 ^ 20 * 2 ^ 12))))) ∧
  (∀ (i sl g len rd a : Nat) (off : Int) (s : State), i < 64 → sl < 64 → len = 2 ∨ len = 4 → rd < 32 → a < 32 →
    s.pickThread (i * 64 + sl) (.jalr rd a off) = some g → s.canIssue g len (opKeys (.jalr rd a off)) = true →
    exec (.threadIssue i sl (.jalr rd a off) len) s =
    .next ((s.retireX g len rd ((s.th g).pc + w64 len)).updTh g fun x => { x with pc := ((s.th g).xr a + w64 (unsignedOf 64 off)) &&& ~~~1 })) ∧
  (∀ (i sl g len rd : Nat) (off : Int) (s : State), i < 64 → sl < 64 → len = 2 ∨ len = 4 → rd < 32 →
    s.pickThread (i * 64 + sl) (.jal rd off) = some g → s.canIssue g len (opKeys (.jal rd off)) = true →
    exec (.threadIssue i sl (.jal rd off) len) s =
    .next ((s.retireX g len rd ((s.th g).pc + w64 len)).updTh g fun x => { x with pc := (s.th g).pc + w64 (unsignedOf 64 off) })) ∧
  (∀ (i sl g len a b : Nat) (c : BrCond) (off : Int) (s : State), i < 64 → sl < 64 → len = 2 ∨ len = 4 → a < 32 → b < 32 →
    s.pickThread (i * 64 + sl) (.branch c a b off) = some g → s.canIssue g len (opKeys (.branch c a b off)) = true →
    exec (.threadIssue i sl (.branch c a b off) len) s =
    .next (if BrCond.holds c ((s.th g).xr a) ((s.th g).xr b) then (s.retired g len).updTh g fun x => { x with pc := (s.th g).pc + w64 (unsignedOf 64 off) } else s.retired g len)) ∧
  (∀ (i sl g len word : Nat) (s : State), i < 64 → sl < 64 → len = 2 ∨ len = 4 → s.canIssue g len [] = true →
    (s.pickThread (i * 64 + sl) .nop = some g → exec (.threadIssue i sl .nop len) s = .next (s.retired g len)) ∧
    (s.pickThread (i * 64 + sl) .wfi = some g → exec (.threadIssue i sl .wfi len) s = .next (s.exceptFree g 2)) ∧
    (s.pickThread (i * 64 + sl) (.illegal word) = some g → exec (.threadIssue i sl (.illegal word) len) s = .next (s.exceptFree g 2)))

/-- Scalar loads, stores and floating-point instructions at issue. (R41, R44, R57, R61)
Answers a next state for: threadIssue. -/
def Obligations.ScalarMemoryAndFloat : Prop :=
  (∀ (i sl g len rd a n : Nat) (imm : Int) (sx : Bool) (s : State), i < 64 → sl < 64 → len = 2 ∨ len = 4 → rd < 32 → a < 32 →
    n = 1 ∨ n = 2 ∨ n = 4 ∨ n = 8 → s.pickThread (i * 64 + sl) (.load rd a imm n sx) = some g →
    s.canIssue g len (opKeys (.load rd a imm n sx)) = true → exec (.threadIssue i sl (.load rd a imm n sx) len) s =
    .next (s.load g len rd ((s.th g).xr a + w64 (unsignedOf 64 imm)).toNat (.int n sx))) ∧
  (∀ (i sl g len a b n : Nat) (imm : Int) (s : State), i < 64 → sl < 64 → len = 2 ∨ len = 4 → a < 32 → b < 32 →
    n = 1 ∨ n = 2 ∨ n = 4 ∨ n = 8 → s.pickThread (i * 64 + sl) (.store b a imm n) = some g →
    s.canIssue g len (opKeys (.store b a imm n)) = true → exec (.threadIssue i sl (.store b a imm n) len) s =
    .next (s.store g len ((s.th g).xr a + w64 (unsignedOf 64 imm)).toNat (natLe ((s.th g).xr b).toNat n))) ∧
  (∀ (i sl g len rd a : Nat) (imm : Int) (s : State), i < 64 → sl < 64 → len = 2 ∨ len = 4 → rd < 32 → a < 32 →
    (s.pickThread (i * 64 + sl) (.flw rd a imm) = some g → s.canIssue g len [a] = true →
    exec (.threadIssue i sl (.flw rd a imm) len) s = .next (s.load g len rd ((s.th g).xr a + w64 (unsignedOf 64 imm)).toNat .fp)) ∧
    (s.pickThread (i * 64 + sl) (.fsw rd a imm) = some g → s.canIssue g len [a, 32 + rd] = true →
    exec (.threadIssue i sl (.fsw rd a imm) len) s =
    .next (s.store g len ((s.th g).xr a + w64 (unsignedOf 64 imm)).toNat (natLe ((s.th g).fr rd) 4)))) ∧
  (∀ (i sl g len rd a b c rm m : Nat) (op : FpOp) (s : State), i < 64 → sl < 64 → len = 2 ∨ len = 4 → rd < 32 ∧ a < 32 ∧ b < 32 ∧
    c < 32 ∧ rm < 8 → s.pickThread (i * 64 + sl) (.fp op rd a b c rm) = some g → s.canIssue g len (opKeys (.fp op rd a b c rm)) = true →
    FpOp.toX op = false → (if FpOp.rounds op then effRm rm (s.th g).frm else some 0) = some m →
    exec (.threadIssue i sl (.fp op rd a b c rm) len) s =
    .next ((s.updTh g fun x => { x.putF rd (fpResult op m ((s.th g).fr a) ((s.th g).fr b) ((s.th g).fr c) ((s.th g).xr a)).1 with fflags := Nat.lor x.fflags (fpResult op m ((s.th g).fr a) ((s.th g).fr b) ((s.th g).fr c) ((s.th g).xr a)).2 }).retired g len)) ∧
  (∀ (i sl g len rd a b c rm m : Nat) (op : FpOp) (s : State), i < 64 → sl < 64 → len = 2 ∨ len = 4 → rd < 32 ∧ a < 32 ∧ b < 32 ∧
    c < 32 ∧ rm < 8 → s.pickThread (i * 64 + sl) (.fp op rd a b c rm) = some g → s.canIssue g len (opKeys (.fp op rd a b c rm)) = true →
    FpOp.toX op = true → (if FpOp.rounds op then effRm rm (s.th g).frm else some 0) = some m →
    exec (.threadIssue i sl (.fp op rd a b c rm) len) s =
    .next ((s.updTh g fun x => { x.putX rd (fpToInt op m ((s.th g).fr a) ((s.th g).fr b)).1 with fflags := Nat.lor x.fflags (fpToInt op m ((s.th g).fr a) ((s.th g).fr b)).2 }).retired g len)) ∧
  (∀ (i sl g len rd a b c rm : Nat) (op : FpOp) (s : State), i < 64 → sl < 64 → len = 2 ∨ len = 4 → rd < 32 ∧ a < 32 ∧ b < 32 ∧ c < 32 ∧
    rm < 8 → s.pickThread (i * 64 + sl) (.fp op rd a b c rm) = some g → s.canIssue g len (opKeys (.fp op rd a b c rm)) = true →
    FpOp.rounds op = true → effRm rm (s.th g).frm = none → exec (.threadIssue i sl (.fp op rd a b c rm) len) s = .next (s.exceptFree g 2))

/-- Vector instructions at issue while the core's vector unit is free. (R41, R43, R48, R50, R51, R54)
Answers a next state for: vectorInstruction. -/
def Obligations.VectorInstructionEffects : Prop :=
  ∀ (g : Nat) (op : VecOp) (s : State), g < 32768 → VecOp.ok op = true → s.vecFree g = true → s.vTaken g op = true →
    s.canIssue g 4 (VecOp.keys op (s.th g)) = true → exec (.vectorInstruction g op) s = .next (match op with
    | .vset rd avl vt => s.vset g rd avl vt
    | .bin o vd vs2 src vm => s.vbin g o vd vs2 src vm
    | .mac o vd src vs2 vm => s.vmac g o vd src vs2 vm
    | .cmp o vd vs2 src vm => s.vcmp g o vd vs2 src vm
    | .red o vd vs2 vs1 vm => s.vred g o vd vs2 vs1 vm
    | .id vd vm => s.vLegal g (groupOk vd (s.th g).vw.2 && maskOk vd vm) (·.vWrite g vd (s.th g).vw.1 (s.th g).vw.2 (s.th g).vw.1 vm fun i => { val := i })
    | .load vd rs1 eew mode nf vm => s.vload g vd rs1 eew mode nf vm
    | .store vs3 rs1 eew mode nf vm => s.vstore g vs3 rs1 eew mode nf vm
    | o => s.vector g o)

/-- Completions of a thread's loads and stores. (R56, R71, R148, R167, R180, R230)
Answers a next state for: threadLoadReturn, threadStoreComplete. -/
def Obligations.ThreadCompletions : Prop :=
  (∀ (g n : Nat) (l : PLoad) (s : State), g < 32768 → (s.th g).loads[n]? = some l →
    s.addrsTrain (s.thFn g) (thIsl g) (thCore g) l.addrs = false → s.sameBefore g n l = false →
    s.plainBad (s.thFn g) l.addrs false = none → l.addrs.find? (s.badWord g) = none → exec (.threadLoadReturn g n .none) s =
    .next ((s.updTh g fun t => { t with loads := t.loads.eraseIdx n }).updTh g fun t => t.deliver l (l.addrs.map fun a => s.readBytes (s.thFn g) (thIsl g) (thCore g) a l.kind.bytes))) ∧
  (∀ (g : Nat) (p : PStore) (s : State), g < 32768 → (s.th g).store = some p →
    s.addrsTrain (s.thFn g) (thIsl g) (thCore g) (p.parts.map (·.1)) = false → s.addrsMove (s.thFn g) (p.parts.map (·.1)) = false →
    s.plainBad (s.thFn g) (p.parts.map (·.1)) true = none → exec (.threadStoreComplete g) s =
    .next ((s.landParts (s.thFn g) (thIsl g) (thCore g) p.parts).updTh g fun t => { t with store := none }))

/-- FENCE, FENCE.I, EBREAK, CSR accesses and the phase writes. (R46, R69, R70, R74, R103, R231, R508)
Answers a next state for: fence, fenceI, ebreak, csrAccess, yphaseWrite, pwrPhPhaseStore. -/
def Obligations.FencesAndSystemInstructions : Prop :=
  (∀ (g pred succ : Nat) (s : State), g < 32768 → (pred / 2 % 2 = 1 → (s.th g).loads = []) → (pred % 4 ≠ 0 → s.xytIdle g = true) →
    s.canIssue g 4 [] = true → exec (.fence g pred succ) s = .next (s.retired g 4)) ∧
  (∀ (g : Nat) (s : State), g < 32768 → s.canIssue g 4 [] = true → exec (.fenceI g) s =
    .next ((s.retired g 4).updTh g fun t => { t with stall := .icache (s.islCycle (thIsl g) + 64) })) ∧
  (∀ (g len : Nat) (s : State), g < 32768 → s.canIssue g len [] = true → exec (.ebreak g len) s =
    .next (if s.debugOpen then (s.slotUsed g).updTh g fun t => { t with st := .halted } else s.exceptFree g 3)) ∧
  (∀ (g csr rd src : Nat) (op : CsrOp) (old : Word) (s : State), g < 32768 → csr < 4096 → rd < 32 → src < 32 →
    s.canIssue g 4 (if csrImm op then [] else [src]) = true → s.csrRead g csr = some old →
    csrNew op old (if csrImm op then w64 src else (s.th g).xr src) src = none → exec (.csrAccess g csr op rd src) s =
    .next (s.retireX g 4 rd old)) ∧
  (∀ (g csr rd src : Nat) (op : CsrOp) (old new : Word) (s t : State), g < 32768 → csr < 4096 → rd < 32 → src < 32 →
    s.canIssue g 4 (if csrImm op then [] else [src]) = true → s.csrRead g csr = some old →
    csrNew op old (if csrImm op then w64 src else (s.th g).xr src) src = some new → s.csrWrite g csr new = some t →
    exec (.csrAccess g csr op rd src) s = .next (t.retireX g 4 rd old)) ∧
  (∀ (g csr rd src : Nat) (op : CsrOp) (s : State), g < 32768 → csr < 4096 → rd < 32 → src < 32 →
    s.canIssue g 4 (if csrImm op then [] else [src]) = true → s.csrRead g csr = none → exec (.csrAccess g csr op rd src) s =
    .next (s.exceptFree g 2)) ∧
  (∀ (g v : Nat) (s : State), g < 32768 → s.ctxRuns g = true → exec (.yphaseWrite g v) s = .next (s.setPhase (s.thFn g) v) ∧
    exec (.pwrPhPhaseStore g v) s = .next (s.setPhase (s.thFn g) v))

/-- The monitor calls EXIT, TRACE and ABORT, and an unknown call. (R66, R67, R71, R487)
Answers a next state for: exit, trace, abort, ecallUnknown. -/
def Obligations.MonitorCalls : Prop :=
  (∀ (g : Nat) (s : State), g < 32768 → s.upd.stage ≠ .window → (s.th g).xr 17 = 0 → s.canIssue g 4 [10, 17] = true →
    exec (.exit g) s = .next (((s.retired g 4).updTh g fun t => { t with exiting := true }).settleExit g)) ∧
  (∀ (g : Nat) (s : State), g < 32768 → s.upd.stage ≠ .window → (s.th g).xr 17 = 1 → s.canIssue g 4 [10, 11, 17] = true →
    1 ≤ ((s.th g).xr 11).toNat → ((s.th g).xr 11).toNat ≤ 256 → ((s.th g).xr 10).toNat + ((s.th g).xr 11).toNat ≤ lsBytes →
    tabFind s.fab.traceT g = none →
    let u := s.post (s.thFn g) 0x0206 ([(s.th g).ctx, g, ((s.th g).xr 11).toNat] ++ toWords (ceilDiv ((s.th g).xr 11).toNat 4) (s.lsRead (thCore g) ((s.th g).xr 10).toNat ((s.th g).xr 11).toNat))
    exec (.trace g) s = .next ({ u with fab := { u.fab with traceT := tabSet u.fab.traceT g s.time } }.retireX g 4 10 0)) ∧
  (∀ (g : Nat) (s : State), g < 32768 → s.upd.stage ≠ .window → (s.th g).xr 17 = 1 → s.canIssue g 4 [10, 11, 17] = true →
    ((s.th g).xr 11).toNat = 0 ∨ 256 < ((s.th g).xr 11).toNat ∨ lsBytes < ((s.th g).xr 10).toNat + ((s.th g).xr 11).toNat →
    exec (.trace g) s = .next (s.retireX g 4 10 (w64 (unsignedOf 64 (-2))))) ∧
  (∀ (g x : Nat) (s : State), g < 32768 → s.upd.stage ≠ .window → (s.th g).xr 17 = 1 → s.canIssue g 4 [10, 11, 17] = true →
    1 ≤ ((s.th g).xr 11).toNat → ((s.th g).xr 11).toNat ≤ 256 → ((s.th g).xr 10).toNat + ((s.th g).xr 11).toNat ≤ lsBytes →
    tabFind s.fab.traceT g = some x → s.time < x + 100000 → exec (.trace g) s =
    .next ({ s with fab := { s.fab with traceDrops := tabUpd s.fab.traceDrops 0 (s.thFn g) (· + 1) } }.retireX g 4 10 1)) ∧
  (∀ (g : Nat) (s : State), g < 32768 → s.upd.stage ≠ .window → (s.th g).xr 17 = 2 → s.canIssue g 4 [10, 17] = true →
    exec (.abort g) s = .next ((s.retired g 4).stopCtx (s.th g).ctx (.abort (((s.th g).xr 10).toNat % 2 ^ 32)) none)) ∧
  (∀ (g : Nat) (s : State), g < 32768 → s.upd.stage ≠ .window → 3 ≤ ((s.th g).xr 17).toNat → s.canIssue g 4 [10, 17] = true →
    exec (.ecallUnknown g) s = .next (s.retireX g 4 10 (w64 (2 ^ 64 - 1))))

/-- A context's end by EXIT and by a fault. (R53, R72, R554, R649)
Answers a next state for: contextDone, contextReset. -/
def Obligations.ContextEnds : Prop :=
  (∀ (c : Nat) (x : Ctx) (s : State), c < 2 ^ 32 → s.ctx c = some x → x.done = false → x.why = none → x.serving = none →
    s.ctxFinished c = true → exec (.contextDone c) s =
    .next ((((({ s with fab := { s.fab with threads := s.fab.threads.filter fun e => e.2.ctx != c } }.setCtx c { x with done := true }).syncCtx x.islands).post x.fn 0x0201 [c, 0, 0]).remapFree x.islands))) ∧
  (∀ (c : Nat) (x : Ctx) (why : CtxEnd) (s : State), c < 2 ^ 32 → s.ctx c = some x → x.why = some why → x.done = false →
    s.engineAsked x = false → exec (.contextReset c) s =
    .next (if (((s.faultEvent c x why).setCtx c { x with reported := true }).countCtx c).2 then (((s.faultEvent c x why).setCtx c { x with reported := true }).countCtx c).1 else (((((s.faultEvent c x why).setCtx c { x with reported := true }).countCtx c).1.finishCtx c why false).remapFree x.islands)))

/-- The fetch operations of claim counters. (R62)
Answers a next state for: claimFetchInc, claimFetchAdd, claimBoundedInc. -/
def Obligations.ClaimCounters : Prop :=
  ∀ (g n k rd i : Nat) (s : State), g < 32768 → n < 64 → k < 64 → rd < 32 → s.canIssue g 4 [] = true →
    s.nthIsland (s.thFn g) n = some i → exec (.claimFetchInc g n k rd) s =
    .next ((s.addClaim i k 1).retireX g 4 rd (w64 (s.claim i k).value)) ∧
    exec (.claimFetchAdd g n k rd) s = .next ((s.addClaim i k (s.claim i k).addend).retireX g 4 rd (w64 (s.claim i k).value)) ∧
    exec (.claimBoundedInc g n k rd) s = .next ((if (s.claim i k).value < (s.claim i k).limit then s.addClaim i k 1 else s).retireX g 4 rd (w64 (s.claim i k).value))

/-- Island remap, TLB, droop and path-delay commands. (R81, R85, R87, R88, R89, R94, R95, R169)
Answers a next state for: remapDeadline, remapForceMidstep, tlbFill, droopCrossing, droopBubbleEnd, islWinSelWrite, pdmStart, pdmDone. -/
def Obligations.IslandCommands : Prop :=
  (∀ (i : Nat) (s : State), i < 64 → s.rdF .ISL_STATUS i 24 1 = 1 → exec (.remapDeadline i) s =
    .next (if s.midStep i then s.updIsl i fun x => { x with remapDue := true } else s.askRemap i)) ∧
  (∀ (i : Nat) (s : State), i < 64 → (s.isl i).remapDue = true → exec (.remapForceMidstep i) s = .next (s.askRemap i)) ∧
  (∀ (i fn vpn : Nat) (e : MapEnt) (s : State), i < 64 → fn ≤ 16 → vpn < 2 ^ 21 → s.islOwner i = fn →
    tabFind s.pln.maps (mapKey fn vpn) = some e → (((s.isl i).tlb.any fun x => decide (x.fn = fn ∧ x.vpn = vpn)) = false) →
    (((s.isl i).tlb.filter fun x => x.vpn % 256 == vpn % 256).length < 8) → exec (.tlbFill i fn vpn) s =
    .next (s.updIsl i fun x => { x with tlb := x.tlb ++ [{ fn := fn, vpn := vpn, ppn := e.ppn, write := e.write, owner := (s.page e.ppn).owner, st := (s.page e.ppn).st, epoch := (s.page e.ppn).epoch }] })) ∧
  (∀ (k fn vpn : Nat) (e : MapEnt) (s : State), 64 ≤ k → k < 81 → fn ≤ 16 → vpn < 2 ^ 21 → tabFind s.pln.maps (mapKey fn vpn) = some e →
    (((tabGet s.pln.caches [] (k - 64)).any fun x => decide (x.fn = fn ∧ x.vpn = vpn)) = false) → exec (.tlbFill k fn vpn) s =
    .next ({ s with pln := { s.pln with caches := tabSet s.pln.caches (k - 64) (tabGet s.pln.caches [] (k - 64) ++ [s.tlbEntry fn vpn e]) } })) ∧
  (∀ (i drop : Nat) (s : State), i < 64 → s.droopMv i < drop →
    let t := s.accrueSteps.updIsl i fun x => { x with droopAt := some (s.islCycle i), droopUs := true }
    exec (.droopCrossing i drop) s =
    .next ((((t.wrF .ISL_BUBBLE i 7 1 1).count .ISL_DROOP_FIRES i 1).hwSet .ISL_EVT i 32).setReason i thrCurrent true)) ∧
  (∀ (i c : Nat) (s : State), i < 64 → (s.isl i).droopAt = some c → c + 64 ≤ s.islCycle i → exec (.droopBubbleEnd i) s =
    .next ((s.accrueSteps.updIsl i fun x => { x with droopAt := none }).wrF .ISL_BUBBLE i 7 1 0)) ∧
  (∀ (v : Nat) (s : State), exec (.islWinSelWrite v) s = .next (s.swWrite 0 .ISL_WIN_SEL 0 v)) ∧
  (∀ (i : Nat) (s : State), i < 64 → s.rdF .ISL_PDM_CTL i 0 1 = 0 → exec (.pdmStart i) s =
    .next ((s.pdmClear i).wrF .ISL_PDM_CTL i 0 1 1)) ∧
  (∀ (i : Nat) (m : List Nat) (s : State), i < 64 → s.rdF .ISL_PDM_CTL i 0 1 = 1 → exec (.pdmDone i m) s =
    .next (((List.range 8).foldl (fun t k => t.wrN (pdmReg k) i ((m[k]?).getD 0 % 4096 + 4096 * (tabGet s.pwr.granted 5 (islDie i) % 8) + 32768)) (s.wrF .ISL_PDM_CTL i 0 1 0)).hwSet .ISL_EVT i 64))

/-- Xyt instructions of a ready thread: TCFG and TROWTAG act at issue, the others enter the tensor issue queue. (R98, R101, R108, R110, R111, R118, R119, R122, R123, R132)
Answers a next state for: tcfg, trowtag, tmma, tmmas, tzero, tepi, tred. -/
def Obligations.XytIssue : Prop :=
  (∀ (g w : Nat) (s : State), g < 32768 → isXyt w custom0 3 = true → fF7 w = 0 → fRs2 w = 0 → s.canIssue g 4 [fRs1 w] = true →
    tcfgValid ((s.th g).xr (fRs1 w)) = true → exec (.tcfg g w) s =
    .next ((s.updTh g fun t => { t with tcfg := (s.th g).xr (fRs1 w) }).retireX g 4 (fRd w) (s.th g).tcfg)) ∧
  (∀ (g w : Nat) (s : State), g < 32768 → isXyt w custom0 4 = true → fF7 w < 2 → fRs2 w = 0 → fRd w = 0 →
    s.canIssue g 4 [fRs1 w] = true → firstFault [(((s.th g).xr (fRs1 w)).toNat, 32, 32, 4, 5)] = none →
    s.loadHeld g ((s.th g).xr (fRs1 w)).toNat 32 = false → s.badIn (thCore g) ((s.th g).xr (fRs1 w)).toNat 32 = none → (∀ r, r < 16 →
    s.lsNat (thCore g) (((s.th g).xr (fRs1 w)).toNat + 2 * r) 2 % 4096 = 0xFFF) → exec (.trowtag g w) s =
    .next ((s.updTh g fun t => { t with tags := (((List.range 16).map fun _ => 0xFFF).zipIdx.foldl (fun m e => tabSet m (fAcc w * 16 + e.2) e.1) t.tags) }).retired g 4)) ∧
  (∀ (g w : Nat) (s : State), g < 32768 → isXyt w custom0 0 = true → fF7 w < 2 → fRd w = 0 → s.canIssue g 4 [fRs1 w, fRs2 w] = true →
    tAfmt (s.th g).tcfg ≠ 6 → tBfmt (s.th g).tcfg ≠ 6 →
    firstFault [(((s.th g).xr (fRs1 w)).toNat, blockBytes (s.th g).tcfg, 256, 4, 5), (((s.th g).xr (fRs2 w)).toNat, blockBytes (s.th g).tcfg, 256, 4, 5)] = none → s.queueRoom g = true → exec (.tmma g w) s = .next (s.enqueue (s.entry g (fAcc w) (.tmma ((s.th g).xr (fRs1 w)).toNat ((s.th g).xr (fRs2 w)).toNat)))) ∧
  (∀ (g w : Nat) (s : State), g < 32768 → isXyt w custom0 1 = true → fF7 w < 4 → fRd w = 0 → s.canIssue g 4 [fRs1 w, fRs2 w] = true →
    tSmode (s.th g).tcfg = 3 →
    firstFault [(((s.th g).xr (fRs1 w)).toNat, blockBytes (s.th g).tcfg, 256, 4, 5), (((s.th g).xr (fRs2 w)).toNat, blockBytes (s.th g).tcfg, 256, 4, 5), ((s.th g).scaleA.toNat, kOf (s.th g).tcfg / 32 * 16, 16, 4, 5), ((s.th g).scaleB.toNat, kOf (s.th g).tcfg / 32 * 16, 16, 4, 5)] = none → s.queueRoom g = true → exec (.tmmas g w) s = .next (if bits w 26 1 = 0 then s.enqueue (s.entry g (fAcc w) (.tmmas ((s.th g).xr (fRs1 w)).toNat ((s.th g).xr (fRs2 w)).toNat)) else (s.enqueue (s.entry g (fAcc w) (.tmmas ((s.th g).xr (fRs1 w)).toNat ((s.th g).xr (fRs2 w)).toNat))).updTh g fun t => { t with scaleA := t.scaleA + w64 (kOf (s.th g).tcfg / 32 * 16), scaleB := t.scaleB + w64 (kOf (s.th g).tcfg / 32 * 16) })) ∧
  (∀ (g w : Nat) (s : State), g < 32768 → isXyt w custom0 2 = true → fF7 w < 4 → fRs2 w = 0 → fRs1 w = 0 → fRd w = 0 →
    s.canIssue g 4 [] = true → s.queueRoom g = true → exec (.tzero g w) s =
    .next (s.enqueue (s.entry g (fAcc w) (.tzero (bits w 26 1 == 1))))) ∧
  (∀ (g w : Nat) (s : State), g < 32768 → isXyt w custom0 5 = true → fF7 w < 2 → fRs2 w = 0 → fRd w = 0 →
    s.canIssue g 4 [fRs1 w] = true → firstFault [(((s.th g).xr (fRs1 w)).toNat, 32, 32, 4, 5)] = none →
    s.loadHeld g ((s.th g).xr (fRs1 w)).toNat 32 = false → s.badIn (thCore g) ((s.th g).xr (fRs1 w)).toNat 32 = none →
    tepiLegal (s.lsRead (thCore g) ((s.th g).xr (fRs1 w)).toNat 32) = true →
    tepiFault (s.lsRead (thCore g) ((s.th g).xr (fRs1 w)).toNat 32) = none → s.queueRoom g = true → (s.th g).loads = [] →
    exec (.tepi g w) s = .next (s.enqueue (s.entry g (fAcc w) (.tepi (s.lsRead (thCore g) ((s.th g).xr (fRs1 w)).toNat 32))))) ∧
  (∀ (g w : Nat) (s : State), g < 32768 → isXyt w custom0 6 = true → fF7 w < 16 → bits w 27 2 ≠ 3 → fRs2 w = 0 → fRs1 w = 0 →
    s.canIssue g 4 [64 + fRd w] = true → s.queueRoom g = true → exec (.tred g w) s =
    .next (s.enqueue (s.entry g (fAcc w) (.tred (bits w 27 2) (bits w 26 1 == 1) (fRd w)))))

/-- Pass arrivals, waits and FENCE.F of a ready thread. (R133, R134, R136, R223, R224, R232, R233)
Answers a next state for: passArrive, passWait, fenceF. -/
def Obligations.PassInstructions : Prop :=
  (∀ (g w : Nat) (s : State), g < 32768 → isXyt w custom1 0 = true → fF7 w = 0 → fRs2 w = 0 → fRd w = 0 →
    s.canIssue g 4 [fRs1 w] = true → ((s.th g).xr (fRs1 w)).toNat < 1024 → s.inQuota (s.thFn g) ((s.th g).xr (fRs1 w)).toNat = true →
    (s.pass ((s.th g).xr (fRs1 w)).toNat).target ≠ 0 → (s.th g).loads = [] → s.xytIdle g = true → exec (.passArrive g w) s =
    .next (((s.slotUsed g).updTh g fun t => { t with stall := .arrive ((s.th g).xr (fRs1 w)).toNat }).arrive ((s.th g).xr (fRs1 w)).toNat (some g))) ∧
  (∀ (g w p k : Nat) (s : State), g < 32768 → isXyt w custom1 1 = true → fF7 w = 0 → fRs2 w = 0 → s.canIssue g 4 [fRs1 w] = true →
    ((s.th g).xr (fRs1 w)).toNat = p → p < 1024 → s.inQuota (s.thFn g) p = true → (s.pass p).target ≠ 0 → (s.th g).latch = some (p, k) →
    k < (s.pass p).gen → exec (.passWait g w) s =
    .next ((s.updTh g fun t => { t with latch := none }).retireX g 4 (fRd w) (w64 ((s.pass p).stampOf k)))) ∧
  (∀ (g w p : Nat) (s : State), g < 32768 → isXyt w custom1 1 = true → fF7 w = 0 → fRs2 w = 0 → s.canIssue g 4 [fRs1 w] = true →
    ((s.th g).xr (fRs1 w)).toNat = p → p < 1024 → s.inQuota (s.thFn g) p = true → (s.pass p).target ≠ 0 → (s.th g).latch = none →
    exec (.passWait g w) s = .next ((s.slotUsed g).updTh g fun t => { t with st := .passWait, stall := .wait p (s.pass p).gen (fRd w) none })) ∧
  (∀ (g w : Nat) (s : State), g < 32768 → isXyt w custom1 2 = true → fF7 w < 4 → fF7 w ≠ 0 → fRs2 w = 0 → fRs1 w = 0 → fRd w = 0 →
    s.canIssue g 4 [] = true → (bits w 25 1 = 1 → s.xytIdle g = true ∧ (s.th g).loads = []) → exec (.fenceF g w) s =
    .next (s.retired g 4)) ∧
  (∀ (g w p : Nat) (s : State), g < 32768 → fF7 w = 0 → fRs2 w = 0 → fRd w = 0 → s.canIssue g 4 [fRs1 w] = true →
    ((s.th g).xr (fRs1 w)).toNat = p → (isXyt w custom1 0 = true → exec (.passArrive g w) s =
    .next (if 1024 ≤ p then s.exceptFree g 2 else if s.inQuota (s.thFn g) p = false then s.exceptFree g 7 else if (s.pass p).target = 0 then s.exceptFree g 28 else if !(s.th g).loads.isEmpty || !s.xytIdle g then s else ((s.slotUsed g).updTh g fun t => { t with stall := .arrive p }).arrive p (some g))) ∧
    (isXyt w custom1 1 = true → 1024 ≤ p → exec (.passWait g w) s = .next (s.exceptFree g 2)) ∧
    (isXyt w custom1 1 = true → p < 1024 → s.inQuota (s.thFn g) p = false → exec (.passWait g w) s = .next (s.exceptFree g 5)) ∧
    (isXyt w custom1 1 = true → p < 1024 → s.inQuota (s.thFn g) p = true → (s.pass p).target = 0 → exec (.passWait g w) s =
    .next (s.exceptFree g 28)))

/-- The tensor unit: dispatch, completion, re-execution, cache fills, and the ramp governor. (R32, R51, R75, R76, R112, R118, R127, R130, R132, R139, R142, R236)
Answers a next state for: tensorDispatch, tmmaComplete, tensorReexecDone, tepiComplete, tredComplete, adapterCacheFill, tensorIdleTimeout,
rampWindow. -/
def Obligations.TensorUnitEvents : Prop :=
  (∀ (i sl : Nat) (e : TEntry) (q : List TEntry) (s : State), i < 64 → sl < 64 → (s.ten (i * 64 + sl)).queue = e :: q →
    (s.ten (i * 64 + sl)).canDispatch e = true → s.islClkOn (islDie i) = true → s.hasCycle i = true →
    e.op.isMM = false ∨ (s.ten (i * 64 + sl)).issuing = true ∨ (s.ten (i * 64 + sl)).admitted = true →
    exec (.tensorDispatch i sl) s = .next (match e.op with
    | .tmma _ _ | .tmmas _ _ => s.setTen (i * 64 + sl) { s.ten (i * 64 + sl) with queue := q, arr := some e, reexec := false, issuing := true, admitted := false, waiting := false }
    | .tzero all => ((s.setTen (i * 64 + sl) { s.ten (i * 64 + sl) with queue := q }).updTh e.gid fun x => if all then (x.clearAcc 0).clearAcc 1 else x.clearAcc e.acc).afterXyt e
    | _ => s.setTen (i * 64 + sl) { s.ten (i * 64 + sl) with queue := q, epi := some e })) ∧
  (∀ (i sl : Nat) (e : TEntry) (q : List TEntry) (s : State), i < 64 → sl < 64 → (s.ten (i * 64 + sl)).queue = e :: q →
    (s.ten (i * 64 + sl)).canDispatch e = true → s.islClkOn (islDie i) = true → s.hasCycle i = true → e.op.isMM = true →
    (s.ten (i * 64 + sl)).issuing = false → (s.ten (i * 64 + sl)).admitted = false →
    let t := (s.setTen (i * 64 + sl) { s.ten (i * 64 + sl) with waiting := true }).admitUnits i
    exec (.tensorDispatch i sl) s = .next (if (t.ten (i * 64 + sl)).admitted
    then t.setTen (i * 64 + sl) { t.ten (i * 64 + sl) with queue := q, arr := some e, reexec := false, issuing := true, admitted := false, waiting := false }
    else t.syncRamp i)) ∧
  (∀ (i sl : Nat) (e : TEntry) (s : State), i < 64 → sl < 64 → (s.ten (i * 64 + sl)).arr = some e →
    (s.ten (i * 64 + sl)).reexec = false → (s.ten (i * 64 + sl)).sramHeld e = false → s.badRead e .none = none →
    exec (.tmmaComplete i sl false .none) s = .next (((s.finishMM e).freeArr (i * 64 + sl)).afterXyt e)) ∧
  (∀ (i sl : Nat) (e : TEntry) (s : State), i < 64 → sl < 64 → (s.ten (i * 64 + sl)).arr = some e →
    (s.ten (i * 64 + sl)).reexec = false → (s.ten (i * 64 + sl)).sramHeld e = false → s.badRead e .none = none →
    let t := ((((s.setTen (i * 64 + sl) { s.ten (i * 64 + sl) with reexec := true }).count .ISL_RES_CORR i 1).hwSet .ISL_EVT i 1).logCore i sl 1 1 0 0 (s.th e.gid).ctx)
    exec (.tmmaComplete i sl true .none) s = .next ((t.spareEvent 9 i (t.physOf i sl)).remapFree [i])) ∧
  (∀ (i sl : Nat) (e : TEntry) (s : State), i < 64 → sl < 64 → (s.ten (i * 64 + sl)).arr = some e → (s.ten (i * 64 + sl)).reexec = true →
    exec (.tensorReexecDone i sl false) s = .next (((s.finishMM e).freeArr (i * 64 + sl)).afterXyt e)) ∧
  (∀ (i sl : Nat) (e : TEntry) (s : State), i < 64 → sl < 64 → (s.ten (i * 64 + sl)).arr = some e → (s.ten (i * 64 + sl)).reexec = true →
    s.faultWaits e.gid e.ord = false → let t := ((s.freeArr (i * 64 + sl)).count .ISL_ARITH_FLT i 1).hwSet .ISL_EVT i 2
    let t := t.logFault i sl 2 0 (t.th e.gid).ctx
    let t := { t with fab := { t.fab with cores := tabUpd t.fab.cores {} (i * 66 + s.physOf i sl) fun h => { h with suspect := true } } }
    exec (.tensorReexecDone i sl true) s = .next (((t.spareEvent 8 i (s.physOf i sl)).remapFree [i]).xytFault e 24)) ∧
  (∀ (i sl : Nat) (e : TEntry) (d : List Byte) (s : State), i < 64 → sl < 64 → (s.ten (i * 64 + sl)).epi = some e → e.op = .tepi d →
    (s.ten (i * 64 + sl)).sramHeld e = false → (s.linesFor e d).all (s.isl i).lines.contains = true → s.badRead e .none = none →
    exec (.tepiComplete i sl .none []) s = .next (((s.finishEpi e d).freeEpi (i * 64 + sl)).afterXyt e)) ∧
  (∀ (i sl op vd : Nat) (col : Bool) (e : TEntry) (s : State), i < 64 → sl < 64 → (s.ten (i * 64 + sl)).epi = some e →
    e.op = .tred op col vd → exec (.tredComplete i sl false) s = .next (((s.finishRed e op col vd).freeEpi (i * 64 + sl)).afterXyt e)) ∧
  (∀ (i sl a l k : Nat) (e : TEntry) (d : List Byte) (s : State), i < 64 → sl < 64 → (s.ten (i * 64 + sl)).epi = some e →
    e.op = .tepi d → (s.linesFor e d).contains (a, l, k) = true → (s.isl i).lines.contains (a, l, k) = false →
    (s.isl i).lines.length < 512 → exec (.adapterCacheFill i sl a l k false) s =
    .next (s.updIsl i fun x => { x with lines := x.lines ++ [(a, l, k)] })) ∧
  (∀ (i sl : Nat) (s : State), i < 64 → sl < 64 → exec (.tensorIdleTimeout i sl) s =
    .next (s.setTen (i * 64 + sl) { s.ten (i * 64 + sl) with issuing := false })) ∧
  (∀ (i : Nat) (s : State), i < 64 → exec (.rampWindow i) s = .next ((s.admitUnits i).syncRamp i))

/-- Posts to ferry channels and sorters, waiting posts, and starts. (R189, R192, R193, R194, R199, R200, R214, R259, R260, R261)
Answers a next state for: fryPost, ferryPostResume, ferryDescriptorStart, islSrtPost, sorterPostResume, sorterJobStart. -/
def Obligations.FerryPostsAndStarts : Prop :=
  (∀ (g ch a : Nat) (t s : State), g < 32768 → isChan ch = true → s.canIssue g 4 [] = true → s.reaches g ch = true →
    s.postDesc g ch a = .ok t → exec (.fryPost g ch a) s = .next (t.retired g 4)) ∧
  (∀ (g ch a : Nat) (s : State), g < 32768 → isChan ch = true → s.canIssue g 4 [] = true → (s.reaches g ch = false →
    exec (.fryPost g ch a) s = .next (s.except g 28 (s.chanWin g ch))) ∧
    (s.reaches g ch = true → s.postDesc g ch a = .fault → exec (.fryPost g ch a) s = .next (s.except g 28 (s.chanWin g ch))) ∧
    (s.reaches g ch = true → s.postDesc g ch a = .full → exec (.fryPost g ch a) s =
    .next (s.updTh g fun t => { t with stall := .post ch a 4 }))) ∧
  (∀ (g ch a n : Nat) (t s : State), g < 32768 → (s.th g).stall = .post ch a n → (s.th g).st = .run → s.ctxRuns g = true →
    (s.chan ch).queue.length < 16 → s.postDesc g ch a = .ok t → exec (.ferryPostResume g) s = .next (t.retired g n)) ∧
  (∀ (ch : Nat) (s : State), isChan ch = true → (s.chan ch).halted = false → exec (.ferryDescriptorStart ch) s =
    .next (s.setChan ch { s.chan ch with queue := startDesc (s.chan ch).queue true })) ∧
  (∀ (g k a : Nat) (t s : State), g < 32768 → k < 4 → s.canIssue g 4 [] = true → bitAt (s.prt (s.thFn g)).srt k = true →
    s.postJob g k a = .ok t → exec (.islSrtPost g k a) s = .next (t.retired g 4)) ∧
  (∀ (g k a : Nat) (s : State), g < 32768 → k < 4 → s.canIssue g 4 [] = true → (bitAt (s.prt (s.thFn g)).srt k = false →
    exec (.islSrtPost g k a) s = .next (s.except g 28 (s.sortWin g k))) ∧
    (bitAt (s.prt (s.thFn g)).srt k = true → s.postJob g k a = .fault → exec (.islSrtPost g k a) s =
    .next (s.except g 28 (s.sortWin g k))) ∧
    (bitAt (s.prt (s.thFn g)).srt k = true → s.postJob g k a = .full → exec (.islSrtPost g k a) s =
    .next (s.updTh g fun t => { t with stall := .sort k a 4 }))) ∧
  (∀ (g k a n : Nat) (t s : State), g < 32768 → (s.th g).stall = .sort k a n → (s.th g).st = .run → s.ctxRuns g = true →
    (s.sorter k).queue.length < 8 → s.postJob g k a = .ok t → exec (.sorterPostResume g) s = .next (t.retired g n)) ∧
  (∀ (k : Nat) (x : SJob) (q : List SJob) (s : State), k < 4 → (s.sorter k).queue = x :: q → (s.sorter k).halted = false →
    exec (.sorterJobStart k) s = .next (s.setSorter k { s.sorter k with queue := { x with started := true } :: q }))

/-- Completions and errors of ferry descriptors and sorter jobs. (R215, R217, R218, R265, R266, R401)
Answers a next state for: ferryDescriptorComplete, ferryErrorCompletion, hostTimeout, sorterJobComplete, sorterJobError. -/
def Obligations.FerryAndSorterCompletions : Prop :=
  (∀ (ch : Nat) (host : List Byte) (x : Desc) (q : List Desc) (s : State), isChan ch = true → (s.chan ch).queue = x :: q →
    (s.chan ch).halted = false → x.started = true → s.descWaits ch x = false → s.descFault x = none → (fdesc x.raw).xform ≠ 8 →
    exec (.ferryDescriptorComplete ch host) s = .next (s.descDone ch x host)) ∧
  (∀ (ch code addr : Nat) (host : List Byte) (x : Desc) (q : List Desc) (s : State), isChan ch = true → (s.chan ch).queue = x :: q →
    (s.chan ch).halted = false → x.started = true → s.descWaits ch x = false → s.descFault x = some (code, addr) →
    exec (.ferryDescriptorComplete ch host) s = .next (s.descError ch x (s.runSome x host (s.convByte x.fn (fdesc x.raw).src)) code addr)) ∧
  (∀ (ch code addr : Nat) (host : List Byte) (x : Desc) (q : List Desc) (s : State), isChan ch = true → 1 ≤ code → code ≤ 10 →
    (s.chan ch).queue = x :: q → (s.chan ch).halted = false → x.started = true → exec (.ferryErrorCompletion ch code addr host) s =
    .next (s.descError ch x (s.runSome x host (s.convByte x.fn (fdesc x.raw).src)) code addr)) ∧
  (∀ (ch addr : Nat) (host : List Byte) (x : Desc) (q : List Desc) (s : State), isChan ch = true → (s.chan ch).queue = x :: q →
    (s.chan ch).halted = false → x.started = true → (fdesc x.raw).sasp = 1 → exec (.hostTimeout ch addr host) s =
    .next (s.descError ch x (s.runSome x host (s.convByte x.fn (fdesc x.raw).src)) 8 addr)) ∧
  (∀ (k : Nat) (x : SJob) (q : List SJob) (s : State), k < 4 → (s.sorter k).queue = x :: q → (s.sorter k).halted = false →
    x.started = true → s.jobWaits k x = false → s.jobFault x (jdesc x.raw) = none → exec (.sorterJobComplete k) s = .next (s.jobDone k x)) ∧
  (∀ (k code addr : Nat) (x : SJob) (q : List SJob) (s : State), k < 4 → 1 ≤ code → code ≤ 5 → (s.sorter k).queue = x :: q →
    (s.sorter k).halted = false → x.started = true → exec (.sorterJobError k code addr) s = .next (s.jobFail k x code addr))

/-- Passes at their home port: target stores, arrivals, acknowledgements and releases. (R222, R223, R225, R227, R233)
Answers a next state for: pasTargetStore, passArrivalCount, passArriveAck, passWaiterResume. -/
def Obligations.PassHomePort : Prop :=
  (∀ (g p v : Nat) (s : State), g < 32768 → p < 1024 → s.canIssue g 4 [] = true → s.inQuota (s.thFn g) p = true →
    exec (.pasTargetStore g p v) s = .next ((s.movePass p fun x => x.setTarget v s.time).retired g 4)) ∧
  (∀ (g p v : Nat) (s : State), g < 32768 → p < 1024 → s.canIssue g 4 [] = true → s.inQuota (s.thFn g) p = false →
    exec (.pasTargetStore g p v) s = .next (s.except g 28 (winBase + 0x10000 + 0x20 * p))) ∧
  (∀ (p : Nat) (who : Option Nat) (rest : List (Nat × Option Nat)) (s : State), p < 1024 →
    ((s.passOwner p).any (fun v => (s.passHome v p).isSome) = true) → takeArrival p s.pas.inflight = some (who, rest) →
    let t := { s with pas := { s.pas with inflight := rest } }.movePass p fun x => x.arrival s.time
    exec (.passArrivalCount p) s = .next (match who with
    | some g => { t with pas := { t.pas with acks := t.pas.acks ++ [(g, p, (s.pass p).gen)] } }.markServing p g
    | none => t)) ∧
  (∀ (g p gen : Nat) (s : State), g < 32768 → (s.pas.acks.find? (fun e => e.1 == g) = some (g, p, gen)) → (s.th g).stall = .arrive p →
    exec (.passArriveAck g) s = .next ({ s with pas := { s.pas with acks := s.pas.acks.erase (g, p, gen) } }.updTh g fun x => { x with latch := some (p, gen), stall := .none, pc := x.pc + 4, instret := x.instret + 1 })) ∧
  (∀ (i p : Nat) (s : State), i < 64 → p < 1024 → exec (.passWaiterResume i p) s =
    .next (((s.waiters p).filter fun g => thIsl g == i && s.ctxRuns g).foldl (fun t g => t.resumeWaiter p g) s))

/-- Mailbox words and posts, event ring registers, vector maps, moderation timeouts and function-level reset. (R353, R354, R355, R356, R358, R360, R365, R368, R370, R385)
Answers a next state for: mailboxPayloadWrite, mailboxPost, evtRingEnable, fnEvtAckWrite, evtRingConfigWrite, vectorMapWrite,
interruptCoalesceTimeout, functionLevelReset. -/
def Obligations.MailboxAndRingWrites : Prop :=
  (∀ (fn mbx w v : Nat) (s : State), fn ≤ 16 → mbx < 16 → w < 63 → s.owned fn mbx = false → s.fnState fn ≠ fnScrubbing →
    exec (.mailboxPayloadWrite fn mbx w v) s = .next (s.setMbxW fn mbx w v)) ∧
  (∀ (fn mbx w v : Nat) (s : State), fn ≤ 16 → mbx < 16 → w < 63 → s.owned fn mbx = true ∨ s.fnState fn = fnScrubbing →
    exec (.mailboxPayloadWrite fn mbx w v) s = .next (s.dropWr fn)) ∧
  (∀ (fn mbx h : Nat) (s : State), fn ≤ 16 → mbx < 16 → s.owned fn mbx = true ∨ bitAt h 31 = false →
    exec (.mailboxPost fn mbx h) s = .next (s.dropWr fn)) ∧
  (∀ (fn mbx h : Nat) (s : State), fn ≤ 16 → mbx < 16 → s.owned fn mbx = false → bitAt h 31 = true →
    let t := s.setMbxW fn mbx 63 (bits h 0 27 + 2 ^ 31)
    let u := { t with mbx := { t.mbx with postT := tabSet t.mbx.postT (fn * 32 + mbx) t.time } }
    exec (.mailboxPost fn mbx h) s = .next (match u.refusal fn (bits h 0 12) with
    | some code => ((u.count .FN_POST_REFUSED fn 1).hwSet .FN_EVT fn 1).respond fn mbx code []
    | none => if u.fnState fn = fnHandover then { u with mbx := { u.mbx with deferred := u.mbx.deferred ++ [(fn, mbx)] } } else u.take fn mbx)) ∧
  (∀ (fn v : Nat) (s : State), fn ≤ 16 → s.fnState fn ≠ fnScrubbing → exec (.evtRingEnable fn v) s = .next (s.ringCtl fn v) ∧
    exec (.fnEvtAckWrite fn v) s = .next ((s.ringAck fn v).unhold fn 0x2020)) ∧
  (∀ (fn v : Nat) (s : State), fn ≤ 16 → s.fnState fn ≠ fnScrubbing → s.rdF .FN_EVT_CTL fn 0 1 = 0 →
    exec (.evtRingConfigWrite fn 0x2000 v) s = .next ((if v % 4096 = 0 then s.wrN .FN_EVT_BASE fn v else s.dropWr fn).unhold fn 0x2000) ∧
    exec (.evtRingConfigWrite fn 0x2008 v) s =
    .next ((if v % 8 = 0 then s.wrN .FN_EVT_PROD_ADDR fn v else s.dropWr fn).unhold fn 0x2008) ∧
    exec (.evtRingConfigWrite fn 0x2010 v) s = .next ((s.wrN .FN_EVT_SIZE fn (v % 32)).unhold fn 0x2010)) ∧
  (∀ (fn v : Nat) (s : State), fn ≤ 16 → s.fnState fn ≠ fnScrubbing → s.rdF .FN_EVT_CTL fn 0 1 = 1 →
    exec (.evtRingConfigWrite fn 0x2000 v) s = .next ((s.dropWr fn).unhold fn 0x2000) ∧ exec (.evtRingConfigWrite fn 0x2008 v) s =
    .next ((s.dropWr fn).unhold fn 0x2008) ∧
    exec (.evtRingConfigWrite fn 0x2010 v) s = .next ((s.dropWr fn).unhold fn 0x2010)) ∧
  (∀ (fn off b v i : Nat) (r : Reg) (s : State), fn ≤ 16 → 0x100 ≤ off → off < 0x120 → off % 4 = 0 → s.regAt fn off = some (b, r, i) →
    s.fnState fn ≠ fnScrubbing →
    r = .FN_MBX_VEC0 ∨ r = .FN_MBX_VEC1 ∨ r = .FN_MBX_VEC2 ∨ r = .FN_MBX_VEC3 ∨ r = .FN_EVT_VEC0 ∨ r = .FN_EVT_VEC1 ∨ r = .FN_EVT_VEC2 ∨ r = .FN_EVT_VEC3 → exec (.vectorMapWrite fn off v) s = .next (s.vecWrite fn r v)) ∧
  (∀ (fn v : Nat) (s : State), fn ≤ 16 → v < vecCount fn → s.rdF .FN_INT_COAL fn 0 16 ≠ 0 → tabGet s.mbx.coal 0 (fn * 256 + v) ≠ 0 →
    exec (.interruptCoalesceTimeout fn v) s = .next ({ s with mbx := { s.mbx with coal := tabSet s.mbx.coal (fn * 256 + v) 0 } }.raiseVec fn v)) ∧
  (∀ (s : State), exec (.functionLevelReset 0) s = .next (s.orphanPf0.resetFnRegs 0)) ∧
  (∀ (fn : Nat) (s : State), 1 ≤ fn → fn ≤ 16 → let t := (s.resetFnRegs fn).tdiError fn
  let u := { t with mbx := { t.mbx with async := t.mbx.async.filter fun a => a.fn != fn } }
  exec (.functionLevelReset fn) s = .next (if (u.prt fn).bound then (if u.inValley then u.beginExit else u).startScrub fn .flr none 0 (u.prt fn) else u))

/-- Program loads, contexts and memory copies by command. (R52, R57, R363, R364, R646, R647)
Answers a next state for: progLoad, progUnload, ctxStart, ctxStop, ctxQuery, memCopyIn, memCopyOut. -/
def Obligations.ProgramsContextsCopies : Prop :=
  (∀ (fn mbx b : Nat) (i : ProgImage) (s : State), s.posted fn mbx 0x200 = true → s.badLimit fn mbx 0x200 = false →
    s.progBusy fn (s.arg fn mbx 0) = false → s.imageOk fn i = true → s.textBase fn (s.arg fn mbx 0) i.text.length = some b →
    exec (.progLoad fn mbx (some i)) s = .next (((s.accept fn mbx).placeProg fn (s.arg fn mbx 0) b i).cmdDone fn mbx 0x200 rOk [i.text.length, 0x0100_0000 + b, 0x0100_0000 + b + i.entry])) ∧
  (∀ (fn mbx : Nat) (s : State), s.posted fn mbx 0x200 = true → s.badLimit fn mbx 0x200 = false →
    s.progBusy fn (s.arg fn mbx 0) = false → exec (.progLoad fn mbx none) s =
    .next (((s.accept fn mbx).bulkFail fn).cmdDone fn mbx 0x200 rHostAccess [])) ∧
  (∀ (fn mbx : Nat) (s : State), s.posted fn mbx 0x201 = true → s.arg fn mbx 0 < 64 → (s.prog fn (s.arg fn mbx 0)).isSome = true →
    s.progBusy fn (s.arg fn mbx 0) = false → exec (.progUnload fn mbx) s =
    .next ({ s with part := { s.part with progs := tabDel s.part.progs (fn * 64 + s.arg fn mbx 0) } }.respond fn mbx rOk [])) ∧
  (∀ (fn mbx : Nat) (is : List Nat) (p : Prog) (s : State), s.posted fn mbx 0x202 = true → s.badLimit fn mbx 0x202 = false →
    (maskBits (s.arg64 fn mbx 1) 64).filterMap (s.nthIsland fn) = is → s.prog fn (s.arg fn mbx 0) = some p → s.noStarts = false →
    (is.any (fun i => (s.islCtx i).isSome || s.rdF .ISL_STATUS i 0 3 != 4) = false) → s.replayHolds is = false →
    exec (.ctxStart fn mbx) s = .next ((({ s with fab := { s.fab with nextCtx := s.fab.nextCtx + 1, starts := s.fab.starts + 1 } }.setCtx s.fab.nextCtx { fn := fn, prog := s.arg fn mbx 0, islands := is, arg := s.arg64 fn mbx 3, startT := s.time, seq := s.fab.starts, replayable := p.replayable, slotBase := (s.prt fn).abase, slotCount := (s.prt fn).acount }).launch s.fab.nextCtx).respond fn mbx rOk [s.fab.nextCtx])) ∧
  (∀ (fn mbx : Nat) (x : Ctx) (s : State), s.posted fn mbx 0x203 = true → s.ownCtx fn (s.arg fn mbx 0) = some x → x.done = false →
    exec (.ctxStop fn mbx) s = .next ((s.stopCtx (s.arg fn mbx 0) .stopped none).respond fn mbx rOk [])) ∧
  (∀ (fn mbx : Nat) (x : Ctx) (s : State), s.posted fn mbx 0x204 = true → s.ownCtx fn (s.arg fn mbx 0) = some x → ∃ w : Nat, w < 2 ^ 32 ∧
    exec (.ctxQuery fn mbx) s = .next ({ s with fresh := s.fresh + 1 }.respond fn mbx rOk ([w, (s.fab.threads.filter fun (e : Nat × Thread) => e.2.ctx == s.arg fn mbx 0 && e.2.st == ThState.run).length, (s.fab.threads.filter fun (e : Nat × Thread) => e.2.ctx == s.arg fn mbx 0 && e.2.st == ThState.passWait).length, (s.fab.threads.filter fun (e : Nat × Thread) => e.2.ctx == s.arg fn mbx 0 && e.2.st == ThState.exited).length] ++ lohi x.startT))) ∧
  (∀ (fn mbx : Nat) (s : State), fn ≤ 18 → mbx ≤ 16 → (s.executes fn mbx 0x205 = true → s.badLimit fn mbx 0x205 = false →
    exec (.memCopyIn fn mbx) s = .next ((s.accept fn mbx).postCopy fn mbx (s.arg64 fn mbx 0) (s.arg64 fn mbx 2) (s.arg64 fn mbx 4) true)) ∧
    (s.executes fn mbx 0x206 = true → s.badLimit fn mbx 0x206 = false → exec (.memCopyOut fn mbx) s =
    .next ((s.accept fn mbx).postCopy fn mbx (s.arg64 fn mbx 0) (s.arg64 fn mbx 2) (s.arg64 fn mbx 4) false)))

/-- The module group's commands and the valley state. (R364, R411, R619, R620, R621, R622, R623, R643)
Answers a next state for: nop, moduleInfo, moduleStatus, timeGet, ledIdentify, ledIdentifyExpiry, valleyEnter, valleyExit,
valleyEntryComplete, valleyExitComplete. -/
def Obligations.ModuleCommands : Prop :=
  (∀ (fn mbx : Nat) (s : State), s.posted fn mbx 0x009 = true → exec (.nop fn mbx) s = .next (s.respond fn mbx rOk [])) ∧
  (∀ (fn mbx : Nat) (s : State), s.posted fn mbx 0x000 = true → exec (.moduleInfo fn mbx) s =
    .next (s.respond fn mbx rOk ([s.rdF .RAS_SB_IDENT 0 0 32] ++ lohi (s.rdN .RAS_SB_SERIAL 0) ++ [s.rdF .RAS_SB_IDENT 0 32 8, s.upd.slotA.ver, s.upd.slotB.ver, s.upd.running, 64, ((List.range 64).map s.exposed).sum, s.rdN .PLN_BINDABLE 0, s.rdF .FN_ID 0 8 16]))) ∧
  (∀ (fn mbx : Nat) (s : State), s.posted fn mbx 0x001 = true → ∃ w : Nat, w < 2 ^ 32 ∧ exec (.moduleStatus fn mbx) s =
    .next ({ s with fresh := s.fresh + 1 }.respond fn mbx rOk ([s.rdN .FN_STATUS (if 17 ≤ fn then 0 else fn), w, s.rdF .PWR_DRAW 0 0 16 * 1000, if s.pwr.leased then s.pwr.leaseW else 0] ++ lohi s.time))) ∧
  (∀ (fn mbx : Nat) (s : State), s.posted fn mbx 0x006 = true → exec (.timeGet fn mbx) s =
    .next (s.respond fn mbx rOk (lohi s.time ++ [s.rdF .TIM_STATUS 0 0 3] ++ lohi (s.rdN .TIM_PTM_OFS 0)))) ∧
  (∀ (fn mbx : Nat) (s : State), s.posted fn mbx 0x008 = true → s.arg fn mbx 0 ≤ 3600 → exec (.ledIdentify fn mbx) s =
    .next ({ s with brd := { s.brd with identify := if s.arg fn mbx 0 = 0 then 0 else s.time + s.arg fn mbx 0 * 1000000000 } }.respond fn mbx rOk [])) ∧
  (∀ (s : State), s.brd.identify ≤ s.time → exec (.ledIdentifyExpiry) s = .next ({ s with brd := { s.brd with identify := 0 } })) ∧
  (∀ (fn mbx : Nat) (peerOk : Bool) (s : State), s.posted fn mbx 0x004 = true → s.clk.entering = false → s.clk.exiting = false →
    s.valleyBusy = false → (s.pair.mirrored = true → peerOk = true) → s.rdF .TIM_STATUS 0 8 1 = 0 →
    let t := (if s.pair.mirrored then s.twinSend 4 else s).accept fn mbx
    exec (.valleyEnter fn mbx peerOk) s = .next { t with clk := { t.clk with valleyCmd := some (fn, mbx) } }.beginEntry) ∧
  (∀ (fn mbx : Nat) (s : State), s.posted fn mbx 0x005 = true → s.clk.entering = false → s.clk.exiting = false →
    s.rdF .TIM_STATUS 0 8 1 = 1 → let t := (if s.pair.mirrored then s.twinSend 4 else s).accept fn mbx
    exec (.valleyExit fn mbx) s = .next { t with clk := { t.clk with valleyCmd := some (fn, mbx) } }.beginExit) ∧
  (∀ (us : Nat) (s : State), s.clk.entering = true →
    let t := ((List.range 64).foldl (fun t i => t.islValley i true) s).wrF .PLN_STATUS 0 3 1 1
    let u := if t.rdF .VID_STATUS 0 0 2 = 1 then t.wrF .VID_STATUS 0 0 2 2 else t
    exec (.valleyEntryComplete us) s = .next ((((u.setLocks valleyDomains false).narrowLinks).count .TIM_VALLEY_CNT 0 1).valleyDone true us)) ∧
  (∀ (us : Nat) (s : State), s.clk.exiting = true →
    let t := ((List.range 64).foldl (fun t i => t.islValley i false) s).wrF .PLN_STATUS 0 3 1 0
    let u := if t.rdF .VID_STATUS 0 0 2 = 2 then t.wrF .VID_STATUS 0 0 2 1 else t
    exec (.valleyExitComplete us) s = .next (((u.setLocks valleyDomains true).widenLinks).valleyDone false us))

/-- Partition queries, binds, unbinds, re-binds, resets and ramps by command. (R373, R376, R378, R379, R364, R390, R236, R237)
Answers a next state for: partQuery, partBind, partUnbind, partRebind, partReset, partSetRamp. -/
def Obligations.PartitionCommands : Prop :=
  (∀ (fn mbx : Nat) (s : State), s.posted fn mbx 0x100 = true → isVf (s.ownFn fn mbx) = true → let p := s.prt (s.ownFn fn mbx)
  exec (.partQuery fn mbx) s = .next (s.respond fn mbx rOk (lohi p.islands ++ [p.hcores, p.npages, p.dec, p.enc, p.srt, p.qcount, p.abase, p.acount, p.npool, p.share] ++ lohi p.lf ++ [p.budget, p.ramp, p.epoch, s.fnState (s.ownFn fn mbx)]))) ∧
  (∀ (fn mbx q : Nat) (s : State), s.posted fn mbx 0x101 = true → s.inValley = false → isVf (s.arg fn mbx 0) = true →
    (s.bindArgs fn mbx 1).inTable = true → rampOk (s.bindArgs fn mbx 1).ramp = true → s.namesFailed (s.bindArgs fn mbx 1) = false →
    (s.prt (s.arg fn mbx 0)).bound = false → s.scrubbing (s.arg fn mbx 0) = false →
    ((s.others [s.arg fn mbx 0]).any (fun l => l.any (s.bindArgs fn mbx 1).meets) = false) →
    lowestQuota (s.bindArgs fn mbx 1).qcount (s.others [s.arg fn mbx 0]).flatten = some q →
    (s.bindArgs fn mbx 1).npages + (s.bindArgs fn mbx 1).npool ≤ s.pagesLeft →
    s.countsFit [s.arg fn mbx 0] [s.bindArgs fn mbx 1] = true → exec (.partBind fn mbx) s =
    .next ((s.accept fn mbx).startScrub (s.arg fn mbx 0) .bind (some (fn, mbx)) 0 { s.bindArgs fn mbx 1 with qbase := q })) ∧
  (∀ (fn mbx : Nat) (s : State), s.posted fn mbx 0x102 = true → s.inValley = false → isVf (s.arg fn mbx 0) = true →
    s.scrubbing (s.arg fn mbx 0) = false → (s.prt (s.arg fn mbx 0)).bound = true → exec (.partUnbind fn mbx) s =
    .next ((s.accept fn mbx).startScrub (s.arg fn mbx 0) .unbind (some (fn, mbx)) 0 {})) ∧
  (∀ (fn mbx ab : Nat) (s : State), s.posted fn mbx 0x103 = true → s.inValley = false → 1 ≤ s.arg fn mbx 0 → s.arg fn mbx 0 ≤ 16 →
    s.arg fn mbx 1 = 0 → s.runMoves? (s.arg fn mbx 0) 0 (s.bindArgs fn mbx 2) = some ab → (s.bindArgs fn mbx 2).inTable = true →
    s.namesFailed (s.bindArgs fn mbx 2) = false → s.scrubbing (s.arg fn mbx 0) = false → s.scrubbing 0 = false →
    (s.prt (s.arg fn mbx 0)).has (s.bindArgs fn mbx 2) = true → (s.prt (s.arg fn mbx 0)).covers (s.bindArgs fn mbx 2) = true →
    s.countsFit [s.arg fn mbx 0, 0] [(s.prt (s.arg fn mbx 0)).minus (s.bindArgs fn mbx 2), {}] = true →
    exec (.partRebind fn mbx) s = .next ((s.accept fn mbx).startScrub (s.arg fn mbx 0) .give (some (fn, mbx)) 0 ((s.prt (s.arg fn mbx 0)).minus (s.bindArgs fn mbx 2)))) ∧
  (∀ (fn mbx ab q : Nat) (s : State), s.posted fn mbx 0x103 = true → s.inValley = false → s.arg fn mbx 0 = 0 → 1 ≤ s.arg fn mbx 1 →
    s.arg fn mbx 1 ≤ 16 → s.runMoves? 0 (s.arg fn mbx 1) (s.bindArgs fn mbx 2) = some ab → (s.bindArgs fn mbx 2).inTable = true →
    s.namesFailed (s.bindArgs fn mbx 2) = false → s.scrubbing 0 = false → s.scrubbing (s.arg fn mbx 1) = false →
    ((s.others []).any (fun l => l.any (s.bindArgs fn mbx 2).meets) = false) → (s.bindArgs fn mbx 2).qcount = 0 →
    q = (s.prt (s.arg fn mbx 1)).qbase → ((s.prt (s.arg fn mbx 1)).plus (s.bindArgs fn mbx 2) q ab).inTable = true →
    (s.bindArgs fn mbx 2).npages + (s.bindArgs fn mbx 2).npool ≤ s.pagesLeft →
    s.countsFit [0, s.arg fn mbx 1] [{}, (s.prt (s.arg fn mbx 1)).plus (s.bindArgs fn mbx 2) q ab] = true →
    exec (.partRebind fn mbx) s = .next ((s.accept fn mbx).startScrub (s.arg fn mbx 1) .take (some (fn, mbx)) 0 ((s.prt (s.arg fn mbx 1)).plus (s.bindArgs fn mbx 2) q ab))) ∧
  (∀ (fn mbx : Nat) (s : State), s.posted fn mbx 0x104 = true → s.inValley = false → isVf (s.ownFn fn mbx) = true →
    s.scrubbing (s.ownFn fn mbx) = false → (s.prt (s.ownFn fn mbx)).bound = true → exec (.partReset fn mbx) s =
    .next ((s.accept fn mbx).startScrub (s.ownFn fn mbx) .reset (some (fn, mbx)) 0 (s.prt (s.ownFn fn mbx)))) ∧
  (∀ (fn mbx : Nat) (s : State), s.posted fn mbx 0x105 = true → isVf (s.arg fn mbx 0) = true → rampOk (s.arg fn mbx 1) = true →
    s.scrubbing (s.arg fn mbx 0) = false → (s.prt (s.arg fn mbx 0)).bound = true →
    let t := s.setPrt (s.arg fn mbx 0) { s.prt (s.arg fn mbx 0) with ramp := s.arg fn mbx 1 }
    exec (.partSetRamp fn mbx) s = .next ({ t with part := { t.part with stored := tabSet t.part.stored (s.arg fn mbx 0) (t.prt (s.arg fn mbx 0)) } }.respond fn mbx rOk []))

/-- Pages of a VF and the scrub of a partition. (R85, R160, R175, R377, R381, R382, R383, R384)
Answers a next state for: pageRelease, pageMap, pageReplace, epochDrawResume, scrubStart, scrubDrainEnd, scrubBoundExpiry,
unexpectedCompletion. -/
def Obligations.PageCommandsAndScrubs : Prop :=
  (∀ (fn mbx v : Nat) (t s : State), s.posted fn mbx 0x106 = true → s.badLimit fn mbx 0x106 = false →
    s.vpnBusy fn ((s.mappedIn fn (s.arg fn mbx 0) (s.arg fn mbx 1)).map (·.1)) = false →
    (s.mappedIn fn (s.arg fn mbx 0) (s.arg fn mbx 1)).isEmpty = false →
    ((s.mappedIn fn (s.arg fn mbx 0) (s.arg fn mbx 1)).any (fun e => (s.page e.2).migrating) = false) → s.drawEpoch = some (v, t) →
    exec (.pageRelease fn mbx) s = .next ((((s.mappedIn fn (s.arg fn mbx 0) (s.arg fn mbx 1)).foldl (fun t e => t.unmap fn e.1 e.2) t).freshPages 0 v ((s.mappedIn fn (s.arg fn mbx 0) (s.arg fn mbx 1)).map (·.2))).syncBindable.respond fn mbx rOk [])) ∧
  (∀ (fn mbx v : Nat) (t s : State), s.posted fn mbx 0x107 = true → s.badLimit fn mbx 0x107 = false → s.arg fn mbx 1 ≠ 0 →
    s.mappedIn fn (s.arg fn mbx 0) (s.arg fn mbx 1) = [] → s.arg fn mbx 1 ≤ s.pagesLeft → s.drawEpoch = some (v, t) →
    (((List.range (s.arg fn mbx 1)).map (s.arg fn mbx 0 + ·)).filter (fun w => (tabFind s.pln.maps (mapKey fn w)).isNone) = (List.range (s.arg fn mbx 1)).map (s.arg fn mbx 0 + ·)) → let ps := s.alloc (s.arg fn mbx 1)
    let u := (t.freshPages fn v ps).setPrt fn { t.prt fn with pages := (t.prt fn).pages ++ ps }
    exec (.pageMap fn mbx) s = .next ((u.setWrites fn (s.arg fn mbx 2 == 1) (((List.range (s.arg fn mbx 1)).map (s.arg fn mbx 0 + ·)).zip ps)).respond fn mbx rOk [])) ∧
  (∀ (fn mbx v q : Nat) (e : MapEnt) (t s : State), s.posted fn mbx 0x108 = true → s.badLimit fn mbx 0x108 = false →
    tabFind s.pln.maps (mapKey fn (s.arg fn mbx 0)) = some e → (s.page e.ppn).migrating = false → s.vpnBusy fn [s.arg fn mbx 0] = false →
    s.pagesLeft ≠ 0 → s.alloc 1 = [q] → s.drawEpoch = some (v, t) → let u := (t.freshPages fn v [q]).freshPages 0 v [e.ppn]
    let u := { u with pln := { u.pln with maps := tabSet u.pln.maps (mapKey fn (s.arg fn mbx 0)) { e with ppn := q } } }
    let u := (u.setPrt fn { u.prt fn with pages := swapPage e.ppn q (u.prt fn).pages }).tlbDrop fn (s.arg fn mbx 0)
    exec (.pageReplace fn mbx) s = .next (u.syncBindable.respond fn mbx rOk [q])) ∧
  (∀ (f m : Nat) (r : List (Nat × Nat)) (s : State), s.pln.drawWait = (f, m) :: r → s.drawEpoch.isSome = true →
    let t := { s with pln := { s.pln with drawWait := r } }
    exec .epochDrawResume s = .next (if m = 16 then t.scrubGo f else match bits (t.mbxW f m 63) 0 12 with
    | 0x106 => if t.owned f m then t.pageRelease f m else t
    | 0x107 => if t.owned f m then t.pageMap f m else t
    | 0x108 => if t.owned f m then t.pageReplace f m else t
    | _ => t)) ∧
  (∀ (fn : Nat) (x : Scrub) (s : State), isVf fn = true → tabFind s.part.scrubs fn = some x → x.started = false →
    s.scrubHeld fn = false → exec (.scrubStart fn) s = .next (s.scrubBegin fn x)) ∧
  (∀ (fn : Nat) (x : Scrub) (late : Bool) (s : State), isVf fn = true → tabFind s.part.scrubs fn = some x → x.started = true →
    x.drained = false → exec (.scrubDrainEnd fn late) s =
    .next ({ s with part := { s.part with scrubs := tabSet s.part.scrubs fn { x with drained := true } }, lnk := if late then { s.lnk with hostReads := tabUpd s.lnk.hostReads 0 fn (· + x.reads) } else s.lnk }.scrubGo fn)) ∧
  (∀ (fn : Nat) (x : Scrub) (s : State), isVf fn = true → tabFind s.part.scrubs fn = some x → x.started = true → x.missed = false →
    exec (.scrubBoundExpiry fn) s = .next ((((({ s with part := { s.part with scrubs := tabSet s.part.scrubs fn { x with missed := true } } }.count .RAS_WDOG 0 1).hwSet .RAS_EVT 0 16).log 4 0x1B 0 0 0x74 fn 3 0 0 0).askChipDump 11))) ∧
  (∀ (fn : Nat) (s : State), isVf fn = true → tabGet s.lnk.hostReads 0 fn ≠ 0 → exec (.unexpectedCompletion fn) s =
    .next ({ s with lnk := { s.lnk with hostReads := tabUpd s.lnk.hostReads 0 fn (· - 1) } }.log 4 0x0C fn 0 0x42 fn 1 0 0 0))

/-- Reset, training, BAR2, MSI-X, ATS, PASID, BAR size, NumVFs and lane restoration of the host link. (R400, R393, R397, R174, R399, R402, R403, R396, R394, R436)
Answers a next state for: pcieConventionalReset, pcieLinkTrain, bar2Read, bar2Write, msixUnmask, atsInvalidate, pasidWrite, vfBarResize,
numvfsWrite, linkRestore. -/
def Obligations.LinkAndBar2Commands : Prop :=
  (∀ (kind : Nat) (s : State), kind < 3 → exec (.pcieConventionalReset kind) s = .next (s.conventionalReset)) ∧
  (∀ (rate : Nat) (good worn : List Nat) (rev : Bool) (s : State), 1 ≤ rate → (good.all (fun l => decide (l < 16)) = true) →
    (worn.all (fun l => decide (l < 16)) = true) → s.hostCanTrain = true → s.lnk.train = true →
    exec (.pcieLinkTrain rate good rev worn) s = .next (s.trainHost rate good rev worn)) ∧
  (∀ (fn off len : Nat) (s : State), isVf fn = true → s.fnState fn ≠ fnScrubbing → s.barOk fn off len = true →
    s.barWaits fn off len false = false → s.plainBad fn (barAddrs off len) false = none → exec (.bar2Read fn off len) s =
    .next ({ s with reply := .bytes (s.barBytes fn off len) })) ∧
  (∀ (fn off len : Nat) (s : State), isVf fn = true → s.fnState fn = fnScrubbing → exec (.bar2Read fn off len) s =
    .next ({ s with reply := .bytes (List.replicate len 0) })) ∧
  (∀ (fn off : Nat) (data : List Byte) (s : State), isVf fn = true → s.fnState fn ≠ fnScrubbing →
    (s.pair.mirrored && s.role != roleStandby) = false → s.barOk fn off data.length = true → s.barWaits fn off data.length true = false →
    s.plainBad fn (barAddrs off data.length) true = none → exec (.bar2Write fn off data) s =
    .next (s.writeBytes fn 0 0 (plainBase + off) false data)) ∧
  (∀ (fn off : Nat) (data : List Byte) (s : State), isVf fn = true → s.fnState fn = fnScrubbing → exec (.bar2Write fn off data) s =
    .next ((s.count .FN_BAR2_DROPPED fn 1).hwSet .FN_EVT fn 8)) ∧
  (∀ (fn vec addr data : Nat) (s : State), fn ≤ 16 → vec < vecCount fn → s.cfgLocked fn = false →
    tabGet s.lnk.msix {} (fn * 256 + vec) ≠ { addr := addr, data := data, masked := false } → addr ≠ 0 →
    s.lnk.pba.contains (fn * 256 + vec) = true → let k := fn * 256 + vec
    exec (.msixUnmask fn vec addr data) s = .next { s with
    lnk := { s.lnk with msix := tabSet s.lnk.msix k { addr := addr, data := data, masked := false }, pba := s.lnk.pba.filter (· != k) }
    mbx := { s.mbx with sent := tabUpd s.mbx.sent 0 k (· + 1) } }) ∧
  (∀ (fn addr size : Nat) (s : State), fn ≤ 16 → s.lnk.inval = [] → s.lnk.ats.contains fn = true → s.hostRuns fn addr size = false →
    let atc := s.lnk.atc.filter fun (e : AtcEnt) => !(e.fn == fn && decide (addr < e.page * 4096 + 4096 ∧ e.page * 4096 < addr + size))
    exec (.atsInvalidate fn addr size) s = .next { s with lnk := { s.lnk with atc := atc }, reply := .invalidated fn addr size }) ∧
  (∀ (fn value : Nat) (s : State), fn ≤ 16 → s.hostBusy fn = false → s.cfgLocked fn = false → tabGet s.lnk.pasid 0 fn ≠ value % 2 ^ 20 →
    exec (.pasidWrite fn value) s = .next ({ s with lnk := { s.lnk with pasid := tabSet s.lnk.pasid fn (value % 2 ^ 20) } })) ∧
  (∀ (fn size : Nat) (s : State), isVf fn = true → ((List.range 10).any (fun k => size == 2 ^ (28 + k)) = true) →
    s.cfgLocked fn = false → s.barSize fn ≠ size → exec (.vfBarResize fn size false) s =
    .next ({ s with lnk := { s.lnk with bar2 := tabSet s.lnk.bar2 fn size } })) ∧
  (∀ (n : Nat) (en : Bool) (s : State), n = 0 ∨ n = 16 → s.lnk.vfsOn = false → exec (.numvfsWrite n en) s =
    .next ({ s with lnk := { s.lnk with numVfs := n, vfEnable := en } })) ∧
  (∀ (fn mbx : Nat) (up : Bool) (s : State), s.posted fn mbx 0x007 = true → s.arg fn mbx 0 = 1 → tabFind s.lnk.restore 1 = none →
    s.twinState ≠ 1 → let t := (s.accept fn mbx).wrF .TWN_MAPOUT 0 0 8 0
    let u := { t with lnk := { t.lnk with
    twinLaneFail := onProbation t.lnk.twinLaneFail s.twinOut
    restore := tabSet t.lnk.restore 1 ((maskBits (s.rdF .TWN_STATUS 0 16 8) 8).length, fn, mbx) } }
    exec (.linkRestore fn mbx up) s = .next (if u.twinState = 2 then u.twinRetrain else u.wrF .TWN_STATUS 0 0 2 1)) ∧
  (∀ (fn mbx : Nat) (up : Bool) (s : State), s.posted fn mbx 0x007 = true → s.arg fn mbx 0 = 0 → tabFind s.lnk.restore 0 = none →
    s.lnk.train = false → let t := (s.accept fn mbx).wrF .TWN_MAPOUT 0 8 16 0
    let u := { t with lnk := { t.lnk with
    hostLaneFail := onProbation t.lnk.hostLaneFail s.hostOut, restore := tabSet t.lnk.restore 0 (s.lnk.lanes.length, fn, mbx) } }
    exec (.linkRestore fn mbx up) s =
    .next (if up && u.lnk.up then { u with lnk := { u.lnk with train := true } } else u.restoreDone 0 s.lnk.lanes.length))

/-- IDE key management and the TDISP requests of a VF. (R404, R406, R407, R408, R409, R410, R461, R385)
Answers a next state for: ideKm, ideStreamFail, tdispGetVersion, tdispGetCapabilities, lockInterfaceRequest, getDeviceInterfaceReport,
getDeviceInterfaceState, startInterfaceRequest, stopInterfaceRequest, tdispUnsupported, tdispConfigViolation, tdiUnsecuredRequest. -/
def Obligations.IdeAndTdispCommands : Prop :=
  (∀ (k : Nat) (s : State), k < 18 → (s.sec.sessions.any (fun x => x.doe && x.done) = true) → s.sec.trngFailed = false →
    exec (.ideKm k .program) s = .next (s.setIde k { tabGet s.lnk.ide {} k with prog := true })) ∧
  (∀ (k : Nat) (s : State), k < 18 → (s.sec.sessions.any (fun x => x.doe && x.done) = true) → (tabGet s.lnk.ide {} k).prog = true →
    (tabGet s.lnk.ide {} k).secure = false → exec (.ideKm k .setGo) s =
    .next (s.setIde k { tabGet s.lnk.ide {} k with secure := true, keyed := true, prog := false })) ∧
  (∀ (k : Nat) (s : State), k < 18 → (s.sec.sessions.any (fun x => x.doe && x.done) = true) → exec (.ideKm k .setStop) s =
    .next (s.setIde k { tabGet s.lnk.ide {} k with secure := false, keyed := false })) ∧
  (∀ (k : Nat) (s : State), k < 18 → (s.sec.sessions.any (fun x => x.doe && x.done) = true) → (tabGet s.lnk.ide {} k).prog = true →
    (tabGet s.lnk.ide {} k).secure = true → exec (.ideKm k .switch) s =
    .next (s.setIde k { tabGet s.lnk.ide {} k with kset := 1 - (tabGet s.lnk.ide {} k).kset, prog := false })) ∧
  (∀ (k : Nat) (s : State), k < 18 → exec (.ideStreamFail k) s = .next (s.ideInsecure k)) ∧
  (∀ (fn : Nat) (s : State), isVf fn = true → exec (.tdispGetVersion fn) s = .next ({ s with reply := .tdisp .version })) ∧
  (∀ (fn : Nat) (s : State), isVf fn = true → exec (.tdispGetCapabilities fn) s = .next ({ s with reply := .tdisp .capabilities })) ∧
  (∀ (fn : Nat) (s : State), isVf fn = true → s.tdi fn = .unlocked → (s.prt fn).bound = true → s.fnState fn = fnReady →
    (tabGet s.lnk.ide {} (fn + 1)).secure = true → exec (.lockInterfaceRequest fn) s =
    .next ({ s.setTdi fn .locked with reply := .tdisp .locked })) ∧
  (∀ (fn : Nat) (s : State), isVf fn = true →
    (s.tdi fn == .unlocked && (s.prt fn).bound && s.fnState fn == fnReady && (tabGet s.lnk.ide {} (fn + 1)).secure) = false →
    exec (.lockInterfaceRequest fn) s = .next ({ s with reply := .tdisp .error })) ∧
  (∀ (fn : Nat) (s : State), isVf fn = true → s.cfgLocked fn = true → exec (.getDeviceInterfaceReport fn) s =
    .next ({ s with reply := .tdisp (.report [(0, 65536), (2, s.barSize fn), (4, 8192)] (s.layoutRecord fn) ((s.programDigest fn).getD (List.replicate 32 0))) })) ∧
  (∀ (fn : Nat) (s : State), isVf fn = true → exec (.getDeviceInterfaceState fn) s =
    .next ({ s with reply := .tdisp (.state (s.tdi fn)) })) ∧
  (∀ (fn : Nat) (s : State), isVf fn = true → s.tdi fn = .locked → exec (.startInterfaceRequest fn) s =
    .next ({ s.setTdi fn .run with reply := .tdisp .started })) ∧
  (∀ (fn : Nat) (s : State), isVf fn = true → s.tdi fn ≠ .locked → exec (.startInterfaceRequest fn) s =
    .next ({ s with reply := .tdisp .error })) ∧
  (∀ (fn : Nat) (s : State), isVf fn = true → tabFind s.part.scrubs fn = none → exec (.stopInterfaceRequest fn) s =
    .next ({ s.setTdi fn .unlocked with reply := .tdisp .stopped })) ∧
  (∀ (fn code : Nat) (s : State), isVf fn = true → exec (.tdispUnsupported fn code) s =
    .next ({ s with reply := .tdisp .unsupportedRequest })) ∧
  (∀ (fn : Nat) (s : State), isVf fn = true → exec (.tdispConfigViolation fn) s = .next (s.tdiError fn)) ∧
  (∀ (fn : Nat) (st t : Bool) (s : State), isVf fn = true → s.tdi fn = .run → (!st || !t) = true →
    exec (.tdiUnsecuredRequest fn st t) s = .next ({ s.dropWr fn with reply := .unsupported }))

/-- Twin link training, flits, NAK and heartbeats, and the cables' attach, hot join and poll. (R418, R419, R420, R421, R422, R426, R582, R432, R433)
Answers a next state for: twinTrain, twinTrainRetry, twinFlitReceive, twinNak, heartbeatSend, heartbeat, peerSilent, peerSilentLong,
cableAttach, cableHotJoin, cablePoll. -/
def Obligations.TwinLinkCommands : Prop :=
  (∀ (pm inv : Nat) (rev : Bool) (failed : List Nat) (s : State), pm < 256 → inv < 256 → (failed.all (fun l => decide (l < 8)) = true) →
    s.brd.powered = true → s.twinState ≠ 2 → bitAt (s.rdN .TIM_CLK_LOCK 0) 16 = true → (tabGet s.lnk.cables {} 1).wrong = false →
    exec (.twinTrain pm inv rev failed) s = .next (s.trainTwin pm inv rev failed)) ∧
  (∀ (s : State), s.brd.powered = true → s.twinState = 0 → exec (.twinTrainRetry) s = .next (s.wrF .TWN_STATUS 0 0 2 1)) ∧
  (∀ (ack sym : Nat) (s : State), s.lnk.rxSeq < 4096 → ack < 4096 → s.twinState = 2 →
    exec (.twinFlitReceive s.lnk.rxSeq ack false sym true true true []) s = .next ((s.count .TWN_FEC_CORR 0 sym).twinTake s.lnk.rxSeq) ∧
    ((s.count .TWN_FEC_CORR 0 sym).twinTake s.lnk.rxSeq).lnk.rxSeq = (s.lnk.rxSeq + 1) % 4096) ∧
  (∀ (seq ack sym : Nat) (ackv crc : Bool) (s : State), seq < 4096 → ack < 4096 → s.twinState = 2 →
    exec (.twinFlitReceive seq ack ackv sym false crc true []) s =
    .next (((s.count .TWN_FEC_CORR 0 sym).count .TWN_FEC_UNC 0 1).twinDiscard)) ∧
  (∀ (seq ack sym : Nat) (ackv : Bool) (s : State), seq < 4096 → ack < 4096 → s.twinState = 2 →
    exec (.twinFlitReceive seq ack ackv sym true false true []) s =
    .next (((s.count .TWN_FEC_CORR 0 sym).count .TWN_CRC_FAIL 0 1).twinDiscard)) ∧
  (∀ (seq ack sym : Nat) (ackv fec crc : Bool) (worn : List Nat) (s : State), seq < 4096 → ack < 4096 →
    (worn.all (fun l => decide (l < 8)) = true) → s.twinState = 2 → exec (.twinFlitReceive seq ack ackv sym fec crc false worn) s =
    .next (s.twinRetrain)) ∧
  (∀ (ack : Nat) (s : State), ack < 4096 → s.twinState = 2 → let t := (s.twinAck ack).twinResend
  exec (.twinNak ack) s = .next (if t.lnk.unacked.any (fun f => decide (8 ≤ f.resent)) then t.twinRetrain else t)) ∧
  (∀ (s : State), s.brd.powered = true → exec (.heartbeatSend) s =
    .next ({ s.free.2 with lnk := { s.free.2.lnk with hbSent := s.free.2.lnk.hbSent + 1 } }.twinMsg 0 0 32 (s.heartbeatBody s.free.1.toNat))) ∧
  (∀ (time count mode role health lockMv lanes : Nat) (s : State), s.twinState = 2 → s.rdF .TWN_STATUS 0 4 1 = 0 →
    s.pair.claiming.isSome = true →
    let p : Peer := { time := time, count := count, mode := mode, role := role, health := health, lockMv := lockMv, lanes := lanes }
    exec (.heartbeat time count mode role health lockMv lanes) s = .next { s with lnk := { s.lnk with peer := p } }) ∧
  (∀ (s : State), s.rdF .TWN_STATUS 0 4 1 ≠ 1 → exec (.peerSilent) s =
    .next ((((s.wrF .TWN_STATUS 0 4 1 1).hwSet .TWN_EVT 0 16).count .TWN_HB_MISS 0 1).flushHeld)) ∧
  (∀ (s : State), s.rdF .TWN_STATUS 0 4 1 = 1 → s.pair.mirrored = true → exec (.peerSilentLong) s = .next (s.unsyncAll.flushHeld)) ∧
  (∀ (c retimers : Nat) (typeOk : Bool) (s : State), c < 2 → retimers ≤ 2 →
    let x : Cable := { present := true, valid := typeOk, fault := !typeOk, wrong := !typeOk, retimers := retimers }
    exec (.cableAttach c true typeOk retimers) s =
    .next ((cableTargets retimers).foldl (fun (t : State) a => t.assignAddr c a) ((s.setCable c x).hwSet .TWN_EVT 0 32))) ∧
  (∀ (c target : Nat) (s : State), c < 2 → (cableTargets 2).contains target = true → exec (.cableHotJoin c target) s =
    .next (s.assignAddr c target)) ∧
  (∀ (c hot : Nat) (eyes : List Nat) (s : State), c < 2 → (s.cable c).present = true → hot ≤ 110 →
    exec (.cablePoll c true hot eyes) s = .next ((s.setCable c { s.cable c with misses := 0, hot := hot, eye := eyes.foldl min (eyes.headD 0) }).eyeWear c ((List.range eyes.length).filter fun l => decide (eyes[l]?.getD 0 < 10)))) ∧
  (∀ (c hot : Nat) (eyes : List Nat) (s : State), c < 2 → (s.cable c).present = true → (s.cable c).misses < 2 →
    exec (.cablePoll c false hot eyes) s = .next (s.setCable c { s.cable c with misses := (s.cable c).misses + 1 }))

/-- Frames of the USB service port, and the board's monitored signals. (R412, R414, R415, R416, R361, R634, R635, R636, R639, R640)
Answers a next state for: usbAttach, usbDetach, usbPost, usbStageWrite, usbStageRead, usbBadFrame, usbInTransfer, signalLineMonitor,
pullWarnArm, pullWarnOpen, reversePolarity, holdupBankCheck, sidebandAddressAssign. -/
def Obligations.UsbAndBoardCommands : Prop :=
  (∀ (s : State), s.brd.powered = true → exec (.usbAttach) s =
    .next ({ s with mbx := { s.mbx with usbAttached := true }, reply := .usb s.usbDesc })) ∧
  (∀ (s : State), exec (.usbDetach) s = .next ({ s with mbx := { s.mbx with usbAttached := false, usbOut := [], usbDropped := 0, staging := [] } })) ∧
  (∀ (m : Nat) (ws : List Nat) (s : State), m < 16 → s.mbx.usbAttached = true → ws.length = 64 → s.owned 17 m = false →
    exec (.usbPost m ws) s = .next ((s.setMbxWs 17 m 0 (ws.take 63)).usbHeader m (ws[63]?.getD 0))) ∧
  (∀ (m : Nat) (ws : List Nat) (s : State), m < 16 → s.mbx.usbAttached = true → ws.length ≠ 64 → exec (.usbPost m ws) s =
    .next (s.dropWr 0)) ∧
  (∀ (off : Nat) (data : List Byte) (s : State), s.mbx.usbAttached = true → off + data.length ≤ stagingBytes →
    exec (.usbStageWrite off data) s = .next ({ s with mbx := { s.mbx with staging := memWrite s.mbx.staging off data } })) ∧
  (∀ (off len : Nat) (s : State), s.mbx.usbAttached = true → len ≤ 0x10_0000 → off + len ≤ stagingBytes →
    exec (.usbStageRead off len) s = .next ({ s with mbx := { s.mbx with usbOut := s.mbx.usbOut ++ [.stage off (memRead s.mbx.staging off len)] } })) ∧
  (∀ (s : State), s.mbx.usbAttached = true → exec (.usbBadFrame) s = .next (s.dropWr 0)) ∧
  (∀ (s : State), s.mbx.usbDropped = 0 → exec (.usbInTransfer) s = .next ({ s with mbx := { s.mbx with usbOut := s.mbx.usbOut.drop 1 } })) ∧
  (∀ (n code : Nat) (s : State), (signalCodes n).contains code = true → n ≠ 2 → n ≠ 3 → n ≠ 4 → exec (.signalLineMonitor n code) s =
    .next (s.setSignal n code)) ∧
  (∀ (code : Nat) (s : State), code = 1 ∨ code = 2 ∨ code = 3 → exec (.signalLineMonitor 4 code) s =
    .next (s.lineFault (if code = 1 then 4 else if code = 2 then 5 else 7) code)) ∧
  (∀ (s : State), exec (.signalLineMonitor 4 0) s = .next (s.lineGood)) ∧
  (∀ (s : State), s.brd.powered = true → s.brd.pullIgnored = false → exec (.pullWarnArm) s =
    .next ({ s with brd := { s.brd with armed := true } })) ∧
  (∀ (s : State), s.brd.powered = true → s.brd.armed = false → s.brd.pullIgnored = false → 44000 ≤ s.pwr.mv → s.pwr.mv ≤ 58000 →
    exec (.pullWarnOpen) s = .next ({ s with brd := { s.brd with pullIgnored := true } }.setSignal 2 3)) ∧
  (∀ (s : State), s.brd.powered = false → exec (.reversePolarity) s = .next ({ s with brd := { s.brd with reverse := true } })) ∧
  (∀ (p : Nat) (s : State), p < 80 → s.brd.holdupLow = false → exec (.holdupBankCheck p) s =
    .next ({ s with brd := { s.brd with holdupLow := true } }.log 4 0x11 0 0 0x62 0x1F 0 0 0 0)) ∧
  (∀ (p : Nat) (s : State), 80 ≤ p → exec (.holdupBankCheck p) s = .next ({ s with brd := { s.brd with holdupLow := false } })) ∧
  (∀ (a : Nat) (setdasa : Bool) (s : State), a < 128 → (setdasa && s.brd.assigned) = false →
    exec (.sidebandAddressAssign a setdasa) s = .next ({ s with brd := { s.brd with addr := a, assigned := true } }))

/-- Power-on, the chip reset sequence, reference windows, PLL loss and relock, and the time sources. (R612, R613, R554, R556, R609, R610, R411, R616, R624)
Answers a next state for: powerOn, chipResetSequence, refclkWindow, refclkReturn, pllLossOfLock, pllRelockTimeout, ptmDialogue, timeSync,
ppsInEdge, ppsTimeout. -/
def Obligations.BootAndClockCommands : Prop :=
  (∀ (b : BootIn) (s : State), bootOk b = true → s.brd.powered = false → exec (.powerOn b) s =
    .next (s.boot b false false 4 (if s.rdF .RAS_OOS 0 0 8 = 5 then 4 else 0))) ∧
  (∀ (b : BootIn) (cause : Nat) (l : List Nat) (s : State), bootOk b = true → s.chipCauses = cause :: l → s.brd.powered = true →
    s.chipWaits = false → chipCounted cause = false → let t := s.dropReset (.chip cause)
    let t := if t.pair.mirrored then t.releaseLine 1 else t
    let t := (t.stopWork).resetEvent 3 0 cause 0
    exec (.chipResetSequence b) s = .next (t.boot b true (cause == 5 && t.rdF .RAS_OOS 0 0 8 == 1) 3 cause)) ∧
  (∀ (s : State), s.brd.powered = true → s.clk.refLost = false → s.clk.refBad = 1 → exec (.refclkWindow true) s =
    .next ({ s with clk := { s.clk with refBad := 0 } }.refclkLost)) ∧
  (∀ (s : State), s.brd.powered = true → s.clk.refLost = false → exec (.refclkWindow false) s =
    .next ({ s with clk := { s.clk with refBad := 0 } })) ∧
  (∀ (s : State), s.clk.refLost = true → exec (.refclkReturn) s =
    .next ({ s with clk := { s.clk with refLost := false }, lnk := { s.lnk with train := true } }.wrF .TIM_CLK_LOCK 0 14 1 1)) ∧
  (∀ (d : Nat) (s : State), hasPll d = true → bitAt (s.rdN .TIM_CLK_LOCK 0) d = true → exec (.pllLossOfLock d) s =
    .next ({ s with clk := { s.clk with relock := s.clk.relock ++ [(d, s.time)] } }.wrF .TIM_CLK_LOCK 0 d 1 0)) ∧
  (∀ (d : Nat) (s : State), hasPll d = true → (s.clk.relock.any (fun e => e.1 == d) = true) → exec (.pllRelockTimeout d) s =
    .next ({ s with clk := { s.clk with relock := s.clk.relock.filter fun e => e.1 != d } }.pllDead d)) ∧
  (∀ (o : Int) (s : State), s.lnk.up = true → exec (.ptmDialogue o) s =
    .next (({ s with clk := { s.clk with ptm := true } }.wrI .TIM_PTM_OFS 64 o).timeResult 1 o)) ∧
  (∀ (o : Int) (s : State), s.twinState = 2 → exec (.timeSync o) s =
    .next (({ s with clk := { s.clk with partner := true } }.wrI .TIM_PAIR_OFS 64 o).timeResult 2 o)) ∧
  (∀ (a b c : Nat) (s : State), c < 2 ^ 64 → s.clk.ppsEdges = [a, b] → ppsApart a b = true → ppsApart b c = true →
    let t := ({ s with clk := { s.clk with ppsEdges := [a, b, c] } }.wrI .TIM_PPS_ERR 32 (ppsErr c)).wrF .TIM_STATUS 0 6 1 1
    exec (.ppsInEdge c) s = .next (if t.rdF .TIM_STATUS 0 6 1 = 1 then t.timeResult 3 (-(ppsErr c)) else t)) ∧
  (∀ (s : State), s.rdF .TIM_STATUS 0 6 1 ≠ 0 → exec (.ppsTimeout) s =
    .next ((({ s with clk := { s.clk with ppsEdges := [] } }.wrF .TIM_STATUS 0 6 1 0).hwSet .TIM_EVT 0 16).sourceLost 3))

/-- The firmware's start, the alias key, SEC_STATUS, certificates, the owner lock, debug sessions and the TRNG. (R372, R439, R444, R464, R465, R466, R462, R468, R470, R612)
Answers a next state for: firmwareReady, aliasKeyReady, secStatus, secCertGet, ownerLock, ownerUnlock, debugOpen, debugClose,
jtagInstruction, jtagTlrTimeout, jtagTapReset, trngHealthFail, trngRetest. -/
def Obligations.TrustCommands : Prop :=
  (∀ (s : State), s.brd.powered = true → s.sec.recovery = false → s.fnState 0 = fnBooting → exec (.firmwareReady) s =
    .next (s.firmwareReady.spdmGo)) ∧
  (∀ (s : State), s.brd.powered = true → s.sec.aliasReady = false → s.sec.trngFailed = false → exec (.aliasKeyReady) s =
    .next ({ s with sec := { s.sec with aliasReady := true, aliasExt := s.certExt } }.spdmGo)) ∧
  (∀ (fn mbx : Nat) (s : State), s.posted fn mbx 0x700 = true → exec (.secStatus fn mbx) s =
    .next (s.respond fn mbx rOk [s.rdF .SEC_STATUS 0 2 1, s.rdF .SEC_STATUS 0 4 1, s.svnCounter, if isPf0 fn then s.pln.bootEpoch else (s.prt fn).epoch])) ∧
  (∀ (fn mbx : Nat) (cert : List Byte) (s t : State), s.posted fn mbx 0x701 = true → s.arg fn mbx 0 ≤ 4 → cert.length ≤ s.arg fn mbx 3 →
    s.bulkPut fn (s.arg64 fn mbx 1) cert = some t → exec (.secCertGet fn mbx cert) s = .next (t.respond fn mbx rOk [cert.length])) ∧
  (∀ (fn mbx : Nat) (token : List Byte) (sig : Bool) (s : State), s.posted fn mbx 0x702 = true → s.arg fn mbx 2 = 896 →
    s.tokenOk token sig [1] = true → let t := s.setOwner true (some (tokenKey token))
    exec (.ownerLock fn mbx (some token) sig) s =
    .next (({ t with sec := { t.sec with ownerSeq := hdr token 0x10 8 } }.respond fn mbx rOk []).updGuard)) ∧
  (∀ (fn mbx : Nat) (token : List Byte) (sig : Bool) (s : State), s.posted fn mbx 0x703 = true → s.arg fn mbx 2 = 896 →
    s.tokenOk token sig [2, 3] = true → let t := s.setOwner false (if hdr token 4 4 = 3 then none else s.sec.ownerKey)
    exec (.ownerUnlock fn mbx (some token) sig) s =
    .next ({ t with sec := { t.sec with ownerSeq := hdr token 0x10 8 } }.respond fn mbx rOk [])) ∧
  (∀ (fn mbx : Nat) (token : List Byte) (sig : Bool) (s : State), s.posted fn mbx 0x702 = true → s.arg fn mbx 2 = 896 →
    s.tokenOk token sig [1] = false → exec (.ownerLock fn mbx (some token) sig) s =
    .next ((s.hwSet .SEC_EVT 0 4).respond fn mbx rBadToken [])) ∧
  (∀ (fn mbx : Nat) (s : State), s.posted fn mbx 0x704 = true → s.arg fn mbx 0 ≤ 2 → exec (.debugOpen fn mbx) s =
    .next ((s.openDebug (s.arg fn mbx 0)).respond fn mbx rOk [])) ∧
  (∀ (fn mbx : Nat) (s : State), s.posted fn mbx 0x705 = true → exec (.debugClose fn mbx) s =
    .next ((s.closeDebug 7).respond fn mbx rOk [])) ∧
  (∀ (s : State), let t := { s with brd := { s.brd with jtagTlr := false } }
  exec (.jtagInstruction .bypass) s = .next t ∧ exec (.jtagInstruction .other) s = .next (t.openDebug 0) ∧
  exec (.jtagInstruction .idcode) s = .next { t with fresh := s.fresh + 1, reply := .jtag ((Config.freeValue s.fresh).toNat % 2 ^ 32) }) ∧
  (∀ (r : DbgRef) (l : List Byte) (s : State), dbgOk r = true → let t := { s with brd := { s.brd with jtagTlr := false } }.openDebug 0
  exec (.jtagInstruction (.read r)) s = .next { t with reply := .bytes (t.dbgRead r) } ∧
  exec (.jtagInstruction (.write r l)) s = .next (t.dbgWrite r l)) ∧
  (∀ (s : State), s.brd.jtagTlr = true → exec (.jtagTlrTimeout) s = .next (s.closeDebug 1)) ∧
  (∀ (s : State), exec (.jtagTapReset) s = .next ({ s with brd := { s.brd with jtagTlr := true } })) ∧
  (∀ (s : State), let t := { s with sec := { s.sec with trngFailed := true } }.wrF .SEC_STATUS 0 5 1 0
  exec .trngHealthFail s = .next (((t.hwSet .SEC_EVT 0 32).count .SEC_TRNG_FAIL 0 1).log 4 0x10 0 0 0x68 0x1F 2 0 0 0)) ∧
  (∀ (s : State), s.sec.trngFailed = true → exec (.trngRetest false) s = .next (s.enterOos 3)) ∧
  (∀ (s : State), s.sec.trngFailed = true → let t := { s with sec := { s.sec with trngFailed := false } }.wrF .SEC_STATUS 0 5 1 1
  exec (.trngRetest true) s = .next (t.part.scrubs.foldl (fun (u : State) e => u.scrubGo e.1) t).spdmGo)

/-- SPDM requests over DOE or MCTP to a responder that is ready. (R451, R452, R453, R454, R455, R443, R459, R438, R468)
Answers a next state for: spdmGetVersion, spdmGetCapabilities, negotiateAlgorithms, getDigests, getCertificate, challenge,
getMeasurements, keyExchange, finish, spdmHeartbeat, keyUpdate, endSession, chunkSend, chunkGet, respondIfReady, vendorDefinedRequest,
spdmUnsupported, sessionHeartbeatTimeout. -/
def Obligations.SpdmRequests : Prop :=
  (∀ (doe : Bool) (s : State), s.spdmUp = true → let u : State := { s with sec := { s.sec with resp := [] } }
  exec (.spdmGetVersion doe) s = .next (u.answer doe (.version [0x12, 0x13]))) ∧
  (∀ (doe : Bool) (s : State), s.spdmUp = true → let u : State := { s with sec := { s.sec with resp := [] } }
  exec (.spdmGetCapabilities doe) s = .next (u.answer doe (.capabilities 4096 65536))) ∧
  (∀ (doe : Bool) (s : State), s.spdmUp = true → let u : State := { s with sec := { s.sec with resp := [] } }
  exec (.negotiateAlgorithms doe true true true true true true) s = .next (u.answer doe .algorithms)) ∧
  (∀ (doe : Bool) (s : State), s.spdmUp = true → s.sec.aliasReady = true → s.upd.stage ≠ .window →
    let u : State := { s with sec := { s.sec with resp := [] } }
    exec (.getDigests doe) s = .next (u.answer doe (.digests s.sec.aliasGen))) ∧
  (∀ (doe : Bool) (off len : Nat) (s : State), s.spdmUp = true → s.sec.aliasReady = true → s.upd.stage ≠ .window → s.rma = false →
    len ≤ 4096 → let u : State := { s with sec := { s.sec with resp := [] } }
    exec (.getCertificate doe 0 off len) s = .next (u.answer doe (.certificate s.sec.aliasGen s.sec.aliasExt off len))) ∧
  (∀ (doe : Bool) (s : State), s.spdmUp = true → s.sec.aliasReady = true → s.upd.stage ≠ .window → s.rma = false →
    let u : State := { s with sec := { s.sec with resp := [] } }
    exec (.challenge doe 0) s = .next (u.answer doe (.challengeAuth s.sec.aliasGen))) ∧
  (∀ (doe : Bool) (index : Nat) (l : List (Nat × List Byte)) (s : State), s.spdmUp = true → s.sec.aliasReady = true →
    s.upd.stage ≠ .window → s.measureBlocks index = some l → let u : State := { s with sec := { s.sec with resp := [] } }
    exec (.getMeasurements doe index) s = .next (u.answer doe (.measurements l s.sec.aliasGen))) ∧
  (∀ (doe : Bool) (s : State), s.spdmUp = true → s.sec.aliasReady = true → s.upd.stage ≠ .window → s.sec.trngFailed = false →
    s.sec.sessions.length < 4 → let u : State := { s with sec := { s.sec with resp := [] } }
    exec (.keyExchange doe) s = .next (({ u with sec := { u.sec with nextSession := s.sec.nextSession + 1, sessions := s.sec.sessions ++ [{ id := s.sec.nextSession, doe := doe }] } } : State).answer doe (.keyExchange s.sec.nextSession 60 s.sec.aliasGen))) ∧
  (∀ (doe : Bool) (id : Nat) (x : Session) (s : State), s.spdmUp = true → s.session doe id = some x → x.done = false →
    let u : State := { s with sec := { s.sec with resp := [] } }
    exec (.finish doe id true) s = .next ((u.updSession id fun y => { y with done := true }).answer doe (.finished id))) ∧
  (∀ (doe : Bool) (id : Nat) (x : Session) (s : State), s.spdmUp = true → s.session doe id = some x → x.done = true →
    let u : State := { s with sec := { s.sec with resp := [] } }
    exec (.spdmHeartbeat doe id) s = .next (u.answer doe .heartbeatAck)) ∧
  (∀ (doe : Bool) (id : Nat) (x : Session) (s : State), s.spdmUp = true → s.session doe id = some x → x.done = true →
    let u : State := { s with sec := { s.sec with resp := [] } }
    exec (.keyUpdate doe id) s = .next ((u.updSession id fun y => { y with keyGen := y.keyGen + 1 }).answer doe .keyUpdateAck)) ∧
  (∀ (doe : Bool) (id : Nat) (x : Session) (s : State), s.spdmUp = true → s.session doe id = some x → x.done = true →
    let u : State := { s with sec := { s.sec with resp := [] } }
    exec (.endSession doe id) s = .next ((u.dropSession id).answer doe .endSessionAck)) ∧
  (∀ (doe : Bool) (last : Bool) (s : State), s.spdmUp = true → let u : State := { s with sec := { s.sec with resp := [] } }
  exec (.chunkSend doe (tabGet s.sec.chunkIn 0 (b2n doe)) last) s =
  .next (({ u with sec := { u.sec with chunkIn := tabSet s.sec.chunkIn (b2n doe) (if last then 0 else tabGet s.sec.chunkIn 0 (b2n doe) + 1) } } : State).answer doe (.chunkAck (tabGet s.sec.chunkIn 0 (b2n doe))))) ∧
  (∀ (doe : Bool) (slot off len seq : Nat) (s : State), s.spdmUp = true →
    tabFind s.sec.large (b2n doe) = some (.certificate slot off len) → seq + 1 < ceilDiv len 4096 →
    let u : State := { s with sec := { s.sec with resp := [] } }
    exec (.chunkGet doe seq) s = .next (u.answer doe (.chunk seq (.certificate slot off len)))) ∧
  (∀ (doe : Bool) (code : Nat) (e : Bool × SpdmReq) (s : State), s.spdmUp = true → s.upd.stage ≠ .window →
    (s.sec.deferred.find? (fun e => e.1 == doe && e.2.code == code) = some e) →
    let u : State := { s with sec := { s.sec with resp := [], deferred := s.sec.deferred.erase e } }
    exec (.respondIfReady doe code) s = .next (u.respondNow doe e.2)) ∧
  (∀ (proto : Nat) (s : State), s.spdmUp = true → proto < 2 → let u : State := { s with sec := { s.sec with resp := [] } }
  exec (.vendorDefinedRequest true proto) s = .next (u.answer true (.vendor proto))) ∧
  (∀ (doe : Bool) (code : Nat) (s : State), s.spdmUp = true → let u : State := { s with sec := { s.sec with resp := [] } }
  exec (.spdmUnsupported doe code) s = .next (u.spdmErr doe .unsupportedRequest)) ∧
  (∀ (id : Nat) (s : State), exec (.sessionHeartbeatTimeout id) s = .next (s.dropSession id)) ∧
  (∀ (s : State), s.brd.powered = true → s.spdmUp = false → exec (.getDigests true) s =
    .next ({ s with sec := { s.sec with waiting := s.sec.waiting ++ [(true, .digests)], resp := [(true, .wait)] } }))

/-- Receiving, committing, activating, confirming and rolling back an image. (R475, R476, R477, R478, R482, R483, R485, R486, R488, R489, R450)
Answers a next state for: updateBegin, updateBlock, updateStatus, updateAbort, updateCommit, commitComplete, updateActivate,
quiescentPoint, quiescentTimeout, handoverAdoptTimeout, fwConfirm, rollbackTimer, svnCounterBurn. -/
def Obligations.FirmwareUpdateCommands : Prop :=
  (∀ (fn mbx : Nat) (l : List Byte) (s : State), s.posted fn mbx 0x800 = true → s.arg fn mbx 3 = 12288 → s.upd.st = .idle →
    s.sec.recovery || s.upd.confirmed → s.updBlocked = none → s.hdrOk l (s.arg fn mbx 0) = true → s.revoked (slotOf l).keyIdx = false →
    s.svnCounter ≤ (slotOf l).svn → let t := (s.setSlot s.target (slotOf l)).setUpd .receiving
    exec (.updateBegin fn mbx (some l) true true) s =
    .next ({ t with upd := { t.upd with blocks := [] } }.respond fn mbx rOk [s.target, blockCount (s.arg fn mbx 0)])) ∧
  (∀ (fn mbx : Nat) (d : List Byte) (s : State), s.posted fn mbx 0x801 = true → s.notIn .receiving = none →
    blockOk (s.arg fn mbx 0) (s.arg fn mbx 1) (s.fwSlot s.target).len = true → let b := s.arg fn mbx 0 / 65536
    let l := if s.upd.blocks.contains b then s.upd.blocks else b :: s.upd.blocks
    let t := s.setSlot s.target ((s.fwSlot s.target).putBlock b ((List.range 4).map fun k => s.arg fn mbx (2 + k)) d)
    exec (.updateBlock fn mbx (some d) true) s = .next ({ t with upd := { t.upd with blocks := l } }.respond fn mbx rOk [l.length])) ∧
  (∀ (fn mbx : Nat) (d : List Byte) (s : State), s.posted fn mbx 0x801 = true → s.notIn .receiving = none →
    blockOk (s.arg fn mbx 0) (s.arg fn mbx 1) (s.fwSlot s.target).len = true → exec (.updateBlock fn mbx (some d) false) s =
    .next (s.respond fn mbx rBlockTag [])) ∧
  (∀ (fn mbx : Nat) (s t : State), s.posted fn mbx 0x805 = true →
    s.bulkPut fn (s.arg64 fn mbx 0) (natLe (maskOf s.upd.blocks) 96) = some t → exec (.updateStatus fn mbx) s =
    .next (t.respond fn mbx rOk [s.upd.st.code, s.upd.blocks.length, if s.upd.st == .idle then 0 else (s.fwSlot s.target).ver])) ∧
  (∀ (fn mbx : Nat) (s : State), s.posted fn mbx 0x804 = true → s.upd.st = .receiving ∨ s.upd.st = .committed →
    let t := (s.setSlot s.target {}).setUpd .idle
    let t := { t with upd := { t.upd with blocks := [] }, sec := { t.sec with staged := false } }
    exec (.updateAbort fn mbx) s = .next (t.respond fn mbx rOk [])) ∧
  (∀ (fn mbx : Nat) (s : State), s.posted fn mbx 0x802 = true → s.notIn .receiving = none → s.svnCounter ≤ (s.fwSlot s.target).svn →
    let t := (s.accept fn mbx).setUpd .committing
    exec (.updateCommit fn mbx) s = .next { t with upd := { t.upd with owner := some (fn, mbx) } }) ∧
  (∀ (digests : List Nat) (s : State), s.upd.st = .committing → s.sec.trngFailed = false → s.updBlocked = none → s.complete = true →
    exec (.commitComplete true true digests) s = .next (s.committed digests)) ∧
  (∀ (digests : List Nat) (rules : Bool) (s : State), s.upd.st = .committing → s.sec.trngFailed = false → s.updBlocked = none →
    s.complete = true → exec (.commitComplete false rules digests) s =
    .next (((s.setSlot s.target { s.fwSlot s.target with st := 5 }).setUpd .idle).endOwner 0x802 rVerifyFail)) ∧
  (∀ (fn mbx : Nat) (s : State), s.posted fn mbx 0x803 = true → s.notIn .committed = none →
    (s.rdF .TIM_STATUS 0 8 1 = 1 || s.clk.entering || (s.pair.mirrored && s.role == roleActive)) = false →
    fwMajor (s.fwSlot s.target).ver = fwMajor (s.fwSlot s.upd.running).ver →
    let t := ((s.setSlot s.target { s.fwSlot s.target with st := 3 }).setUpd .activating).accept fn mbx
    exec (.updateActivate fn mbx) s = .next { t with upd := { t.upd with owner := some (fn, mbx), stage := .preparing } }) ∧
  (∀ (s : State), s.upd.stage = .preparing → s.quiescent = true → exec (.quiescentPoint) s = .next (s.openWindow false)) ∧
  (∀ (s : State), s.upd.stage = .preparing → let t := s.setSlot s.target { s.fwSlot s.target with st := 2 }
  exec .quiescentTimeout s = .next ({ t with upd := { t.upd with st := .committed, stage := .none } }.endOwner 0x803 rBusy).resumeSteps) ∧
  (∀ (s : State), s.upd.stage = .window → s.upd.reverse = false → exec (.handoverAdoptTimeout) s = .next (s.abortWindow)) ∧
  (∀ (s : State), s.upd.stage = .watching → s.upd.fatal = false → exec (.fwConfirm) s = .next ({ s with upd := { s.upd with
  st := .idle, stage := .none, active := s.upd.running, trial := false, trialBooted := false, confirmed := true, viaReset := false } }.updEvent 0 rOk)) ∧
  (∀ (s : State), s.upd.stage = .watching → s.upd.viaReset = false → exec (.rollbackTimer true) s = .next (s.openWindow true)) ∧
  (∀ (ok : Bool) (s : State), s.upd.stage = .watching → s.upd.viaReset = true → s.upd.fatal = false →
    let t := s.setSlot s.upd.running { s.fwSlot s.upd.running with st := 5, ok := false }
    let t := { t with upd := { t.upd with st := .idle, stage := .none } }
    exec (.rollbackTimer ok) s = .next ((t.updEvent 0 rHang).askChipDump 13)) ∧
  (∀ (s : State), s.upd.confirmed = true → s.upd.slotA.ok = true → s.upd.slotB.ok = true → s.pwr.warn = false →
    s.rdF .PWR_STATUS 0 8 1 ≠ 1 → 48000 ≤ s.pwr.mv → s.svnCounter < min s.upd.slotA.svn s.upd.slotB.svn → s.svnCounter < 64 →
    exec (.svnCounterBurn) s = .next ((s.wrF .SEC_SVN 0 0 7 (s.svnCounter + 1)).hwSet .SEC_EVT 0 16))

/-- Power queries and settings by command, leases, the limit, coolant and forecasts. (R364, R502, R499, R492, R525, R529, R494, R495, R496, R512)
Answers a next state for: pwrStatus, pwrSetPhases, pwrSetShare, pwrSetSafe, pwrOperatorCap, pwrThrottleRead, lifeQuery, leaseWrite,
leaseExpiry, leaseDecayEnd, limitTick, coolantWrite, coolantStale, trayFlagClear, powerForecast, forecastStale. -/
def Obligations.PowerCommands : Prop :=
  (∀ (fn mbx v : Nat) (s : State), s.posted fn mbx 0x500 = true → v = (if isPf0 fn then s.arg fn mbx 0 else fn) → 1 ≤ v → v ≤ 16 →
    exec (.pwrStatus fn mbx) s = .next (s.respond fn mbx rOk [(s.prt v).budget, s.partPower v / 1000, s.rdF .PWR_OP 0 0 16, s.rdF .FN_THR_ACTIVE v 0 12])) ∧
  (∀ (fn mbx : Nat) (s : State), s.posted fn mbx 0x501 = true →
    (((List.range 8).map (s.arg fn mbx)).any (fun x => decide (5 < x)) = false) → exec (.pwrSetPhases fn mbx) s =
    .next ({ s with pwr := { s.pwr with table := tabSet s.pwr.table fn ((List.range 8).map (s.arg fn mbx)) } }.syncMargin.respond fn mbx rOk [])) ∧
  (∀ (fn mbx : Nat) (s : State), s.posted fn mbx 0x502 = true → 1 ≤ s.arg fn mbx 0 → s.arg fn mbx 0 ≤ 16 →
    (s.prt (s.arg fn mbx 0)).bound = true →
    (((s.boundVfs.filter (· != s.arg fn mbx 0)).map fun x => (s.prt x).budget).sum + s.arg fn mbx 1 ≤ 1250) → let v := s.arg fn mbx 0
    let t := s.setPrt v { s.prt v with budget := s.arg fn mbx 1 }
    exec (.pwrSetShare fn mbx) s =
    .next ({ t with part := { t.part with stored := tabSet t.part.stored v (t.prt v) } }.respond fn mbx rOk [])) ∧
  (∀ (fn mbx : Nat) (s : State), s.posted fn mbx 0x503 = true → 420 ≤ s.arg fn mbx 0 → s.arg fn mbx 0 ≤ 1250 →
    exec (.pwrSetSafe fn mbx) s = .next ((s.wrF .PWR_SAFE 0 0 16 (s.arg fn mbx 0)).respond fn mbx rOk [])) ∧
  (∀ (fn mbx : Nat) (s : State), s.posted fn mbx 0x504 = true → s.arg fn mbx 0 = 0 ∨ (420 ≤ s.arg fn mbx 0 ∧ s.arg fn mbx 0 ≤ 1250) →
    exec (.pwrOperatorCap fn mbx) s = .next ((s.wrF .PWR_SAFE 0 16 16 (s.arg fn mbx 0)).respond fn mbx rOk [])) ∧
  (∀ (fn mbx : Nat) (s t : State), s.posted fn mbx 0x505 = true → isPf0 fn = true → s.arg fn mbx 0 ≤ 16 → 112 ≤ s.arg fn mbx 3 →
    s.bulkPut fn (s.arg64 fn mbx 1) (s.throttleBytes (s.arg fn mbx 0) (s.arg fn mbx 3)) = some t →
    exec (.pwrThrottleRead fn mbx) s = .next (t.respond fn mbx rOk [(s.throttleBytes (s.arg fn mbx 0) (s.arg fn mbx 3)).length])) ∧
  (∀ (fn mbx : Nat) (s : State), s.posted fn mbx 0x506 = true → exec (.lifeQuery fn mbx) s =
    .next (s.respond fn mbx rOk ((List.range 6).map s.lifeOf ++ [s.rdF .PWR_OP 0 16 4] ++ (List.range 4).flatMap fun d => lohi (s.rdN .PWR_VOFS d)))) ∧
  (∀ (watts dur seq : Nat) (s : State), watts < 65536 → 1 ≤ dur → dur ≤ 10000 → seq < 2 ^ 32 →
    s.pwr.lastSeq.all (seqGreater seq) = true → s.pwr.floor = false → let w := max 420 (min 1250 watts)
    let u := s.wrN .PWR_SB_LEASE 0 (watts + dur * 65536 + seq * 2 ^ 32)
    let t := { u with pwr := { u.pwr with
    leaseW := w, leaseEnd := s.time + dur * 1000000, leased := true, lastSeq := some seq, decayT := none, holdW := none, lateLease := none } }
    let t := ((t.wrN .PWR_LEASE_SEQ 0 seq).wrF .PWR_STATUS 0 0 2 1).hwSet .PWR_EVT 0 1
    let t := (t.wrF .PWR_SB_LSTAT 0 0 32 seq).wrF .PWR_SB_LSTAT 0 48 4 (1 + 8 * b2n (decide (watts < 420)))
    exec (.leaseWrite 8 watts dur seq) s = .next (t.inBand.post 0 0x0502 ([w, seq] ++ lohi (s.time + dur * 1000000)))) ∧
  (∀ (watts dur seq : Nat) (s : State), watts < 65536 → dur < 65536 → seq < 2 ^ 32 →
    dur = 0 ∨ 10000 < dur ∨ s.pwr.lastSeq.all (seqGreater seq) = false →
    let u := s.wrN .PWR_SB_LEASE 0 (watts + dur * 65536 + seq * 2 ^ 32)
    exec (.leaseWrite 8 watts dur seq) s =
    .next (((u.count .PWR_LEASE_REFUSED 0 1).hwSet .PWR_EVT 0 4 |>.wrF .PWR_SB_LSTAT 0 50 1 1).inBand)) ∧
  (∀ (s : State), s.pwr.leased = true → s.safeW < s.pwr.leaseW →
    let t := { s with pwr := { s.pwr with leased := false, decayW := s.pwr.leaseW, decayT := some s.time, holdW := none } }
    let t := (t.wrF .PWR_STATUS 0 0 2 2).hwSet .PWR_EVT 0 2
    exec .leaseExpiry s =
    .next ((t.wrF .PWR_SB_LSTAT 0 48 2 2).post 0 0x0502 ([s.pwr.leaseW, s.rdN .PWR_LEASE_SEQ 0] ++ lohi s.pwr.leaseEnd))) ∧
  (∀ (s : State), s.pwr.decayT.isNone = false → exec (.leaseDecayEnd) s =
    .next (({ s with pwr := { s.pwr with decayT := none } }.wrF .PWR_STATUS 0 1 1 0).wrF .PWR_SB_LSTAT 0 49 1 0)) ∧
  (∀ (s : State), s.pwr.stale = false →
    let t := { s with pwr := { s.pwr with limit := s.limitNow.1, bind := s.limitNow.2 } }.wrN .PWR_LIMIT 0 (s.limitNow.1 + s.limitNow.2 * 65536)
    exec .limitTick s = .next (t.wrF .PWR_SB_DEMAND 0 48 16 s.limitNow.1)) ∧
  (∀ (i o f : Nat) (m h : Bool) (s : State), i < 65536 → o < 65536 → f < 65536 →
    let u := s.wrN .PWR_SB_COOLANT 0 (i + o * 65536 + f * 2 ^ 32 + b2n m * 2 ^ 48 + b2n h * 2 ^ 49)
    let t := (u.wrF .PWR_STATUS 0 4 1 0).wrF .PWR_STATUS 0 7 2 (b2n m + 2 * b2n h)
    exec (.coolantWrite 8 i o f m h) s = .next ((t.setCoolant (coolTemp i) (coolTemp o) f).updGuard)) ∧
  (∀ (s : State), exec (.coolantStale) s = .next ((s.wrF .PWR_STATUS 0 4 1 1).setCoolant 720 (signed 16 (s.rdF .PWR_COOLANT 0 16 16)) 0)) ∧
  (∀ (s : State), exec (.trayFlagClear) s = .next (s.wrF .PWR_STATUS 0 7 2 0)) ∧
  (∀ (s : State), let f1 := min 1250 (s.forecast 0 1000000000)
  let f10 := max f1 (min 1250 (s.peakDraw 10000000000))
  let t := { s with pwr := { s.pwr with stale := false } }.wrN .PWR_FORECAST 0 (f1 + f10 * 65536)
  exec (.powerForecast none) s = .next ((t.wrF .PWR_SB_DEMAND 0 16 32 (f1 + f10 * 65536)).flowRequest (s.forecast 200000000 500000000))) ∧
  (∀ (d op : Nat) (s : State), d < 4 → op < 6 → let f1 := min 1250 (s.forecast 0 1000000000)
  let f10 := max f1 (min 1250 (s.peakDraw 10000000000))
  let t := { s with pwr := { s.pwr with stale := false } }.wrN .PWR_FORECAST 0 (f1 + f10 * 65536)
  let t := (t.wrF .PWR_SB_DEMAND 0 16 32 (f1 + f10 * 65536)).flowRequest (s.forecast 200000000 500000000)
  exec (.powerForecast (some (d, op))) s =
  .next (if s.phaseSoon d op && op < tabGet t.pwr.granted 5 d && !t.pwr.floor && !t.pwr.trip && !t.pwr.supply
  then { t with pwr := { t.pwr with preset := tabSet t.pwr.preset d (op, t.time) } } else t)) ∧
  (∀ (s : State), exec (.forecastStale) s = .next (({ s with pwr := { s.pwr with stale := true } }.wrN .PWR_FORECAST 0 (s.pwr.limit * 65537)).wrF .PWR_SB_DEMAND 0 16 32 (s.pwr.limit * 65537)))

/-- The duty tick, operating points, junction scans, trips and supply stops, and the ageing of the dies. (R498, R500, R505, R506, R515, R517, R518, R519, R524, R527, R528, R530)
Answers a next state for: dutyTick, throttleEndTimeout, opGrantChange, railPresetExpiry, junctionScan, tripExit, tripHoldTimeout,
pwrWarnAssert, pwrWarnDeassert, warnFloorEnd, inputOutOfRange, supplyStopExit, supplyExcursion, marginMeasure, weeklyCheck,
rainflowSample. -/
def Obligations.ActuatorAndTripCommands : Prop :=
  (∀ (draw isl amps : Nat) (ps : List Nat) (s : State), ps.length = 64 → amps ≤ 3000 →
    let t := { s with pwr := { s.pwr with powerI := ps.zipIdx.map fun (e : Nat × Nat) => (e.2, e.1) } }
    let sp := t.split (s.pwr.limit * 1000 - (draw - isl))
    let al := t.allocs sp
    let t := { t with pwr := { t.pwr with
    budget := (List.range 64).map fun i => (i, nextBudget (tabGet s.pwr.budget 0 i) (ps[i]?.getD 0) (tabFind al i)) } }.noteMicro
    let t := sp.foldl (fun (t : State) e => t.wrN .PWR_PH_SHARE e.1 (min 65535 (e.2 / 1000) + (t.prt e.1).budget * 65536)) t
    let t := (List.range 64).foldl (fun t i => t.islandDuty 0 i) t
    let t := (List.range 17).foldl (fun t f => t.countReasons f) t
    let t := (List.range 64).foldl (fun t i => t.endMicro i) t
    exec (.dutyTick draw isl ps amps) s = .next (((t.averageDraw draw isl).wrN .PWR_INPUT 0 (min 65535 s.pwr.mv + amps * 65536)).updGuard)) ∧
  (∀ (fn r : Nat) (s : State), fn ≤ 16 → 1 ≤ r → r ≤ 12 → (tabFind s.pwr.outSince (thrKey fn r)).isNone = false →
    let t := s.thrEntry fn r true (tabGet s.pwr.thrMask 0 (thrKey fn r))
    exec (.throttleEndTimeout fn r) s = .next { t with pwr := { t.pwr with
    outSince := tabDel t.pwr.outSince (thrKey fn r), thrMask := tabDel t.pwr.thrMask (thrKey fn r) } }) ∧
  (∀ (d op : Nat) (x : Nat × Nat) (s : State), d < 4 → op < 6 → s.newSlow d op = some x →
    (op = tabGet s.pwr.granted 5 d || s.pdmRuns d || (decide (op < tabGet s.pwr.granted 5 d) && (s.pwr.floor || s.pwr.trip || s.pwr.supply))) = false → let t := if x.1 = (tabGet s.pwr.slow (0, 0) d).1 then s else s.clearHist d
    let t := ({ t with pwr := { t.pwr with slow := tabSet t.pwr.slow d x, preset := tabDel t.pwr.preset d } }.setOp d op).syncMargin
    exec (.opGrantChange d op) s = .next ((t.boundVfs.filter fun v => t.hasActive v && (t.diesOf v).contains d).foldl (fun t v =>
    if (t.diesOf v).all fun d => tabGet t.pwr.granted 5 d == t.requestedOp d then t.wrN .PWR_PH_SWITCH_T v t.time else t) t)) ∧
  (∀ (d : Nat) (s : State), d < 4 → exec (.railPresetExpiry d) s =
    .next ({ s with pwr := { s.pwr with preset := tabDel s.pwr.preset d } })) ∧
  (∀ (l : List Int) (hub media : Int) (s : State), l.length = 64 →
    let t := (l.zipIdx.foldl (fun (t : State) e => t.junctionIsland e.2 e.1) s).junctionHub (max hub media)
    let dies := ((List.range 4).map fun d => hottest ((l.drop (16 * d)).take 16)) ++ [hub, media]
    let t := dies.zipIdx.foldl (fun t e => t.wrF .PWR_TJ 0 (8 * e.2) 8 (unsignedOf 8 e.1)) t
    let t := { t with pwr := { t.pwr with coolT := if hottest dies ≤ 90 then some (t.pwr.coolT.getD t.time) else none } }
    exec (.junctionScan l hub media) s = .next ((if 115 ≤ hottest dies && !t.pwr.trip then t.tripNow false else t).updGuard)) ∧
  (∀ (failed : List Nat) (s : State), (failed.all (fun k => decide (k < 64 * 66)) = true) → s.pwr.trip = true → 500 ≤ s.limitNow.1 →
    exec (.tripExit failed) s = .next (({ s with pwr := { s.pwr with trip := false } }.wrF .PWR_STATUS 0 5 1 0).tripOver failed)) ∧
  (∀ (s : State), s.pwr.supply = false → s.pwr.trip = true → exec (.tripHoldTimeout) s = .next (s.endHeld rThermal)) ∧
  (∀ (s : State), let t := { s with pwr := { s.pwr with warn := true, warnMin := true, floor := true } }.wrF .PWR_STATUS 0 2 1 1
  exec .pwrWarnAssert s = .next ((List.range 64).foldl (fun (t : State) i => (t.setDuty i (max 56 (tabGet t.pwr.inForce 0 i))).setReason i thrSupply true)
  (t.hwSet .PWR_EVT 0 8)).updGuard) ∧
  (∀ (s : State), let t := { s with pwr := { s.pwr with warn := false } }
  exec .pwrWarnDeassert s = .next (if s.pwr.warnMin then t else t.floorEnd)) ∧
  (∀ (s : State), let t := { s with pwr := { s.pwr with warnMin := false } }
  exec .warnFloorEnd s = .next (if s.pwr.warn then t else t.floorEnd)) ∧
  (∀ (mv : Nat) (s : State), mv < 44000 ∨ 60000 < mv → mv < 65536 → s.pwr.supply = false → exec (.inputOutOfRange mv) s =
    .next (({ s with pwr := { s.pwr with mv := mv } }.wrF .PWR_INPUT 0 0 16 mv).tripNow true)) ∧
  (∀ (mv : Nat) (failed : List Nat) (s : State), (failed.all (fun k => decide (k < 64 * 66)) = true) → s.pwr.supply = true → 48000 ≤ mv →
    mv ≤ 58000 → s.pwr.warn = false → s.pwr.trip = false → exec (.supplyStopExit mv failed) s =
    .next ((({ s with pwr := { s.pwr with supply := false, mv := mv } }.wrF .PWR_INPUT 0 0 16 mv).wrF .PWR_STATUS 0 6 1 0).tripOver failed)) ∧
  (∀ (mv : Nat) (s : State), 58000 < mv → mv ≤ 60000 → exec (.supplyExcursion mv) s =
    .next (({ s with pwr := { s.pwr with mv := mv } }.wrF .PWR_INPUT 0 0 16 mv).log 4 0x11 0 0 0x62 0x1F 0 0 mv 0)) ∧
  (∀ (d : Nat) (taps : List Nat) (s : State), d < 4 → taps.length = 128 → (taps.all (fun v => decide (v < 4096)) = true) →
    let op := tabGet s.pwr.granted 5 d
    let t := taps.zipIdx.foldl (fun (t : State) e =>
    t.wrN (pdmReg (e.2 % 8)) (16 * d + e.2 / 8) (e.1 + 4096 * (op % 8) + 32768)) s
    let t := (List.range 16).foldl (fun t k => (t.wrF .ISL_PDM_CTL (16 * d + k) 0 1 0).hwSet .ISL_EVT (16 * d + k) 64) t
    let low := taps.foldl min (tabGet s.pwr.lowMargin 0x3FF (d * 8 + op))
    exec (.marginMeasure d taps) s =
    .next ({ t with pwr := { t.pwr with lowMargin := tabSet t.pwr.lowMargin (d * 8 + op) low } }.showMargin d)) ∧
  (∀ (a b c : Bool) (s : State), let t := (List.range 4).foldl (fun (t : State) d => (List.range 6).foldl (fun t k => t.weeklyPoint d k) t) s
  let t := { t with pwr := { t.pwr with lowMargin := [] }, pln := { t.pln with rateOk := b2n a + 2 * b2n b + 4 * b2n c } }
  exec (.weeklyCheck a b c) s = .next ((List.range 4).foldl State.showMargin t).syncMargin) ∧
  (∀ (l : List Int) (hh : List Nat) (s : State), l.length = 6 → (hh.all (fun d => decide (d < 6)) = true) →
    let t := l.zipIdx.foldl (fun (t : State) e => t.lifeSample e.2 e.1 (hh.contains e.2)) s
    exec (.rainflowSample l hh) s = .next (if t.pwr.lifeT + 3600000000000 ≤ t.time then t.keepLife else t))

/-- Error reports, the hang scan, watchdogs, resets, replays and power-cycle requests. (R542, R549, R553, R554, R556, R557, R558, R562, R564, R565, R569)
Answers a next state for: errorReport, hangScan, coreProgressWatchdog, unitStopWatchdog, videoEngineWatchdog, mcpWatchdog, engineReset,
powerCycleRerequest, suspectReplayStart, suspectReplayEnd, selftest, chipReset, rasQuery. -/
def Obligations.ErrorAndResetCommands : Prop :=
  (∀ (r : Rep) (s : State), r.die < 7 → r.unit ≤ 0x1B → r.inst < 256 → r.sub < 256 → (classSevs r.cls).contains r.sev = true →
    r.cls ≠ 0x39 → exec (.errorReport r) s = .next (s.report r)) ∧
  (∀ (r : Rep) (s : State), r.die < 7 → r.unit ≤ 0x1B → r.inst < 256 → r.sub < 256 → r.sev = 3 → r.cls = 0x39 →
    exec (.errorReport r) s = .next ((s.report r).askChipDump 12)) ∧
  (∀ (moved : List Nat) (s : State), exec (.hangScan moved) s = .next (if s.rdF .RAS_STATUS 0 0 1 = 1 then s.hangScan moved else s)) ∧
  (∀ (g : Nat) (s u : State), g < 32768 → (s.th g).st = .run → s.ctxHangs (s.th g).ctx = true →
    u = s.watchdog.logCore (thIsl g) (thCore g % 64) 0x31 2 0 0 (s.th g).ctx → u.ras.replaying ≠ some (s.th g).ctx →
    exec (.coreProgressWatchdog g) s = .next (u.stopCtx (s.th g).ctx .watchdog (some (srcIsland (thIsl g))))) ∧
  (∀ (src : Nat) (s : State), isEngine src = true → (s.fab.ctxs.any (fun e => e.2.why.isSome && s.worksOn src e.1 e.2) = true) →
    let t := s.watchdog.log (bits src 0 3) (bits src 3 5) (bits src 8 8) 0 0x31 (s.srcOwner src) 2 0 0 0
    exec (.unitStopWatchdog src) s = .next ((t.askReset (.engine src 3)).wantDump 1)) ∧
  (∀ (eng : Nat) (s : State), eng < 12 → (s.vid.streams.any (fun e => e.2.eng == eng && !e.2.queue.isEmpty) = true) →
    let src := srcVideo eng
    let t := s.watchdog.log 5 (bits src 3 5) (bits src 8 8) 0 0x50 (s.srcOwner src) 2 0 0 0
    exec (.videoEngineWatchdog eng) s = .next ((t.askReset (.engine src 3)).wantDump 1)) ∧
  (∀ (s : State), s.upd.stage ≠ .window → s.fnState 0 ≠ fnBooting → exec (.mcpWatchdog) s =
    .next ((s.watchdog.log 4 9 0 0 0x32 0x1F 3 0 0 0).askChip 10)) ∧
  (∀ (src cause : Nat) (failed : List Nat) (s : State), isEngine src = true → (failed.all (fun k => decide (k < 64 * 66)) = true) →
    s.ras.resets.contains (.engine src cause) = true → (engineCounted cause && s.dumpHolds 1) = false →
    exec (.engineReset src cause failed) s = .next (s.dueEngine src cause failed)) ∧
  (∀ (s : State), s.rdF .RAS_STATUS 0 4 1 ≠ 0 →
    let t := { s with ras := { s.ras with cycSeq := s.ras.cycSeq + 1 }, brd := { s.brd with ibi := s.brd.ibi + 1 } }
    exec .powerCycleRerequest s = .next ((t.wrF .RAS_SB_CYCLE 0 32 32 (s.ras.cycSeq + 1)).hwSet .RAS_EVT 0 2048)) ∧
  (∀ (c : Nat) (l : List Nat) (s : State), s.ras.replaying = none → s.ras.suspects = c :: l → exec (.suspectReplayStart) s =
    .next (s.startReplay c)) ∧
  (∀ (c : Nat) (s : State), s.ras.replaying = some c → s.ras.replayHung = false → exec (.suspectReplayEnd) s =
    .next ({ s with ras := { s.ras with replaying := none, replayHung := false, suspects := s.ras.suspects.filter (· != c) } }.replaysOver)) ∧
  (∀ (fn mbx i : Nat) (failed : List Nat) (s : State), (failed.all (fun k => decide (k < 64 * 66)) = true) →
    s.posted fn mbx 0x606 = true → s.arg fn mbx 0 = i → i < 64 → exec (.selftest fn mbx failed) s =
    .next (((s.accept fn mbx).engineReset (srcIsland i) 5 true failed).cmdDone fn mbx 0x606 rOk [(failedOn failed i).length])) ∧
  (∀ (fn mbx : Nat) (s : State), s.posted fn mbx 0x607 = true → exec (.chipReset fn mbx) s = .next ((s.accept fn mbx).askChip 5)) ∧
  (∀ (fn mbx : Nat) (s : State), s.posted fn mbx 0x608 = true → exec (.rasQuery fn mbx) s =
    .next (s.respond fn mbx rOk [(s.view .RAS_LADDER 0).toNat, s.rdN .RAS_CTX_RESETS 0, s.rdN .RAS_ENG_RESETS 0, s.rdN .RAS_PART_RESETS 0, s.rdN .RAS_OOS 0]))

/-- The error log, policies, page state entries and crash dumps by command. (R538, R561, R162, R567, R568, R569, R570, R363)
Answers a next state for: logRead, logClear, rasSetPolicy, pageStateRead, crashDumpStart, dumpUnitTimeout, dumpDeadline, dumpWriteDone,
dumpRead, dumpClear. -/
def Obligations.LogAndDumpCommands : Prop :=
  (∀ (fn mbx : Nat) (s t u : State), s.posted fn mbx 0x600 = true → t = s.logRelease (logAhead (s.arg fn mbx 0) (s.rdN .RAS_LOG_ACK 0)) →
    t.bulkPut fn (s.arg64 fn mbx 2) ((t.ras.log.take (s.arg fn mbx 1)).flatMap LogEnt.bytes) = some u →
    let n := (t.ras.log.take (s.arg fn mbx 1)).length
    exec (.logRead fn mbx) s = .next (u.respond fn mbx rOk [n, (u.rdN .RAS_LOG_ACK 0 + n) % 2 ^ 32])) ∧
  (∀ (fn mbx : Nat) (s : State), s.posted fn mbx 0x601 = true → exec (.logClear fn mbx) s =
    .next ((s.logRelease s.logHeld).respond fn mbx rOk [])) ∧
  (∀ (fn mbx : Nat) (s : State), s.posted fn mbx 0x604 = true → [0, 1, 2, 3, 4, 8, 9, 10].contains (s.arg fn mbx 0) = true →
    1 ≤ s.arg fn mbx 1 → s.arg fn mbx 1 ≤ 65535 → 1 ≤ s.arg fn mbx 2 → s.arg fn mbx 2 ≤ 604800 → exec (.rasSetPolicy fn mbx) s =
    .next ({ s with ras := { s.ras with policy := tabSet s.ras.policy (s.arg fn mbx 0) (s.arg fn mbx 1, s.arg fn mbx 2) } }.respond fn mbx rOk [])) ∧
  (∀ (fn mbx : Nat) (s t : State), s.posted fn mbx 0x605 = true → s.arg fn mbx 0 + s.arg fn mbx 1 ≤ 1835008 →
    (s.bulkPut fn (s.arg64 fn mbx 2) ((List.range (s.arg fn mbx 1)).flatMap fun k => (s.page (s.arg fn mbx 0 + k)).bytes) = some t) →
    exec (.pageStateRead fn mbx) s = .next (t.respond fn mbx rOk [s.arg fn mbx 1])) ∧
  (∀ (trigger domain : Nat) (s : State), trigger < 2 ^ 32 → 1 ≤ domain → domain ≤ 4 → s.upd.stage ≠ .window →
    s.ras.needDump.contains domain = true → exec (.crashDumpStart trigger domain) s = .next (s.triggerDump trigger domain)) ∧
  (∀ (src k : Nat) (s : State), src < 2 ^ 24 → s.ras.collecting = some k → exec (.dumpUnitTimeout src) s =
    .next (s.updDump k fun d => { d with sections := d.sections ++ [(src, 1)], partialDump := true })) ∧
  (∀ (left : List Nat) (s : State), (left.all (fun u => decide (u < 2 ^ 24)) = true) → exec (.dumpDeadline left) s =
    .next (s.endCollect left)) ∧
  (∀ (k : Nat) (s : State), k < 4 → (tabGet s.ras.dumps {} k).st = 2 → exec (.dumpWriteDone k) s =
    .next ((s.updDump k fun d => { d with st := 3 }).hwSet .RAS_EVT 0 512)) ∧
  (∀ (fn mbx : Nat) (s t u : State), s.posted fn mbx 0x602 = true → s.arg fn mbx 0 < 4 →
    (tabGet s.ras.dumps {} (s.arg fn mbx 0)).st = 3 → t = s.accept fn mbx →
    t.bulkPut fn (s.arg64 fn mbx 1) ((List.range (min (s.arg fn mbx 3) (tabGet s.ras.dumps {} (s.arg fn mbx 0)).len)).map (tabGet s.ras.dumps {} (s.arg fn mbx 0)).byte) = some u → exec (.dumpRead fn mbx) s = .next (u.cmdDone fn mbx 0x602 rOk [min (s.arg fn mbx 3) (tabGet s.ras.dumps {} (s.arg fn mbx 0)).len])) ∧
  (∀ (fn mbx : Nat) (s : State), s.posted fn mbx 0x603 = true → s.arg fn mbx 0 < 4 → (tabGet s.ras.dumps {} (s.arg fn mbx 0)).st = 3 →
    exec (.dumpClear fn mbx) s = .next ((s.updDump (s.arg fn mbx 0) fun _ => {}).respond fn mbx rOk []))

/-- Sector reads and writes, retries and retraining, data and refresh rates, page migration and tests, the patrol and the SRAM scrub. (R155, R164, R148, R151, R153, R173, R176, R178, R179, R180)
Answers a next state for: plainSectorRead, sectorReread, plainSectorWrite, edcRetry, channelRetrainDone, dataRateChoice,
refreshRateChange, pageMigrate, pageTest, patrolVisit, sramScrubVisit. -/
def Obligations.PlainCommands : Prop :=
  (∀ (psn : Nat) (x : Seen) (who : Consumer) (s : State), psn < sectors → seenOk x = true → (s.page (psn / 256)).st = .written →
    s.chanTrains (psnChannel psn) = false → s.sectorBad psn x = false → exec (.plainSectorRead psn who x) s =
    .next ((s.readGood psn (s.consumerCtx who) (decide (badBytes x 0 + badBytes x 1 ≠ 0)) x).1)) ∧
  (∀ (psn : Nat) (x : Seen) (who : Consumer) (s : State), psn < sectors → seenOk x = true → (s.page (psn / 256)).st = .written →
    s.chanTrains (psnChannel psn) = false → s.sectorBad psn x = true → exec (.plainSectorRead psn who x) s =
    .next ({ s with pln := { s.pln with rereads := s.pln.rereads ++ [(psn, who)] } })) ∧
  (∀ (psn : Nat) (x : Seen) (e : Nat × Consumer) (s : State), psn < sectors → seenOk x = true →
    (s.pln.rereads.find? (fun e => e.1 == psn) = some e) → s.chanTrains (psnChannel psn) = false → (s.page (psn / 256)).st = .written →
    let t := { s with pln := { s.pln with rereads := s.pln.rereads.erase e } }
    exec (.sectorReread psn x) s = .next (
    if t.sectorBad psn x then t.sectorUe psn x (s.consumerCtx e.2) else (t.readGood psn (s.consumerCtx e.2) true x).1)) ∧
  (∀ (fn psn first : Nat) (data : List Byte) (kv : Bool) (x y : Seen) (s : State), fn ≤ 16 → psn < sectors → first + data.length ≤ 256 →
    seenOk x = true → seenOk y = true → (s.page (psn / 256)).owner = ownerCode fn → (s.page (psn / 256)).migrating = false →
    (s.page (psn / 256)).st = .unwritten ∨ (s.page (psn / 256)).st = .written ∧ (data.length = 256 ∨ (s.readSector psn 0 x y).2 = true) →
    s.chanTrains (psnChannel psn) = false → s.chanFailed (psnChannel psn) = false → data ≠ [] →
    let t := if (s.page (psn / 256)).st == .unwritten || data.length = 256 then s else (s.readSector psn 0 x y).1
    exec (.plainSectorWrite fn psn first data kv x y) s = .next (t.plainPut (psn / 256) (psn % 256 * 256 + first) kv data)) ∧
  (∀ (c : Nat) (s : State), c < 32 → s.rdF .PLN_CH_STATUS c 16 2 = 0 → let t := (s.count .PLN_EDC_RETRY 0 1).count .PLN_CH_EDC c 1
  exec (.edcRetry c true) s = .next { t with pln := { t.pln with edcTries := tabSet t.pln.edcTries c 0 } }) ∧
  (∀ (c : Nat) (s : State), c < 32 → s.rdF .PLN_CH_STATUS c 16 2 = 0 → tabGet s.pln.edcTries 0 c = 3 →
    let t := (s.count .PLN_EDC_RETRY 0 1).count .PLN_CH_EDC c 1
    let t := { t with pln := { t.pln with edcTries := tabSet t.pln.edcTries c 0 } }
    exec (.edcRetry c false) s =
    .next ((t.wrF .PLN_CH_STATUS c 17 1 1 |>.wrF .PLN_STATUS 0 4 1 1).log (c / 8) 6 c 0xFF 0x16 0x1F 1 0 0 0)) ∧
  (∀ (c : Nat) (s : State), c < 32 → s.rdF .PLN_CH_STATUS c 17 1 ≠ 0 → let t := (s.wrF .PLN_CH_STATUS c 17 1 0).count .PLN_CH_RETRAIN c 1
  let t := if (List.range 32).any fun c => t.rdF .PLN_CH_STATUS c 17 1 == 1 then t else t.wrF .PLN_STATUS 0 4 1 0
  exec (.channelRetrainDone c true) s = .next (t.hwSet .PLN_EVT 0 8)) ∧
  (∀ (l : List (Nat × Nat × Nat × Nat)) (s : State), chansOk l = true → (l.map (·.1)).foldl max 0 ≤ 88 →
    15 ≤ (l.map (·.2.1)).foldl min 255 → 15 ≤ (l.map (·.2.2.1)).foldl min 255 → s.pln.rateOk = 7 → s.pln.rate = 0 →
    let t := { s with pln := { s.pln with hotSince := none, warmSince := none, coolSince := some (s.pln.coolSince.getD s.time), rate := 0, tempRate := false } }
    let t := (t.wrF .PLN_STATUS 0 8 8 ((l.map (·.1)).foldl max 0)).putRate
    exec (.dataRateChoice l) s =
    .next (((l.zipIdx.foldl (fun (t : State) e => t.showChan e.2 e.1) t).setReasons
    (l.zipIdx.foldl (fun (t : State) e => t.showChan e.2 e.1) t).boundIslands thrMemTemp false).syncMargin)) ∧
  (∀ (hot : Nat) (s : State), hot < 256 → exec (.refreshRateChange hot) s =
    .next (if 85 < hot then s.wrF .PLN_STATUS 0 2 1 1 else if hot ≤ 80 then s.wrF .PLN_STATUS 0 2 1 0 else s)) ∧
  (∀ (p : Nat) (reads : List (Nat × Seen × Seen)) (s : State), p < 1802240 →
    (reads.all (fun e => decide (e.1 < 256) && seenOk e.2.1 && seenOk e.2.2) = true) → tabFind s.pln.migr p = none →
    s.ceThresh < (s.page p).ce → (s.page p).st = .written ∨ (s.page p).st = .unwritten → (s.page p).owner ≠ 0 → (s.page p).owner ≠ 0x1F →
    exec (.pageMigrate p reads) s = .next (s.migrateStart p)) ∧
  (∀ (p q : Nat) (reads : List (Nat × Seen × Seen)) (s : State), p < 1835008 →
    (reads.all (fun e => decide (e.1 < 256) && seenOk e.2.1 && seenOk e.2.2) = true) → tabFind s.pln.migr p = some q →
    ((List.range 256).any (fun k => s.chanTrains (plainChannel p k)) = false) → exec (.pageMigrate p reads) s =
    .next (s.migrateEnd p q reads)) ∧
  (∀ (p v w : Nat) (s t u : State), p < 1835008 → (s.page p).owner = 0 → (s.page p).st = .unwritten → s.pln.noTest.contains p = false →
    s.pln.freeUe.contains p = true → s.drawEpoch = some (w, t) →
    ({ t with pln := { t.pln with freeUe := t.pln.freeUe.erase p, data := memClear t.pln.data (p * 65536) 65536, secEpoch := tabSetAll t.pln.secEpoch ((List.range 256).map (p * 256 + ·)) w, secFmt := tabSetAll t.pln.secFmt ((List.range 256).map (p * 256 + ·)) 0 } } : State).drawEpoch = some (v, u) → exec (.pageTest p false) s = .next ((u.setPage p { epoch := v }).syncBindable)) ∧
  (∀ (k : Nat) (x y : Seen) (s : State), k < 256 → seenOk x = true → seenOk y = true → s.rdF .PLN_STATUS 0 3 1 ≠ 1 →
    (s.page (s.rdN .PLN_PATROL_POS 0)).st ≠ .retired → (s.page (s.rdN .PLN_PATROL_POS 0)).st ≠ .quarantined →
    s.chanTrains (psnChannel (s.rdN .PLN_PATROL_POS 0 * 256 + k)) = false →
    let t := s.patrolSector (s.rdN .PLN_PATROL_POS 0 * 256 + k) x y
    let l := if t.pln.patrolDone.contains k then t.pln.patrolDone else k :: t.pln.patrolDone
    exec (.patrolVisit k x y) s = .next (if l.length = 256 then t.patrolNext else { t with pln := { t.pln with patrolDone := l } })) ∧
  (∀ (k : Nat) (x y : Seen) (s : State), k < 256 → seenOk x = true → seenOk y = true → s.rdF .PLN_STATUS 0 3 1 ≠ 1 →
    (s.page (s.rdN .PLN_PATROL_POS 0)).st = .retired → exec (.patrolVisit k x y) s = .next (s.patrolNext)) ∧
  (∀ (i c a k : Nat) (s : State), i < 64 → c < 64 → a < lsBytes → s.rdF .TIM_STATUS 0 8 1 ≠ 1 →
    exec (.sramScrubVisit i (some c) a (.correctable k)) s = .next (s.sramCorrected i c a 0 false)) ∧
  (∀ (i a : Nat) (s : State), i < 64 → a < isBytes → s.rdF .TIM_STATUS 0 8 1 ≠ 1 → exec (.sramScrubVisit i none a .none) s = .next (s))

/-- Pair commands, forming, mirroring, digests, known-answer tests and resynchronisation. (R364, R577, R576, R578, R579, R582, R585, R587, R588, R589, R591, R599)
Answers a next state for: pairStatus, pairSetMode, modeChangeApply, pairTakeback, pairResync, pairHello, pairLinkLost, mirrorInput,
mirrorCtl, digest, digestKeepExpiry, outputHoldTimeout, knownAnswerTestDone, katResultTimeout, resyncBulk, resyncHoldTimeout. -/
def Obligations.PairMirrorCommands : Prop :=
  (∀ (fn mbx : Nat) (s : State), s.posted fn mbx 0x900 = true → exec (.pairStatus fn mbx) s =
    .next (s.respond fn mbx rOk [s.rdF .TWN_PAIR_STATUS 0 0 1, s.role, s.rdF .TWN_LOCK_MV 0 0 12, s.rdN .TWN_DIVERGE 0, (maskBits (s.rdF .TWN_STATUS 0 16 8) 8).length])) ∧
  (∀ (fn mbx : Nat) (s : State), s.posted fn mbx 0x901 = true → s.arg fn mbx 0 ≤ 1 → s.paired = true →
    fwMajor s.pair.peerFw = fwMajor (s.fwSlot s.upd.running).ver → s.changing = false → let t := (s.accept fn mbx).twinSend 4
    exec (.pairSetMode fn mbx) s = .next { t with pair := { t.pair with modeNext := some (s.arg fn mbx 0 == 1), modeCmd := some (fn, mbx) } }) ∧
  (∀ (m : Bool) (s : State), s.pair.modeNext = some m → s.pair.modeCmd = none → s.atBoundary = true → exec (.modeChangeApply) s =
    .next (({ s with pair := { s.pair with modeNext := none, modeCmd := none } }.setMode m).resumeSteps)) ∧
  (∀ (fn mbx : Nat) (s : State), s.posted fn mbx 0x902 = true → s.arg fn mbx 0 = 0 ∨ (s.arg fn mbx 0 = 1 ∧ s.degraded = false) →
    exec (.pairTakeback fn mbx) s = .next (((s.wrF .TWN_PAIR_STATUS 0 11 1 (s.arg fn mbx 0)).twinSend 4).respond fn mbx rOk [])) ∧
  (∀ (fn mbx : Nat) (s : State), s.posted fn mbx 0x903 = true → s.paired = true → let t := (s.accept fn mbx).wrF .TWN_PAIR_STATUS 0 6 1 0
  let t := { t with pair := { t.pair with mism := [] } }.wrN .TWN_DIVERGE_WIN 0 0
  exec (.pairResync fn mbx) s = .next (
  if !t.pair.mirrored || t.boundVfs.isEmpty then t.cmdDone fn mbx 0x903 rOk []
  else { t with pair := { t.pair with resyncCmd := some (fn, mbx) } }.resyncAll)) ∧
  (∀ (fw serial hash : Nat) (sec : Bool) (s : State), s.rdF .TWN_STATUS 0 0 2 = 2 → fwMajor fw = fwMajor (s.fwSlot s.upd.running).ver →
    let t := { s with
    pair := { s.pair with keyGen := s.pair.keyGen + 1, peerFw := fw, partnerYielded := false }
    sec := { s.sec with partnerCert := hash } }
    let t := (t.wrF .TWN_PAIR_STATUS 0 5 1 1).hwSet .TWN_PAIR_EVT 0 64
    let t := if t.brd.strapSec == sec && t.rdF .TWN_PAIR_STATUS 0 12 1 == 0 then t.strapConflict serial else t
    exec (.pairHello true true fw serial hash sec) s = .next t.resyncAll) ∧
  (∀ (s : State), s.paired = true → exec (.pairLinkLost) s =
    .next (((s.wrF .TWN_PAIR_STATUS 0 5 1 0).hwSet .TWN_PAIR_EVT 0 128).partnerTimeLost)) ∧
  (∀ (fn op : Nat) (ws : List Nat) (s : State), fn ≤ 16 → ws.length ≤ 63 → s.pair.mirrored = true → s.role = roleStandby →
    exec (.mirrorInput fn op ws) s = .next ({ s with pair := { s.pair with inputs := s.pair.inputs ++ [(fn, op, ws)] } }.loadMirror)) ∧
  (∀ (m : Bool) (s : State), exec (.mirrorCtl (.mode m)) s = .next ({ s with pair := { s.pair with modeNext := some m } })) ∧
  (∀ (on : Bool) (s : State), exec (.mirrorCtl (.takeback on)) s = .next (s.wrF .TWN_PAIR_STATUS 0 11 1 (b2n on))) ∧
  (∀ (fn l seed res : Nat) (s : State), 1 ≤ fn → fn ≤ 16 → exec (.mirrorCtl (.admission fn l seed res)) s =
    .next ({ s with pair := { s.pair with admits := tabUpd s.pair.admits [] fn fun (x : List (Nat × Nat × Nat)) => x ++ [(l, seed, res)] } })) ∧
  (∀ (d : Dig) (s : State), 1 ≤ d.fn → d.fn ≤ 16 → s.pair.mirrored = true →
    (s.pair.local_.find? (fun x => digKey x == digKey d) = none) →
    (s.pair.held.find? (fun h => digKey h.dig == digKey d && !h.diverged) = none) → exec (.digest d) s =
    .next ({ s with pair := { s.pair with early := s.pair.early ++ [{ d with time := s.time }] } })) ∧
  (∀ (d : Dig) (h : HeldOut) (s : State), 1 ≤ d.fn → d.fn ≤ 16 → s.pair.mirrored = true →
    (s.pair.local_.find? (fun x => digKey x == digKey d) = none) →
    (s.pair.held.find? (fun h => digKey h.dig == digKey d && !h.diverged) = some h) → s.role ≠ roleStandby → exec (.digest d) s =
    .next (s.meetHeld h d)) ∧
  (∀ (s : State), exec (.digestKeepExpiry) s =
    .next ({ s with pair := { s.pair with early := s.pair.early.filter fun d => decide (s.time < d.time + 100000000) } })) ∧
  (∀ (h : HeldOut) (s : State), s.role ≠ roleStandby → (s.pair.held.find? (fun h => !s.katHolds h.dig.fn) = some h) →
    exec (.outputHoldTimeout) s = .next ((s.releaseHeld (digKey h.dig) (if h.diverged then 2 else 1)).hwSet .TWN_PAIR_EVT 0 256)) ∧
  (∀ (ok : Bool) (failed : List Nat) (s : State), (failed.all (fun k => decide (k < 64 * 66)) = true) →
    s.rdF .TWN_PAIR_STATUS 0 13 1 ≠ 0 → s.pair.katLocal = none →
    let t := { s with pair := { s.pair with katLocal := some ok, katFailed := failed } }
    exec (.knownAnswerTestDone ok failed) s = .next ((if ok then t else t.hwSet .TWN_PAIR_EVT 0 4).twinSend 4).settleKat) ∧
  (∀ (b : Bool) (s : State), s.rdF .TWN_PAIR_STATUS 0 13 1 ≠ 0 → s.pair.katLocal = some b → exec (.katResultTimeout) s =
    .next ({ s with pair := { s.pair with katLocal := some b, katPeer := some (s.pair.katPeer.getD false) } }.settleKat)) ∧
  (∀ (fn : Nat) (ps : List (Nat × Bool × List Byte)) (s t : State), 1 ≤ fn → fn ≤ 16 → s.pair.mirrored = true → s.role = roleStandby →
    (t = s.count .TWN_RESYNC_BYTES 0 ((ps.map fun e => e.2.2.length).sum)) → t.role = roleStandby →
    exec (.resyncBulk fn ps false) s = .next ((ps.foldl (fun t e => t.takePage fn e) t).setSync fn 1)) ∧
  (∀ (fn : Nat) (s : State), 1 ≤ fn → fn ≤ 16 → s.pair.stepHold.contains fn = true → s.resyncPages fn ≤ 1024 →
    exec (.resyncHoldTimeout fn) s = .next (s.synced fn))

/-- Yielding and claiming the line, readings and probes, drain and resume, tray pull and power loss. (R592, R593, R594, R595, R596, R597, R598, R599, R602, R603, R604)
Answers a next state for: yield, holderYield, pairLockReading, pairLockProbe, pairLockClaim, claimSettle, claimBackoffEnd, takebackTimer,
lineFaultSilent, moduleDrain, moduleResume, pullWarnAssert, powerLoss. -/
def Obligations.PairHolderCommands : Prop :=
  (∀ (r : Nat) (keys : List Nat) (s : State), r ≤ 8 → s.pair.holder = true → exec (.yield true r keys) s =
    .next ({ s with pair := { s.pair with yieldDue := some 2 } })) ∧
  (∀ (r : Nat) (keys : List Nat) (s t : State), r ≤ 8 →
    t = { s with pair := { s.pair with partnerYielded := true, peerKeys := keys, reason := r, failover := true } }.flushHeld.updGuard →
    t.pair.fault = false → exec (.yield false r keys) s = .next (t)) ∧
  (∀ (r : Nat) (s : State), r ≤ 8 → s.pair.holder = true → s.pair.yieldDue = some r → s.atBoundary = true →
    exec (.holderYield r) s = .next (((s.releaseLine r).setLine lineFree).settleDrain)) ∧
  (∀ (l : List Nat) (r : Nat) (s : State), l ≠ [] → (l.all (fun v => decide (v < 4096)) = true) → readingOf l = some r →
    exec (.pairLockReading l) s = .next (((s.wrF .TWN_LOCK_MV 0 0 12 (l.getLast?.getD 0)).reading r).settleDrain)) ∧
  (∀ (rise : Nat) (s t : State), rise < 4096 → t = s.wrF .TWN_LOCK_MV 0 12 12 rise → t.pair.holder = true → t.line ≠ lineContended →
    exec (.pairLockProbe rise) s = .next (t)) ∧
  (∀ (s : State), s.mayClaim = true → exec (.pairLockClaim) s = .next ({ s with pair := { s.pair with claiming := some s.time } })) ∧
  (∀ (s : State), s.pair.claiming.isNone = false → s.line = lineSelf → exec (.claimSettle) s = .next (s.becomeHolder)) ∧
  (∀ (s : State), exec (.claimBackoffEnd) s = .next ({ s with pair := { s.pair with backoff := false } })) ∧
  (∀ (s : State), s.pair.primary = true → s.role = roleStandby → s.pair.mirrored = true → s.allSynced = true →
    s.rdF .TWN_PAIR_STATUS 0 11 1 = 1 → s.degraded = false → s.paired = true → s.pwr.trip = false → s.pwr.supply = false →
    s.draining = false → s.fnState 0 ≠ fnOos → exec (.takebackTimer) s =
    .next ({ s with pair := { s.pair with reason := 2 } }.twinSend 2)) ∧
  (∀ (s : State), s.pair.fault = true → s.rdF .TWN_STATUS 0 4 1 ≠ 0 → exec (.lineFaultSilent) s =
    .next (if s.pair.primary then { s with pair := { s.pair with reason := 5 } }.becomeHolder else s.releaseLine 5)) ∧
  (∀ (fn mbx : Nat) (s : State), s.posted fn mbx 0x002 = true → s.pair.drainCmd = none → s.pair.drained = true →
    exec (.moduleDrain fn mbx) s = .next ((s.accept fn mbx).cmdDone fn mbx 0x002 rOk [])) ∧
  (∀ (fn mbx : Nat) (s t : State), s.posted fn mbx 0x002 = true → s.pair.drainCmd = none → s.pair.drained = false →
    (t = { (s.accept fn mbx).wrF .TWN_PAIR_STATUS 0 10 1 1 with pair := { ((s.accept fn mbx).wrF .TWN_PAIR_STATUS 0 10 1 1).pair with drainCmd := some (fn, mbx), claiming := none } }.allFns fun t f => if t.fnState f = fnReady then t.setFnState f fnDraining else t) → t.soloDrain = false → exec (.moduleDrain fn mbx) s = .next (if t.pair.holder then { t with pair := { t.pair with yieldDue := some 3 } } else { t with pair := { t.pair with drained := true, drainCmd := none } }.cmdDone fn mbx 0x002 rOk [])) ∧
  (∀ (fn mbx : Nat) (s : State), s.posted fn mbx 0x003 = true → s.draining = false → exec (.moduleResume fn mbx) s =
    .next (s.respond fn mbx rOk [])) ∧
  (∀ (fn mbx : Nat) (s t : State), s.posted fn mbx 0x003 = true → s.draining = true → s.pair.drainCmd = none →
    (t = { s.wrF .TWN_PAIR_STATUS 0 10 1 0 with pair := { s.pair with drained := false, drainCmd := none, yieldDue := if s.pair.yieldDue = some 3 then none else s.pair.yieldDue } }.allFns fun t f => if t.fnState f = fnDraining then t.setFnState f (t.runState f) else t) → exec (.moduleResume fn mbx) s = .next (((if t.role = roleStandby then t.resyncAll else t).respond fn mbx rOk []).resumeSteps)) ∧
  (∀ (s : State), s.brd.armed = true → s.brd.pullIgnored = false → let t := s.hwSet .TWN_PAIR_EVT 0 512
  exec .pullWarnAssert s = .next (if t.pair.mirrored then t.releaseLine 7 else t.pullSolo)) ∧
  (∀ (mv : Nat) (s : State), mv < 40000 → s.brd.powered = true → exec (.powerLoss mv) s =
    .next ((if s.pair.mirrored then s else s.lastWordsNow 0).powerOff))

/-- Serving configuration, submission, cancellation and queries, stop sets, adapters, and the serving engine's steps. (R270, R271, R272, R273, R277, R299, R300, R294, R295, R312, R315, R276)
Answers a next state for: serveConfig, serveSubmit, serveCancel, serveQuery, stopsetSet, adapterLoad, adapterFree, serveStats,
serveUnconfig, slackRecompute, stepResultProcess, servingContextRestart. -/
def Obligations.ServingCommands : Prop :=
  (∀ (fn mbx : Nat) (s : State), s.posted fn mbx 0x300 = true → s.cfgOk fn (s.arg fn mbx 0) (s.cfgArgs fn mbx) = true →
    ((s.model fn (s.arg fn mbx 0)).isNone && decide (16 ≤ s.modelCount fn)) = false → s.liveOf fn (s.arg fn mbx 0) = [] →
    exec (.serveConfig fn mbx) s = .next ((s.setModel fn (s.arg fn mbx 0) (s.cfgArgs fn mbx)).respond fn mbx rOk [])) ∧
  (∀ (fn mbx : Nat) (l : List Nat) (c : SCfg) (s : State), s.posted fn mbx 0x301 = true → mbx ≠ 16 →
    s.submitCode fn mbx (s.submitReq fn mbx) = rOk → s.model fn (s.submitReq fn mbx).model = some c →
    (s.submitReq fn mbx).strict = false → exec (.serveSubmit fn mbx (some l)) s =
    .next (s.enterReq fn mbx c (s.submitReq fn mbx) l (s.predictTtft fn c (s.submitReq fn mbx)))) ∧
  (∀ (fn mbx code : Nat) (l : Option (List Nat)) (s : State), s.posted fn mbx 0x301 = true → mbx ≠ 16 →
    s.submitCode fn mbx (s.submitReq fn mbx) = code → code ≠ rOk → exec (.serveSubmit fn mbx l) s = .next (s.refuseSubmit fn mbx code [])) ∧
  (∀ (fn mbx l : Nat) (r : Req) (c : SCfg) (s : State), s.posted fn mbx 0x302 = true → s.findReq fn (s.arg64 fn mbx 0) = some (l, r) →
    s.model fn r.model = some c → r.st ≠ .ending → exec (.serveCancel fn mbx) s =
    .next ((if c.pendRows.any fun x => x.lslot == l then s.setReq fn l { r with cancel := true } else s.endReq fn l 2 0 0).respond fn mbx rOk [])) ∧
  (∀ (fn mbx l : Nat) (r : Req) (s t : State), s.posted fn mbx 0x303 = true → s.findReq fn (s.arg64 fn mbx 0) = some (l, r) →
    s.bulkPut fn (s.arg64 fn mbx 2) (reqEntry fn l r) = some t → exec (.serveQuery fn mbx) s = .next (t.respond fn mbx rOk [])) ∧
  (∀ (fn mbx : Nat) (b : List Byte) (x : StopSet) (s : State), s.posted fn mbx 0x304 = true → s.arg fn mbx 0 ≤ 255 →
    ((s.live fn).any (fun e => e.2.stopset == s.arg fn mbx 0) = false) → parseStops b = some x →
    exec (.stopsetSet fn mbx (some b)) s = .next ({ s with srv := { s.srv with stops := tabSet s.srv.stops (fn * 256 + s.arg fn mbx 0) x } }.respond fn mbx rOk [])) ∧
  (∀ (fn mbx : Nat) (b : List Byte) (x : Adapter) (ps : List Nat) (s : State), s.posted fn mbx 0x305 = true → s.arg fn mbx 0 ≠ 4095 →
    s.adapterBound fn (s.arg fn mbx 0) = true → s.adapterHeld fn (s.arg fn mbx 0) = false → parseAdapter fn b = some x →
    ps = (s.adapterPages fn (s.arg fn mbx 0)).take (ceilDiv x.size 65536) → ceilDiv x.size 65536 ≤ ps.length → let t := s.putImage b ps
    exec (.adapterLoad fn mbx (some b)) s =
    .next (({ t with srv := { t.srv with adapters := tabSet t.srv.adapters (s.arg fn mbx 0) { x with pages := ps } } }.dropLines fn (s.arg fn mbx 0)).respond fn mbx rOk [])) ∧
  (∀ (fn mbx : Nat) (s : State), s.posted fn mbx 0x306 = true → s.arg fn mbx 0 ≠ 4095 → s.adapterBound fn (s.arg fn mbx 0) = true →
    s.adapterHeld fn (s.arg fn mbx 0) = false → exec (.adapterFree fn mbx) s =
    .next (({ s with srv := { s.srv with adapters := tabDel s.srv.adapters (s.arg fn mbx 0) } }.dropLines fn (s.arg fn mbx 0)).respond fn mbx rOk [])) ∧
  (∀ (fn mbx : Nat) (c : SCfg) (s : State), s.posted fn mbx 0x307 = true → s.model fn (s.arg fn mbx 0) = some c →
    let regs : List Reg := [.SRV_FN_ADMIT, .SRV_FN_REJECT, .SRV_FN_TTFT_MISS, .SRV_FN_TBT_MISS, .SRV_FN_ATRISK, .SRV_FN_UNCOMP,
    .SRV_FN_TOKENS, .SRV_FN_STEPS, .SRV_FN_PREEMPT]
    exec (.serveStats fn mbx) s =
    .next (s.respond fn mbx rOk ((regs.flatMap fun r => lohi (s.rdN r fn)) ++ [c.aUs, sat32 c.bNs, sat32 (c.lastTpred / 1000)]))) ∧
  (∀ (fn mbx : Nat) (s : State), s.posted fn mbx 0x308 = true → (s.model fn (s.arg fn mbx 0)).isNone = false →
    s.liveOf fn (s.arg fn mbx 0) = [] → exec (.serveUnconfig fn mbx) s =
    .next ({ s with srv := { s.srv with models := tabDel s.srv.models (reqKey fn (s.arg fn mbx 0)) } }.respond fn mbx rOk [])) ∧
  (∀ (fn m : Nat) (s : State), 1 ≤ fn → fn ≤ 16 → m < 65536 → exec (.slackRecompute fn m) s = .next (s.reslack fn m)) ∧
  (∀ (fn m : Nat) (c : SCfg) (st : Stp) (s : State), 1 ≤ fn → fn ≤ 16 → m < 65536 → s.model fn m = some c → c.step = some st →
    st.done = false → s.upd.stage ≠ .window → c.doneGen < (s.pass c.donePass).gen → let n := (st.rows.map (·.ntok)).sum
    let l := s.mcpRead fn (c.resultRing + 16384 * (st.no % 2)) (resultBytes st.rows.length)
    let t := (s.setModel fn m { c with step := some { st with done := true }, bNs := s.newB fn c st n (s.pass c.donePass).last }).learnPower fn c st
    let t := (s.islandsOf fn).foldl (fun t i => if (t.isl i).remapDue then t.askRemap i else t) t
    exec (.stepResultProcess fn m) s =
    .next (if resultOk st l then t.stepOutput fn m st.no (sampledRows st l) else t.failRows fn m rProgram)) ∧
  (∀ (n : Nat) (x : Ctx) (s : State), s.ctx n = some x → x.restart = true → x.serving.isSome = true → s.ras.suspects.contains n = false →
    s.pwr.trip = false → s.pwr.supply = false → exec (.servingContextRestart n) s = .next (s.relaunch n))

/-- Opening, closing, feeding and querying streams, conversion jobs and JPEG images by command. (R316, R317, R319, R321, R322, R324, R327, R340, R343, R344)
Answers a next state for: vidStreamOpen, vidStreamClose, vidDecodeSubmit, vidEncodeSubmit, vidEncodeSet, vidConvertJob, vidJobCancel,
vidJpegSubmit, vidStreamQuery, vidOutputAck. -/
def Obligations.VideoStreamCommands : Prop :=
  (∀ (fn mbx : Nat) (s : State), s.posted fn mbx 0x400 = true → s.mediaDown = false → s.badLimit fn mbx 0x400 = false →
    s.vid.streams = [] → (if (s.openArgs fn mbx).enc then 61200 else 122400) ≥ (s.openArgs fn mbx).cost →
    (s.openArgs fn mbx).slots.length ≤ s.poolFree → exec (.vidStreamOpen fn mbx) s =
    .next ((s.setStream s.freeStream (s.openArgs fn mbx)).respond fn mbx rOk [s.freeStream, (s.openArgs fn mbx).cost])) ∧
  (∀ (fn mbx : Nat) (v : VStream) (s : State), s.posted fn mbx 0x401 = true → s.mediaDown = false →
    s.ownStream fn (s.arg fn mbx 0) = some v → exec (.vidStreamClose fn mbx) s =
    .next (((s.accept fn mbx).setStream (s.arg fn mbx 0) { v with queue := [], waiting := [], closing := some (fn, mbx) }).settleClose (s.arg fn mbx 0))) ∧
  (∀ (fn mbx : Nat) (v : VStream) (s : State), s.posted fn mbx 0x402 = true → s.mediaDown = false → s.badLimit fn mbx 0x402 = false →
    s.ownStream fn (s.arg fn mbx 0) = some v → v.enc = false → v.queue.length < 16 → exec (.vidDecodeSubmit fn mbx) s =
    .next ((s.setStream (s.arg fn mbx 0) { v with queue := v.queue ++ [{ addr := s.arg64 fn mbx 1, len := s.arg fn mbx 3, pts := s.arg64 fn mbx 4 }] }).respond fn mbx rOk [v.queue.length + 1])) ∧
  (∀ (fn mbx : Nat) (v : VStream) (s : State), s.posted fn mbx 0x403 = true → s.mediaDown = false →
    s.ownStream fn (s.arg fn mbx 0) = some v → v.enc = true →
    prepOk (s.arg fn mbx 3) (s.arg fn mbx 4) (s.arg fn mbx 5) (s.arg fn mbx 6) (s.sarg fn mbx 7) (s.arg fn mbx 8) v.w v.h = true →
    v.queue.length < 16 →
    let u : AU := { addr := s.arg64 fn mbx 1, len := 0, pts := s.arg64 fn mbx 9, geom := [s.arg fn mbx 3, s.arg fn mbx 4, s.arg fn mbx 5, s.arg fn mbx 6, s.arg fn mbx 7, s.arg fn mbx 8] }
    exec (.vidEncodeSubmit fn mbx) s =
    .next ((s.setStream (s.arg fn mbx 0) { v with queue := v.queue ++ [u] }).respond fn mbx rOk [v.queue.length + 1])) ∧
  (∀ (fn mbx : Nat) (v : VStream) (s : State), s.posted fn mbx 0x404 = true → s.mediaDown = false →
    s.ownStream fn (s.arg fn mbx 0) = some v → v.enc = true →
    encSetOk v.codec (s.arg fn mbx 1) (s.arg fn mbx 2) (s.arg fn mbx 3) (s.arg fn mbx 4) = true → exec (.vidEncodeSet fn mbx) s =
    .next ((s.setStream (s.arg fn mbx 0) { v with q := s.arg fn mbx 1, maxbr := s.arg fn mbx 2, window := s.arg fn mbx 3, keyInt := s.arg fn mbx 4 }).respond fn mbx rOk [])) ∧
  (∀ (fn mbx : Nat) (s : State), s.posted fn mbx 0x405 = true → s.mediaDown = false → s.badLimit fn mbx 0x405 = false →
    s.arg fn mbx 1 = 0xFFFF → exec (.vidConvertJob fn mbx) s =
    .next ((s.setJob fn (s.arg fn mbx 0) (s.jobArgs fn mbx)).respond fn mbx rOk [])) ∧
  (∀ (fn mbx : Nat) (s : State), s.posted fn mbx 0x406 = true → s.mediaDown = false → (s.job fn (s.arg fn mbx 0)).isNone = false →
    s.arg fn mbx 0 < 256 → exec (.vidJobCancel fn mbx) s = .next ((s.endJob fn (s.arg fn mbx 0)).respond fn mbx rOk [])) ∧
  (∀ (fn mbx : Nat) (s : State), s.posted fn mbx 0x407 = true → s.mediaDown = false → s.badLimit fn mbx 0x407 = false →
    ((s.vid.jpeg.filter fun x => x.fn == fn).length < 32) → let n := tabGet s.vid.jpegNo 0 fn
    let x : JImg := { fn := fn, no := n, addr := s.arg64 fn mbx 0, len := s.arg fn mbx 2, dst := s.arg64 fn mbx 3, pts := s.arg64 fn mbx 5 }
    exec (.vidJpegSubmit fn mbx) s =
    .next ({ s with vid := { s.vid with jpegNo := tabSet s.vid.jpegNo fn (n + 1), jpeg := s.vid.jpeg ++ [x] } }.respond fn mbx rOk
    [(s.vid.jpeg.filter fun (y : JImg) => y.fn == fn).length + 1])) ∧
  (∀ (fn mbx : Nat) (v : VStream) (s : State), s.posted fn mbx 0x408 = true → s.mediaDown = false →
    s.ownStream fn (s.arg fn mbx 0) = some v → exec (.vidStreamQuery fn mbx) s =
    .next (s.respond fn mbx rOk (v.params ++ [v.queue.length] ++ lohi v.pics ++ lohi v.concealed))) ∧
  (∀ (fn mbx : Nat) (v : VStream) (s : State), s.posted fn mbx 0x409 = true → s.mediaDown = false →
    s.ownStream fn (s.arg fn mbx 0) = some v → v.enc = true → v.rp ≤ s.arg64 fn mbx 1 → s.arg64 fn mbx 1 ≤ v.wp →
    exec (.vidOutputAck fn mbx) s = .next ((s.setStream (s.arg fn mbx 0) { v with rp := s.arg64 fn mbx 1 }).respond fn mbx rOk (lohi v.wp)))

/-- What the video engines, the JPEG decoder and the converters do. (R321, R322, R327, R330, R333, R334, R338, R343, R344, R487)
Answers a next state for: decodePicture, pictureOutput, encodePictureDone, auRingWrite, jpegStrip, converterStrip, videoEngineReset. -/
def Obligations.VideoEngineCommands : Prop :=
  (∀ (eng k : Nat) (p : PicIn) (s : State), eng < 8 → s.engUp eng = true → s.upd.stage ≠ .window → s.nextStream eng = some k →
    let t := s.decodeUnit eng k p
    exec (.decodePicture eng p) s = .next { t with vid := { t.vid with rr := tabSet t.vid.rr eng k } }) ∧
  (∀ (k which : Nat) (v : VStream) (s : State), k < 65536 → s.stream k = some v → s.mediaDown = false → s.blocked v.fn k = false →
    exec (.pictureOutput k which) s = .next ((s.outputPic k which).settleClose k)) ∧
  (∀ (eng k b : Nat) (bs : List EncBlock) (s : State), 8 ≤ eng → eng < 12 → s.engUp eng = true → s.nextStream eng = some k →
    let t := s.encodeUnit eng k b bs
    exec (.encodePictureDone eng b bs) s = .next { t with vid := { t.vid with rr := tabSet t.vid.rr eng k } }) ∧
  (∀ (k : Nat) (v : VStream) (u : Coded) (rest : List Coded) (s : State), k < 65536 → s.stream k = some v → v.waiting = u :: rest →
    s.mediaDown = false → v.fits u.len = true → let p := v.place u.len
    let data := (List.range u.len).map fun i => BitVec.ofNat 8 (Config.freeValue (s.fresh + i)).toNat
    let t := { s with fresh := s.fresh + u.len }.setStream k { v with waiting := rest, wp := p + u.len }
    let t := if s.standby v.fn then t else if s.hostOk v.fn then t.hostPut v.fn (v.ring + p % v.ringLen) data else t.logHostWrite v.fn
    exec (.auRingWrite k) s = .next (t.post v.fn 0x0402 ([k] ++ lohi u.pic ++ lohi p ++ [u.len, u.qp, u.flags]))) ∧
  (∀ (w h : Nat) (l : List Byte) (x : JImg) (s t : State), s.mediaDown = false → s.nextJpeg = some x → 1 ≤ w → w ≤ 16384 → 1 ≤ h →
    h ≤ 16384 → t = { s with vid := { s.vid with jpegLast := x.fn } } → t.jpegFits x w h = true → ctusOf h ≤ x.strips + 1 →
    exec (.jpegStrip w h l none) s = .next ((t.writeStrip x w h l).jpegDone { x with strips := x.strips + 1, firstCls := if x.errors = 0 then 0 else x.firstCls } w h false)) ∧
  (∀ (fn j : Nat) (c : CJob) (s : State), 1 ≤ fn → fn ≤ 16 → j < 256 → s.job fn j = some c → s.mediaDown = false →
    s.frameWaits fn j = true → exec (.converterStrip fn j) s = .next (s.setJob fn j { c with queue := makeStrip c.outH c.queue })) ∧
  (∀ (eng : Nat) (s : State), eng < 12 → exec (.videoEngineReset eng) s = .next (s.resetVideo eng))

end
end

