-- ==== Sys2Proof/Laws/Memory.lean ====
section
/-! SUPPORT. Byte memories: a read after a write, and the canonical form that every memory operation keeps. -/

namespace Sys2Proof.Machine

theorem memWfFrom_mono {lo hi : Nat} {m : Memory} (h : memWfFrom hi m = true) (hl : lo ≤ hi) : memWfFrom lo m = true := by
  cases m with
  | nil => rfl
  | cons e r =>
    simp only [memWfFrom, Bool.and_eq_true, decide_eq_true_eq] at h ⊢
    exact ⟨⟨Nat.le_trans hl h.1.1, h.1.2⟩, h.2⟩

theorem memSet_wfFrom (m : Memory) (lo a : Nat) (b : Byte) (ha : lo ≤ a) (h : memWfFrom lo m = true) :
    memWfFrom lo (memSet m a b) = true := by
  induction m generalizing lo with
  | nil => by_cases hb : b = memDefault <;> simp [memSet, memWfFrom, hb, ha]
  | cons e r ih =>
    simp only [memWfFrom, Bool.and_eq_true, decide_eq_true_eq] at h
    obtain ⟨⟨h1, h2⟩, h3⟩ := h
    by_cases hlt : a < e.1
    · by_cases hb : b = memDefault
      · simp [memSet, hlt, hb, memWfFrom, h1, h2, h3]
      · simp [memSet, hlt, hb, memWfFrom, ha, h2, h3, Nat.succ_le_of_lt hlt]
    · by_cases heq : a = e.1
      · subst heq
        by_cases hb : b = memDefault
        · simpa [memSet, hb] using memWfFrom_mono h3 (by omega)
        · simp [memSet, hb, memWfFrom, h1, h3]
      · simp [memSet, hlt, heq, memWfFrom, h1, h2, ih (e.1 + 1) (by omega) h3]

/-- Storing a byte keeps the canonical form. -/
theorem memSet_wf (m : Memory) (a : Nat) (b : Byte) (h : m.wf = true) : (memSet m a b).wf = true :=
  memSet_wfFrom m 0 a b (Nat.zero_le _) h

/-- Storing bytes keeps the canonical form. -/
theorem memWrite_wf (m : Memory) (a : Nat) (l : List Byte) (h : m.wf = true) : (memWrite m a l).wf = true := by
  induction l generalizing m a with
  | nil => exact h
  | cons b r ih => exact ih _ _ (memSet_wf m a b h)

theorem memFilter_wfFrom (m : Memory) (p : Host.Cell → Bool) (lo : Nat) (h : memWfFrom lo m = true) :
    memWfFrom lo (m.filter p) = true := by
  induction m generalizing lo with
  | nil => rfl
  | cons e r ih =>
    simp only [memWfFrom, Bool.and_eq_true, decide_eq_true_eq] at h
    obtain ⟨⟨h1, h2⟩, h3⟩ := h
    by_cases hp : p e = true
    · simp [List.filter, hp, memWfFrom, h1, h2, ih _ h3]
    · simp only [List.filter, hp]
      exact memWfFrom_mono (ih _ h3) (by omega)

/-- Dropping cells keeps the canonical form. -/
theorem memFilter_wf (m : Memory) (p : Host.Cell → Bool) (h : m.wf = true) : Memory.wf (m.filter p) = true :=
  memFilter_wfFrom m p 0 h

/-- Zeroing addresses keeps the canonical form. -/
theorem memClear_wf (m : Memory) (lo n : Nat) (h : m.wf = true) : (memClear m lo n).wf = true := memFilter_wf m _ h

theorem memGet_set_self (m : Memory) (a : Nat) (b : Byte) (lo : Nat) (h : memWfFrom lo m = true) : memGet (memSet m a b) a = b := by
  induction m generalizing lo with
  | nil => by_cases hb : b = memDefault <;> simp [memSet, memGet, hb]
  | cons e r ih =>
    simp only [memWfFrom, Bool.and_eq_true, decide_eq_true_eq] at h
    obtain ⟨⟨h1, h2⟩, h3⟩ := h
    have low : ∀ (q : Memory) (k : Nat), a < k → memWfFrom k q = true → memGet q a = memDefault := by
      intro q
      induction q with
      | nil => intros; rfl
      | cons x y ihq =>
        intro k hk hq
        simp only [memWfFrom, Bool.and_eq_true, decide_eq_true_eq] at hq
        have : x.1 ≠ a := by omega
        simp [memGet, this, ihq (x.1 + 1) (by omega) hq.2]
    by_cases hlt : a < e.1
    · by_cases hb : b = memDefault
      · have : e.1 ≠ a := by omega
        simp [memSet, hlt, hb, memGet, this, low r (e.1 + 1) (by omega) h3]
      · simp [memSet, hlt, hb, memGet]
    · by_cases heq : a = e.1
      · subst heq
        by_cases hb : b = memDefault
        · simp [memSet, hb, low r (e.1 + 1) (by omega) h3]
        · simp [memSet, hb, memGet]
      · have : e.1 ≠ a := fun x => heq x.symm
        simp [memSet, hlt, heq, memGet, this, ih _ h3]

theorem memFold_wf {α : Type} {f : Memory → α → Memory} (hf : ∀ m a, m.wf = true → (f m a).wf = true) {m : Memory} {l : List α}
    (h : m.wf = true) : Memory.wf (l.foldl f m) = true := by
  induction l generalizing m with
  | nil => exact h
  | cons a r ih => exact ih (hf m a h)

/-- A read of the byte just stored gives it. -/
theorem memGet_memSet_self (m : Memory) (a : Nat) (b : Byte) (h : m.wf = true) : memGet (memSet m a b) a = b := memGet_set_self m a b 0 h

/-- A store leaves every other byte alone. -/
theorem memGet_memSet_other (m : Memory) (a c : Nat) (b : Byte) (hc : c ≠ a) : memGet (memSet m a b) c = memGet m c := by
  induction m with
  | nil => by_cases hb : b = memDefault <;> simp [memSet, memGet, hb, Ne.symm hc]
  | cons e r ih =>
    by_cases hlt : a < e.1
    · by_cases hb : b = memDefault <;> simp [memSet, hlt, hb, memGet, Ne.symm hc]
    · by_cases heq : a = e.1
      · subst heq
        by_cases hb : b = memDefault <;> simp [memSet, hb, memGet, Ne.symm hc]
      · simp only [memSet, hlt, heq, if_false, memGet, ih]

/-- A store of bytes leaves every byte outside them alone. -/
theorem memGet_memWrite_other (m : Memory) (a c : Nat) (l : List Byte) (hc : c < a ∨ a + l.length ≤ c) :
    memGet (memWrite m a l) c = memGet m c := by
  induction l generalizing m a with
  | nil => rfl
  | cons b r ih =>
    simp only [List.length_cons] at hc
    rw [memWrite, ih _ _ (by omega), memGet_memSet_other _ _ _ _ (by omega)]

end Sys2Proof.Machine
end

