-- ==== Sys2Proof/Laws/State.lean ====
section
/-! SUPPORT. What the basic updates of State leave alone, one lemma per field and update, and the tables they write. -/

namespace Sys2Proof.Machine

@[simp] theorem State.wr_time (s : State) (r : Reg) (i : Nat) (v : Word) : (s.wr r i v).time = s.time := rfl
@[simp] theorem State.wr_fresh (s : State) (r : Reg) (i : Nat) (v : Word) : (s.wr r i v).fresh = s.fresh := rfl
@[simp] theorem State.wr_pending (s : State) (r : Reg) (i : Nat) (v : Word) : (s.wr r i v).pending = s.pending := rfl
@[simp] theorem State.wr_reply (s : State) (r : Reg) (i : Nat) (v : Word) : (s.wr r i v).reply = s.reply := rfl
@[simp] theorem State.wr_host (s : State) (r : Reg) (i : Nat) (v : Word) : (s.wr r i v).host = s.host := rfl
@[simp] theorem State.wr_fab (s : State) (r : Reg) (i : Nat) (v : Word) : (s.wr r i v).fab = s.fab := rfl
@[simp] theorem State.wr_pln (s : State) (r : Reg) (i : Nat) (v : Word) : (s.wr r i v).pln = s.pln := rfl
@[simp] theorem State.wr_fry (s : State) (r : Reg) (i : Nat) (v : Word) : (s.wr r i v).fry = s.fry := rfl
@[simp] theorem State.wr_pas (s : State) (r : Reg) (i : Nat) (v : Word) : (s.wr r i v).pas = s.pas := rfl
@[simp] theorem State.wr_srt (s : State) (r : Reg) (i : Nat) (v : Word) : (s.wr r i v).srt = s.srt := rfl
@[simp] theorem State.wr_srv (s : State) (r : Reg) (i : Nat) (v : Word) : (s.wr r i v).srv = s.srv := rfl
@[simp] theorem State.wr_vid (s : State) (r : Reg) (i : Nat) (v : Word) : (s.wr r i v).vid = s.vid := rfl
@[simp] theorem State.wr_mbx (s : State) (r : Reg) (i : Nat) (v : Word) : (s.wr r i v).mbx = s.mbx := rfl
@[simp] theorem State.wr_part (s : State) (r : Reg) (i : Nat) (v : Word) : (s.wr r i v).part = s.part := rfl
@[simp] theorem State.wr_lnk (s : State) (r : Reg) (i : Nat) (v : Word) : (s.wr r i v).lnk = s.lnk := rfl
@[simp] theorem State.wr_sec (s : State) (r : Reg) (i : Nat) (v : Word) : (s.wr r i v).sec = s.sec := rfl
@[simp] theorem State.wr_upd (s : State) (r : Reg) (i : Nat) (v : Word) : (s.wr r i v).upd = s.upd := rfl
@[simp] theorem State.wr_pwr (s : State) (r : Reg) (i : Nat) (v : Word) : (s.wr r i v).pwr = s.pwr := rfl
@[simp] theorem State.wr_ras (s : State) (r : Reg) (i : Nat) (v : Word) : (s.wr r i v).ras = s.ras := rfl
@[simp] theorem State.wr_pair (s : State) (r : Reg) (i : Nat) (v : Word) : (s.wr r i v).pair = s.pair := rfl
@[simp] theorem State.wr_clk (s : State) (r : Reg) (i : Nat) (v : Word) : (s.wr r i v).clk = s.clk := rfl
@[simp] theorem State.wr_brd (s : State) (r : Reg) (i : Nat) (v : Word) : (s.wr r i v).brd = s.brd := rfl

@[simp] theorem State.wrN_time (s : State) (r : Reg) (i v : Nat) : (s.wrN r i v).time = s.time := rfl
@[simp] theorem State.wrN_fresh (s : State) (r : Reg) (i v : Nat) : (s.wrN r i v).fresh = s.fresh := rfl
@[simp] theorem State.wrN_pending (s : State) (r : Reg) (i v : Nat) : (s.wrN r i v).pending = s.pending := rfl
@[simp] theorem State.wrN_reply (s : State) (r : Reg) (i v : Nat) : (s.wrN r i v).reply = s.reply := rfl
@[simp] theorem State.wrN_host (s : State) (r : Reg) (i v : Nat) : (s.wrN r i v).host = s.host := rfl
@[simp] theorem State.wrN_fab (s : State) (r : Reg) (i v : Nat) : (s.wrN r i v).fab = s.fab := rfl
@[simp] theorem State.wrN_pln (s : State) (r : Reg) (i v : Nat) : (s.wrN r i v).pln = s.pln := rfl
@[simp] theorem State.wrN_fry (s : State) (r : Reg) (i v : Nat) : (s.wrN r i v).fry = s.fry := rfl
@[simp] theorem State.wrN_pas (s : State) (r : Reg) (i v : Nat) : (s.wrN r i v).pas = s.pas := rfl
@[simp] theorem State.wrN_srt (s : State) (r : Reg) (i v : Nat) : (s.wrN r i v).srt = s.srt := rfl
@[simp] theorem State.wrN_srv (s : State) (r : Reg) (i v : Nat) : (s.wrN r i v).srv = s.srv := rfl
@[simp] theorem State.wrN_vid (s : State) (r : Reg) (i v : Nat) : (s.wrN r i v).vid = s.vid := rfl
@[simp] theorem State.wrN_mbx (s : State) (r : Reg) (i v : Nat) : (s.wrN r i v).mbx = s.mbx := rfl
@[simp] theorem State.wrN_part (s : State) (r : Reg) (i v : Nat) : (s.wrN r i v).part = s.part := rfl
@[simp] theorem State.wrN_lnk (s : State) (r : Reg) (i v : Nat) : (s.wrN r i v).lnk = s.lnk := rfl
@[simp] theorem State.wrN_sec (s : State) (r : Reg) (i v : Nat) : (s.wrN r i v).sec = s.sec := rfl
@[simp] theorem State.wrN_upd (s : State) (r : Reg) (i v : Nat) : (s.wrN r i v).upd = s.upd := rfl
@[simp] theorem State.wrN_pwr (s : State) (r : Reg) (i v : Nat) : (s.wrN r i v).pwr = s.pwr := rfl
@[simp] theorem State.wrN_ras (s : State) (r : Reg) (i v : Nat) : (s.wrN r i v).ras = s.ras := rfl
@[simp] theorem State.wrN_pair (s : State) (r : Reg) (i v : Nat) : (s.wrN r i v).pair = s.pair := rfl
@[simp] theorem State.wrN_clk (s : State) (r : Reg) (i v : Nat) : (s.wrN r i v).clk = s.clk := rfl
@[simp] theorem State.wrN_brd (s : State) (r : Reg) (i v : Nat) : (s.wrN r i v).brd = s.brd := rfl

@[simp] theorem State.wrF_time (s : State) (r : Reg) (i lo len v : Nat) : (s.wrF r i lo len v).time = s.time := rfl
@[simp] theorem State.wrF_fresh (s : State) (r : Reg) (i lo len v : Nat) : (s.wrF r i lo len v).fresh = s.fresh := rfl
@[simp] theorem State.wrF_pending (s : State) (r : Reg) (i lo len v : Nat) : (s.wrF r i lo len v).pending = s.pending := rfl
@[simp] theorem State.wrF_reply (s : State) (r : Reg) (i lo len v : Nat) : (s.wrF r i lo len v).reply = s.reply := rfl
@[simp] theorem State.wrF_host (s : State) (r : Reg) (i lo len v : Nat) : (s.wrF r i lo len v).host = s.host := rfl
@[simp] theorem State.wrF_fab (s : State) (r : Reg) (i lo len v : Nat) : (s.wrF r i lo len v).fab = s.fab := rfl
@[simp] theorem State.wrF_pln (s : State) (r : Reg) (i lo len v : Nat) : (s.wrF r i lo len v).pln = s.pln := rfl
@[simp] theorem State.wrF_fry (s : State) (r : Reg) (i lo len v : Nat) : (s.wrF r i lo len v).fry = s.fry := rfl
@[simp] theorem State.wrF_pas (s : State) (r : Reg) (i lo len v : Nat) : (s.wrF r i lo len v).pas = s.pas := rfl
@[simp] theorem State.wrF_srt (s : State) (r : Reg) (i lo len v : Nat) : (s.wrF r i lo len v).srt = s.srt := rfl
@[simp] theorem State.wrF_srv (s : State) (r : Reg) (i lo len v : Nat) : (s.wrF r i lo len v).srv = s.srv := rfl
@[simp] theorem State.wrF_vid (s : State) (r : Reg) (i lo len v : Nat) : (s.wrF r i lo len v).vid = s.vid := rfl
@[simp] theorem State.wrF_mbx (s : State) (r : Reg) (i lo len v : Nat) : (s.wrF r i lo len v).mbx = s.mbx := rfl
@[simp] theorem State.wrF_part (s : State) (r : Reg) (i lo len v : Nat) : (s.wrF r i lo len v).part = s.part := rfl
@[simp] theorem State.wrF_lnk (s : State) (r : Reg) (i lo len v : Nat) : (s.wrF r i lo len v).lnk = s.lnk := rfl
@[simp] theorem State.wrF_sec (s : State) (r : Reg) (i lo len v : Nat) : (s.wrF r i lo len v).sec = s.sec := rfl
@[simp] theorem State.wrF_upd (s : State) (r : Reg) (i lo len v : Nat) : (s.wrF r i lo len v).upd = s.upd := rfl
@[simp] theorem State.wrF_pwr (s : State) (r : Reg) (i lo len v : Nat) : (s.wrF r i lo len v).pwr = s.pwr := rfl
@[simp] theorem State.wrF_ras (s : State) (r : Reg) (i lo len v : Nat) : (s.wrF r i lo len v).ras = s.ras := rfl
@[simp] theorem State.wrF_pair (s : State) (r : Reg) (i lo len v : Nat) : (s.wrF r i lo len v).pair = s.pair := rfl
@[simp] theorem State.wrF_clk (s : State) (r : Reg) (i lo len v : Nat) : (s.wrF r i lo len v).clk = s.clk := rfl
@[simp] theorem State.wrF_brd (s : State) (r : Reg) (i lo len v : Nat) : (s.wrF r i lo len v).brd = s.brd := rfl

@[simp] theorem State.count_time (s : State) (r : Reg) (i n : Nat) : (s.count r i n).time = s.time := rfl
@[simp] theorem State.count_fresh (s : State) (r : Reg) (i n : Nat) : (s.count r i n).fresh = s.fresh := rfl
@[simp] theorem State.count_pending (s : State) (r : Reg) (i n : Nat) : (s.count r i n).pending = s.pending := rfl
@[simp] theorem State.count_reply (s : State) (r : Reg) (i n : Nat) : (s.count r i n).reply = s.reply := rfl
@[simp] theorem State.count_host (s : State) (r : Reg) (i n : Nat) : (s.count r i n).host = s.host := rfl
@[simp] theorem State.count_fab (s : State) (r : Reg) (i n : Nat) : (s.count r i n).fab = s.fab := rfl
@[simp] theorem State.count_pln (s : State) (r : Reg) (i n : Nat) : (s.count r i n).pln = s.pln := rfl
@[simp] theorem State.count_fry (s : State) (r : Reg) (i n : Nat) : (s.count r i n).fry = s.fry := rfl
@[simp] theorem State.count_pas (s : State) (r : Reg) (i n : Nat) : (s.count r i n).pas = s.pas := rfl
@[simp] theorem State.count_srt (s : State) (r : Reg) (i n : Nat) : (s.count r i n).srt = s.srt := rfl
@[simp] theorem State.count_srv (s : State) (r : Reg) (i n : Nat) : (s.count r i n).srv = s.srv := rfl
@[simp] theorem State.count_vid (s : State) (r : Reg) (i n : Nat) : (s.count r i n).vid = s.vid := rfl
@[simp] theorem State.count_mbx (s : State) (r : Reg) (i n : Nat) : (s.count r i n).mbx = s.mbx := rfl
@[simp] theorem State.count_part (s : State) (r : Reg) (i n : Nat) : (s.count r i n).part = s.part := rfl
@[simp] theorem State.count_lnk (s : State) (r : Reg) (i n : Nat) : (s.count r i n).lnk = s.lnk := rfl
@[simp] theorem State.count_sec (s : State) (r : Reg) (i n : Nat) : (s.count r i n).sec = s.sec := rfl
@[simp] theorem State.count_upd (s : State) (r : Reg) (i n : Nat) : (s.count r i n).upd = s.upd := rfl
@[simp] theorem State.count_pwr (s : State) (r : Reg) (i n : Nat) : (s.count r i n).pwr = s.pwr := rfl
@[simp] theorem State.count_ras (s : State) (r : Reg) (i n : Nat) : (s.count r i n).ras = s.ras := rfl
@[simp] theorem State.count_pair (s : State) (r : Reg) (i n : Nat) : (s.count r i n).pair = s.pair := rfl
@[simp] theorem State.count_clk (s : State) (r : Reg) (i n : Nat) : (s.count r i n).clk = s.clk := rfl
@[simp] theorem State.count_brd (s : State) (r : Reg) (i n : Nat) : (s.count r i n).brd = s.brd := rfl

@[simp] theorem State.setTh_regs (s : State) (g : Nat) (v : Thread) : (s.setTh g v).regs = s.regs := rfl
@[simp] theorem State.setTh_time (s : State) (g : Nat) (v : Thread) : (s.setTh g v).time = s.time := rfl
@[simp] theorem State.setTh_fresh (s : State) (g : Nat) (v : Thread) : (s.setTh g v).fresh = s.fresh := rfl
@[simp] theorem State.setTh_pending (s : State) (g : Nat) (v : Thread) : (s.setTh g v).pending = s.pending := rfl
@[simp] theorem State.setTh_reply (s : State) (g : Nat) (v : Thread) : (s.setTh g v).reply = s.reply := rfl
@[simp] theorem State.setTh_host (s : State) (g : Nat) (v : Thread) : (s.setTh g v).host = s.host := rfl
@[simp] theorem State.setTh_pln (s : State) (g : Nat) (v : Thread) : (s.setTh g v).pln = s.pln := rfl
@[simp] theorem State.setTh_fry (s : State) (g : Nat) (v : Thread) : (s.setTh g v).fry = s.fry := rfl
@[simp] theorem State.setTh_pas (s : State) (g : Nat) (v : Thread) : (s.setTh g v).pas = s.pas := rfl
@[simp] theorem State.setTh_srt (s : State) (g : Nat) (v : Thread) : (s.setTh g v).srt = s.srt := rfl
@[simp] theorem State.setTh_srv (s : State) (g : Nat) (v : Thread) : (s.setTh g v).srv = s.srv := rfl
@[simp] theorem State.setTh_vid (s : State) (g : Nat) (v : Thread) : (s.setTh g v).vid = s.vid := rfl
@[simp] theorem State.setTh_mbx (s : State) (g : Nat) (v : Thread) : (s.setTh g v).mbx = s.mbx := rfl
@[simp] theorem State.setTh_part (s : State) (g : Nat) (v : Thread) : (s.setTh g v).part = s.part := rfl
@[simp] theorem State.setTh_lnk (s : State) (g : Nat) (v : Thread) : (s.setTh g v).lnk = s.lnk := rfl
@[simp] theorem State.setTh_sec (s : State) (g : Nat) (v : Thread) : (s.setTh g v).sec = s.sec := rfl
@[simp] theorem State.setTh_upd (s : State) (g : Nat) (v : Thread) : (s.setTh g v).upd = s.upd := rfl
@[simp] theorem State.setTh_pwr (s : State) (g : Nat) (v : Thread) : (s.setTh g v).pwr = s.pwr := rfl
@[simp] theorem State.setTh_ras (s : State) (g : Nat) (v : Thread) : (s.setTh g v).ras = s.ras := rfl
@[simp] theorem State.setTh_pair (s : State) (g : Nat) (v : Thread) : (s.setTh g v).pair = s.pair := rfl
@[simp] theorem State.setTh_clk (s : State) (g : Nat) (v : Thread) : (s.setTh g v).clk = s.clk := rfl
@[simp] theorem State.setTh_brd (s : State) (g : Nat) (v : Thread) : (s.setTh g v).brd = s.brd := rfl

@[simp] theorem State.updTh_regs (s : State) (g : Nat) (f : Thread → Thread) : (s.updTh g f).regs = s.regs := rfl
@[simp] theorem State.updTh_time (s : State) (g : Nat) (f : Thread → Thread) : (s.updTh g f).time = s.time := rfl
@[simp] theorem State.updTh_fresh (s : State) (g : Nat) (f : Thread → Thread) : (s.updTh g f).fresh = s.fresh := rfl
@[simp] theorem State.updTh_pending (s : State) (g : Nat) (f : Thread → Thread) : (s.updTh g f).pending = s.pending := rfl
@[simp] theorem State.updTh_reply (s : State) (g : Nat) (f : Thread → Thread) : (s.updTh g f).reply = s.reply := rfl
@[simp] theorem State.updTh_host (s : State) (g : Nat) (f : Thread → Thread) : (s.updTh g f).host = s.host := rfl
@[simp] theorem State.updTh_pln (s : State) (g : Nat) (f : Thread → Thread) : (s.updTh g f).pln = s.pln := rfl
@[simp] theorem State.updTh_fry (s : State) (g : Nat) (f : Thread → Thread) : (s.updTh g f).fry = s.fry := rfl
@[simp] theorem State.updTh_pas (s : State) (g : Nat) (f : Thread → Thread) : (s.updTh g f).pas = s.pas := rfl
@[simp] theorem State.updTh_srt (s : State) (g : Nat) (f : Thread → Thread) : (s.updTh g f).srt = s.srt := rfl
@[simp] theorem State.updTh_srv (s : State) (g : Nat) (f : Thread → Thread) : (s.updTh g f).srv = s.srv := rfl
@[simp] theorem State.updTh_vid (s : State) (g : Nat) (f : Thread → Thread) : (s.updTh g f).vid = s.vid := rfl
@[simp] theorem State.updTh_mbx (s : State) (g : Nat) (f : Thread → Thread) : (s.updTh g f).mbx = s.mbx := rfl
@[simp] theorem State.updTh_part (s : State) (g : Nat) (f : Thread → Thread) : (s.updTh g f).part = s.part := rfl
@[simp] theorem State.updTh_lnk (s : State) (g : Nat) (f : Thread → Thread) : (s.updTh g f).lnk = s.lnk := rfl
@[simp] theorem State.updTh_sec (s : State) (g : Nat) (f : Thread → Thread) : (s.updTh g f).sec = s.sec := rfl
@[simp] theorem State.updTh_upd (s : State) (g : Nat) (f : Thread → Thread) : (s.updTh g f).upd = s.upd := rfl
@[simp] theorem State.updTh_pwr (s : State) (g : Nat) (f : Thread → Thread) : (s.updTh g f).pwr = s.pwr := rfl
@[simp] theorem State.updTh_ras (s : State) (g : Nat) (f : Thread → Thread) : (s.updTh g f).ras = s.ras := rfl
@[simp] theorem State.updTh_pair (s : State) (g : Nat) (f : Thread → Thread) : (s.updTh g f).pair = s.pair := rfl
@[simp] theorem State.updTh_clk (s : State) (g : Nat) (f : Thread → Thread) : (s.updTh g f).clk = s.clk := rfl
@[simp] theorem State.updTh_brd (s : State) (g : Nat) (f : Thread → Thread) : (s.updTh g f).brd = s.brd := rfl

@[simp] theorem State.setTen_regs (s : State) (c : Nat) (v : Tensor) : (s.setTen c v).regs = s.regs := rfl
@[simp] theorem State.setTen_time (s : State) (c : Nat) (v : Tensor) : (s.setTen c v).time = s.time := rfl
@[simp] theorem State.setTen_fresh (s : State) (c : Nat) (v : Tensor) : (s.setTen c v).fresh = s.fresh := rfl
@[simp] theorem State.setTen_pending (s : State) (c : Nat) (v : Tensor) : (s.setTen c v).pending = s.pending := rfl
@[simp] theorem State.setTen_reply (s : State) (c : Nat) (v : Tensor) : (s.setTen c v).reply = s.reply := rfl
@[simp] theorem State.setTen_host (s : State) (c : Nat) (v : Tensor) : (s.setTen c v).host = s.host := rfl
@[simp] theorem State.setTen_pln (s : State) (c : Nat) (v : Tensor) : (s.setTen c v).pln = s.pln := rfl
@[simp] theorem State.setTen_fry (s : State) (c : Nat) (v : Tensor) : (s.setTen c v).fry = s.fry := rfl
@[simp] theorem State.setTen_pas (s : State) (c : Nat) (v : Tensor) : (s.setTen c v).pas = s.pas := rfl
@[simp] theorem State.setTen_srt (s : State) (c : Nat) (v : Tensor) : (s.setTen c v).srt = s.srt := rfl
@[simp] theorem State.setTen_srv (s : State) (c : Nat) (v : Tensor) : (s.setTen c v).srv = s.srv := rfl
@[simp] theorem State.setTen_vid (s : State) (c : Nat) (v : Tensor) : (s.setTen c v).vid = s.vid := rfl
@[simp] theorem State.setTen_mbx (s : State) (c : Nat) (v : Tensor) : (s.setTen c v).mbx = s.mbx := rfl
@[simp] theorem State.setTen_part (s : State) (c : Nat) (v : Tensor) : (s.setTen c v).part = s.part := rfl
@[simp] theorem State.setTen_lnk (s : State) (c : Nat) (v : Tensor) : (s.setTen c v).lnk = s.lnk := rfl
@[simp] theorem State.setTen_sec (s : State) (c : Nat) (v : Tensor) : (s.setTen c v).sec = s.sec := rfl
@[simp] theorem State.setTen_upd (s : State) (c : Nat) (v : Tensor) : (s.setTen c v).upd = s.upd := rfl
@[simp] theorem State.setTen_pwr (s : State) (c : Nat) (v : Tensor) : (s.setTen c v).pwr = s.pwr := rfl
@[simp] theorem State.setTen_ras (s : State) (c : Nat) (v : Tensor) : (s.setTen c v).ras = s.ras := rfl
@[simp] theorem State.setTen_pair (s : State) (c : Nat) (v : Tensor) : (s.setTen c v).pair = s.pair := rfl
@[simp] theorem State.setTen_clk (s : State) (c : Nat) (v : Tensor) : (s.setTen c v).clk = s.clk := rfl
@[simp] theorem State.setTen_brd (s : State) (c : Nat) (v : Tensor) : (s.setTen c v).brd = s.brd := rfl

@[simp] theorem State.setIsl_regs (s : State) (i : Nat) (v : Island) : (s.setIsl i v).regs = s.regs := rfl
@[simp] theorem State.setIsl_time (s : State) (i : Nat) (v : Island) : (s.setIsl i v).time = s.time := rfl
@[simp] theorem State.setIsl_fresh (s : State) (i : Nat) (v : Island) : (s.setIsl i v).fresh = s.fresh := rfl
@[simp] theorem State.setIsl_pending (s : State) (i : Nat) (v : Island) : (s.setIsl i v).pending = s.pending := rfl
@[simp] theorem State.setIsl_reply (s : State) (i : Nat) (v : Island) : (s.setIsl i v).reply = s.reply := rfl
@[simp] theorem State.setIsl_host (s : State) (i : Nat) (v : Island) : (s.setIsl i v).host = s.host := rfl
@[simp] theorem State.setIsl_pln (s : State) (i : Nat) (v : Island) : (s.setIsl i v).pln = s.pln := rfl
@[simp] theorem State.setIsl_fry (s : State) (i : Nat) (v : Island) : (s.setIsl i v).fry = s.fry := rfl
@[simp] theorem State.setIsl_pas (s : State) (i : Nat) (v : Island) : (s.setIsl i v).pas = s.pas := rfl
@[simp] theorem State.setIsl_srt (s : State) (i : Nat) (v : Island) : (s.setIsl i v).srt = s.srt := rfl
@[simp] theorem State.setIsl_srv (s : State) (i : Nat) (v : Island) : (s.setIsl i v).srv = s.srv := rfl
@[simp] theorem State.setIsl_vid (s : State) (i : Nat) (v : Island) : (s.setIsl i v).vid = s.vid := rfl
@[simp] theorem State.setIsl_mbx (s : State) (i : Nat) (v : Island) : (s.setIsl i v).mbx = s.mbx := rfl
@[simp] theorem State.setIsl_part (s : State) (i : Nat) (v : Island) : (s.setIsl i v).part = s.part := rfl
@[simp] theorem State.setIsl_lnk (s : State) (i : Nat) (v : Island) : (s.setIsl i v).lnk = s.lnk := rfl
@[simp] theorem State.setIsl_sec (s : State) (i : Nat) (v : Island) : (s.setIsl i v).sec = s.sec := rfl
@[simp] theorem State.setIsl_upd (s : State) (i : Nat) (v : Island) : (s.setIsl i v).upd = s.upd := rfl
@[simp] theorem State.setIsl_pwr (s : State) (i : Nat) (v : Island) : (s.setIsl i v).pwr = s.pwr := rfl
@[simp] theorem State.setIsl_ras (s : State) (i : Nat) (v : Island) : (s.setIsl i v).ras = s.ras := rfl
@[simp] theorem State.setIsl_pair (s : State) (i : Nat) (v : Island) : (s.setIsl i v).pair = s.pair := rfl
@[simp] theorem State.setIsl_clk (s : State) (i : Nat) (v : Island) : (s.setIsl i v).clk = s.clk := rfl
@[simp] theorem State.setIsl_brd (s : State) (i : Nat) (v : Island) : (s.setIsl i v).brd = s.brd := rfl

@[simp] theorem State.updIsl_regs (s : State) (i : Nat) (f : Island → Island) : (s.updIsl i f).regs = s.regs := rfl
@[simp] theorem State.updIsl_time (s : State) (i : Nat) (f : Island → Island) : (s.updIsl i f).time = s.time := rfl
@[simp] theorem State.updIsl_fresh (s : State) (i : Nat) (f : Island → Island) : (s.updIsl i f).fresh = s.fresh := rfl
@[simp] theorem State.updIsl_pending (s : State) (i : Nat) (f : Island → Island) : (s.updIsl i f).pending = s.pending := rfl
@[simp] theorem State.updIsl_reply (s : State) (i : Nat) (f : Island → Island) : (s.updIsl i f).reply = s.reply := rfl
@[simp] theorem State.updIsl_host (s : State) (i : Nat) (f : Island → Island) : (s.updIsl i f).host = s.host := rfl
@[simp] theorem State.updIsl_pln (s : State) (i : Nat) (f : Island → Island) : (s.updIsl i f).pln = s.pln := rfl
@[simp] theorem State.updIsl_fry (s : State) (i : Nat) (f : Island → Island) : (s.updIsl i f).fry = s.fry := rfl
@[simp] theorem State.updIsl_pas (s : State) (i : Nat) (f : Island → Island) : (s.updIsl i f).pas = s.pas := rfl
@[simp] theorem State.updIsl_srt (s : State) (i : Nat) (f : Island → Island) : (s.updIsl i f).srt = s.srt := rfl
@[simp] theorem State.updIsl_srv (s : State) (i : Nat) (f : Island → Island) : (s.updIsl i f).srv = s.srv := rfl
@[simp] theorem State.updIsl_vid (s : State) (i : Nat) (f : Island → Island) : (s.updIsl i f).vid = s.vid := rfl
@[simp] theorem State.updIsl_mbx (s : State) (i : Nat) (f : Island → Island) : (s.updIsl i f).mbx = s.mbx := rfl
@[simp] theorem State.updIsl_part (s : State) (i : Nat) (f : Island → Island) : (s.updIsl i f).part = s.part := rfl
@[simp] theorem State.updIsl_lnk (s : State) (i : Nat) (f : Island → Island) : (s.updIsl i f).lnk = s.lnk := rfl
@[simp] theorem State.updIsl_sec (s : State) (i : Nat) (f : Island → Island) : (s.updIsl i f).sec = s.sec := rfl
@[simp] theorem State.updIsl_upd (s : State) (i : Nat) (f : Island → Island) : (s.updIsl i f).upd = s.upd := rfl
@[simp] theorem State.updIsl_pwr (s : State) (i : Nat) (f : Island → Island) : (s.updIsl i f).pwr = s.pwr := rfl
@[simp] theorem State.updIsl_ras (s : State) (i : Nat) (f : Island → Island) : (s.updIsl i f).ras = s.ras := rfl
@[simp] theorem State.updIsl_pair (s : State) (i : Nat) (f : Island → Island) : (s.updIsl i f).pair = s.pair := rfl
@[simp] theorem State.updIsl_clk (s : State) (i : Nat) (f : Island → Island) : (s.updIsl i f).clk = s.clk := rfl
@[simp] theorem State.updIsl_brd (s : State) (i : Nat) (f : Island → Island) : (s.updIsl i f).brd = s.brd := rfl

@[simp] theorem State.setCtx_regs (s : State) (c : Nat) (v : Ctx) : (s.setCtx c v).regs = s.regs := rfl
@[simp] theorem State.setCtx_time (s : State) (c : Nat) (v : Ctx) : (s.setCtx c v).time = s.time := rfl
@[simp] theorem State.setCtx_fresh (s : State) (c : Nat) (v : Ctx) : (s.setCtx c v).fresh = s.fresh := rfl
@[simp] theorem State.setCtx_pending (s : State) (c : Nat) (v : Ctx) : (s.setCtx c v).pending = s.pending := rfl
@[simp] theorem State.setCtx_reply (s : State) (c : Nat) (v : Ctx) : (s.setCtx c v).reply = s.reply := rfl
@[simp] theorem State.setCtx_host (s : State) (c : Nat) (v : Ctx) : (s.setCtx c v).host = s.host := rfl
@[simp] theorem State.setCtx_pln (s : State) (c : Nat) (v : Ctx) : (s.setCtx c v).pln = s.pln := rfl
@[simp] theorem State.setCtx_fry (s : State) (c : Nat) (v : Ctx) : (s.setCtx c v).fry = s.fry := rfl
@[simp] theorem State.setCtx_pas (s : State) (c : Nat) (v : Ctx) : (s.setCtx c v).pas = s.pas := rfl
@[simp] theorem State.setCtx_srt (s : State) (c : Nat) (v : Ctx) : (s.setCtx c v).srt = s.srt := rfl
@[simp] theorem State.setCtx_srv (s : State) (c : Nat) (v : Ctx) : (s.setCtx c v).srv = s.srv := rfl
@[simp] theorem State.setCtx_vid (s : State) (c : Nat) (v : Ctx) : (s.setCtx c v).vid = s.vid := rfl
@[simp] theorem State.setCtx_mbx (s : State) (c : Nat) (v : Ctx) : (s.setCtx c v).mbx = s.mbx := rfl
@[simp] theorem State.setCtx_part (s : State) (c : Nat) (v : Ctx) : (s.setCtx c v).part = s.part := rfl
@[simp] theorem State.setCtx_lnk (s : State) (c : Nat) (v : Ctx) : (s.setCtx c v).lnk = s.lnk := rfl
@[simp] theorem State.setCtx_sec (s : State) (c : Nat) (v : Ctx) : (s.setCtx c v).sec = s.sec := rfl
@[simp] theorem State.setCtx_upd (s : State) (c : Nat) (v : Ctx) : (s.setCtx c v).upd = s.upd := rfl
@[simp] theorem State.setCtx_pwr (s : State) (c : Nat) (v : Ctx) : (s.setCtx c v).pwr = s.pwr := rfl
@[simp] theorem State.setCtx_ras (s : State) (c : Nat) (v : Ctx) : (s.setCtx c v).ras = s.ras := rfl
@[simp] theorem State.setCtx_pair (s : State) (c : Nat) (v : Ctx) : (s.setCtx c v).pair = s.pair := rfl
@[simp] theorem State.setCtx_clk (s : State) (c : Nat) (v : Ctx) : (s.setCtx c v).clk = s.clk := rfl
@[simp] theorem State.setCtx_brd (s : State) (c : Nat) (v : Ctx) : (s.setCtx c v).brd = s.brd := rfl

@[simp] theorem State.setPage_regs (s : State) (p : Nat) (v : Page) : (s.setPage p v).regs = s.regs := by
  simp only [State.setPage]; split <;> rfl

@[simp] theorem State.setPage_time (s : State) (p : Nat) (v : Page) : (s.setPage p v).time = s.time := by
  simp only [State.setPage]; split <;> rfl

@[simp] theorem State.setPage_fresh (s : State) (p : Nat) (v : Page) : (s.setPage p v).fresh = s.fresh := by
  simp only [State.setPage]; split <;> rfl

@[simp] theorem State.setPage_pending (s : State) (p : Nat) (v : Page) : (s.setPage p v).pending = s.pending := by
  simp only [State.setPage]; split <;> rfl

@[simp] theorem State.setPage_reply (s : State) (p : Nat) (v : Page) : (s.setPage p v).reply = s.reply := by
  simp only [State.setPage]; split <;> rfl

@[simp] theorem State.setPage_host (s : State) (p : Nat) (v : Page) : (s.setPage p v).host = s.host := by
  simp only [State.setPage]; split <;> rfl

@[simp] theorem State.setPage_fry (s : State) (p : Nat) (v : Page) : (s.setPage p v).fry = s.fry := by
  simp only [State.setPage]; split <;> rfl

@[simp] theorem State.setPage_pas (s : State) (p : Nat) (v : Page) : (s.setPage p v).pas = s.pas := by
  simp only [State.setPage]; split <;> rfl

@[simp] theorem State.setPage_srt (s : State) (p : Nat) (v : Page) : (s.setPage p v).srt = s.srt := by
  simp only [State.setPage]; split <;> rfl

@[simp] theorem State.setPage_srv (s : State) (p : Nat) (v : Page) : (s.setPage p v).srv = s.srv := by
  simp only [State.setPage]; split <;> rfl

@[simp] theorem State.setPage_vid (s : State) (p : Nat) (v : Page) : (s.setPage p v).vid = s.vid := by
  simp only [State.setPage]; split <;> rfl

@[simp] theorem State.setPage_mbx (s : State) (p : Nat) (v : Page) : (s.setPage p v).mbx = s.mbx := by
  simp only [State.setPage]; split <;> rfl

@[simp] theorem State.setPage_part (s : State) (p : Nat) (v : Page) : (s.setPage p v).part = s.part := by
  simp only [State.setPage]; split <;> rfl

@[simp] theorem State.setPage_lnk (s : State) (p : Nat) (v : Page) : (s.setPage p v).lnk = s.lnk := by
  simp only [State.setPage]; split <;> rfl

@[simp] theorem State.setPage_sec (s : State) (p : Nat) (v : Page) : (s.setPage p v).sec = s.sec := by
  simp only [State.setPage]; split <;> rfl

@[simp] theorem State.setPage_upd (s : State) (p : Nat) (v : Page) : (s.setPage p v).upd = s.upd := by
  simp only [State.setPage]; split <;> rfl

@[simp] theorem State.setPage_pwr (s : State) (p : Nat) (v : Page) : (s.setPage p v).pwr = s.pwr := by
  simp only [State.setPage]; split <;> rfl

@[simp] theorem State.setPage_ras (s : State) (p : Nat) (v : Page) : (s.setPage p v).ras = s.ras := by
  simp only [State.setPage]; split <;> rfl

@[simp] theorem State.setPage_pair (s : State) (p : Nat) (v : Page) : (s.setPage p v).pair = s.pair := by
  simp only [State.setPage]; split <;> rfl

@[simp] theorem State.setPage_clk (s : State) (p : Nat) (v : Page) : (s.setPage p v).clk = s.clk := by
  simp only [State.setPage]; split <;> rfl

@[simp] theorem State.setPage_brd (s : State) (p : Nat) (v : Page) : (s.setPage p v).brd = s.brd := by
  simp only [State.setPage]; split <;> rfl


@[simp] theorem State.updPage_regs (s : State) (p : Nat) (f : Page → Page) : (s.updPage p f).regs = s.regs := State.setPage_regs s _ _

@[simp] theorem State.updPage_time (s : State) (p : Nat) (f : Page → Page) : (s.updPage p f).time = s.time := State.setPage_time s _ _

@[simp] theorem State.updPage_fresh (s : State) (p : Nat) (f : Page → Page) : (s.updPage p f).fresh = s.fresh := State.setPage_fresh s _ _

@[simp] theorem State.updPage_pending (s : State) (p : Nat) (f : Page → Page) : (s.updPage p f).pending = s.pending := State.setPage_pending s _ _

@[simp] theorem State.updPage_reply (s : State) (p : Nat) (f : Page → Page) : (s.updPage p f).reply = s.reply := State.setPage_reply s _ _

@[simp] theorem State.updPage_host (s : State) (p : Nat) (f : Page → Page) : (s.updPage p f).host = s.host := State.setPage_host s _ _

@[simp] theorem State.updPage_fry (s : State) (p : Nat) (f : Page → Page) : (s.updPage p f).fry = s.fry := State.setPage_fry s _ _

@[simp] theorem State.updPage_pas (s : State) (p : Nat) (f : Page → Page) : (s.updPage p f).pas = s.pas := State.setPage_pas s _ _

@[simp] theorem State.updPage_srt (s : State) (p : Nat) (f : Page → Page) : (s.updPage p f).srt = s.srt := State.setPage_srt s _ _

@[simp] theorem State.updPage_srv (s : State) (p : Nat) (f : Page → Page) : (s.updPage p f).srv = s.srv := State.setPage_srv s _ _

@[simp] theorem State.updPage_vid (s : State) (p : Nat) (f : Page → Page) : (s.updPage p f).vid = s.vid := State.setPage_vid s _ _

@[simp] theorem State.updPage_mbx (s : State) (p : Nat) (f : Page → Page) : (s.updPage p f).mbx = s.mbx := State.setPage_mbx s _ _

@[simp] theorem State.updPage_part (s : State) (p : Nat) (f : Page → Page) : (s.updPage p f).part = s.part := State.setPage_part s _ _

@[simp] theorem State.updPage_lnk (s : State) (p : Nat) (f : Page → Page) : (s.updPage p f).lnk = s.lnk := State.setPage_lnk s _ _

@[simp] theorem State.updPage_sec (s : State) (p : Nat) (f : Page → Page) : (s.updPage p f).sec = s.sec := State.setPage_sec s _ _

@[simp] theorem State.updPage_upd (s : State) (p : Nat) (f : Page → Page) : (s.updPage p f).upd = s.upd := State.setPage_upd s _ _

@[simp] theorem State.updPage_pwr (s : State) (p : Nat) (f : Page → Page) : (s.updPage p f).pwr = s.pwr := State.setPage_pwr s _ _

@[simp] theorem State.updPage_ras (s : State) (p : Nat) (f : Page → Page) : (s.updPage p f).ras = s.ras := State.setPage_ras s _ _

@[simp] theorem State.updPage_pair (s : State) (p : Nat) (f : Page → Page) : (s.updPage p f).pair = s.pair := State.setPage_pair s _ _

@[simp] theorem State.updPage_clk (s : State) (p : Nat) (f : Page → Page) : (s.updPage p f).clk = s.clk := State.setPage_clk s _ _

@[simp] theorem State.updPage_brd (s : State) (p : Nat) (f : Page → Page) : (s.updPage p f).brd = s.brd := State.setPage_brd s _ _


@[simp] theorem State.setChan_regs (s : State) (c : Nat) (v : Chan) : (s.setChan c v).regs = s.regs := rfl
@[simp] theorem State.setChan_time (s : State) (c : Nat) (v : Chan) : (s.setChan c v).time = s.time := rfl
@[simp] theorem State.setChan_fresh (s : State) (c : Nat) (v : Chan) : (s.setChan c v).fresh = s.fresh := rfl
@[simp] theorem State.setChan_pending (s : State) (c : Nat) (v : Chan) : (s.setChan c v).pending = s.pending := rfl
@[simp] theorem State.setChan_reply (s : State) (c : Nat) (v : Chan) : (s.setChan c v).reply = s.reply := rfl
@[simp] theorem State.setChan_host (s : State) (c : Nat) (v : Chan) : (s.setChan c v).host = s.host := rfl
@[simp] theorem State.setChan_fab (s : State) (c : Nat) (v : Chan) : (s.setChan c v).fab = s.fab := rfl
@[simp] theorem State.setChan_pln (s : State) (c : Nat) (v : Chan) : (s.setChan c v).pln = s.pln := rfl
@[simp] theorem State.setChan_pas (s : State) (c : Nat) (v : Chan) : (s.setChan c v).pas = s.pas := rfl
@[simp] theorem State.setChan_srt (s : State) (c : Nat) (v : Chan) : (s.setChan c v).srt = s.srt := rfl
@[simp] theorem State.setChan_srv (s : State) (c : Nat) (v : Chan) : (s.setChan c v).srv = s.srv := rfl
@[simp] theorem State.setChan_vid (s : State) (c : Nat) (v : Chan) : (s.setChan c v).vid = s.vid := rfl
@[simp] theorem State.setChan_mbx (s : State) (c : Nat) (v : Chan) : (s.setChan c v).mbx = s.mbx := rfl
@[simp] theorem State.setChan_part (s : State) (c : Nat) (v : Chan) : (s.setChan c v).part = s.part := rfl
@[simp] theorem State.setChan_lnk (s : State) (c : Nat) (v : Chan) : (s.setChan c v).lnk = s.lnk := rfl
@[simp] theorem State.setChan_sec (s : State) (c : Nat) (v : Chan) : (s.setChan c v).sec = s.sec := rfl
@[simp] theorem State.setChan_upd (s : State) (c : Nat) (v : Chan) : (s.setChan c v).upd = s.upd := rfl
@[simp] theorem State.setChan_pwr (s : State) (c : Nat) (v : Chan) : (s.setChan c v).pwr = s.pwr := rfl
@[simp] theorem State.setChan_ras (s : State) (c : Nat) (v : Chan) : (s.setChan c v).ras = s.ras := rfl
@[simp] theorem State.setChan_pair (s : State) (c : Nat) (v : Chan) : (s.setChan c v).pair = s.pair := rfl
@[simp] theorem State.setChan_clk (s : State) (c : Nat) (v : Chan) : (s.setChan c v).clk = s.clk := rfl
@[simp] theorem State.setChan_brd (s : State) (c : Nat) (v : Chan) : (s.setChan c v).brd = s.brd := rfl

@[simp] theorem State.setPass_regs (s : State) (p : Nat) (v : Pass) : (s.setPass p v).regs = s.regs := rfl
@[simp] theorem State.setPass_time (s : State) (p : Nat) (v : Pass) : (s.setPass p v).time = s.time := rfl
@[simp] theorem State.setPass_fresh (s : State) (p : Nat) (v : Pass) : (s.setPass p v).fresh = s.fresh := rfl
@[simp] theorem State.setPass_pending (s : State) (p : Nat) (v : Pass) : (s.setPass p v).pending = s.pending := rfl
@[simp] theorem State.setPass_reply (s : State) (p : Nat) (v : Pass) : (s.setPass p v).reply = s.reply := rfl
@[simp] theorem State.setPass_host (s : State) (p : Nat) (v : Pass) : (s.setPass p v).host = s.host := rfl
@[simp] theorem State.setPass_fab (s : State) (p : Nat) (v : Pass) : (s.setPass p v).fab = s.fab := rfl
@[simp] theorem State.setPass_pln (s : State) (p : Nat) (v : Pass) : (s.setPass p v).pln = s.pln := rfl
@[simp] theorem State.setPass_fry (s : State) (p : Nat) (v : Pass) : (s.setPass p v).fry = s.fry := rfl
@[simp] theorem State.setPass_srt (s : State) (p : Nat) (v : Pass) : (s.setPass p v).srt = s.srt := rfl
@[simp] theorem State.setPass_srv (s : State) (p : Nat) (v : Pass) : (s.setPass p v).srv = s.srv := rfl
@[simp] theorem State.setPass_vid (s : State) (p : Nat) (v : Pass) : (s.setPass p v).vid = s.vid := rfl
@[simp] theorem State.setPass_mbx (s : State) (p : Nat) (v : Pass) : (s.setPass p v).mbx = s.mbx := rfl
@[simp] theorem State.setPass_part (s : State) (p : Nat) (v : Pass) : (s.setPass p v).part = s.part := rfl
@[simp] theorem State.setPass_lnk (s : State) (p : Nat) (v : Pass) : (s.setPass p v).lnk = s.lnk := rfl
@[simp] theorem State.setPass_sec (s : State) (p : Nat) (v : Pass) : (s.setPass p v).sec = s.sec := rfl
@[simp] theorem State.setPass_upd (s : State) (p : Nat) (v : Pass) : (s.setPass p v).upd = s.upd := rfl
@[simp] theorem State.setPass_pwr (s : State) (p : Nat) (v : Pass) : (s.setPass p v).pwr = s.pwr := rfl
@[simp] theorem State.setPass_ras (s : State) (p : Nat) (v : Pass) : (s.setPass p v).ras = s.ras := rfl
@[simp] theorem State.setPass_pair (s : State) (p : Nat) (v : Pass) : (s.setPass p v).pair = s.pair := rfl
@[simp] theorem State.setPass_clk (s : State) (p : Nat) (v : Pass) : (s.setPass p v).clk = s.clk := rfl
@[simp] theorem State.setPass_brd (s : State) (p : Nat) (v : Pass) : (s.setPass p v).brd = s.brd := rfl

@[simp] theorem State.setSorter_regs (s : State) (k : Nat) (v : Sorter) : (s.setSorter k v).regs = s.regs := rfl
@[simp] theorem State.setSorter_time (s : State) (k : Nat) (v : Sorter) : (s.setSorter k v).time = s.time := rfl
@[simp] theorem State.setSorter_fresh (s : State) (k : Nat) (v : Sorter) : (s.setSorter k v).fresh = s.fresh := rfl
@[simp] theorem State.setSorter_pending (s : State) (k : Nat) (v : Sorter) : (s.setSorter k v).pending = s.pending := rfl
@[simp] theorem State.setSorter_reply (s : State) (k : Nat) (v : Sorter) : (s.setSorter k v).reply = s.reply := rfl
@[simp] theorem State.setSorter_host (s : State) (k : Nat) (v : Sorter) : (s.setSorter k v).host = s.host := rfl
@[simp] theorem State.setSorter_fab (s : State) (k : Nat) (v : Sorter) : (s.setSorter k v).fab = s.fab := rfl
@[simp] theorem State.setSorter_pln (s : State) (k : Nat) (v : Sorter) : (s.setSorter k v).pln = s.pln := rfl
@[simp] theorem State.setSorter_fry (s : State) (k : Nat) (v : Sorter) : (s.setSorter k v).fry = s.fry := rfl
@[simp] theorem State.setSorter_pas (s : State) (k : Nat) (v : Sorter) : (s.setSorter k v).pas = s.pas := rfl
@[simp] theorem State.setSorter_srv (s : State) (k : Nat) (v : Sorter) : (s.setSorter k v).srv = s.srv := rfl
@[simp] theorem State.setSorter_vid (s : State) (k : Nat) (v : Sorter) : (s.setSorter k v).vid = s.vid := rfl
@[simp] theorem State.setSorter_mbx (s : State) (k : Nat) (v : Sorter) : (s.setSorter k v).mbx = s.mbx := rfl
@[simp] theorem State.setSorter_part (s : State) (k : Nat) (v : Sorter) : (s.setSorter k v).part = s.part := rfl
@[simp] theorem State.setSorter_lnk (s : State) (k : Nat) (v : Sorter) : (s.setSorter k v).lnk = s.lnk := rfl
@[simp] theorem State.setSorter_sec (s : State) (k : Nat) (v : Sorter) : (s.setSorter k v).sec = s.sec := rfl
@[simp] theorem State.setSorter_upd (s : State) (k : Nat) (v : Sorter) : (s.setSorter k v).upd = s.upd := rfl
@[simp] theorem State.setSorter_pwr (s : State) (k : Nat) (v : Sorter) : (s.setSorter k v).pwr = s.pwr := rfl
@[simp] theorem State.setSorter_ras (s : State) (k : Nat) (v : Sorter) : (s.setSorter k v).ras = s.ras := rfl
@[simp] theorem State.setSorter_pair (s : State) (k : Nat) (v : Sorter) : (s.setSorter k v).pair = s.pair := rfl
@[simp] theorem State.setSorter_clk (s : State) (k : Nat) (v : Sorter) : (s.setSorter k v).clk = s.clk := rfl
@[simp] theorem State.setSorter_brd (s : State) (k : Nat) (v : Sorter) : (s.setSorter k v).brd = s.brd := rfl

@[simp] theorem State.setPrt_regs (s : State) (f : Nat) (v : Part) : (s.setPrt f v).regs = s.regs := rfl
@[simp] theorem State.setPrt_time (s : State) (f : Nat) (v : Part) : (s.setPrt f v).time = s.time := rfl
@[simp] theorem State.setPrt_fresh (s : State) (f : Nat) (v : Part) : (s.setPrt f v).fresh = s.fresh := rfl
@[simp] theorem State.setPrt_pending (s : State) (f : Nat) (v : Part) : (s.setPrt f v).pending = s.pending := rfl
@[simp] theorem State.setPrt_reply (s : State) (f : Nat) (v : Part) : (s.setPrt f v).reply = s.reply := rfl
@[simp] theorem State.setPrt_host (s : State) (f : Nat) (v : Part) : (s.setPrt f v).host = s.host := rfl
@[simp] theorem State.setPrt_fab (s : State) (f : Nat) (v : Part) : (s.setPrt f v).fab = s.fab := rfl
@[simp] theorem State.setPrt_pln (s : State) (f : Nat) (v : Part) : (s.setPrt f v).pln = s.pln := rfl
@[simp] theorem State.setPrt_fry (s : State) (f : Nat) (v : Part) : (s.setPrt f v).fry = s.fry := rfl
@[simp] theorem State.setPrt_pas (s : State) (f : Nat) (v : Part) : (s.setPrt f v).pas = s.pas := rfl
@[simp] theorem State.setPrt_srt (s : State) (f : Nat) (v : Part) : (s.setPrt f v).srt = s.srt := rfl
@[simp] theorem State.setPrt_srv (s : State) (f : Nat) (v : Part) : (s.setPrt f v).srv = s.srv := rfl
@[simp] theorem State.setPrt_vid (s : State) (f : Nat) (v : Part) : (s.setPrt f v).vid = s.vid := rfl
@[simp] theorem State.setPrt_mbx (s : State) (f : Nat) (v : Part) : (s.setPrt f v).mbx = s.mbx := rfl
@[simp] theorem State.setPrt_lnk (s : State) (f : Nat) (v : Part) : (s.setPrt f v).lnk = s.lnk := rfl
@[simp] theorem State.setPrt_sec (s : State) (f : Nat) (v : Part) : (s.setPrt f v).sec = s.sec := rfl
@[simp] theorem State.setPrt_upd (s : State) (f : Nat) (v : Part) : (s.setPrt f v).upd = s.upd := rfl
@[simp] theorem State.setPrt_pwr (s : State) (f : Nat) (v : Part) : (s.setPrt f v).pwr = s.pwr := rfl
@[simp] theorem State.setPrt_ras (s : State) (f : Nat) (v : Part) : (s.setPrt f v).ras = s.ras := rfl
@[simp] theorem State.setPrt_pair (s : State) (f : Nat) (v : Part) : (s.setPrt f v).pair = s.pair := rfl
@[simp] theorem State.setPrt_clk (s : State) (f : Nat) (v : Part) : (s.setPrt f v).clk = s.clk := rfl
@[simp] theorem State.setPrt_brd (s : State) (f : Nat) (v : Part) : (s.setPrt f v).brd = s.brd := rfl

@[simp] theorem State.setMbxW_regs (s : State) (f m w v : Nat) : (s.setMbxW f m w v).regs = s.regs := rfl
@[simp] theorem State.setMbxW_time (s : State) (f m w v : Nat) : (s.setMbxW f m w v).time = s.time := rfl
@[simp] theorem State.setMbxW_fresh (s : State) (f m w v : Nat) : (s.setMbxW f m w v).fresh = s.fresh := rfl
@[simp] theorem State.setMbxW_pending (s : State) (f m w v : Nat) : (s.setMbxW f m w v).pending = s.pending := rfl
@[simp] theorem State.setMbxW_reply (s : State) (f m w v : Nat) : (s.setMbxW f m w v).reply = s.reply := rfl
@[simp] theorem State.setMbxW_host (s : State) (f m w v : Nat) : (s.setMbxW f m w v).host = s.host := rfl
@[simp] theorem State.setMbxW_fab (s : State) (f m w v : Nat) : (s.setMbxW f m w v).fab = s.fab := rfl
@[simp] theorem State.setMbxW_pln (s : State) (f m w v : Nat) : (s.setMbxW f m w v).pln = s.pln := rfl
@[simp] theorem State.setMbxW_fry (s : State) (f m w v : Nat) : (s.setMbxW f m w v).fry = s.fry := rfl
@[simp] theorem State.setMbxW_pas (s : State) (f m w v : Nat) : (s.setMbxW f m w v).pas = s.pas := rfl
@[simp] theorem State.setMbxW_srt (s : State) (f m w v : Nat) : (s.setMbxW f m w v).srt = s.srt := rfl
@[simp] theorem State.setMbxW_srv (s : State) (f m w v : Nat) : (s.setMbxW f m w v).srv = s.srv := rfl
@[simp] theorem State.setMbxW_vid (s : State) (f m w v : Nat) : (s.setMbxW f m w v).vid = s.vid := rfl
@[simp] theorem State.setMbxW_part (s : State) (f m w v : Nat) : (s.setMbxW f m w v).part = s.part := rfl
@[simp] theorem State.setMbxW_lnk (s : State) (f m w v : Nat) : (s.setMbxW f m w v).lnk = s.lnk := rfl
@[simp] theorem State.setMbxW_sec (s : State) (f m w v : Nat) : (s.setMbxW f m w v).sec = s.sec := rfl
@[simp] theorem State.setMbxW_upd (s : State) (f m w v : Nat) : (s.setMbxW f m w v).upd = s.upd := rfl
@[simp] theorem State.setMbxW_pwr (s : State) (f m w v : Nat) : (s.setMbxW f m w v).pwr = s.pwr := rfl
@[simp] theorem State.setMbxW_ras (s : State) (f m w v : Nat) : (s.setMbxW f m w v).ras = s.ras := rfl
@[simp] theorem State.setMbxW_pair (s : State) (f m w v : Nat) : (s.setMbxW f m w v).pair = s.pair := rfl
@[simp] theorem State.setMbxW_clk (s : State) (f m w v : Nat) : (s.setMbxW f m w v).clk = s.clk := rfl
@[simp] theorem State.setMbxW_brd (s : State) (f m w v : Nat) : (s.setMbxW f m w v).brd = s.brd := rfl

@[simp] theorem State.hwSet_time (s : State) (r : Reg) (i m : Nat) : (s.hwSet r i m).time = s.time := by
  unfold State.hwSet; cases r <;> rfl

@[simp] theorem State.hwSet_fresh (s : State) (r : Reg) (i m : Nat) : (s.hwSet r i m).fresh = s.fresh := by
  unfold State.hwSet; cases r <;> rfl

@[simp] theorem State.hwSet_pending (s : State) (r : Reg) (i m : Nat) : (s.hwSet r i m).pending = s.pending := by
  unfold State.hwSet; cases r <;> rfl

@[simp] theorem State.hwSet_reply (s : State) (r : Reg) (i m : Nat) : (s.hwSet r i m).reply = s.reply := by
  unfold State.hwSet; cases r <;> rfl

@[simp] theorem State.hwSet_host (s : State) (r : Reg) (i m : Nat) : (s.hwSet r i m).host = s.host := by
  unfold State.hwSet; cases r <;> rfl

@[simp] theorem State.hwSet_fab (s : State) (r : Reg) (i m : Nat) : (s.hwSet r i m).fab = s.fab := by
  unfold State.hwSet; cases r <;> rfl

@[simp] theorem State.hwSet_pln (s : State) (r : Reg) (i m : Nat) : (s.hwSet r i m).pln = s.pln := by
  unfold State.hwSet; cases r <;> rfl

@[simp] theorem State.hwSet_fry (s : State) (r : Reg) (i m : Nat) : (s.hwSet r i m).fry = s.fry := by
  unfold State.hwSet; cases r <;> rfl

@[simp] theorem State.hwSet_pas (s : State) (r : Reg) (i m : Nat) : (s.hwSet r i m).pas = s.pas := by
  unfold State.hwSet; cases r <;> rfl

@[simp] theorem State.hwSet_srt (s : State) (r : Reg) (i m : Nat) : (s.hwSet r i m).srt = s.srt := by
  unfold State.hwSet; cases r <;> rfl

@[simp] theorem State.hwSet_srv (s : State) (r : Reg) (i m : Nat) : (s.hwSet r i m).srv = s.srv := by
  unfold State.hwSet; cases r <;> rfl

@[simp] theorem State.hwSet_vid (s : State) (r : Reg) (i m : Nat) : (s.hwSet r i m).vid = s.vid := by
  unfold State.hwSet; cases r <;> rfl

@[simp] theorem State.hwSet_mbx (s : State) (r : Reg) (i m : Nat) : (s.hwSet r i m).mbx = s.mbx := by
  unfold State.hwSet; cases r <;> rfl

@[simp] theorem State.hwSet_part (s : State) (r : Reg) (i m : Nat) : (s.hwSet r i m).part = s.part := by
  unfold State.hwSet; cases r <;> rfl

@[simp] theorem State.hwSet_lnk (s : State) (r : Reg) (i m : Nat) : (s.hwSet r i m).lnk = s.lnk := by
  unfold State.hwSet; cases r <;> rfl

@[simp] theorem State.hwSet_sec (s : State) (r : Reg) (i m : Nat) : (s.hwSet r i m).sec = s.sec := by
  unfold State.hwSet; cases r <;> rfl

@[simp] theorem State.hwSet_upd (s : State) (r : Reg) (i m : Nat) : (s.hwSet r i m).upd = s.upd := by
  unfold State.hwSet; cases r <;> rfl

@[simp] theorem State.hwSet_pwr (s : State) (r : Reg) (i m : Nat) : (s.hwSet r i m).pwr = s.pwr := by
  unfold State.hwSet; cases r <;> rfl

@[simp] theorem State.hwSet_ras (s : State) (r : Reg) (i m : Nat) : (s.hwSet r i m).ras = s.ras := by
  unfold State.hwSet; cases r <;> rfl

@[simp] theorem State.hwSet_pair (s : State) (r : Reg) (i m : Nat) : (s.hwSet r i m).pair = s.pair := by
  unfold State.hwSet; cases r <;> rfl

@[simp] theorem State.hwSet_clk (s : State) (r : Reg) (i m : Nat) : (s.hwSet r i m).clk = s.clk := by
  unfold State.hwSet; cases r <;> rfl

@[simp] theorem State.hwSet_brd (s : State) (r : Reg) (i m : Nat) : (s.hwSet r i m).brd = s.brd := by
  unfold State.hwSet; cases r <;> rfl

/- A page state entry is written to the page table and the copies in the translation caches only. -/

@[simp] theorem State.setPage_pln_data (s : State) (p : Nat) (v : Page) : (s.setPage p v).pln.data = s.pln.data := by
  simp only [State.setPage]; split <;> rfl

@[simp] theorem State.setPage_pln_bootEpoch (s : State) (p : Nat) (v : Page) : (s.setPage p v).pln.bootEpoch = s.pln.bootEpoch := by
  simp only [State.setPage]; split <;> rfl

@[simp] theorem State.setPage_pln_secEpoch (s : State) (p : Nat) (v : Page) : (s.setPage p v).pln.secEpoch = s.pln.secEpoch := by
  simp only [State.setPage]; split <;> rfl

@[simp] theorem State.setPage_pln_secFmt (s : State) (p : Nat) (v : Page) : (s.setPage p v).pln.secFmt = s.pln.secFmt := by
  simp only [State.setPage]; split <;> rfl

@[simp] theorem State.setPage_pln_secKey (s : State) (p : Nat) (v : Page) : (s.setPage p v).pln.secKey = s.pln.secKey := by
  simp only [State.setPage]; split <;> rfl

@[simp] theorem State.setPage_pln_maps (s : State) (p : Nat) (v : Page) : (s.setPage p v).pln.maps = s.pln.maps := by
  simp only [State.setPage]; split <;> rfl

@[simp] theorem State.setPage_pln_retired (s : State) (p : Nat) (v : Page) : (s.setPage p v).pln.retired = s.pln.retired := by
  simp only [State.setPage]; split <;> rfl

@[simp] theorem State.setPage_pln_keyGen (s : State) (p : Nat) (v : Page) : (s.setPage p v).pln.keyGen = s.pln.keyGen := by
  simp only [State.setPage]; split <;> rfl

@[simp] theorem State.setPage_fab_threads (s : State) (p : Nat) (v : Page) : (s.setPage p v).fab.threads = s.fab.threads := by
  simp only [State.setPage]; split <;> rfl

@[simp] theorem State.setPage_fab_tens (s : State) (p : Nat) (v : Page) : (s.setPage p v).fab.tens = s.fab.tens := by
  simp only [State.setPage]; split <;> rfl

@[simp] theorem State.setPage_fab_ctxs (s : State) (p : Nat) (v : Page) : (s.setPage p v).fab.ctxs = s.fab.ctxs := by
  simp only [State.setPage]; split <;> rfl

@[simp] theorem State.setPage_fab_lsram (s : State) (p : Nat) (v : Page) : (s.setPage p v).fab.lsram = s.fab.lsram := by
  simp only [State.setPage]; split <;> rfl

@[simp] theorem State.setPage_fab_istore (s : State) (p : Nat) (v : Page) : (s.setPage p v).fab.istore = s.fab.istore := by
  simp only [State.setPage]; split <;> rfl

@[simp] theorem State.setPage_fab_cores (s : State) (p : Nat) (v : Page) : (s.setPage p v).fab.cores = s.fab.cores := by
  simp only [State.setPage]; split <;> rfl

/- Tables. -/

theorem tabGet_set_self {α : Type} (t : Tab α) (d : α) (k : Nat) (v : α) : tabGet (tabSet t k v) d k = v := by
  induction t with
  | nil => simp [tabSet, tabGet]
  | cons e r ih => by_cases h : e.1 = k <;> simp [tabSet, tabGet, h, ih]

theorem tabGet_set_other {α : Type} (t : Tab α) (d : α) (j k : Nat) (v : α) (h : j ≠ k) : tabGet (tabSet t k v) d j = tabGet t d j := by
  induction t with
  | nil => simp [tabSet, tabGet, Ne.symm h]
  | cons e r ih =>
    by_cases hk : e.1 = k
    · subst hk; simp [tabSet, tabGet, Ne.symm h]
    · by_cases hj : e.1 = j <;> simp [tabSet, tabGet, hk, hj, ih, h]

/- Reading what was written. -/

theorem regGet_set_self (f : RegFile) (r : Reg) (i : Nat) (v : Word) : regGet (regSet f r i v) r i = v := by
  induction f with
  | nil => simp [regSet, regGet]
  | cons e t ih => by_cases h : e.1.reg = r ∧ e.1.inst = i <;> simp [regSet, regGet, h, ih]

theorem regGet_set_other (f : RegFile) (r q : Reg) (i j : Nat) (v : Word) (h : ¬(q = r ∧ j = i)) :
    regGet (regSet f r i v) q j = regGet f q j := by
  have h2 : ¬(r = q ∧ i = j) := fun e => h ⟨e.1.symm, e.2.symm⟩
  induction f with
  | nil => simp [regSet, regGet, h2]
  | cons e t ih =>
    by_cases hk : e.1.reg = r ∧ e.1.inst = i
    · simp [regSet, regGet, hk, h2]
    · simp only [regSet, hk, if_false, regGet, ih]

/-- A register reads what was written to it, in its width. -/
theorem State.rd_wr_self (s : State) (r : Reg) (i : Nat) (v : Word) : (s.wr r i v).rd r i = r.fit v := by
  simp [State.rd, State.wr, regGet_set_self]

/-- A write of one copy of a register leaves every other register and copy alone. -/
theorem State.rd_wr_other (s : State) (r q : Reg) (i j : Nat) (v : Word) (h : ¬(q = r ∧ j = i)) : (s.wr r i v).rd q j = s.rd q j := by
  simp [State.rd, State.wr, regGet_set_other _ _ _ _ _ _ h]

@[simp] theorem State.th_setTh_self (s : State) (g : Nat) (v : Thread) : (s.setTh g v).th g = v := by
  simp [State.th, State.setTh, tabGet_set_self]

theorem State.th_setTh_other (s : State) (g k : Nat) (v : Thread) (h : k ≠ g) : (s.setTh g v).th k = s.th k := by
  simp [State.th, State.setTh, tabGet_set_other _ _ _ _ _ h]

@[simp] theorem State.page_setPage_self (s : State) (p : Nat) (v : Page) : (s.setPage p v).page p = v := by
  unfold State.setPage
  dsimp only
  split <;> exact tabGet_set_self _ _ _ _

theorem State.page_setPage_other (s : State) (p q : Nat) (v : Page) (h : q ≠ p) : (s.setPage p v).page q = s.page q := by
  unfold State.setPage
  dsimp only
  split <;> exact tabGet_set_other _ _ _ _ _ h

@[simp] theorem State.chan_setChan_self (s : State) (c : Nat) (v : Chan) : (s.setChan c v).chan c = v := by
  simp [State.chan, State.setChan, tabGet_set_self]

@[simp] theorem State.pass_setPass_self (s : State) (p : Nat) (v : Pass) : (s.setPass p v).pass p = v := by
  simp [State.pass, State.setPass, tabGet_set_self]

@[simp] theorem State.sorter_setSorter_self (s : State) (k : Nat) (v : Sorter) : (s.setSorter k v).sorter k = v := by
  simp [State.sorter, State.setSorter, tabGet_set_self]

@[simp] theorem State.prt_setPrt_self (s : State) (f : Nat) (p : Part) : (s.setPrt f p).prt f = p := by
  simp [State.prt, State.setPrt, tabGet_set_self]

/-- An operation on units that exist has its effect, and one on a unit that does not exist changes nothing. -/
@[simp] theorem onUnit_true (s t : State) : onUnit s true t = .next t := rfl

@[simp] theorem onUnit_false (s t : State) : onUnit s false t = .next s := rfl

theorem onUnit_next_iff (s : State) (c : Bool) (t u : State) : onUnit s c t = .next u ↔ (if c then t else s) = u := by
  simp [onUnit]

/-- A command in its mailbox runs its effect. -/
theorem State.cmd_next (s : State) (fn mbx op : Nat) (f : State → State) (hf : fn ≤ 18) (hm : mbx ≤ 16) (h : s.executes fn mbx op = true) :
    s.cmd fn mbx op f = .next (f s) := by
  simp [State.cmd, h, hf, hm, onUnit]

/-- A mailbox without that command is left alone. -/
theorem State.cmd_idle (s : State) (fn mbx op : Nat) (f : State → State) (hf : fn ≤ 18) (hm : mbx ≤ 16) (h : s.executes fn mbx op = false) :
    s.cmd fn mbx op f = .next s := by
  simp [State.cmd, h, hf, hm, onUnit]

end Sys2Proof.Machine
end

