-- ==== Sys2Proof/Laws/Frames.lean ====
section
/-! SUPPORT. What the shared operations leave unchanged: a response, a write of the plain, and the readings that follow a write. -/

namespace Sys2Proof.Machine

open Sys2Proof

/-- Two states that differ at most in mailboxes, pending vectors and forwarded posts. -/
def SameButMail (s t : State) : Prop :=
  t = { s with mbx := t.mbx, lnk := { s.lnk with pba := t.lnk.pba }, pair := { s.pair with inputs := t.pair.inputs } }

theorem SameButMail.trans {s t u : State} (a : SameButMail s t) (b : SameButMail t u) : SameButMail s u := by
  unfold SameButMail at *; rw [b, a]

theorem sameButMail_refl (s : State) : SameButMail s s := rfl

theorem sameButMail_setMbxW (s : State) (f m w v : Nat) : SameButMail s (s.setMbxW f m w v) := rfl

theorem sameButMail_setMbxWs (s : State) (f m w : Nat) (ws : List Nat) : SameButMail s (s.setMbxWs f m w ws) := by
  induction ws generalizing s w with
  | nil => rfl
  | cons v vs ih => exact (sameButMail_setMbxW s f m w v).trans (ih _ _)

theorem sameButMail_raiseVec (s : State) (f v : Nat) : SameButMail s (s.raiseVec f v) := by
  unfold State.raiseVec; dsimp only; split <;> rfl

theorem sameButMail_loadMirror (s : State) : SameButMail s s.loadMirror := by
  unfold State.loadMirror
  split
  · rfl
  · split
    · rfl
    · split
      · rfl
      · refine SameButMail.trans ?_ (sameButMail_setMbxW _ _ _ _ _)
        refine SameButMail.trans ?_ (sameButMail_setMbxWs _ _ _ _ _)
        rfl

/-- A response changes mailbox words, the vectors that it raises and the queue of forwarded posts (R357). -/
theorem respond_sameButMail (s : State) (f m r : Nat) (ws : List Nat) : SameButMail s (s.respond f m r ws) := by
  unfold State.respond
  split
  · exact (sameButMail_setMbxW _ _ _ _ _).trans (sameButMail_loadMirror _)
  · dsimp only
    have h := (sameButMail_setMbxWs s f m 0 (r % 65536 :: ws)).trans (sameButMail_setMbxW _ f m 63 (bits (s.mbxW f m 63) 0 12 +
      (1 + ws.length) % 64 * 2 ^ 12 + bits (s.mbxW f m 63) 18 8 * 2 ^ 18 + bits (s.mbxW f m 63) 26 1 * 2 ^ 26 + 2 ^ 30))
    split
    · split
      · exact h.trans rfl
      · exact h
    · split
      · exact h.trans (sameButMail_raiseVec _ _ _)
      · exact h

/- Memories. -/

theorem memGet_memClear_in (m : Memory) (lo n a : Nat) (h : lo ≤ a ∧ a < lo + n) : memGet (memClear m lo n) a = 0 := by
  induction m with
  | nil => rfl
  | cons c r ih =>
    obtain ⟨k, b⟩ := c
    unfold memClear at *
    by_cases hk : lo ≤ k ∧ k < lo + n
    · rw [List.filter_cons_of_neg (by simp; omega)]
      exact ih
    · rw [List.filter_cons_of_pos (by simp; omega)]
      unfold memGet
      rw [if_neg (by rintro rfl; exact hk h)]
      exact ih

theorem memGet_memClear_out (m : Memory) (lo n a : Nat) (h : a < lo ∨ lo + n ≤ a) : memGet (memClear m lo n) a = memGet m a := by
  induction m with
  | nil => rfl
  | cons c r ih =>
    obtain ⟨k, b⟩ := c
    unfold memClear at *
    by_cases hk : lo ≤ k ∧ k < lo + n
    · rw [List.filter_cons_of_neg (by simp; omega), ih]
      unfold memGet
      rw [if_neg (by omega)]
      cases r <;> rfl
    · rw [List.filter_cons_of_pos (by simp; omega)]
      unfold memGet
      rw [ih]

/-- Reading back what was written. -/
theorem memRead_memWrite_self (m : Memory) (a : Nat) (l : List Byte) (h : m.wf = true) : memRead (memWrite m a l) a l.length = l := by
  induction l generalizing m a with
  | nil => rfl
  | cons b r ih =>
    simp only [List.length_cons, memRead, memWrite]
    congr 1
    · rw [memGet_memWrite_other _ _ _ _ (Or.inl (by omega)), memGet_memSet_self _ _ _ h]
    · exact ih _ _ (memSet_wf _ _ _ h)

/- The plain. -/

/-- The page takes writes, and none of its sectors would come alive with a page that is UNWRITTEN (R164, R166). -/
def Writable (s : State) (p : Nat) : Prop :=
  (s.page p).st = .written ∨
  ((s.page p).st = .unwritten ∧ ∀ q, q / 256 = p → tabGet s.pln.secEpoch 0 q ≠ (s.page p).epoch)

theorem touch_page_self (s : State) (psn : Nat) (kv : Bool) :
    (s.touch psn kv).page (psn / 256) = { s.page (psn / 256) with
      st := if (s.page (psn / 256)).st == .unwritten then .written else (s.page (psn / 256)).st
      kvc := (s.page (psn / 256)).kvc || kv } := by
  exact State.page_setPage_self s _ _

theorem touch_page_other (s : State) (psn p : Nat) (kv : Bool) (h : p ≠ psn / 256) : (s.touch psn kv).page p = s.page p :=
  State.page_setPage_other s _ _ _ h

theorem touch_secEpoch (s : State) (psn q : Nat) (kv : Bool) :
    tabGet (s.touch psn kv).pln.secEpoch 0 q = if q = psn then (s.page (psn / 256)).epoch else tabGet s.pln.secEpoch 0 q := by
  by_cases h : q = psn
  · subst h; simp [State.touch, tabGet_set_self]
  · simp [State.touch, tabGet_set_other _ _ _ _ _ h, h]

theorem touch_fresh (s : State) (psn q : Nat) (kv : Bool) (h : Writable s (psn / 256)) :
    (s.touch psn kv).fresh? q = if q = psn then true else s.fresh? q := by
  unfold State.fresh?
  by_cases hq : q = psn
  · subst hq
    rcases h with h | h <;> simp [touch_page_self, touch_secEpoch, h]
  · by_cases hp : q / 256 = psn / 256
    · rcases h with h | ⟨h, hn⟩
      · simp [hp, touch_page_self, touch_secEpoch, h, hq]
      · have := hn q hp
        simp [hp, touch_page_self, touch_secEpoch, h, hq, this]
    · simp [touch_page_other _ _ _ _ hp, touch_secEpoch, hq]

theorem touch_plainByte (s : State) (psn : Nat) (kv : Bool) (h : Writable s (psn / 256)) (p o : Nat) :
    (s.touch psn kv).plainByte p o = s.plainByte p o := by
  unfold State.plainByte
  dsimp only
  rw [touch_fresh s psn _ kv h]
  have hd : (s.touch psn kv).pln.data = if s.fresh? psn then s.pln.data else memClear s.pln.data (psn * 256) 256 := rfl
  rw [hd]
  by_cases hq : p * 256 + o / 256 = psn
  · rw [hq]
    by_cases hf : s.fresh? psn
    · simp [hf]
    · simp only [hf, Bool.false_eq_true, if_true, if_false]
      exact memGet_memClear_in _ _ _ _ (by omega)
  · simp only [hq, if_false]
    by_cases hf : s.fresh? psn
    · simp [hf]
    · simp only [hf, Bool.false_eq_true, if_false]
      rw [memGet_memClear_out _ _ _ _ (by omega)]

theorem touch_writable (s : State) (psn p : Nat) (kv : Bool) (h : Writable s (psn / 256)) (hp : Writable s p) :
    Writable (s.touch psn kv) p := by
  by_cases e : p = psn / 256
  · subst e; left; rcases h with h | h <;> simp [touch_page_self, h]
  · unfold Writable at *
    rw [touch_page_other _ _ _ _ e]
    rcases hp with hp | ⟨hp, hn⟩
    · exact Or.inl hp
    · refine Or.inr ⟨hp, fun q hq => ?_⟩
      rw [touch_secEpoch, if_neg (by rintro rfl; exact e hq.symm)]
      exact hn q hq

theorem resend_pln (s : State) (p : Nat) : (s.resend p).pln = s.pln := by
  unfold State.resend; dsimp only; split
  · split <;> rfl
  · rfl

theorem resend_plainByte (s : State) (n p o : Nat) : (s.resend n).plainByte p o = s.plainByte p o := by
  unfold State.plainByte State.fresh? State.page; rw [resend_pln]

/-- A write of the plain leaves every byte outside the written ones as it reads (R166). -/
theorem plainPut_plainByte_other (l : List Byte) (s : State) (ppn off : Nat) (kv : Bool) (p o : Nat) (h : Writable s ppn)
    (hin : off + l.length ≤ 65536) (ho : p * 65536 + o < ppn * 65536 + off ∨ ppn * 65536 + off + l.length ≤ p * 65536 + o) :
    (s.plainPut ppn off kv l).plainByte p o = s.plainByte p o := by
  induction l generalizing s off with
  | nil => exact resend_plainByte s ppn p o
  | cons b r ih =>
    simp only [List.length_cons] at hin ho
    have hp : (ppn * 256 + off / 256) / 256 = ppn := by omega
    unfold State.plainPut
    dsimp only
    generalize ht : (if (s.fresh? (ppn * 256 + off / 256) && s.plainFmt (ppn * 256 + off / 256) == b2n kv) = true then s
      else s.touch (ppn * 256 + off / 256) kv) = t
    have hw : Writable t ppn := by
      subst ht; split
      · exact h
      · exact touch_writable _ _ _ _ (by rw [hp]; exact h) h
    have hb : t.plainByte p o = s.plainByte p o := by
      subst ht; split
      · rfl
      · exact touch_plainByte _ _ _ (by rw [hp]; exact h) _ _
    rw [ih { t with pln := { t.pln with data := memSet t.pln.data ((ppn * 256 + off / 256) * 256 + off % 256) b } } (off + 1) hw
      (by omega) (by omega), ← hb]
    have hf : ∀ q, State.fresh? { t with pln := { t.pln with data := memSet t.pln.data ((ppn * 256 + off / 256) * 256 + off % 256) b } } q
      = t.fresh? q := fun _ => rfl
    unfold State.plainByte
    dsimp only
    rw [hf, memGet_memSet_other _ _ _ _ (by omega)]

/- Threads. -/

/-- A change of one thread. -/
theorem State.updTh_th (s : State) (g h : Nat) (f : Thread → Thread) : (s.updTh g f).th h = if h = g then f (s.th g) else s.th h := by
  by_cases e : h = g
  · subst e; simp [State.updTh, State.setTh, State.th, tabGet_set_self]
  · simp [State.updTh, State.setTh, State.th, tabGet_set_other _ _ _ _ _ e, e]

/-- The cycle in which an instruction of a thread issues (R47). -/
def State.issueCycle (s : State) (g : Nat) : Nat := (s.slotCycle (thCore g)).getD (s.islCycle (thIsl g))

/-- What retiring an instruction does to every thread (R71). -/
theorem State.retired_th (s : State) (g h len : Nat) : (s.retired g len).th h =
    if h = g then { s.th g with lastIssue := some (s.issueCycle g), stall := .none, pc := (s.th g).pc + w64 len, instret := (s.th g).instret + 1 }
    else s.th h := by
  unfold State.retired
  rw [State.updTh_th]
  have e : ∀ h, (s.slotUsed g).th h = (s.updTh g fun t => { t with lastIssue := some (s.issueCycle g), stall := .none }).th h := fun _ => rfl
  split
  · rw [e, State.updTh_th]; simp
  · rw [e, State.updTh_th, if_neg ‹_›]

/-- A write of an integer register changes that register and the marks of the loads that would write it. -/
theorem Thread.putX_eq (t : Thread) (n : Nat) (v : Word) : t.putX n v = { t with x := (t.setX n v).x, loads := (t.putX n v).loads } := by
  unfold Thread.putX Thread.setX Thread.killLoads
  split <;> split <;> rfl

/-- What writing an integer register and retiring does to every thread (R71). -/
theorem State.retireX_th (s : State) (g h len rd : Nat) (v : Word) : (s.retireX g len rd v).th h =
    if h = g then { (s.th g).putX rd v with
      lastIssue := some (s.issueCycle g), stall := .none, pc := (s.th g).pc + w64 len, instret := (s.th g).instret + 1 }
    else s.th h := by
  have c : (s.updTh g (·.putX rd v)).issueCycle g = s.issueCycle g := rfl
  unfold State.retireX
  rw [State.retired_th, State.updTh_th, c]
  by_cases e : h = g
  · subst e; rw [if_pos rfl, if_pos rfl, if_pos rfl, Thread.putX_eq]
  · simp [e, State.updTh_th]

/- Bits. -/

theorem bitAt_testBit (v i : Nat) : bitAt v i = v.testBit i := by
  rw [Nat.testBit_eq_decide_div_mod_eq]; rfl

theorem add_pow_testBit (i m j : Nat) (h : m.testBit i = false) : (m + 2 ^ i).testBit j = (m.testBit j || decide (j = i)) := by
  induction i generalizing m j with
  | zero =>
    have hm : m % 2 = 0 := by simpa [Nat.testBit_zero] using h
    cases j with
    | zero => simp [Nat.testBit_zero]; omega
    | succ j => rw [Nat.testBit_succ, Nat.testBit_succ, show (m + 2 ^ 0) / 2 = m / 2 by omega]; simp
  | succ i ih =>
    rw [Nat.testBit_succ] at h
    cases j with
    | zero => simp [Nat.testBit_zero, Nat.pow_succ]
    | succ j => rw [Nat.testBit_succ, Nat.testBit_succ, show (m + 2 ^ (i + 1)) / 2 = m / 2 + 2 ^ i by rw [Nat.pow_succ]; omega, ih _ _ h]; simp

/-- A mask holds exactly the bits that its list names. -/
theorem maskOf_testBit (l : List Nat) (b : Nat) : (maskOf l).testBit b = l.contains b := by
  have g : ∀ (l : List Nat) (m : Nat), (l.foldl (fun m i => if bitAt m i then m else m + 2 ^ i) m).testBit b = (m.testBit b || l.contains b) := by
    intro l
    induction l with
    | nil => simp
    | cons a l ih =>
      intro m
      rw [List.foldl_cons, ih]
      rw [bitAt_testBit]
      split
      · rename_i h; by_cases e : b = a
        · subst e; simp [h]
        · simp [e]
      · rename_i h; rw [add_pow_testBit _ _ _ (by simpa using h)]; by_cases e : b = a
        · subst e; simp
        · simp [e]
  simpa [maskOf] using g l 0

/-- A byte of a little-endian number. -/
theorem natLe_get (n v k : Nat) (h : k < n) : (natLe v n).getD k 0 = BitVec.ofNat 8 (v / 256 ^ k) := by
  induction n generalizing v k with
  | zero => omega
  | succ n ih =>
    cases k with
    | zero => simp [natLe]
    | succ k => rw [natLe, List.getD_cons_succ, ih _ _ (by omega), Nat.div_div_eq_div_mul, Nat.pow_succ, Nat.mul_comm]

theorem natLe_len (n v : Nat) : (natLe v n).length = n := by induction n generalizing v with | zero => rfl | succ n ih => simp [natLe, ih]

end Sys2Proof.Machine
end

