-- ==== Sys2Proof/Laws/Keeps.lean ====
section
/-! SUPPORT. The frame of every operation: it leaves the queue of waiting commands alone and keeps a sound state sound. One lemma per
operation, each in the file Keeps<its module>. -/

namespace Sys2Proof.Machine

open Sys2Proof

/-- t is reached from b without touching the queue, and is sound where b is. -/
structure Keeps (b t : State) : Prop where
  pending : t.pending = b.pending
  inv : b.Inv → t.Inv

/-- Every next state of an outcome is so reached. -/
def KeepsOut (b : State) (o : Out) : Prop := ∀ t, o = .next t → Keeps b t

theorem Keeps.refl (b : State) : Keeps b b := ⟨rfl, id⟩

theorem Keeps.trans {a b c : State} (h : Keeps a b) (g : Keeps b c) : Keeps a c := ⟨g.pending.trans h.pending, g.inv ∘ h.inv⟩

/-- A change that touches neither the queue nor what soundness speaks of. -/
theorem Keeps.same {b s t : State} (h : Keeps b s) (hp : t.pending = s.pending) (hr : t.regs = s.regs) (ht : t.time = s.time)
    (hh : t.host = s.host) (hl : t.fab.lsram = s.fab.lsram) (hi : t.fab.istore = s.fab.istore) (hd : t.pln.data = s.pln.data)
    (hq : t.pln.retired = s.pln.retired) (hf : t.ras.nvFatal = s.ras.nvFatal) (hs : t.mbx.staging = s.mbx.staging) : Keeps b t := by
  refine h.trans ⟨hp, fun i => ⟨?_, ?_, ?_, ?_, ?_⟩⟩
  · simpa [State.memOk, hl, hi, hd, hh, hs] using i.mem
  · simpa [State.regsOk, hr] using i.regs
  · simpa [ht] using i.time
  · simpa [hf] using i.fatal
  · simpa [hq] using i.retired

/-- A record update that keeps the canonical form of the memories that it writes. -/
theorem Keeps.leaf {b s : State} {fresh : Nat} {reply : Reply} {host : Memory} {fab : Fab} {pln : Pln} {fry : Fry} {pas : Pas} {srt : Srt} {srv : Srv} {vid : Vid} {mbx : Mbx} {part : Parts} {lnk : Lnk} {sec : Sec} {upd : Upd} {pwr : Pwr} {ras : Ras} {pair : PairS} {clk : Clk} {brd : Brd} (h : Keeps b s)
    (hh : s.host.wf = true → host.wf = true) (hl : s.fab.lsram.wf = true → fab.lsram.wf = true)
    (hi : s.fab.istore.wf = true → fab.istore.wf = true) (hd : s.pln.data.wf = true → pln.data.wf = true)
    (hq : pln.retired = s.pln.retired) (hf : ras.nvFatal = s.ras.nvFatal) (hs : s.mbx.staging.wf = true → mbx.staging.wf = true) :
    Keeps b ⟨s.regs, s.time, fresh, s.pending, reply, host, fab, pln, fry, pas, srt, srv, vid, mbx, part, lnk, sec, upd, pwr, ras, pair, clk, brd⟩ := by
  refine h.trans ⟨rfl, fun i => ⟨?_, i.regs, i.time, ?_, ?_⟩⟩
  · have hm := i.mem
    simp only [State.memOk, Bool.and_eq_true] at hm ⊢
    exact ⟨⟨⟨⟨hl hm.1.1.1.1, hi hm.1.1.1.2⟩, hd hm.1.1.2⟩, hh hm.1.2⟩, hs hm.2⟩
  · have := i.fatal
    dsimp only
    rwa [hf]
  · have := i.retired
    dsimp only
    rwa [hq]

theorem Keeps.ite {b s t : State} {c : Prop} [Decidable c] (hs : Keeps b s) (ht : Keeps b t) : Keeps b (if c then s else t) := by
  split <;> assumption

/-- A state with the host memory of an earlier one. -/
theorem Keeps.withHost {b s full : State} (h : Keeps b s) (hfull : Keeps b full) : Keeps b { full with host := s.host } := by
  refine ⟨hfull.pending, fun i => ?_⟩
  have a := h.inv i
  have c := hfull.inv i
  refine ⟨?_, c.regs, c.time, c.fatal, c.retired⟩
  have ha := a.mem
  have hc := c.mem
  simp only [State.memOk, Bool.and_eq_true] at ha hc ⊢
  exact ⟨⟨hc.1.1, ha.1.2⟩, hc.2⟩

theorem Keeps.getD {b s : State} {o : Option State} (ho : ∀ t, o = some t → Keeps b t) (hs : Keeps b s) : Keeps b (o.getD s) := by
  cases o with
  | none => exact hs
  | some t => exact ho t rfl

theorem Keeps.fold {α : Type} {b s : State} {f : State → α → State} {l : List α} (hf : ∀ t a, Keeps b t → Keeps b (f t a)) (hs : Keeps b s) :
    Keeps b (l.foldl f s) := by
  induction l generalizing s with
  | nil => exact hs
  | cons a r ih => exact ih (hf s a hs)

theorem Keeps.foldFst {α β : Type} {b s : State} {d : β} {f : State × β → α → State × β} {l : List α}
    (hf : ∀ t d a, Keeps b t → Keeps b (f (t, d) a).1) (hs : Keeps b s) : Keeps b (l.foldl f (s, d)).1 := by
  induction l generalizing s d with
  | nil => exact hs
  | cons a r ih => exact ih (d := (f (s, d) a).2) (hf s d a hs)

theorem Keeps.foldSnd {α β : Type} {b s : State} {d : β} {f : β × State → α → β × State} {l : List α}
    (hf : ∀ t d a, Keeps b t → Keeps b (f (d, t) a).2) (hs : Keeps b s) : Keeps b (l.foldl f (d, s)).2 := by
  induction l generalizing s d with
  | nil => exact hs
  | cons a r ih => exact ih (d := (f (d, s) a).1) (hf s d a hs)

theorem KeepsOut.onUnit {b s t : State} {c : Bool} (hs : Keeps b s) (h : Keeps b t) : KeepsOut b (onUnit s c t) := by
  intro u e
  rw [onUnit_next_iff] at e
  exact e ▸ Keeps.ite h hs

theorem KeepsOut.next {b s : State} (h : Keeps b s) : KeepsOut b (.next s) := fun _ e => by cases e; exact h

theorem KeepsOut.fault {b : State} {f : Fault} : KeepsOut b (.fault f) := fun _ e => by cases e

theorem KeepsOut.ite {b : State} {s t : Out} {c : Prop} [Decidable c] (hs : KeepsOut b s) (ht : KeepsOut b t) :
    KeepsOut b (if c then s else t) := by
  split <;> assumption

theorem State.wr_keeps {b s : State} (h : Keeps b s) (r : Reg) (i : Nat) (v : Word) : Keeps b (s.wr r i v) := by
  have fit2 : r.fit (r.fit v) = r.fit v := by
    unfold Reg.fit
    split
    · rw [BitVec.and_assoc, BitVec.and_self]
    · rfl
  have all : ∀ f : RegFile, (f.all fun e => e.1.reg.fit e.2 == e.2) = true →
      ((regSet f r i (r.fit v)).all fun e => e.1.reg.fit e.2 == e.2) = true := by
    intro f
    induction f with
    | nil => intro _; simp [regSet, fit2]
    | cons e t ih =>
      intro ha
      simp only [List.all_cons, Bool.and_eq_true] at ha
      by_cases hk : e.1.reg = r ∧ e.1.inst = i
      · simp [regSet, hk, fit2, ha.2]
      · simp only [regSet, hk, if_false, List.all_cons, Bool.and_eq_true]
        exact ⟨ha.1, ih ha.2⟩
  exact h.trans ⟨rfl, fun k => ⟨k.mem, all _ k.regs, k.time, k.fatal, k.retired⟩⟩

end Sys2Proof.Machine
end

