-- ==== Sys2Proof/Laws/KeepsFlags.lean ====
section
/-! SUPPORT. The frame of every operation of Machine/Flags.lean: the queue and soundness. -/

namespace Sys2Proof.Machine

open Sys2Proof





theorem State.wrN_keeps {b_ s : State} (h_ : Keeps b_ s) (r : Reg) (i : Nat) (v : Nat) : Keeps b_ (State.wrN s r i v) := by
  unfold State.wrN
  iterate 3
   all_goals try with_reducible apply Keeps.leaf
   repeat' first
    | with_reducible exact h_
    | with_reducible assumption
    | with_reducible exact memWrite_wf _ _ _
    | with_reducible exact memSet_wf _ _ _
    | with_reducible exact memClear_wf _ _ _
    | with_reducible exact memFilter_wf _ _
    | with_reducible exact memFold_wf (fun _ _ => memClear_wf _ _ _)
    | exact Eq.refl _
    | exact fun h => h
    | exact memWrite_wf _ _ _
    | exact memSet_wf _ _ _
    | exact memClear_wf _ _ _
    | exact memFilter_wf _ _
    | with_reducible apply State.wr_keeps

theorem State.wrF_keeps {b_ s : State} (h_ : Keeps b_ s) (r : Reg) (i : Nat) (lo : Nat) (len : Nat) (v : Nat) : Keeps b_ (State.wrF s r i lo len v) := by
  unfold State.wrF
  iterate 3
   all_goals try with_reducible apply Keeps.leaf
   repeat' first
    | with_reducible exact h_
    | with_reducible assumption
    | with_reducible exact memWrite_wf _ _ _
    | with_reducible exact memSet_wf _ _ _
    | with_reducible exact memClear_wf _ _ _
    | with_reducible exact memFilter_wf _ _
    | with_reducible exact memFold_wf (fun _ _ => memClear_wf _ _ _)
    | exact Eq.refl _
    | exact fun h => h
    | exact memWrite_wf _ _ _
    | exact memSet_wf _ _ _
    | exact memClear_wf _ _ _
    | exact memFilter_wf _ _
    | with_reducible apply State.wr_keeps

theorem State.count_keeps {b_ s : State} (h_ : Keeps b_ s) (r : Reg) (i : Nat) (n : Nat) : Keeps b_ (State.count s r i n) := by
  unfold State.count
  iterate 3
   all_goals try with_reducible apply Keeps.leaf
   repeat' first
    | with_reducible exact h_
    | with_reducible assumption
    | with_reducible exact memWrite_wf _ _ _
    | with_reducible exact memSet_wf _ _ _
    | with_reducible exact memClear_wf _ _ _
    | with_reducible exact memFilter_wf _ _
    | with_reducible exact memFold_wf (fun _ _ => memClear_wf _ _ _)
    | exact Eq.refl _
    | exact fun h => h
    | exact memWrite_wf _ _ _
    | exact memSet_wf _ _ _
    | exact memClear_wf _ _ _
    | exact memFilter_wf _ _
    | with_reducible apply State.wrN_keeps

theorem State.hwSet_keeps {b_ s : State} (h_ : Keeps b_ s) (r : Reg) (i : Nat) (mask : Nat) : Keeps b_ (State.hwSet s r i mask) := by
  unfold State.hwSet
  iterate 3
   all_goals try with_reducible apply Keeps.leaf
   repeat' first
    | with_reducible exact h_
    | with_reducible assumption
    | with_reducible exact memWrite_wf _ _ _
    | with_reducible exact memSet_wf _ _ _
    | with_reducible exact memClear_wf _ _ _
    | with_reducible exact memFilter_wf _ _
    | with_reducible exact memFold_wf (fun _ _ => memClear_wf _ _ _)
    | exact Eq.refl _
    | exact fun h => h
    | exact memWrite_wf _ _ _
    | exact memSet_wf _ _ _
    | exact memClear_wf _ _ _
    | exact memFilter_wf _ _
    | with_reducible apply State.wr_keeps
    | with_reducible apply State.wrN_keeps
    | with_reducible apply KeepsOut.onUnit
    | with_reducible apply Keeps.ite
    | with_reducible refine Keeps.foldFst ?_ ?_
    | with_reducible refine Keeps.foldSnd ?_ ?_
    | with_reducible refine Keeps.getD ?_ ?_
    | with_reducible apply Keeps.fold
    | intro _ _ _ _
    | intro _ _ _
    | intro _ _
    | intro _ 
    | split

theorem State.w1cWrite_keeps {b_ s : State} (h_ : Keeps b_ s) (r : Reg) (i : Nat) (v : Word) (hw : Word) : Keeps b_ (State.w1cWrite s r i v hw) := by
  unfold State.w1cWrite
  iterate 3
   all_goals try with_reducible apply Keeps.leaf
   repeat' first
    | with_reducible exact h_
    | with_reducible assumption
    | with_reducible exact memWrite_wf _ _ _
    | with_reducible exact memSet_wf _ _ _
    | with_reducible exact memClear_wf _ _ _
    | with_reducible exact memFilter_wf _ _
    | with_reducible exact memFold_wf (fun _ _ => memClear_wf _ _ _)
    | exact Eq.refl _
    | exact fun h => h
    | exact memWrite_wf _ _ _
    | exact memSet_wf _ _ _
    | exact memClear_wf _ _ _
    | exact memFilter_wf _ _
    | with_reducible apply State.wr_keeps
    | with_reducible apply State.wrN_keeps
    | with_reducible apply KeepsOut.onUnit
    | with_reducible apply Keeps.ite
    | with_reducible refine Keeps.foldFst ?_ ?_
    | with_reducible refine Keeps.foldSnd ?_ ?_
    | with_reducible refine Keeps.getD ?_ ?_
    | with_reducible apply Keeps.fold
    | intro _ _ _ _
    | intro _ _ _
    | intro _ _
    | intro _ 
    | split

theorem State.free_of {b s t_ : State} {w_ : Word} (h_ : Keeps b s) (e_ : State.free s = (w_, t_)) : Keeps b t_ := by
  cases e_
  exact Keeps.same (s := s) h_ rfl rfl rfl rfl rfl rfl rfl rfl rfl rfl

theorem State.free_snd {b s : State} (h_ : Keeps b s) : Keeps b (State.free s).2 := State.free_of h_ rfl

end Sys2Proof.Machine
end

