-- ==== Sys2Proof/Laws/KeepsOps.lean ====
section
/-! SUPPORT. The frame of every operation of Machine/Ops.lean: the queue and soundness. -/

namespace Sys2Proof.Machine

open Sys2Proof

theorem State.setTh_keeps {b_ s : State} (h_ : Keeps b_ s) (g : Nat) (t : Thread) : Keeps b_ (State.setTh s g t) := by
  unfold State.setTh
  iterate 3
   all_goals try with_reducible apply Keeps.leaf
   repeat' first
    | with_reducible exact h_
    | with_reducible assumption
    | with_reducible exact memWrite_wf _ _ _
    | with_reducible exact memSet_wf _ _ _
    | with_reducible exact memClear_wf _ _ _
    | with_reducible exact memFilter_wf _ _
    | with_reducible exact memFold_wf (fun _ _ => memClear_wf _ _ _)
    | exact Eq.refl _
    | exact fun h => h

theorem State.updTh_keeps {b_ s : State} (h_ : Keeps b_ s) (g : Nat) (f : Thread → Thread) : Keeps b_ (State.updTh s g f) := by
  unfold State.updTh
  iterate 3
   all_goals try with_reducible apply Keeps.leaf
   repeat' first
    | with_reducible exact h_
    | with_reducible assumption
    | with_reducible exact memWrite_wf _ _ _
    | with_reducible exact memSet_wf _ _ _
    | with_reducible exact memClear_wf _ _ _
    | with_reducible exact memFilter_wf _ _
    | with_reducible exact memFold_wf (fun _ _ => memClear_wf _ _ _)
    | exact Eq.refl _
    | exact fun h => h
    | exact memWrite_wf _ _ _
    | exact memSet_wf _ _ _
    | exact memClear_wf _ _ _
    | exact memFilter_wf _ _
    | with_reducible apply State.setTh_keeps

theorem State.setTen_keeps {b_ s : State} (h_ : Keeps b_ s) (c : Nat) (t : Tensor) : Keeps b_ (State.setTen s c t) := by
  unfold State.setTen
  iterate 3
   all_goals try with_reducible apply Keeps.leaf
   repeat' first
    | with_reducible exact h_
    | with_reducible assumption
    | with_reducible exact memWrite_wf _ _ _
    | with_reducible exact memSet_wf _ _ _
    | with_reducible exact memClear_wf _ _ _
    | with_reducible exact memFilter_wf _ _
    | with_reducible exact memFold_wf (fun _ _ => memClear_wf _ _ _)
    | exact Eq.refl _
    | exact fun h => h

theorem State.setIsl_keeps {b_ s : State} (h_ : Keeps b_ s) (i : Nat) (v : Island) : Keeps b_ (State.setIsl s i v) := by
  unfold State.setIsl
  iterate 3
   all_goals try with_reducible apply Keeps.leaf
   repeat' first
    | with_reducible exact h_
    | with_reducible assumption
    | with_reducible exact memWrite_wf _ _ _
    | with_reducible exact memSet_wf _ _ _
    | with_reducible exact memClear_wf _ _ _
    | with_reducible exact memFilter_wf _ _
    | with_reducible exact memFold_wf (fun _ _ => memClear_wf _ _ _)
    | exact Eq.refl _
    | exact fun h => h

theorem State.updIsl_keeps {b_ s : State} (h_ : Keeps b_ s) (i : Nat) (f : Island → Island) : Keeps b_ (State.updIsl s i f) := by
  unfold State.updIsl
  iterate 3
   all_goals try with_reducible apply Keeps.leaf
   repeat' first
    | with_reducible exact h_
    | with_reducible assumption
    | with_reducible exact memWrite_wf _ _ _
    | with_reducible exact memSet_wf _ _ _
    | with_reducible exact memClear_wf _ _ _
    | with_reducible exact memFilter_wf _ _
    | with_reducible exact memFold_wf (fun _ _ => memClear_wf _ _ _)
    | exact Eq.refl _
    | exact fun h => h
    | exact memWrite_wf _ _ _
    | exact memSet_wf _ _ _
    | exact memClear_wf _ _ _
    | exact memFilter_wf _ _
    | with_reducible apply State.setIsl_keeps

theorem State.setCtx_keeps {b_ s : State} (h_ : Keeps b_ s) (c : Nat) (x : Ctx) : Keeps b_ (State.setCtx s c x) := by
  unfold State.setCtx
  iterate 3
   all_goals try with_reducible apply Keeps.leaf
   repeat' first
    | with_reducible exact h_
    | with_reducible assumption
    | with_reducible exact memWrite_wf _ _ _
    | with_reducible exact memSet_wf _ _ _
    | with_reducible exact memClear_wf _ _ _
    | with_reducible exact memFilter_wf _ _
    | with_reducible exact memFold_wf (fun _ _ => memClear_wf _ _ _)
    | exact Eq.refl _
    | exact fun h => h

theorem State.showPage_keeps {b_ s : State} (h_ : Keeps b_ s) (p : Nat) (v : Page) : Keeps b_ (State.showPage s p v) := by
  unfold State.showPage
  iterate 3
   all_goals try with_reducible apply Keeps.leaf
   repeat' first
    | with_reducible exact h_
    | with_reducible assumption
    | with_reducible exact memWrite_wf _ _ _
    | with_reducible exact memSet_wf _ _ _
    | with_reducible exact memClear_wf _ _ _
    | with_reducible exact memFilter_wf _ _
    | with_reducible exact memFold_wf (fun _ _ => memClear_wf _ _ _)
    | exact Eq.refl _
    | exact fun h => h

theorem State.setPage_keeps {b_ s : State} (h_ : Keeps b_ s) (p : Nat) (v : Page) : Keeps b_ (State.setPage s p v) := by
  unfold State.setPage
  iterate 3
   all_goals try with_reducible apply Keeps.leaf
   repeat' first
    | with_reducible exact h_
    | with_reducible assumption
    | with_reducible exact memWrite_wf _ _ _
    | with_reducible exact memSet_wf _ _ _
    | with_reducible exact memClear_wf _ _ _
    | with_reducible exact memFilter_wf _ _
    | with_reducible exact memFold_wf (fun _ _ => memClear_wf _ _ _)
    | exact Eq.refl _
    | exact fun h => h
    | exact memWrite_wf _ _ _
    | exact memSet_wf _ _ _
    | exact memClear_wf _ _ _
    | exact memFilter_wf _ _
    | with_reducible apply State.showPage_keeps
    | with_reducible apply KeepsOut.onUnit
    | with_reducible apply Keeps.ite
    | with_reducible refine Keeps.foldFst ?_ ?_
    | with_reducible refine Keeps.foldSnd ?_ ?_
    | with_reducible refine Keeps.getD ?_ ?_
    | with_reducible apply Keeps.fold
    | intro _ _ _ _
    | intro _ _ _
    | intro _ _
    | intro _ 
    | split
    | dsimp only

theorem State.updPage_keeps {b_ s : State} (h_ : Keeps b_ s) (p : Nat) (f : Page → Page) : Keeps b_ (State.updPage s p f) := by
  unfold State.updPage
  iterate 3
   all_goals try with_reducible apply Keeps.leaf
   repeat' first
    | with_reducible exact h_
    | with_reducible assumption
    | with_reducible exact memWrite_wf _ _ _
    | with_reducible exact memSet_wf _ _ _
    | with_reducible exact memClear_wf _ _ _
    | with_reducible exact memFilter_wf _ _
    | with_reducible exact memFold_wf (fun _ _ => memClear_wf _ _ _)
    | exact Eq.refl _
    | exact fun h => h
    | exact memWrite_wf _ _ _
    | exact memSet_wf _ _ _
    | exact memClear_wf _ _ _
    | exact memFilter_wf _ _
    | with_reducible apply State.setPage_keeps

theorem State.setChan_keeps {b_ s : State} (h_ : Keeps b_ s) (c : Nat) (v : Chan) : Keeps b_ (State.setChan s c v) := by
  unfold State.setChan
  iterate 3
   all_goals try with_reducible apply Keeps.leaf
   repeat' first
    | with_reducible exact h_
    | with_reducible assumption
    | with_reducible exact memWrite_wf _ _ _
    | with_reducible exact memSet_wf _ _ _
    | with_reducible exact memClear_wf _ _ _
    | with_reducible exact memFilter_wf _ _
    | with_reducible exact memFold_wf (fun _ _ => memClear_wf _ _ _)
    | exact Eq.refl _
    | exact fun h => h

theorem State.setPass_keeps {b_ s : State} (h_ : Keeps b_ s) (p : Nat) (v : Pass) : Keeps b_ (State.setPass s p v) := by
  unfold State.setPass
  iterate 3
   all_goals try with_reducible apply Keeps.leaf
   repeat' first
    | with_reducible exact h_
    | with_reducible assumption
    | with_reducible exact memWrite_wf _ _ _
    | with_reducible exact memSet_wf _ _ _
    | with_reducible exact memClear_wf _ _ _
    | with_reducible exact memFilter_wf _ _
    | with_reducible exact memFold_wf (fun _ _ => memClear_wf _ _ _)
    | exact Eq.refl _
    | exact fun h => h

theorem State.setSorter_keeps {b_ s : State} (h_ : Keeps b_ s) (k : Nat) (v : Sorter) : Keeps b_ (State.setSorter s k v) := by
  unfold State.setSorter
  iterate 3
   all_goals try with_reducible apply Keeps.leaf
   repeat' first
    | with_reducible exact h_
    | with_reducible assumption
    | with_reducible exact memWrite_wf _ _ _
    | with_reducible exact memSet_wf _ _ _
    | with_reducible exact memClear_wf _ _ _
    | with_reducible exact memFilter_wf _ _
    | with_reducible exact memFold_wf (fun _ _ => memClear_wf _ _ _)
    | exact Eq.refl _
    | exact fun h => h

theorem State.setPrt_keeps {b_ s : State} (h_ : Keeps b_ s) (fn : Nat) (p : Part) : Keeps b_ (State.setPrt s fn p) := by
  unfold State.setPrt
  iterate 3
   all_goals try with_reducible apply Keeps.leaf
   repeat' first
    | with_reducible exact h_
    | with_reducible assumption
    | with_reducible exact memWrite_wf _ _ _
    | with_reducible exact memSet_wf _ _ _
    | with_reducible exact memClear_wf _ _ _
    | with_reducible exact memFilter_wf _ _
    | with_reducible exact memFold_wf (fun _ _ => memClear_wf _ _ _)
    | exact Eq.refl _
    | exact fun h => h

theorem State.twinPump_keeps {b_ s : State} (h_ : Keeps b_ s) : Keeps b_ (State.twinPump s) := by
  unfold State.twinPump
  iterate 3
   all_goals try with_reducible apply Keeps.leaf
   repeat' first
    | with_reducible exact h_
    | with_reducible assumption
    | with_reducible exact memWrite_wf _ _ _
    | with_reducible exact memSet_wf _ _ _
    | with_reducible exact memClear_wf _ _ _
    | with_reducible exact memFilter_wf _ _
    | with_reducible exact memFold_wf (fun _ _ => memClear_wf _ _ _)
    | exact Eq.refl _
    | exact fun h => h
    | exact memWrite_wf _ _ _
    | exact memSet_wf _ _ _
    | exact memClear_wf _ _ _
    | exact memFilter_wf _ _
    | with_reducible apply KeepsOut.onUnit
    | with_reducible apply Keeps.ite
    | with_reducible refine Keeps.foldFst ?_ ?_
    | with_reducible refine Keeps.foldSnd ?_ ?_
    | with_reducible refine Keeps.getD ?_ ?_
    | with_reducible apply Keeps.fold
    | intro _ _ _ _
    | intro _ _ _
    | intro _ _
    | intro _ 
    | split
    | dsimp only

theorem State.twinMsg_keeps {b_ s : State} (h_ : Keeps b_ s) (cls : Nat) (fn : Nat) (n : Nat) (body : List Nat) : Keeps b_ (State.twinMsg s cls fn n body) := by
  unfold State.twinMsg
  iterate 3
   all_goals try with_reducible apply Keeps.leaf
   repeat' first
    | with_reducible exact h_
    | with_reducible assumption
    | with_reducible exact memWrite_wf _ _ _
    | with_reducible exact memSet_wf _ _ _
    | with_reducible exact memClear_wf _ _ _
    | with_reducible exact memFilter_wf _ _
    | with_reducible exact memFold_wf (fun _ _ => memClear_wf _ _ _)
    | exact Eq.refl _
    | exact fun h => h
    | exact memWrite_wf _ _ _
    | exact memSet_wf _ _ _
    | exact memClear_wf _ _ _
    | exact memFilter_wf _ _
    | with_reducible apply State.twinPump_keeps
    | with_reducible apply KeepsOut.onUnit
    | with_reducible apply Keeps.ite
    | with_reducible refine Keeps.foldFst ?_ ?_
    | with_reducible refine Keeps.foldSnd ?_ ?_
    | with_reducible refine Keeps.getD ?_ ?_
    | with_reducible apply Keeps.fold
    | intro _ _ _ _
    | intro _ _ _
    | intro _ _
    | intro _ 
    | split
    | dsimp only

theorem State.twinSend_keeps {b_ s : State} (h_ : Keeps b_ s) (cls : Nat) : Keeps b_ (State.twinSend s cls) := by
  unfold State.twinSend
  iterate 3
   all_goals try with_reducible apply Keeps.leaf
   repeat' first
    | with_reducible exact h_
    | with_reducible assumption
    | with_reducible exact memWrite_wf _ _ _
    | with_reducible exact memSet_wf _ _ _
    | with_reducible exact memClear_wf _ _ _
    | with_reducible exact memFilter_wf _ _
    | with_reducible exact memFold_wf (fun _ _ => memClear_wf _ _ _)
    | exact Eq.refl _
    | exact fun h => h
    | exact memWrite_wf _ _ _
    | exact memSet_wf _ _ _
    | exact memClear_wf _ _ _
    | exact memFilter_wf _ _
    | with_reducible apply State.twinMsg_keeps

theorem State.syncLogFull_keeps {b_ s : State} (h_ : Keeps b_ s) : Keeps b_ (State.syncLogFull s) := by
  unfold State.syncLogFull
  iterate 3
   all_goals try with_reducible apply Keeps.leaf
   repeat' first
    | with_reducible exact h_
    | with_reducible assumption
    | with_reducible exact memWrite_wf _ _ _
    | with_reducible exact memSet_wf _ _ _
    | with_reducible exact memClear_wf _ _ _
    | with_reducible exact memFilter_wf _ _
    | with_reducible exact memFold_wf (fun _ _ => memClear_wf _ _ _)
    | exact Eq.refl _
    | exact fun h => h
    | exact memWrite_wf _ _ _
    | exact memSet_wf _ _ _
    | exact memClear_wf _ _ _
    | exact memFilter_wf _ _
    | with_reducible apply State.wrF_keeps

theorem State.pushLog_keeps {b s : State} (h_ : Keeps b s) (e : LogEnt) : Keeps b (State.pushLog s e) := by
  unfold State.pushLog
  have hx : ∀ (m : Mbx) (u : Upd) (l : List LogEnt) (n : Nat), m.staging = s.mbx.staging → Keeps b { s with
      mbx := m, upd := u
      ras := { s.ras with
        log := l
        nvFatal := if e.sev = 3 then (s.ras.nvFatal ++ [e]).drop ((s.ras.nvFatal.length + 1) - 256) else s.ras.nvFatal
        nvNew := n } } := by
    intro m u l n hm
    refine h_.trans ⟨rfl, fun i => ⟨?_, i.regs, i.time, ?_, i.retired⟩⟩
    · have := i.mem
      simpa [State.memOk, hm] using this
    · have := i.fatal
      dsimp only
      split
      · simp only [List.length_drop, List.length_append, List.length_cons, List.length_nil]; omega
      · exact this
  dsimp only
  repeat' first
    | with_reducible apply State.hwSet_keeps
    | with_reducible apply State.syncLogFull_keeps
    | with_reducible apply State.wrN_keeps
    | exact hx _ _ _ _ rfl
    | with_reducible apply Keeps.ite

theorem State.dropReport_keeps {b_ s : State} (h_ : Keeps b_ s) (cls : Nat) : Keeps b_ (State.dropReport s cls) := by
  unfold State.dropReport
  iterate 3
   all_goals try with_reducible apply Keeps.leaf
   repeat' first
    | with_reducible exact h_
    | with_reducible assumption
    | with_reducible exact memWrite_wf _ _ _
    | with_reducible exact memSet_wf _ _ _
    | with_reducible exact memClear_wf _ _ _
    | with_reducible exact memFilter_wf _ _
    | with_reducible exact memFold_wf (fun _ _ => memClear_wf _ _ _)
    | exact Eq.refl _
    | exact fun h => h
    | exact memWrite_wf _ _ _
    | exact memSet_wf _ _ _
    | exact memClear_wf _ _ _
    | exact memFilter_wf _ _
    | with_reducible apply State.count_keeps
    | with_reducible apply State.hwSet_keeps
    | with_reducible apply KeepsOut.onUnit
    | with_reducible apply Keeps.ite
    | with_reducible refine Keeps.foldFst ?_ ?_
    | with_reducible refine Keeps.foldSnd ?_ ?_
    | with_reducible refine Keeps.getD ?_ ?_
    | with_reducible apply Keeps.fold
    | intro _ _ _ _
    | intro _ _ _
    | intro _ _
    | intro _ 
    | split
    | dsimp only

/-- The state after the OVERRUN entry that may be due. -/
theorem State.overrunState_keeps {b s : State} (h_ : Keeps b s) : Keeps b (if s.ras.dropsSince = 0 then s else
    { (s.pushLog s.overrunEntry) with ras := { (s.pushLog s.overrunEntry).ras with dropsSince := 0, firstDrop := none } }) := by
  split
  · exact h_
  · exact Keeps.same (State.pushLog_keeps h_ s.overrunEntry) rfl rfl rfl rfl rfl rfl rfl rfl rfl rfl

theorem State.logRep_of {b s t_ : State} {w_ : Bool} (h_ : Keeps b s) {r : Rep} (e_ : State.logRep s r = (t_, w_)) : Keeps b t_ := by
  have hx := State.overrunState_keeps h_
  unfold State.logRep at e_
  generalize (if s.ras.dropsSince = 0 then s else
    { (s.pushLog s.overrunEntry) with ras := { (s.pushLog s.overrunEntry).ras with dropsSince := 0, firstDrop := none } }) = u at e_ hx
  split at e_
  · cases e_
    exact Keeps.same (s := s) h_ rfl rfl rfl rfl rfl rfl rfl rfl rfl rfl
  · split at e_
    · cases e_; exact State.dropReport_keeps h_ _
    · dsimp only at e_
      split at e_
      · cases e_; exact State.dropReport_keeps hx _
      · cases e_; exact State.pushLog_keeps hx _

theorem State.logRep_fst {b s : State} (h_ : Keeps b s) (r : Rep) : Keeps b (State.logRep s r).1 := State.logRep_of h_ (w_ := (s.logRep r).2) rfl

theorem State.logHostWrite_keeps {b s : State} (h_ : Keeps b s) (fn : Nat) : Keeps b (State.logHostWrite s fn) := State.logRep_fst h_ _

theorem State.hostPut_keeps {b s : State} (h_ : Keeps b s) (fn addr : Nat) (l : List Byte) : Keeps b (State.hostPut s fn addr l) := by
  refine h_.trans ⟨?_, fun i => ?_⟩
  · unfold State.hostPut; split <;> rfl
  · have hm := i.mem
    simp only [State.memOk, Bool.and_eq_true] at hm
    obtain ⟨⟨⟨⟨h1, h2⟩, h3⟩, h4⟩, h5⟩ := hm
    unfold State.hostPut
    split
    · exact ⟨by simp [State.memOk, h1, h2, h3, h4, memWrite_wf _ _ _ h5], i.regs, i.time, i.fatal, i.retired⟩
    · exact ⟨by simp [State.memOk, h1, h2, h3, h5, memWrite_wf _ _ _ h4], i.regs, i.time, i.fatal, i.retired⟩

theorem State.setMbxW_keeps {b_ s : State} (h_ : Keeps b_ s) (fn : Nat) (mbx : Nat) (w : Nat) (v : Nat) : Keeps b_ (State.setMbxW s fn mbx w v) := by
  unfold State.setMbxW
  iterate 3
   all_goals try with_reducible apply Keeps.leaf
   repeat' first
    | with_reducible exact h_
    | with_reducible assumption
    | with_reducible exact memWrite_wf _ _ _
    | with_reducible exact memSet_wf _ _ _
    | with_reducible exact memClear_wf _ _ _
    | with_reducible exact memFilter_wf _ _
    | with_reducible exact memFold_wf (fun _ _ => memClear_wf _ _ _)
    | exact Eq.refl _
    | exact fun h => h

theorem State.bulkPut_of {b s t_ : State} (h_ : Keeps b s) {fn addr : Nat} {l : List Byte} (e_ : State.bulkPut s fn addr l = some t_) :
    Keeps b t_ := by
  unfold State.bulkPut at e_
  split at e_
  · split at e_
    · cases e_; exact State.hostPut_keeps h_ _ _ _
    · cases e_
  · split at e_
    · cases e_; exact h_
    · split at e_
      · cases e_; exact State.hostPut_keeps h_ _ _ _
      · cases e_

theorem State.raiseVec_keeps {b_ s : State} (h_ : Keeps b_ s) (fn : Nat) (v : Nat) : Keeps b_ (State.raiseVec s fn v) := by
  unfold State.raiseVec
  iterate 3
   all_goals try with_reducible apply Keeps.leaf
   repeat' first
    | with_reducible exact h_
    | with_reducible assumption
    | with_reducible exact memWrite_wf _ _ _
    | with_reducible exact memSet_wf _ _ _
    | with_reducible exact memClear_wf _ _ _
    | with_reducible exact memFilter_wf _ _
    | with_reducible exact memFold_wf (fun _ _ => memClear_wf _ _ _)
    | exact Eq.refl _
    | exact fun h => h
    | exact memWrite_wf _ _ _
    | exact memSet_wf _ _ _
    | exact memClear_wf _ _ _
    | exact memFilter_wf _ _
    | with_reducible apply KeepsOut.onUnit
    | with_reducible apply Keeps.ite
    | with_reducible refine Keeps.foldFst ?_ ?_
    | with_reducible refine Keeps.foldSnd ?_ ?_
    | with_reducible refine Keeps.getD ?_ ?_
    | with_reducible apply Keeps.fold
    | intro _ _ _ _
    | intro _ _ _
    | intro _ _
    | intro _ 
    | split
    | dsimp only

theorem State.signal_keeps {b_ s : State} (h_ : Keeps b_ s) (fn : Nat) (v : Nat) : Keeps b_ (State.signal s fn v) := by
  unfold State.signal
  iterate 3
   all_goals try with_reducible apply Keeps.leaf
   repeat' first
    | with_reducible exact h_
    | with_reducible assumption
    | with_reducible exact memWrite_wf _ _ _
    | with_reducible exact memSet_wf _ _ _
    | with_reducible exact memClear_wf _ _ _
    | with_reducible exact memFilter_wf _ _
    | with_reducible exact memFold_wf (fun _ _ => memClear_wf _ _ _)
    | exact Eq.refl _
    | exact fun h => h
    | exact memWrite_wf _ _ _
    | exact memSet_wf _ _ _
    | exact memClear_wf _ _ _
    | exact memFilter_wf _ _
    | with_reducible apply State.raiseVec_keeps
    | with_reducible apply KeepsOut.onUnit
    | with_reducible apply Keeps.ite
    | with_reducible refine Keeps.foldFst ?_ ?_
    | with_reducible refine Keeps.foldSnd ?_ ?_
    | with_reducible refine Keeps.getD ?_ ?_
    | with_reducible apply Keeps.fold
    | intro _ _ _ _
    | intro _ _ _
    | intro _ _
    | intro _ 
    | split
    | dsimp only

theorem State.putRecs_keeps {b s : State} (h_ : Keeps b s) (fn p : Nat) (l : List (List Byte)) : Keeps b (State.putRecs s fn p l) := by
  induction l generalizing s p with
  | nil => exact h_
  | cons r rs ih => exact ih (State.hostPut_keeps h_ _ _ _) _

theorem State.ringWrite_keeps {b_ s : State} (h_ : Keeps b_ s) (fn : Nat) (typ : Nat) (time : Nat) (ws : List Nat) : Keeps b_ (State.ringWrite s fn typ time ws) := by
  unfold State.ringWrite
  iterate 3
   all_goals try with_reducible apply Keeps.leaf
   repeat' first
    | with_reducible exact h_
    | with_reducible assumption
    | with_reducible exact memWrite_wf _ _ _
    | with_reducible exact memSet_wf _ _ _
    | with_reducible exact memClear_wf _ _ _
    | with_reducible exact memFilter_wf _ _
    | with_reducible exact memFold_wf (fun _ _ => memClear_wf _ _ _)
    | exact Eq.refl _
    | exact fun h => h
    | exact memWrite_wf _ _ _
    | exact memSet_wf _ _ _
    | exact memClear_wf _ _ _
    | exact memFilter_wf _ _
    | with_reducible apply State.hostPut_keeps
    | with_reducible apply State.putRecs_keeps
    | with_reducible apply State.signal_keeps
    | with_reducible apply State.wrN_keeps
    | with_reducible apply KeepsOut.onUnit
    | with_reducible apply Keeps.ite

theorem State.dropEvt_keeps {b_ s : State} (h_ : Keeps b_ s) (fn : Nat) : Keeps b_ (State.dropEvt s fn) := by
  unfold State.dropEvt
  iterate 3
   all_goals try with_reducible apply Keeps.leaf
   repeat' first
    | with_reducible exact h_
    | with_reducible assumption
    | with_reducible exact memWrite_wf _ _ _
    | with_reducible exact memSet_wf _ _ _
    | with_reducible exact memClear_wf _ _ _
    | with_reducible exact memFilter_wf _ _
    | with_reducible exact memFold_wf (fun _ _ => memClear_wf _ _ _)
    | exact Eq.refl _
    | exact fun h => h
    | exact memWrite_wf _ _ _
    | exact memSet_wf _ _ _
    | exact memClear_wf _ _ _
    | exact memFilter_wf _ _
    | with_reducible apply State.count_keeps
    | with_reducible apply State.hwSet_keeps
    | with_reducible apply KeepsOut.onUnit
    | with_reducible apply Keeps.ite
    | with_reducible refine Keeps.foldFst ?_ ?_
    | with_reducible refine Keeps.foldSnd ?_ ?_
    | with_reducible refine Keeps.getD ?_ ?_
    | with_reducible apply Keeps.fold
    | intro _ _ _ _
    | intro _ _ _
    | intro _ _
    | intro _ 
    | split
    | dsimp only

theorem State.usbEvt_keeps {b_ s : State} (h_ : Keeps b_ s) (typ : Nat) (time : Nat) (ws : List Nat) : Keeps b_ (State.usbEvt s typ time ws) := by
  unfold State.usbEvt
  iterate 3
   all_goals try with_reducible apply Keeps.leaf
   repeat' first
    | with_reducible exact h_
    | with_reducible assumption
    | with_reducible exact memWrite_wf _ _ _
    | with_reducible exact memSet_wf _ _ _
    | with_reducible exact memClear_wf _ _ _
    | with_reducible exact memFilter_wf _ _
    | with_reducible exact memFold_wf (fun _ _ => memClear_wf _ _ _)
    | exact Eq.refl _
    | exact fun h => h
    | exact memWrite_wf _ _ _
    | exact memSet_wf _ _ _
    | exact memClear_wf _ _ _
    | exact memFilter_wf _ _
    | with_reducible apply KeepsOut.onUnit
    | with_reducible apply Keeps.ite
    | with_reducible refine Keeps.foldFst ?_ ?_
    | with_reducible refine Keeps.foldSnd ?_ ?_
    | with_reducible refine Keeps.getD ?_ ?_
    | with_reducible apply Keeps.fold
    | intro _ _ _ _
    | intro _ _ _
    | intro _ _
    | intro _ 
    | split
    | dsimp only

theorem State.flushOverrun_keeps {b_ s : State} (h_ : Keeps b_ s) (fn : Nat) : Keeps b_ (State.flushOverrun s fn) := by
  unfold State.flushOverrun
  iterate 3
   all_goals try with_reducible apply Keeps.leaf
   repeat' first
    | with_reducible exact h_
    | with_reducible assumption
    | with_reducible exact memWrite_wf _ _ _
    | with_reducible exact memSet_wf _ _ _
    | with_reducible exact memClear_wf _ _ _
    | with_reducible exact memFilter_wf _ _
    | with_reducible exact memFold_wf (fun _ _ => memClear_wf _ _ _)
    | exact Eq.refl _
    | exact fun h => h
    | exact memWrite_wf _ _ _
    | exact memSet_wf _ _ _
    | exact memClear_wf _ _ _
    | exact memFilter_wf _ _
    | with_reducible apply State.ringWrite_keeps
    | with_reducible apply KeepsOut.onUnit
    | with_reducible apply Keeps.ite
    | with_reducible refine Keeps.foldFst ?_ ?_
    | with_reducible refine Keeps.foldSnd ?_ ?_
    | with_reducible refine Keeps.getD ?_ ?_
    | with_reducible apply Keeps.fold
    | intro _ _ _ _
    | intro _ _ _
    | intro _ _
    | intro _ 
    | split
    | dsimp only

theorem State.postAt_keeps {b_ s : State} (h_ : Keeps b_ s) (fn : Nat) (typ : Nat) (time : Nat) (ws : List Nat) : Keeps b_ (State.postAt s fn typ time ws) := by
  unfold State.postAt
  iterate 3
   all_goals try with_reducible apply Keeps.leaf
   repeat' first
    | with_reducible exact h_
    | with_reducible assumption
    | with_reducible exact memWrite_wf _ _ _
    | with_reducible exact memSet_wf _ _ _
    | with_reducible exact memClear_wf _ _ _
    | with_reducible exact memFilter_wf _ _
    | with_reducible exact memFold_wf (fun _ _ => memClear_wf _ _ _)
    | exact Eq.refl _
    | exact fun h => h
    | exact memWrite_wf _ _ _
    | exact memSet_wf _ _ _
    | exact memClear_wf _ _ _
    | exact memFilter_wf _ _
    | with_reducible apply State.dropEvt_keeps
    | with_reducible apply State.flushOverrun_keeps
    | with_reducible apply State.logHostWrite_keeps
    | with_reducible apply State.ringWrite_keeps
    | with_reducible apply State.usbEvt_keeps
    | with_reducible apply KeepsOut.onUnit
    | with_reducible apply Keeps.ite

theorem State.post_keeps {b_ s : State} (h_ : Keeps b_ s) (fn : Nat) (typ : Nat) (ws : List Nat) : Keeps b_ (State.post s fn typ ws) := by
  unfold State.post
  iterate 3
   all_goals try with_reducible apply Keeps.leaf
   repeat' first
    | with_reducible exact h_
    | with_reducible assumption
    | with_reducible exact memWrite_wf _ _ _
    | with_reducible exact memSet_wf _ _ _
    | with_reducible exact memClear_wf _ _ _
    | with_reducible exact memFilter_wf _ _
    | with_reducible exact memFold_wf (fun _ _ => memClear_wf _ _ _)
    | exact Eq.refl _
    | exact fun h => h
    | exact memWrite_wf _ _ _
    | exact memSet_wf _ _ _
    | exact memClear_wf _ _ _
    | exact memFilter_wf _ _
    | with_reducible apply State.postAt_keeps
    | with_reducible apply State.usbEvt_keeps
    | with_reducible apply KeepsOut.onUnit
    | with_reducible apply Keeps.ite

theorem State.report_keeps {b_ s : State} (h_ : Keeps b_ s) (r : Rep) : Keeps b_ (State.report s r) := by
  unfold State.report
  iterate 3
   all_goals try with_reducible apply Keeps.leaf
   repeat' first
    | with_reducible exact h_
    | with_reducible assumption
    | with_reducible exact memWrite_wf _ _ _
    | with_reducible exact memSet_wf _ _ _
    | with_reducible exact memClear_wf _ _ _
    | with_reducible exact memFilter_wf _ _
    | with_reducible exact memFold_wf (fun _ _ => memClear_wf _ _ _)
    | exact Eq.refl _
    | exact fun h => h
    | exact memWrite_wf _ _ _
    | exact memSet_wf _ _ _
    | exact memClear_wf _ _ _
    | exact memFilter_wf _ _
    | (refine State.logRep_of ?_ (by with_reducible assumption))
    | with_reducible apply State.logRep_fst
    | with_reducible apply State.post_keeps
    | with_reducible apply KeepsOut.onUnit
    | with_reducible apply Keeps.ite
    | with_reducible refine Keeps.foldFst ?_ ?_
    | with_reducible refine Keeps.foldSnd ?_ ?_
    | with_reducible refine Keeps.getD ?_ ?_
    | with_reducible apply Keeps.fold
    | intro _ _ _ _
    | intro _ _ _
    | intro _ _
    | intro _ 
    | split
    | dsimp only

theorem State.log_keeps {b_ s : State} (h_ : Keeps b_ s) (die : Nat) (unit : Nat) (inst : Nat) (sub : Nat) (cls : Nat) (func : Nat) (sev : Nat) (addr : Nat) (synd : Nat) (ctx : Nat) : Keeps b_ (State.log s die unit inst sub cls func sev addr synd ctx) := by
  unfold State.log
  iterate 3
   all_goals try with_reducible apply Keeps.leaf
   repeat' first
    | with_reducible exact h_
    | with_reducible assumption
    | with_reducible exact memWrite_wf _ _ _
    | with_reducible exact memSet_wf _ _ _
    | with_reducible exact memClear_wf _ _ _
    | with_reducible exact memFilter_wf _ _
    | with_reducible exact memFold_wf (fun _ _ => memClear_wf _ _ _)
    | exact Eq.refl _
    | exact fun h => h
    | exact memWrite_wf _ _ _
    | exact memSet_wf _ _ _
    | exact memClear_wf _ _ _
    | exact memFilter_wf _ _
    | with_reducible apply State.report_keeps

theorem State.setMbxWs_keeps {b s : State} (h_ : Keeps b s) (fn mbx w : Nat) (l : List Nat) : Keeps b (State.setMbxWs s fn mbx w l) := by
  induction l generalizing s w with
  | nil => exact h_
  | cons r rs ih => exact ih (State.setMbxW_keeps h_ _ _ _ _) _

theorem State.loadMirror_keeps {b_ s : State} (h_ : Keeps b_ s) : Keeps b_ (State.loadMirror s) := by
  unfold State.loadMirror
  iterate 3
   all_goals try with_reducible apply Keeps.leaf
   repeat' first
    | with_reducible exact h_
    | with_reducible assumption
    | with_reducible exact memWrite_wf _ _ _
    | with_reducible exact memSet_wf _ _ _
    | with_reducible exact memClear_wf _ _ _
    | with_reducible exact memFilter_wf _ _
    | with_reducible exact memFold_wf (fun _ _ => memClear_wf _ _ _)
    | exact Eq.refl _
    | exact fun h => h
    | exact memWrite_wf _ _ _
    | exact memSet_wf _ _ _
    | exact memClear_wf _ _ _
    | exact memFilter_wf _ _
    | with_reducible apply State.setMbxW_keeps
    | with_reducible apply State.setMbxWs_keeps
    | with_reducible apply KeepsOut.onUnit
    | with_reducible apply Keeps.ite
    | with_reducible refine Keeps.foldFst ?_ ?_
    | with_reducible refine Keeps.foldSnd ?_ ?_
    | with_reducible refine Keeps.getD ?_ ?_
    | with_reducible apply Keeps.fold
    | intro _ _ _ _
    | intro _ _ _
    | intro _ _
    | intro _ 
    | split
    | dsimp only

theorem State.respond_keeps {b_ s : State} (h_ : Keeps b_ s) (fn : Nat) (mbx : Nat) (result : Nat) (ws : List Nat) : Keeps b_ (State.respond s fn mbx result ws) := by
  unfold State.respond
  iterate 3
   all_goals try with_reducible apply Keeps.leaf
   repeat' first
    | with_reducible exact h_
    | with_reducible assumption
    | with_reducible exact memWrite_wf _ _ _
    | with_reducible exact memSet_wf _ _ _
    | with_reducible exact memClear_wf _ _ _
    | with_reducible exact memFilter_wf _ _
    | with_reducible exact memFold_wf (fun _ _ => memClear_wf _ _ _)
    | exact Eq.refl _
    | exact fun h => h
    | exact memWrite_wf _ _ _
    | exact memSet_wf _ _ _
    | exact memClear_wf _ _ _
    | exact memFilter_wf _ _
    | with_reducible apply State.loadMirror_keeps
    | with_reducible apply State.raiseVec_keeps
    | with_reducible apply State.setMbxW_keeps
    | with_reducible apply State.setMbxWs_keeps
    | with_reducible apply KeepsOut.onUnit
    | with_reducible apply Keeps.ite
    | with_reducible refine Keeps.foldFst ?_ ?_
    | with_reducible refine Keeps.foldSnd ?_ ?_
    | with_reducible refine Keeps.getD ?_ ?_
    | with_reducible apply Keeps.fold
    | intro _ _ _ _
    | intro _ _ _
    | intro _ _
    | intro _ 
    | split
    | dsimp only

theorem State.cmd_keeps {b s : State} (h_ : Keeps b s) (fn mbx opcode : Nat) (f : State → State) (hf : ∀ u : State, Keeps b u → Keeps b (f u)) :
    KeepsOut b (State.cmd s fn mbx opcode f) := by
  unfold State.cmd
  exact KeepsOut.onUnit h_ (Keeps.ite (hf _ h_) h_)

theorem State.accept_keeps {b_ s : State} (h_ : Keeps b_ s) (fn : Nat) (mbx : Nat) : Keeps b_ (State.accept s fn mbx) := by
  unfold State.accept
  iterate 3
   all_goals try with_reducible apply Keeps.leaf
   repeat' first
    | with_reducible exact h_
    | with_reducible assumption
    | with_reducible exact memWrite_wf _ _ _
    | with_reducible exact memSet_wf _ _ _
    | with_reducible exact memClear_wf _ _ _
    | with_reducible exact memFilter_wf _ _
    | with_reducible exact memFold_wf (fun _ _ => memClear_wf _ _ _)
    | exact Eq.refl _
    | exact fun h => h
    | exact memWrite_wf _ _ _
    | exact memSet_wf _ _ _
    | exact memClear_wf _ _ _
    | exact memFilter_wf _ _
    | with_reducible apply State.respond_keeps

theorem State.cmdDone_keeps {b_ s : State} (h_ : Keeps b_ s) (fn : Nat) (mbx : Nat) (opcode : Nat) (result : Nat) (ws : List Nat) : Keeps b_ (State.cmdDone s fn mbx opcode result ws) := by
  unfold State.cmdDone
  iterate 3
   all_goals try with_reducible apply Keeps.leaf
   repeat' first
    | with_reducible exact h_
    | with_reducible assumption
    | with_reducible exact memWrite_wf _ _ _
    | with_reducible exact memSet_wf _ _ _
    | with_reducible exact memClear_wf _ _ _
    | with_reducible exact memFilter_wf _ _
    | with_reducible exact memFold_wf (fun _ _ => memClear_wf _ _ _)
    | exact Eq.refl _
    | exact fun h => h
    | exact memWrite_wf _ _ _
    | exact memSet_wf _ _ _
    | exact memClear_wf _ _ _
    | exact memFilter_wf _ _
    | with_reducible apply State.postAt_keeps
    | with_reducible apply State.take_keeps
    | with_reducible apply KeepsOut.onUnit
    | with_reducible apply Keeps.ite
    | with_reducible refine Keeps.foldFst ?_ ?_
    | with_reducible refine Keeps.foldSnd ?_ ?_
    | with_reducible refine Keeps.getD ?_ ?_
    | with_reducible apply Keeps.fold
    | intro _ _ _ _
    | intro _ _ _
    | intro _ _
    | intro _ 
    | split
    | dsimp only

theorem State.setFnState_keeps {b_ s : State} (h_ : Keeps b_ s) (fn : Nat) (st : Nat) : Keeps b_ (State.setFnState s fn st) := by
  unfold State.setFnState
  iterate 3
   all_goals try with_reducible apply Keeps.leaf
   repeat' first
    | with_reducible exact h_
    | with_reducible assumption
    | with_reducible exact memWrite_wf _ _ _
    | with_reducible exact memSet_wf _ _ _
    | with_reducible exact memClear_wf _ _ _
    | with_reducible exact memFilter_wf _ _
    | with_reducible exact memFold_wf (fun _ _ => memClear_wf _ _ _)
    | exact Eq.refl _
    | exact fun h => h
    | exact memWrite_wf _ _ _
    | exact memSet_wf _ _ _
    | exact memClear_wf _ _ _
    | exact memFilter_wf _ _
    | with_reducible apply State.hwSet_keeps
    | with_reducible apply State.post_keeps
    | with_reducible apply State.wrF_keeps
    | with_reducible apply KeepsOut.onUnit
    | with_reducible apply Keeps.ite

theorem State.allFns_keeps {b_ s : State} (h_ : Keeps b_ s) (f : State → Nat → State) (hf : ∀ (u : State) a0, Keeps b_ u → Keeps b_ (f u a0)) : Keeps b_ (State.allFns s f) := by
  unfold State.allFns
  iterate 3
   all_goals try with_reducible apply Keeps.leaf
   repeat' first
    | with_reducible exact h_
    | with_reducible assumption
    | with_reducible exact memWrite_wf _ _ _
    | with_reducible exact memSet_wf _ _ _
    | with_reducible exact memClear_wf _ _ _
    | with_reducible exact memFilter_wf _ _
    | with_reducible exact memFold_wf (fun _ _ => memClear_wf _ _ _)
    | exact Eq.refl _
    | exact fun h => h
    | exact memWrite_wf _ _ _
    | exact memSet_wf _ _ _
    | exact memClear_wf _ _ _
    | exact memFilter_wf _ _
    | with_reducible apply hf
    | with_reducible apply KeepsOut.onUnit
    | with_reducible apply Keeps.ite
    | with_reducible refine Keeps.foldFst ?_ ?_
    | with_reducible refine Keeps.foldSnd ?_ ?_
    | with_reducible refine Keeps.getD ?_ ?_
    | with_reducible apply Keeps.fold

theorem State.dropWr_keeps {b_ s : State} (h_ : Keeps b_ s) (fn : Nat) : Keeps b_ (State.dropWr s fn) := by
  unfold State.dropWr
  iterate 3
   all_goals try with_reducible apply Keeps.leaf
   repeat' first
    | with_reducible exact h_
    | with_reducible assumption
    | with_reducible exact memWrite_wf _ _ _
    | with_reducible exact memSet_wf _ _ _
    | with_reducible exact memClear_wf _ _ _
    | with_reducible exact memFilter_wf _ _
    | with_reducible exact memFold_wf (fun _ _ => memClear_wf _ _ _)
    | exact Eq.refl _
    | exact fun h => h
    | exact memWrite_wf _ _ _
    | exact memSet_wf _ _ _
    | exact memClear_wf _ _ _
    | exact memFilter_wf _ _
    | with_reducible apply State.count_keeps
    | with_reducible apply State.hwSet_keeps

theorem State.postOwner_keeps {b s : State} (h_ : Keeps b s) (fn typ : Nat) (ws : List Nat) : Keeps b (State.postOwner s fn typ ws) := by
  unfold State.postOwner
  exact Keeps.ite (State.post_keeps h_ _ _ _) h_

theorem State.resetLog_keeps {b_ s : State} (h_ : Keeps b_ s) (domain : Nat) (target : Nat) (cause : Nat) (owner : Nat) : Keeps b_ (State.resetLog s domain target cause owner) := by
  unfold State.resetLog
  iterate 3
   all_goals try with_reducible apply Keeps.leaf
   repeat' first
    | with_reducible exact h_
    | with_reducible assumption
    | with_reducible exact memWrite_wf _ _ _
    | with_reducible exact memSet_wf _ _ _
    | with_reducible exact memClear_wf _ _ _
    | with_reducible exact memFilter_wf _ _
    | with_reducible exact memFold_wf (fun _ _ => memClear_wf _ _ _)
    | exact Eq.refl _
    | exact fun h => h
    | exact memWrite_wf _ _ _
    | exact memSet_wf _ _ _
    | exact memClear_wf _ _ _
    | exact memFilter_wf _ _
    | with_reducible apply State.log_keeps
    | with_reducible apply State.wrN_keeps

theorem State.resetEvent_keeps {b_ s : State} (h_ : Keeps b_ s) (domain : Nat) (target : Nat) (cause : Nat) (owner : Nat) : Keeps b_ (State.resetEvent s domain target cause owner) := by
  unfold State.resetEvent
  iterate 3
   all_goals try with_reducible apply Keeps.leaf
   repeat' first
    | with_reducible exact h_
    | with_reducible assumption
    | with_reducible exact memWrite_wf _ _ _
    | with_reducible exact memSet_wf _ _ _
    | with_reducible exact memClear_wf _ _ _
    | with_reducible exact memFilter_wf _ _
    | with_reducible exact memFold_wf (fun _ _ => memClear_wf _ _ _)
    | exact Eq.refl _
    | exact fun h => h
    | exact memWrite_wf _ _ _
    | exact memSet_wf _ _ _
    | exact memClear_wf _ _ _
    | exact memFilter_wf _ _
    | with_reducible apply State.post_keeps
    | with_reducible apply State.postOwner_keeps

theorem State.resetRecord_keeps {b_ s : State} (h_ : Keeps b_ s) (domain : Nat) (target : Nat) (cause : Nat) (owner : Nat) : Keeps b_ (State.resetRecord s domain target cause owner) := by
  unfold State.resetRecord
  iterate 3
   all_goals try with_reducible apply Keeps.leaf
   repeat' first
    | with_reducible exact h_
    | with_reducible assumption
    | with_reducible exact memWrite_wf _ _ _
    | with_reducible exact memSet_wf _ _ _
    | with_reducible exact memClear_wf _ _ _
    | with_reducible exact memFilter_wf _ _
    | with_reducible exact memFold_wf (fun _ _ => memClear_wf _ _ _)
    | exact Eq.refl _
    | exact fun h => h
    | exact memWrite_wf _ _ _
    | exact memSet_wf _ _ _
    | exact memClear_wf _ _ _
    | exact memFilter_wf _ _
    | with_reducible apply State.resetEvent_keeps
    | with_reducible apply State.resetLog_keeps
    | with_reducible apply KeepsOut.onUnit
    | with_reducible apply Keeps.ite

end Sys2Proof.Machine
end

