-- ==== Sys2Proof/Laws/KeepsAccess.lean ====
section
/-! SUPPORT. The frame of every operation of Machine/Access.lean: the queue and soundness. -/

namespace Sys2Proof.Machine

open Sys2Proof

theorem State.touch_keeps {b_ s : State} (h_ : Keeps b_ s) (psn : Nat) (kv : Bool) : Keeps b_ (State.touch s psn kv) := by
  unfold State.touch
  refine Keeps.leaf (State.setPage_keeps h_ _ _) id id id ?_ rfl rfl id
  intro h
  rw [State.setPage_pln_data] at h
  dsimp only
  split
  · exact h
  · exact memClear_wf _ _ _ h

theorem State.resend_keeps {b_ s : State} (h_ : Keeps b_ s) (p : Nat) : Keeps b_ (State.resend s p) := by
  unfold State.resend
  iterate 3
   all_goals try with_reducible apply Keeps.leaf
   repeat' first
    | with_reducible exact h_
    | with_reducible assumption
    | with_reducible exact memWrite_wf _ _ _
    | with_reducible exact memSet_wf _ _ _
    | with_reducible exact memClear_wf _ _ _
    | with_reducible exact memFilter_wf _ _
    | with_reducible exact memFold_wf (fun _ _ => memClear_wf _ _ _)
    | exact Eq.refl _
    | exact fun h => h
    | exact memWrite_wf _ _ _
    | exact memSet_wf _ _ _
    | exact memClear_wf _ _ _
    | exact memFilter_wf _ _
    | with_reducible apply KeepsOut.onUnit
    | with_reducible apply Keeps.ite
    | with_reducible refine Keeps.foldFst ?_ ?_
    | with_reducible refine Keeps.foldSnd ?_ ?_
    | with_reducible refine Keeps.getD ?_ ?_
    | with_reducible apply Keeps.fold
    | intro _ _ _ _
    | intro _ _ _
    | intro _ _
    | intro _ 
    | split
    | dsimp only

theorem State.plainPut_keeps {b_ s : State} (h_ : Keeps b_ s) (ppn off : Nat) (kv : Bool) (l : List Byte) :
    Keeps b_ (State.plainPut s ppn off kv l) := by
  induction l generalizing s off with
  | nil => exact State.resend_keeps h_ _
  | cons x r ih =>
    unfold State.plainPut
    dsimp only
    have hx : Keeps b_ (if (s.fresh? (ppn * 256 + off / 256) && s.plainFmt (ppn * 256 + off / 256) == b2n kv) = true then s
        else s.touch (ppn * 256 + off / 256) kv) := Keeps.ite h_ (State.touch_keeps h_ _ _)
    generalize (if (s.fresh? (ppn * 256 + off / 256) && s.plainFmt (ppn * 256 + off / 256) == b2n kv) = true then s
        else s.touch (ppn * 256 + off / 256) kv) = u at hx ⊢
    refine ih ?_ _
    exact Keeps.leaf hx id id id (memSet_wf _ _ _) rfl rfl id

theorem State.writeByte_keeps {b_ s : State} (h_ : Keeps b_ s) (fn : Nat) (island : Nat) (core : Nat) (a : Nat) (kv : Bool) (b : Byte) : Keeps b_ (State.writeByte s fn island core a kv b) := by
  unfold State.writeByte
  iterate 3
   all_goals try with_reducible apply Keeps.leaf
   repeat' first
    | with_reducible exact h_
    | with_reducible assumption
    | with_reducible exact memWrite_wf _ _ _
    | with_reducible exact memSet_wf _ _ _
    | with_reducible exact memClear_wf _ _ _
    | with_reducible exact memFilter_wf _ _
    | with_reducible exact memFold_wf (fun _ _ => memClear_wf _ _ _)
    | exact Eq.refl _
    | exact fun h => h
    | exact memWrite_wf _ _ _
    | exact memSet_wf _ _ _
    | exact memClear_wf _ _ _
    | exact memFilter_wf _ _
    | with_reducible apply State.plainPut_keeps
    | with_reducible apply KeepsOut.onUnit
    | with_reducible apply Keeps.ite
    | with_reducible refine Keeps.foldFst ?_ ?_
    | with_reducible refine Keeps.foldSnd ?_ ?_
    | with_reducible refine Keeps.getD ?_ ?_
    | with_reducible apply Keeps.fold
    | intro _ _ _ _
    | intro _ _ _
    | intro _ _
    | intro _ 
    | split
    | dsimp only

theorem State.writeBytes_keeps {b_ s : State} (h_ : Keeps b_ s) (fn island core a : Nat) (kv : Bool) (l : List Byte) :
    Keeps b_ (State.writeBytes s fn island core a kv l) := by
  induction l generalizing s a with
  | nil => exact h_
  | cons x r ih => exact ih (State.writeByte_keeps h_ _ _ _ _ _ _) _

theorem State.lsWrite_keeps {b_ s : State} (h_ : Keeps b_ s) (core : Nat) (a : Nat) (l : List Byte) : Keeps b_ (State.lsWrite s core a l) := by
  unfold State.lsWrite
  iterate 3
   all_goals try with_reducible apply Keeps.leaf
   repeat' first
    | with_reducible exact h_
    | with_reducible assumption
    | with_reducible exact memWrite_wf _ _ _
    | with_reducible exact memSet_wf _ _ _
    | with_reducible exact memClear_wf _ _ _
    | with_reducible exact memFilter_wf _ _
    | with_reducible exact memFold_wf (fun _ _ => memClear_wf _ _ _)
    | exact Eq.refl _
    | exact fun h => h

theorem State.drawEpoch_of {b_ s t_ : State} {w_ : Nat} (h_ : Keeps b_ s) (e_ : State.drawEpoch s = some (w_, t_)) : Keeps b_ t_ := by
  unfold State.drawEpoch at e_
  dsimp only at e_
  iterate 3
   all_goals try with_reducible apply Keeps.leaf
   repeat' first
    | (cases e_; done)
    | cases e_
    | split at e_
    | with_reducible exact h_
    | with_reducible assumption
    | with_reducible exact memWrite_wf _ _ _
    | with_reducible exact memSet_wf _ _ _
    | with_reducible exact memClear_wf _ _ _
    | with_reducible exact memFilter_wf _ _
    | with_reducible exact memFold_wf (fun _ _ => memClear_wf _ _ _)
    | exact Eq.refl _
    | exact fun h => h
    | exact memWrite_wf _ _ _
    | exact memSet_wf _ _ _
    | exact memClear_wf _ _ _
    | exact memFilter_wf _ _
    | with_reducible apply State.wrN_keeps
    | with_reducible apply KeepsOut.onUnit
    | with_reducible apply Keeps.ite
    | with_reducible refine Keeps.foldFst ?_ ?_
    | with_reducible refine Keeps.foldSnd ?_ ?_
    | with_reducible refine Keeps.getD ?_ ?_
    | with_reducible apply Keeps.fold
    | intro _ _ _ _
    | intro _ _ _
    | intro _ _
    | intro _ 
    | split
    | dsimp only

theorem State.waitDraw_keeps {b_ s : State} (h_ : Keeps b_ s) (fn : Nat) (mbx : Nat) : Keeps b_ (State.waitDraw s fn mbx) := by
  unfold State.waitDraw
  iterate 3
   all_goals try with_reducible apply Keeps.leaf
   repeat' first
    | with_reducible exact h_
    | with_reducible assumption
    | with_reducible exact memWrite_wf _ _ _
    | with_reducible exact memSet_wf _ _ _
    | with_reducible exact memClear_wf _ _ _
    | with_reducible exact memFilter_wf _ _
    | with_reducible exact memFold_wf (fun _ _ => memClear_wf _ _ _)
    | exact Eq.refl _
    | exact fun h => h
    | exact memWrite_wf _ _ _
    | exact memSet_wf _ _ _
    | exact memClear_wf _ _ _
    | exact memFilter_wf _ _
    | with_reducible apply KeepsOut.onUnit
    | with_reducible apply Keeps.ite
    | with_reducible refine Keeps.foldFst ?_ ?_
    | with_reducible refine Keeps.foldSnd ?_ ?_
    | with_reducible refine Keeps.getD ?_ ?_
    | with_reducible apply Keeps.fold
    | intro _ _ _ _
    | intro _ _ _
    | intro _ _
    | intro _ 
    | split
    | dsimp only

theorem State.freshPages_keeps {b_ s : State} (h_ : Keeps b_ s) (owner : Nat) (epoch : Nat) (ps : List Nat) : Keeps b_ (State.freshPages s owner epoch ps) := by
  unfold State.freshPages
  iterate 3
   all_goals try with_reducible apply Keeps.leaf
   repeat' first
    | with_reducible exact h_
    | with_reducible assumption
    | with_reducible exact memWrite_wf _ _ _
    | with_reducible exact memSet_wf _ _ _
    | with_reducible exact memClear_wf _ _ _
    | with_reducible exact memFilter_wf _ _
    | with_reducible exact memFold_wf (fun _ _ => memClear_wf _ _ _)
    | exact Eq.refl _
    | exact fun h => h

theorem State.tlbDrop_keeps {b_ s : State} (h_ : Keeps b_ s) (fn : Nat) (vpn : Nat) : Keeps b_ (State.tlbDrop s fn vpn) := by
  unfold State.tlbDrop
  iterate 3
   all_goals try with_reducible apply Keeps.leaf
   repeat' first
    | with_reducible exact h_
    | with_reducible assumption
    | with_reducible exact memWrite_wf _ _ _
    | with_reducible exact memSet_wf _ _ _
    | with_reducible exact memClear_wf _ _ _
    | with_reducible exact memFilter_wf _ _
    | with_reducible exact memFold_wf (fun _ _ => memClear_wf _ _ _)
    | exact Eq.refl _
    | exact fun h => h
    | exact memWrite_wf _ _ _
    | exact memSet_wf _ _ _
    | exact memClear_wf _ _ _
    | exact memFilter_wf _ _
    | with_reducible apply State.updIsl_keeps
    | with_reducible apply KeepsOut.onUnit
    | with_reducible apply Keeps.ite
    | with_reducible refine Keeps.foldFst ?_ ?_
    | with_reducible refine Keeps.foldSnd ?_ ?_
    | with_reducible refine Keeps.getD ?_ ?_
    | with_reducible apply Keeps.fold
    | intro _ _ _ _
    | intro _ _ _

theorem State.logPlain_keeps {b_ s : State} (h_ : Keeps b_ s) (psn : Nat) (cls : Nat) (sub : Nat) (func : Nat) (sev : Nat) (synd : Nat) (ctx : Nat) : Keeps b_ (State.logPlain s psn cls sub func sev synd ctx) := by
  unfold State.logPlain
  iterate 3
   all_goals try with_reducible apply Keeps.leaf
   repeat' first
    | with_reducible exact h_
    | with_reducible assumption
    | with_reducible exact memWrite_wf _ _ _
    | with_reducible exact memSet_wf _ _ _
    | with_reducible exact memClear_wf _ _ _
    | with_reducible exact memFilter_wf _ _
    | with_reducible exact memFold_wf (fun _ _ => memClear_wf _ _ _)
    | exact Eq.refl _
    | exact fun h => h
    | exact memWrite_wf _ _ _
    | exact memSet_wf _ _ _
    | exact memClear_wf _ _ _
    | exact memFilter_wf _ _
    | with_reducible apply State.log_keeps

theorem State.quarantine_keeps {b_ s : State} (h_ : Keeps b_ s) (psn : Nat) (cls : Nat) (dev : Nat) (synd : Nat) (ctx : Nat) : Keeps b_ (State.quarantine s psn cls dev synd ctx) := by
  unfold State.quarantine
  iterate 3
   all_goals try with_reducible apply Keeps.leaf
   repeat' first
    | with_reducible exact h_
    | with_reducible assumption
    | with_reducible exact memWrite_wf _ _ _
    | with_reducible exact memSet_wf _ _ _
    | with_reducible exact memClear_wf _ _ _
    | with_reducible exact memFilter_wf _ _
    | with_reducible exact memFold_wf (fun _ _ => memClear_wf _ _ _)
    | exact Eq.refl _
    | exact fun h => h
    | exact memWrite_wf _ _ _
    | exact memSet_wf _ _ _
    | exact memClear_wf _ _ _
    | exact memFilter_wf _ _
    | with_reducible apply State.count_keeps
    | with_reducible apply State.hwSet_keeps
    | with_reducible apply State.logPlain_keeps
    | with_reducible apply State.postOwner_keeps
    | with_reducible apply State.setPage_keeps
    | with_reducible apply KeepsOut.onUnit
    | with_reducible apply Keeps.ite

theorem State.syncBindable_keeps {b_ s : State} (h_ : Keeps b_ s) : Keeps b_ (State.syncBindable s) := by
  unfold State.syncBindable
  iterate 3
   all_goals try with_reducible apply Keeps.leaf
   repeat' first
    | with_reducible exact h_
    | with_reducible assumption
    | with_reducible exact memWrite_wf _ _ _
    | with_reducible exact memSet_wf _ _ _
    | with_reducible exact memClear_wf _ _ _
    | with_reducible exact memFilter_wf _ _
    | with_reducible exact memFold_wf (fun _ _ => memClear_wf _ _ _)
    | exact Eq.refl _
    | exact fun h => h
    | exact memWrite_wf _ _ _
    | exact memSet_wf _ _ _
    | exact memClear_wf _ _ _
    | exact memFilter_wf _ _
    | with_reducible apply State.retired_keeps
    | with_reducible apply State.wrN_keeps

theorem State.showFull_keeps {b_ s : State} (h_ : Keeps b_ s) : Keeps b_ (State.showFull s) := by
  unfold State.showFull
  iterate 3
   all_goals try with_reducible apply Keeps.leaf
   repeat' first
    | with_reducible exact h_
    | with_reducible assumption
    | with_reducible exact memWrite_wf _ _ _
    | with_reducible exact memSet_wf _ _ _
    | with_reducible exact memClear_wf _ _ _
    | with_reducible exact memFilter_wf _ _
    | with_reducible exact memFold_wf (fun _ _ => memClear_wf _ _ _)
    | exact Eq.refl _
    | exact fun h => h
    | exact memWrite_wf _ _ _
    | exact memSet_wf _ _ _
    | exact memClear_wf _ _ _
    | exact memFilter_wf _ _
    | with_reducible apply State.hwSet_keeps
    | with_reducible apply State.wrF_keeps
    | with_reducible apply KeepsOut.onUnit
    | with_reducible apply Keeps.ite

theorem State.retireHold_keeps {b_ s : State} (h_ : Keeps b_ s) (ppn : Nat) : Keeps b_ (State.retireHold s ppn) := by
  unfold State.retireHold
  iterate 3
   all_goals try with_reducible apply Keeps.leaf
   repeat' first
    | with_reducible exact h_
    | with_reducible assumption
    | with_reducible exact memWrite_wf _ _ _
    | with_reducible exact memSet_wf _ _ _
    | with_reducible exact memClear_wf _ _ _
    | with_reducible exact memFilter_wf _ _
    | with_reducible exact memFold_wf (fun _ _ => memClear_wf _ _ _)
    | exact Eq.refl _
    | exact fun h => h
    | exact memWrite_wf _ _ _
    | exact memSet_wf _ _ _
    | exact memClear_wf _ _ _
    | exact memFilter_wf _ _
    | with_reducible apply State.count_keeps
    | with_reducible apply State.hwSet_keeps
    | with_reducible apply State.logPlain_keeps
    | with_reducible apply State.setPage_keeps
    | with_reducible apply State.showFull_keeps
    | with_reducible apply State.syncBindable_keeps
    | with_reducible apply KeepsOut.onUnit
    | with_reducible apply Keeps.ite
    | with_reducible refine Keeps.foldFst ?_ ?_
    | with_reducible refine Keeps.foldSnd ?_ ?_
    | with_reducible refine Keeps.getD ?_ ?_
    | with_reducible apply Keeps.fold
    | intro _ _ _ _
    | intro _ _ _
    | intro _ _
    | intro _ 
    | split
    | dsimp only

theorem State.retire_keeps {b_ s : State} (h_ : Keeps b_ s) (ppn : Nat) : Keeps b_ (State.retire s ppn) := by
  unfold State.retire
  split
  · exact State.retireHold_keeps h_ _
  · rename_i hf
    refine State.syncBindable_keeps (State.showFull_keeps (State.log_keeps (State.hwSet_keeps (State.wrF_keeps ?_ _ _ _ _ _) _ _ _) _ _ _ _ _ _ _ _ _ _))
    have hp := State.setPage_keeps h_ ppn { s.page ppn with owner := 0, st := .retired, migrating := false }
    have hr := State.setPage_pln_retired s ppn { s.page ppn with owner := 0, st := .retired, migrating := false }
    generalize s.setPage ppn { s.page ppn with owner := 0, st := .retired, migrating := false } = t at hp hr ⊢
    refine hp.trans ⟨rfl, fun i => ⟨i.mem, i.regs, i.time, i.fatal, ?_⟩⟩
    simp only [State.retireFull, decide_eq_true_eq, Nat.not_le] at hf
    simp only [List.length_append, List.length_cons, List.length_nil, hr]
    omega

theorem State.landParts_keeps {b_ s : State} (h_ : Keeps b_ s) (fn : Nat) (island : Nat) (core : Nat) (ps : List (Nat × List Byte)) : Keeps b_ (State.landParts s fn island core ps) := by
  unfold State.landParts
  iterate 3
   all_goals try with_reducible apply Keeps.leaf
   repeat' first
    | with_reducible exact h_
    | with_reducible assumption
    | with_reducible exact memWrite_wf _ _ _
    | with_reducible exact memSet_wf _ _ _
    | with_reducible exact memClear_wf _ _ _
    | with_reducible exact memFilter_wf _ _
    | with_reducible exact memFold_wf (fun _ _ => memClear_wf _ _ _)
    | exact Eq.refl _
    | exact fun h => h
    | exact memWrite_wf _ _ _
    | exact memSet_wf _ _ _
    | exact memClear_wf _ _ _
    | exact memFilter_wf _ _
    | with_reducible apply State.writeBytes_keeps
    | with_reducible apply KeepsOut.onUnit
    | with_reducible apply Keeps.ite
    | with_reducible refine Keeps.foldFst ?_ ?_
    | with_reducible refine Keeps.foldSnd ?_ ?_
    | with_reducible refine Keeps.getD ?_ ?_
    | with_reducible apply Keeps.fold
    | intro _ _ _ _
    | intro _ _ _

end Sys2Proof.Machine
end

