-- ==== Sys2Proof/Laws/KeepsCodes.lean ====
section
/-! SUPPORT. The frame of every operation of Machine/Codes.lean: the queue and soundness. -/

namespace Sys2Proof.Machine

open Sys2Proof

theorem State.arrive_keeps {b_ s : State} (h_ : Keeps b_ s) (p : Nat) (gid : Option Nat) : Keeps b_ (State.arrive s p gid) := by
  unfold State.arrive
  iterate 3
   all_goals try with_reducible apply Keeps.leaf
   repeat' first
    | with_reducible exact h_
    | with_reducible assumption
    | with_reducible exact memWrite_wf _ _ _
    | with_reducible exact memSet_wf _ _ _
    | with_reducible exact memClear_wf _ _ _
    | with_reducible exact memFilter_wf _ _
    | with_reducible exact memFold_wf (fun _ _ => memClear_wf _ _ _)
    | exact Eq.refl _
    | exact fun h => h

theorem State.clearPasses_keeps {b_ s : State} (h_ : Keeps b_ s) (fn : Nat) : Keeps b_ (State.clearPasses s fn) := by
  unfold State.clearPasses
  iterate 3
   all_goals try with_reducible apply Keeps.leaf
   repeat' first
    | with_reducible exact h_
    | with_reducible assumption
    | with_reducible exact memWrite_wf _ _ _
    | with_reducible exact memSet_wf _ _ _
    | with_reducible exact memClear_wf _ _ _
    | with_reducible exact memFilter_wf _ _
    | with_reducible exact memFold_wf (fun _ _ => memClear_wf _ _ _)
    | exact Eq.refl _
    | exact fun h => h

theorem State.movePass_keeps {b_ s : State} (h_ : Keeps b_ s) (p : Nat) (f : Pass → Pass) : Keeps b_ (State.movePass s p f) := by
  unfold State.movePass
  iterate 3
   all_goals try with_reducible apply Keeps.leaf
   repeat' first
    | with_reducible exact h_
    | with_reducible assumption
    | with_reducible exact memWrite_wf _ _ _
    | with_reducible exact memSet_wf _ _ _
    | with_reducible exact memClear_wf _ _ _
    | with_reducible exact memFilter_wf _ _
    | with_reducible exact memFold_wf (fun _ _ => memClear_wf _ _ _)
    | exact Eq.refl _
    | exact fun h => h
    | exact memWrite_wf _ _ _
    | exact memSet_wf _ _ _
    | exact memClear_wf _ _ _
    | exact memFilter_wf _ _
    | with_reducible apply State.setPass_keeps
    | with_reducible apply State.updTh_keeps
    | with_reducible apply KeepsOut.onUnit
    | with_reducible apply Keeps.ite
    | with_reducible refine Keeps.foldFst ?_ ?_
    | with_reducible refine Keeps.foldSnd ?_ ?_
    | with_reducible refine Keeps.getD ?_ ?_
    | with_reducible apply Keeps.fold
    | intro _ _ _ _
    | intro _ _ _

end Sys2Proof.Machine
end

