-- ==== Sys2Proof/Laws/KeepsServeOps.lean ====
section
/-! SUPPORT. The frame of every operation of Machine/ServeOps.lean: the queue and soundness. -/

namespace Sys2Proof.Machine

open Sys2Proof

theorem State.setReq_keeps {b_ s : State} (h_ : Keeps b_ s) (fn : Nat) (l : Nat) (r : Req) : Keeps b_ (State.setReq s fn l r) := by
  unfold State.setReq
  iterate 3
   all_goals try with_reducible apply Keeps.leaf
   repeat' first
    | with_reducible exact h_
    | with_reducible assumption
    | with_reducible exact memWrite_wf _ _ _
    | with_reducible exact memSet_wf _ _ _
    | with_reducible exact memClear_wf _ _ _
    | with_reducible exact memFilter_wf _ _
    | with_reducible exact memFold_wf (fun _ _ => memClear_wf _ _ _)
    | exact Eq.refl _
    | exact fun h => h

theorem State.setModel_keeps {b_ s : State} (h_ : Keeps b_ s) (fn : Nat) (m : Nat) (c : SCfg) : Keeps b_ (State.setModel s fn m c) := by
  unfold State.setModel
  iterate 3
   all_goals try with_reducible apply Keeps.leaf
   repeat' first
    | with_reducible exact h_
    | with_reducible assumption
    | with_reducible exact memWrite_wf _ _ _
    | with_reducible exact memSet_wf _ _ _
    | with_reducible exact memClear_wf _ _ _
    | with_reducible exact memFilter_wf _ _
    | with_reducible exact memFold_wf (fun _ _ => memClear_wf _ _ _)
    | exact Eq.refl _
    | exact fun h => h

theorem State.accrueSteps_keeps {b_ s : State} (h_ : Keeps b_ s) : Keeps b_ (State.accrueSteps s) := by
  unfold State.accrueSteps
  iterate 3
   all_goals try with_reducible apply Keeps.leaf
   repeat' first
    | with_reducible exact h_
    | with_reducible assumption
    | with_reducible exact memWrite_wf _ _ _
    | with_reducible exact memSet_wf _ _ _
    | with_reducible exact memClear_wf _ _ _
    | with_reducible exact memFilter_wf _ _
    | with_reducible exact memFold_wf (fun _ _ => memClear_wf _ _ _)
    | exact Eq.refl _
    | exact fun h => h

theorem State.reqEvent_keeps {b_ s : State} (h_ : Keeps b_ s) (fn : Nat) (typ : Nat) (l : Nat) (r : Req) (outcome : Nat) (more : List Nat) : Keeps b_ (State.reqEvent s fn typ l r outcome more) := by
  unfold State.reqEvent
  iterate 3
   all_goals try with_reducible apply Keeps.leaf
   repeat' first
    | with_reducible exact h_
    | with_reducible assumption
    | with_reducible exact memWrite_wf _ _ _
    | with_reducible exact memSet_wf _ _ _
    | with_reducible exact memClear_wf _ _ _
    | with_reducible exact memFilter_wf _ _
    | with_reducible exact memFold_wf (fun _ _ => memClear_wf _ _ _)
    | exact Eq.refl _
    | exact fun h => h
    | exact memWrite_wf _ _ _
    | exact memSet_wf _ _ _
    | exact memClear_wf _ _ _
    | exact memFilter_wf _ _
    | with_reducible apply State.post_keeps

theorem State.returnKv_keeps {b_ s : State} (h_ : Keeps b_ s) (fn : Nat) (r : Req) : Keeps b_ (State.returnKv s fn r) := by
  unfold State.returnKv
  iterate 3
   all_goals try with_reducible apply Keeps.leaf
   repeat' first
    | with_reducible exact h_
    | with_reducible assumption
    | with_reducible exact memWrite_wf _ _ _
    | with_reducible exact memSet_wf _ _ _
    | with_reducible exact memClear_wf _ _ _
    | with_reducible exact memFilter_wf _ _
    | with_reducible exact memFold_wf (fun _ _ => memClear_wf _ _ _)
    | exact Eq.refl _
    | exact fun h => h
    | exact memWrite_wf _ _ _
    | exact memSet_wf _ _ _
    | exact memClear_wf _ _ _
    | exact memFilter_wf _ _
    | with_reducible apply State.setModel_keeps
    | with_reducible apply KeepsOut.onUnit
    | with_reducible apply Keeps.ite
    | with_reducible refine Keeps.foldFst ?_ ?_
    | with_reducible refine Keeps.foldSnd ?_ ?_
    | with_reducible refine Keeps.getD ?_ ?_
    | with_reducible apply Keeps.fold
    | intro _ _ _ _
    | intro _ _ _
    | intro _ _
    | intro _ 
    | split

theorem State.freeReq_keeps {b_ s : State} (h_ : Keeps b_ s) (fn : Nat) (l : Nat) (r : Req) : Keeps b_ (State.freeReq s fn l r) := by
  unfold State.freeReq
  iterate 3
   all_goals try with_reducible apply Keeps.leaf
   repeat' first
    | with_reducible exact h_
    | with_reducible assumption
    | with_reducible exact memWrite_wf _ _ _
    | with_reducible exact memSet_wf _ _ _
    | with_reducible exact memClear_wf _ _ _
    | with_reducible exact memFilter_wf _ _
    | with_reducible exact memFold_wf (fun _ _ => memClear_wf _ _ _)
    | exact Eq.refl _
    | exact fun h => h
    | exact memWrite_wf _ _ _
    | exact memSet_wf _ _ _
    | exact memClear_wf _ _ _
    | exact memFilter_wf _ _
    | with_reducible apply State.returnKv_keeps

theorem State.endReq_keeps {b_ s : State} (h_ : Keeps b_ s) (fn : Nat) (l : Nat) (outcome : Nat) (result : Nat) (trail : Nat) : Keeps b_ (State.endReq s fn l outcome result trail) := by
  unfold State.endReq
  iterate 3
   all_goals try with_reducible apply Keeps.leaf
   repeat' first
    | with_reducible exact h_
    | with_reducible assumption
    | with_reducible exact memWrite_wf _ _ _
    | with_reducible exact memSet_wf _ _ _
    | with_reducible exact memClear_wf _ _ _
    | with_reducible exact memFilter_wf _ _
    | with_reducible exact memFold_wf (fun _ _ => memClear_wf _ _ _)
    | exact Eq.refl _
    | exact fun h => h
    | exact memWrite_wf _ _ _
    | exact memSet_wf _ _ _
    | exact memClear_wf _ _ _
    | exact memFilter_wf _ _
    | with_reducible apply State.freeReq_keeps
    | with_reducible apply State.hostPut_keeps
    | with_reducible apply State.hwSet_keeps
    | with_reducible apply State.logHostWrite_keeps
    | with_reducible apply State.reqEvent_keeps
    | with_reducible apply KeepsOut.onUnit
    | with_reducible apply Keeps.ite
    | with_reducible refine Keeps.foldFst ?_ ?_
    | with_reducible refine Keeps.foldSnd ?_ ?_
    | with_reducible refine Keeps.getD ?_ ?_
    | with_reducible apply Keeps.fold
    | intro _ _ _ _
    | intro _ _ _
    | intro _ _
    | intro _ 
    | split

theorem State.endAll_keeps {b_ s : State} (h_ : Keeps b_ s) (fn : Nat) (result : Nat) : Keeps b_ (State.endAll s fn result) := by
  unfold State.endAll
  iterate 3
   all_goals try with_reducible apply Keeps.leaf
   repeat' first
    | with_reducible exact h_
    | with_reducible assumption
    | with_reducible exact memWrite_wf _ _ _
    | with_reducible exact memSet_wf _ _ _
    | with_reducible exact memClear_wf _ _ _
    | with_reducible exact memFilter_wf _ _
    | with_reducible exact memFold_wf (fun _ _ => memClear_wf _ _ _)
    | exact Eq.refl _
    | exact fun h => h
    | exact memWrite_wf _ _ _
    | exact memSet_wf _ _ _
    | exact memClear_wf _ _ _
    | exact memFilter_wf _ _
    | with_reducible apply State.endReq_keeps
    | with_reducible apply KeepsOut.onUnit
    | with_reducible apply Keeps.ite
    | with_reducible refine Keeps.foldFst ?_ ?_
    | with_reducible refine Keeps.foldSnd ?_ ?_
    | with_reducible refine Keeps.getD ?_ ?_
    | with_reducible apply Keeps.fold
    | intro _ _ _ _
    | intro _ _ _

theorem State.writeToken_keeps {b_ s : State} (h_ : Keeps b_ s) (fn : Nat) (l : Nat) (tok : Nat) (uncomp : Bool) : Keeps b_ (State.writeToken s fn l tok uncomp) := by
  unfold State.writeToken
  iterate 3
   all_goals try with_reducible apply Keeps.leaf
   repeat' first
    | with_reducible exact h_
    | with_reducible assumption
    | with_reducible exact memWrite_wf _ _ _
    | with_reducible exact memSet_wf _ _ _
    | with_reducible exact memClear_wf _ _ _
    | with_reducible exact memFilter_wf _ _
    | with_reducible exact memFold_wf (fun _ _ => memClear_wf _ _ _)
    | exact Eq.refl _
    | exact fun h => h
    | exact memWrite_wf _ _ _
    | exact memSet_wf _ _ _
    | exact memClear_wf _ _ _
    | exact memFilter_wf _ _
    | with_reducible apply State.count_keeps
    | with_reducible apply State.endReq_keeps
    | with_reducible apply State.hostPut_keeps
    | with_reducible apply State.hwSet_keeps
    | with_reducible apply State.reqEvent_keeps
    | with_reducible apply State.setReq_keeps
    | with_reducible apply KeepsOut.onUnit
    | with_reducible apply Keeps.ite
    | with_reducible refine Keeps.foldFst ?_ ?_
    | with_reducible refine Keeps.foldSnd ?_ ?_
    | with_reducible refine Keeps.getD ?_ ?_
    | with_reducible apply Keeps.fold
    | intro _ _ _ _
    | intro _ _ _
    | intro _ _
    | intro _ 
    | split

theorem State.mcpWrite_keeps {b_ s : State} (h_ : Keeps b_ s) (fn : Nat) (a : Nat) (l : List Byte) : Keeps b_ (State.mcpWrite s fn a l) := by
  unfold State.mcpWrite
  iterate 3
   all_goals try with_reducible apply Keeps.leaf
   repeat' first
    | with_reducible exact h_
    | with_reducible assumption
    | with_reducible exact memWrite_wf _ _ _
    | with_reducible exact memSet_wf _ _ _
    | with_reducible exact memClear_wf _ _ _
    | with_reducible exact memFilter_wf _ _
    | with_reducible exact memFold_wf (fun _ _ => memClear_wf _ _ _)
    | exact Eq.refl _
    | exact fun h => h
    | exact memWrite_wf _ _ _
    | exact memSet_wf _ _ _
    | exact memClear_wf _ _ _
    | exact memFilter_wf _ _
    | with_reducible apply State.writeBytes_keeps
    | with_reducible apply KeepsOut.onUnit
    | with_reducible apply Keeps.ite
    | with_reducible refine Keeps.foldFst ?_ ?_
    | with_reducible refine Keeps.foldSnd ?_ ?_
    | with_reducible refine Keeps.getD ?_ ?_
    | with_reducible apply Keeps.fold
    | intro _ _ _ _
    | intro _ _ _
    | intro _ _
    | intro _ 
    | split

theorem State.mcpPost_keeps {b_ s : State} (h_ : Keeps b_ s) (fn : Nat) (m : Nat) (a : Nat) (l : List Byte) (pass : Option Nat) : Keeps b_ (State.mcpPost s fn m a l pass) := by
  unfold State.mcpPost
  iterate 3
   all_goals try with_reducible apply Keeps.leaf
   repeat' first
    | with_reducible exact h_
    | with_reducible assumption
    | with_reducible exact memWrite_wf _ _ _
    | with_reducible exact memSet_wf _ _ _
    | with_reducible exact memClear_wf _ _ _
    | with_reducible exact memFilter_wf _ _
    | with_reducible exact memFold_wf (fun _ _ => memClear_wf _ _ _)
    | exact Eq.refl _
    | exact fun h => h
    | exact memWrite_wf _ _ _
    | exact memSet_wf _ _ _
    | exact memClear_wf _ _ _
    | exact memFilter_wf _ _
    | with_reducible apply State.cmd_keeps
    | with_reducible apply State.setChan_keeps
    | with_reducible apply KeepsOut.onUnit
    | with_reducible apply Keeps.ite

theorem State.dropStep_keeps {b_ s : State} (h_ : Keeps b_ s) (fn : Nat) (m : Nat) : Keeps b_ (State.dropStep s fn m) := by
  unfold State.dropStep
  iterate 3
   all_goals try with_reducible apply Keeps.leaf
   repeat' first
    | with_reducible exact h_
    | with_reducible assumption
    | with_reducible exact memWrite_wf _ _ _
    | with_reducible exact memSet_wf _ _ _
    | with_reducible exact memClear_wf _ _ _
    | with_reducible exact memFilter_wf _ _
    | with_reducible exact memFold_wf (fun _ _ => memClear_wf _ _ _)
    | exact Eq.refl _
    | exact fun h => h

theorem State.learnPower_keeps {b_ s : State} (h_ : Keeps b_ s) (fn : Nat) (c : SCfg) (st : Stp) : Keeps b_ (State.learnPower s fn c st) := by
  unfold State.learnPower
  iterate 3
   all_goals try with_reducible apply Keeps.leaf
   repeat' first
    | with_reducible exact h_
    | with_reducible assumption
    | with_reducible exact memWrite_wf _ _ _
    | with_reducible exact memSet_wf _ _ _
    | with_reducible exact memClear_wf _ _ _
    | with_reducible exact memFilter_wf _ _
    | with_reducible exact memFold_wf (fun _ _ => memClear_wf _ _ _)
    | exact Eq.refl _
    | exact fun h => h
    | exact memWrite_wf _ _ _
    | exact memSet_wf _ _ _
    | exact memClear_wf _ _ _
    | exact memFilter_wf _ _
    | with_reducible apply KeepsOut.onUnit
    | with_reducible apply Keeps.ite
    | with_reducible refine Keeps.foldFst ?_ ?_
    | with_reducible refine Keeps.foldSnd ?_ ?_
    | with_reducible refine Keeps.getD ?_ ?_
    | with_reducible apply Keeps.fold
    | intro _ _ _ _
    | intro _ _ _
    | intro _ _
    | intro _ 
    | split
    | dsimp only

theorem State.tellPower_keeps {b_ s : State} (h_ : Keeps b_ s) (fn : Nat) (m : Nat) (c : SCfg) (st : Stp) : Keeps b_ (State.tellPower s fn m c st) := by
  unfold State.tellPower
  iterate 3
   all_goals try with_reducible apply Keeps.leaf
   repeat' first
    | with_reducible exact h_
    | with_reducible assumption
    | with_reducible exact memWrite_wf _ _ _
    | with_reducible exact memSet_wf _ _ _
    | with_reducible exact memClear_wf _ _ _
    | with_reducible exact memFilter_wf _ _
    | with_reducible exact memFold_wf (fun _ _ => memClear_wf _ _ _)
    | exact Eq.refl _
    | exact fun h => h

theorem State.postStep_keeps {b_ s : State} (h_ : Keeps b_ s) (fn : Nat) (m : Nat) (c : SCfg) (st : Stp) : Keeps b_ (State.postStep s fn m c st) := by
  unfold State.postStep
  iterate 3
   all_goals try with_reducible apply Keeps.leaf
   repeat' first
    | with_reducible exact h_
    | with_reducible assumption
    | with_reducible exact memWrite_wf _ _ _
    | with_reducible exact memSet_wf _ _ _
    | with_reducible exact memClear_wf _ _ _
    | with_reducible exact memFilter_wf _ _
    | with_reducible exact memFold_wf (fun _ _ => memClear_wf _ _ _)
    | exact Eq.refl _
    | exact fun h => h
    | exact memWrite_wf _ _ _
    | exact memSet_wf _ _ _
    | exact memClear_wf _ _ _
    | exact memFilter_wf _ _
    | with_reducible apply State.mcpPost_keeps
    | with_reducible apply State.setModel_keeps
    | with_reducible apply State.tellPower_keeps
    | with_reducible apply KeepsOut.onUnit
    | with_reducible apply Keeps.ite
    | with_reducible refine Keeps.foldFst ?_ ?_
    | with_reducible refine Keeps.foldSnd ?_ ?_
    | with_reducible refine Keeps.getD ?_ ?_
    | with_reducible apply Keeps.fold
    | intro _ _ _ _
    | intro _ _ _
    | intro _ _
    | intro _ 
    | split

theorem State.giveKv_of {b_ s t_ : State} (h_ : Keeps b_ s) {fn : Nat} {m : Nat} {l : Nat} {upto : Nat} (e_ : State.giveKv s fn m l upto = some t_) : Keeps b_ t_ := by
  unfold State.giveKv at e_
  dsimp only at e_
  iterate 3
   all_goals try with_reducible apply Keeps.leaf
   repeat' first
    | (cases e_; done)
    | cases e_
    | split at e_
    | with_reducible exact h_
    | with_reducible assumption
    | with_reducible exact memWrite_wf _ _ _
    | with_reducible exact memSet_wf _ _ _
    | with_reducible exact memClear_wf _ _ _
    | with_reducible exact memFilter_wf _ _
    | with_reducible exact memFold_wf (fun _ _ => memClear_wf _ _ _)
    | exact Eq.refl _
    | exact fun h => h
    | exact memWrite_wf _ _ _
    | exact memSet_wf _ _ _
    | exact memClear_wf _ _ _
    | exact memFilter_wf _ _
    | with_reducible apply State.setModel_keeps
    | with_reducible apply State.setReq_keeps

theorem State.giveRows_of {b_ s t_ : State} (h_ : Keeps b_ s) {fn m : Nat} {l : List Row} (e_ : State.giveRows s fn m l = some t_) :
    Keeps b_ t_ := by
  induction l generalizing s with
  | nil => unfold State.giveRows at e_; cases e_; exact h_
  | cons r rs ih =>
    unfold State.giveRows at e_
    rw [Option.bind_eq_some_iff] at e_
    obtain ⟨u, e1, e2⟩ := e_
    exact ih (State.giveKv_of h_ e1) e2

theorem State.serveRows_of {b_ s t_ : State} {w_ : List Row} (h_ : Keeps b_ s) {fn m : Nat} {dec : List Row} {n : Nat} {pre : List Row}
    (e_ : State.serveRows s fn m dec n pre = some (t_, w_)) : Keeps b_ t_ := by
  induction n generalizing pre with
  | zero =>
    unfold State.serveRows at e_
    rw [Option.map_eq_some_iff] at e_
    obtain ⟨u, e1, e2⟩ := e_
    cases e2
    exact State.giveRows_of h_ e1
  | succ n ih =>
    unfold State.serveRows at e_
    split at e_
    · rename_i e1
      cases e_
      exact State.giveRows_of h_ e1
    · exact ih e_

theorem State.preempt_keeps {b_ s : State} (h_ : Keeps b_ s) (fn : Nat) (l : Nat) : Keeps b_ (State.preempt s fn l) := by
  unfold State.preempt
  iterate 3
   all_goals try with_reducible apply Keeps.leaf
   repeat' first
    | with_reducible exact h_
    | with_reducible assumption
    | with_reducible exact memWrite_wf _ _ _
    | with_reducible exact memSet_wf _ _ _
    | with_reducible exact memClear_wf _ _ _
    | with_reducible exact memFilter_wf _ _
    | with_reducible exact memFold_wf (fun _ _ => memClear_wf _ _ _)
    | exact Eq.refl _
    | exact fun h => h
    | exact memWrite_wf _ _ _
    | exact memSet_wf _ _ _
    | exact memClear_wf _ _ _
    | exact memFilter_wf _ _
    | with_reducible apply State.count_keeps
    | with_reducible apply State.hwSet_keeps
    | with_reducible apply State.returnKv_keeps
    | with_reducible apply State.setReq_keeps
    | with_reducible apply KeepsOut.onUnit
    | with_reducible apply Keeps.ite
    | with_reducible refine Keeps.foldFst ?_ ?_
    | with_reducible refine Keeps.foldSnd ?_ ?_
    | with_reducible refine Keeps.getD ?_ ?_
    | with_reducible apply Keeps.fold
    | intro _ _ _ _
    | intro _ _ _
    | intro _ _
    | intro _ 
    | split

theorem State.planServed_fst {b_ s : State} (h_ : Keeps b_ s) (fn m : Nat) (c : SCfg) (n : Nat) :
    Keeps b_ (State.planServed s fn m c n).1 := by
  induction n generalizing s with
  | zero => exact h_
  | succ n ih =>
    unfold State.planServed
    dsimp only
    split
    · rename_i e
      exact State.serveRows_of h_ e
    · split
      · exact h_
      · exact ih (State.preempt_keeps h_ _ _)

theorem State.planServed_of {b_ s t_ : State} {w_ : List Row} (h_ : Keeps b_ s) {fn m : Nat} {c : SCfg} {n : Nat}
    (e_ : State.planServed s fn m c n = (t_, w_)) : Keeps b_ t_ := by
  have := State.planServed_fst h_ fn m c n
  rwa [e_] at this

theorem State.enterRows_keeps {b_ s : State} (h_ : Keeps b_ s) (fn : Nat) (rows : List Row) : Keeps b_ (State.enterRows s fn rows) := by
  unfold State.enterRows
  iterate 3
   all_goals try with_reducible apply Keeps.leaf
   repeat' first
    | with_reducible exact h_
    | with_reducible assumption
    | with_reducible exact memWrite_wf _ _ _
    | with_reducible exact memSet_wf _ _ _
    | with_reducible exact memClear_wf _ _ _
    | with_reducible exact memFilter_wf _ _
    | with_reducible exact memFold_wf (fun _ _ => memClear_wf _ _ _)
    | exact Eq.refl _
    | exact fun h => h
    | exact memWrite_wf _ _ _
    | exact memSet_wf _ _ _
    | exact memClear_wf _ _ _
    | exact memFilter_wf _ _
    | with_reducible apply State.setReq_keeps
    | with_reducible apply KeepsOut.onUnit
    | with_reducible apply Keeps.ite
    | with_reducible refine Keeps.foldFst ?_ ?_
    | with_reducible refine Keeps.foldSnd ?_ ?_
    | with_reducible refine Keeps.getD ?_ ?_
    | with_reducible apply Keeps.fold
    | intro _ _ _ _
    | intro _ _ _
    | intro _ _
    | intro _ 
    | split

theorem State.mirrorStep_keeps {b_ s : State} (h_ : Keeps b_ s) (fn : Nat) (m : Nat) : Keeps b_ (State.mirrorStep s fn m) := by
  unfold State.mirrorStep
  iterate 3
   all_goals try with_reducible apply Keeps.leaf
   repeat' first
    | with_reducible exact h_
    | with_reducible assumption
    | with_reducible exact memWrite_wf _ _ _
    | with_reducible exact memSet_wf _ _ _
    | with_reducible exact memClear_wf _ _ _
    | with_reducible exact memFilter_wf _ _
    | with_reducible exact memFold_wf (fun _ _ => memClear_wf _ _ _)
    | exact Eq.refl _
    | exact fun h => h
    | exact memWrite_wf _ _ _
    | exact memSet_wf _ _ _
    | exact memClear_wf _ _ _
    | exact memFilter_wf _ _
    | with_reducible apply State.enterRows_keeps
    | (refine State.giveKv_of ?_ (by with_reducible assumption))
    | with_reducible apply State.nextStep_keeps
    | with_reducible apply State.postStep_keeps
    | with_reducible apply KeepsOut.onUnit
    | with_reducible apply Keeps.ite
    | with_reducible refine Keeps.foldFst ?_ ?_
    | with_reducible refine Keeps.foldSnd ?_ ?_
    | with_reducible refine Keeps.getD ?_ ?_
    | with_reducible apply Keeps.fold
    | intro _ _ _ _
    | intro _ _ _
    | intro _ _
    | intro _ 
    | split
    | dsimp only

theorem State.nextStep_keeps {b_ s : State} (h_ : Keeps b_ s) (fn : Nat) (m : Nat) : Keeps b_ (State.nextStep s fn m) := by
  unfold State.nextStep
  iterate 3
   all_goals try with_reducible apply Keeps.leaf
   repeat' first
    | with_reducible exact h_
    | with_reducible assumption
    | with_reducible exact memWrite_wf _ _ _
    | with_reducible exact memSet_wf _ _ _
    | with_reducible exact memClear_wf _ _ _
    | with_reducible exact memFilter_wf _ _
    | with_reducible exact memFold_wf (fun _ _ => memClear_wf _ _ _)
    | exact Eq.refl _
    | exact fun h => h
    | exact memWrite_wf _ _ _
    | exact memSet_wf _ _ _
    | exact memClear_wf _ _ _
    | exact memFilter_wf _ _
    | with_reducible apply State.enterRows_keeps
    | with_reducible apply State.mirrorStep_keeps
    | (refine State.planServed_of ?_ (by with_reducible assumption))
    | with_reducible apply State.planServed_fst
    | with_reducible apply State.postStep_keeps
    | with_reducible apply State.twinMsg_keeps
    | with_reducible apply KeepsOut.onUnit
    | with_reducible apply Keeps.ite
    | with_reducible refine Keeps.foldFst ?_ ?_
    | with_reducible refine Keeps.foldSnd ?_ ?_
    | with_reducible refine Keeps.getD ?_ ?_
    | with_reducible apply Keeps.fold
    | intro _ _ _ _
    | intro _ _ _
    | intro _ _
    | intro _ 
    | split

theorem State.resumeSteps_keeps {b_ s : State} (h_ : Keeps b_ s) : Keeps b_ (State.resumeSteps s) := by
  unfold State.resumeSteps
  iterate 3
   all_goals try with_reducible apply Keeps.leaf
   repeat' first
    | with_reducible exact h_
    | with_reducible assumption
    | with_reducible exact memWrite_wf _ _ _
    | with_reducible exact memSet_wf _ _ _
    | with_reducible exact memClear_wf _ _ _
    | with_reducible exact memFilter_wf _ _
    | with_reducible exact memFold_wf (fun _ _ => memClear_wf _ _ _)
    | exact Eq.refl _
    | exact fun h => h
    | exact memWrite_wf _ _ _
    | exact memSet_wf _ _ _
    | exact memClear_wf _ _ _
    | exact memFilter_wf _ _
    | with_reducible apply State.nextStep_keeps
    | with_reducible apply KeepsOut.onUnit
    | with_reducible apply Keeps.ite
    | with_reducible refine Keeps.foldFst ?_ ?_
    | with_reducible refine Keeps.foldSnd ?_ ?_
    | with_reducible refine Keeps.getD ?_ ?_
    | with_reducible apply Keeps.fold
    | intro _ _ _ _
    | intro _ _ _

theorem State.reslack_keeps {b_ s : State} (h_ : Keeps b_ s) (fn : Nat) (m : Nat) : Keeps b_ (State.reslack s fn m) := by
  unfold State.reslack
  iterate 3
   all_goals try with_reducible apply Keeps.leaf
   repeat' first
    | with_reducible exact h_
    | with_reducible assumption
    | with_reducible exact memWrite_wf _ _ _
    | with_reducible exact memSet_wf _ _ _
    | with_reducible exact memClear_wf _ _ _
    | with_reducible exact memFilter_wf _ _
    | with_reducible exact memFold_wf (fun _ _ => memClear_wf _ _ _)
    | exact Eq.refl _
    | exact fun h => h
    | exact memWrite_wf _ _ _
    | exact memSet_wf _ _ _
    | exact memClear_wf _ _ _
    | exact memFilter_wf _ _
    | with_reducible apply State.count_keeps
    | with_reducible apply State.hwSet_keeps
    | with_reducible apply State.reqEvent_keeps
    | with_reducible apply State.setReq_keeps
    | with_reducible apply KeepsOut.onUnit
    | with_reducible apply Keeps.ite
    | with_reducible refine Keeps.foldFst ?_ ?_
    | with_reducible refine Keeps.foldSnd ?_ ?_
    | with_reducible refine Keeps.getD ?_ ?_
    | with_reducible apply Keeps.fold
    | intro _ _ _ _
    | intro _ _ _
    | intro _ _
    | intro _ 
    | split

theorem State.interruptStep_keeps {b_ s : State} (h_ : Keeps b_ s) (fn : Nat) (m : Nat) : Keeps b_ (State.interruptStep s fn m) := by
  unfold State.interruptStep
  iterate 3
   all_goals try with_reducible apply Keeps.leaf
   repeat' first
    | with_reducible exact h_
    | with_reducible assumption
    | with_reducible exact memWrite_wf _ _ _
    | with_reducible exact memSet_wf _ _ _
    | with_reducible exact memClear_wf _ _ _
    | with_reducible exact memFilter_wf _ _
    | with_reducible exact memFold_wf (fun _ _ => memClear_wf _ _ _)
    | exact Eq.refl _
    | exact fun h => h
    | exact memWrite_wf _ _ _
    | exact memSet_wf _ _ _
    | exact memClear_wf _ _ _
    | exact memFilter_wf _ _
    | with_reducible apply State.dropStep_keeps
    | with_reducible apply State.endReq_keeps
    | with_reducible apply State.setModel_keeps
    | with_reducible apply State.setReq_keeps
    | with_reducible apply State.wrF_keeps
    | with_reducible apply KeepsOut.onUnit
    | with_reducible apply Keeps.ite
    | with_reducible refine Keeps.foldFst ?_ ?_
    | with_reducible refine Keeps.foldSnd ?_ ?_
    | with_reducible refine Keeps.getD ?_ ?_
    | with_reducible apply Keeps.fold
    | intro _ _ _ _
    | intro _ _ _
    | intro _ _
    | intro _ 
    | split
    | dsimp only

theorem State.rerunStep_keeps {b_ s : State} (h_ : Keeps b_ s) (fn : Nat) (m : Nat) : Keeps b_ (State.rerunStep s fn m) := by
  unfold State.rerunStep
  iterate 3
   all_goals try with_reducible apply Keeps.leaf
   repeat' first
    | with_reducible exact h_
    | with_reducible assumption
    | with_reducible exact memWrite_wf _ _ _
    | with_reducible exact memSet_wf _ _ _
    | with_reducible exact memClear_wf _ _ _
    | with_reducible exact memFilter_wf _ _
    | with_reducible exact memFold_wf (fun _ _ => memClear_wf _ _ _)
    | exact Eq.refl _
    | exact fun h => h
    | exact memWrite_wf _ _ _
    | exact memSet_wf _ _ _
    | exact memClear_wf _ _ _
    | exact memFilter_wf _ _
    | with_reducible apply State.hwSet_keeps
    | with_reducible apply State.nextStep_keeps
    | with_reducible apply State.postStep_keeps
    | with_reducible apply KeepsOut.onUnit
    | with_reducible apply Keeps.ite
    | with_reducible refine Keeps.foldFst ?_ ?_
    | with_reducible refine Keeps.foldSnd ?_ ?_
    | with_reducible refine Keeps.getD ?_ ?_
    | with_reducible apply Keeps.fold
    | intro _ _ _ _
    | intro _ _ _
    | intro _ _
    | intro _ 
    | split

theorem State.failRows_keeps {b_ s : State} (h_ : Keeps b_ s) (fn : Nat) (m : Nat) (result : Nat) : Keeps b_ (State.failRows s fn m result) := by
  unfold State.failRows
  iterate 3
   all_goals try with_reducible apply Keeps.leaf
   repeat' first
    | with_reducible exact h_
    | with_reducible assumption
    | with_reducible exact memWrite_wf _ _ _
    | with_reducible exact memSet_wf _ _ _
    | with_reducible exact memClear_wf _ _ _
    | with_reducible exact memFilter_wf _ _
    | with_reducible exact memFold_wf (fun _ _ => memClear_wf _ _ _)
    | exact Eq.refl _
    | exact fun h => h
    | exact memWrite_wf _ _ _
    | exact memSet_wf _ _ _
    | exact memClear_wf _ _ _
    | exact memFilter_wf _ _
    | with_reducible apply State.endReq_keeps
    | with_reducible apply State.nextStep_keeps
    | with_reducible apply State.rerunStep_keeps
    | with_reducible apply State.reslack_keeps
    | with_reducible apply State.setModel_keeps
    | with_reducible apply State.wrF_keeps
    | with_reducible apply KeepsOut.onUnit
    | with_reducible apply Keeps.ite
    | with_reducible refine Keeps.foldFst ?_ ?_
    | with_reducible refine Keeps.foldSnd ?_ ?_
    | with_reducible refine Keeps.getD ?_ ?_
    | with_reducible apply Keeps.fold
    | intro _ _ _ _
    | intro _ _ _
    | intro _ _
    | intro _ 
    | split
    | dsimp only

theorem State.failStep_keeps {b_ s : State} (h_ : Keeps b_ s) (fn : Nat) (m : Nat) (result : Nat) : Keeps b_ (State.failStep s fn m result) := by
  unfold State.failStep
  iterate 3
   all_goals try with_reducible apply Keeps.leaf
   repeat' first
    | with_reducible exact h_
    | with_reducible assumption
    | with_reducible exact memWrite_wf _ _ _
    | with_reducible exact memSet_wf _ _ _
    | with_reducible exact memClear_wf _ _ _
    | with_reducible exact memFilter_wf _ _
    | with_reducible exact memFold_wf (fun _ _ => memClear_wf _ _ _)
    | exact Eq.refl _
    | exact fun h => h
    | exact memWrite_wf _ _ _
    | exact memSet_wf _ _ _
    | exact memClear_wf _ _ _
    | exact memFilter_wf _ _
    | with_reducible apply State.dropStep_keeps
    | with_reducible apply State.endReq_keeps
    | with_reducible apply State.setModel_keeps
    | with_reducible apply State.wrF_keeps
    | with_reducible apply KeepsOut.onUnit
    | with_reducible apply Keeps.ite
    | with_reducible refine Keeps.foldFst ?_ ?_
    | with_reducible refine Keeps.foldSnd ?_ ?_
    | with_reducible refine Keeps.getD ?_ ?_
    | with_reducible apply Keeps.fold
    | intro _ _ _ _
    | intro _ _ _
    | intro _ _
    | intro _ 
    | split
    | dsimp only

end Sys2Proof.Machine
end

