-- ==== Sys2Proof/Laws/KeepsRecover.lean ====
section
/-! SUPPORT. The frame of every operation of Machine/Recover.lean: the queue and soundness. -/

namespace Sys2Proof.Machine

open Sys2Proof

theorem State.logCore_keeps {b_ s : State} (h_ : Keeps b_ s) (island : Nat) (slot : Nat) (cls : Nat) (sev : Nat) (addr : Nat) (synd : Nat) (ctx : Nat) : Keeps b_ (State.logCore s island slot cls sev addr synd ctx) := by
  unfold State.logCore
  iterate 3
   all_goals try with_reducible apply Keeps.leaf
   repeat' first
    | with_reducible exact h_
    | with_reducible assumption
    | with_reducible exact memWrite_wf _ _ _
    | with_reducible exact memSet_wf _ _ _
    | with_reducible exact memClear_wf _ _ _
    | with_reducible exact memFilter_wf _ _
    | with_reducible exact memFold_wf (fun _ _ => memClear_wf _ _ _)
    | exact Eq.refl _
    | exact fun h => h
    | exact memWrite_wf _ _ _
    | exact memSet_wf _ _ _
    | exact memClear_wf _ _ _
    | exact memFilter_wf _ _
    | with_reducible apply State.log_keeps

theorem State.syncCtx_keeps {b_ s : State} (h_ : Keeps b_ s) (is : List Nat) : Keeps b_ (State.syncCtx s is) := by
  unfold State.syncCtx
  iterate 3
   all_goals try with_reducible apply Keeps.leaf
   repeat' first
    | with_reducible exact h_
    | with_reducible assumption
    | with_reducible exact memWrite_wf _ _ _
    | with_reducible exact memSet_wf _ _ _
    | with_reducible exact memClear_wf _ _ _
    | with_reducible exact memFilter_wf _ _
    | with_reducible exact memFold_wf (fun _ _ => memClear_wf _ _ _)
    | exact Eq.refl _
    | exact fun h => h
    | exact memWrite_wf _ _ _
    | exact memSet_wf _ _ _
    | exact memClear_wf _ _ _
    | exact memFilter_wf _ _
    | with_reducible apply State.wrF_keeps
    | with_reducible apply KeepsOut.onUnit
    | with_reducible apply Keeps.ite
    | with_reducible refine Keeps.foldFst ?_ ?_
    | with_reducible refine Keeps.foldSnd ?_ ?_
    | with_reducible refine Keeps.getD ?_ ?_
    | with_reducible apply Keeps.fold
    | intro _ _ _ _
    | intro _ _ _

theorem State.stopCtx_keeps {b_ s : State} (h_ : Keeps b_ s) (c : Nat) (why : CtxEnd) (charge : Option Nat) : Keeps b_ (State.stopCtx s c why charge) := by
  unfold State.stopCtx
  iterate 3
   all_goals try with_reducible apply Keeps.leaf
   repeat' first
    | with_reducible exact h_
    | with_reducible assumption
    | with_reducible exact memWrite_wf _ _ _
    | with_reducible exact memSet_wf _ _ _
    | with_reducible exact memClear_wf _ _ _
    | with_reducible exact memFilter_wf _ _
    | with_reducible exact memFold_wf (fun _ _ => memClear_wf _ _ _)
    | exact Eq.refl _
    | exact fun h => h
    | exact memWrite_wf _ _ _
    | exact memSet_wf _ _ _
    | exact memClear_wf _ _ _
    | exact memFilter_wf _ _
    | with_reducible apply State.setCtx_keeps
    | with_reducible apply KeepsOut.onUnit
    | with_reducible apply Keeps.ite
    | with_reducible refine Keeps.foldFst ?_ ?_
    | with_reducible refine Keeps.foldSnd ?_ ?_
    | with_reducible refine Keeps.getD ?_ ?_
    | with_reducible apply Keeps.fold
    | intro _ _ _ _
    | intro _ _ _
    | intro _ _
    | intro _ 
    | split

theorem State.throwAt_keeps {b_ s : State} (h_ : Keeps b_ s) (gid : Nat) (cause : Nat) (addr : Nat) (pc : Word) : Keeps b_ (State.throwAt s gid cause addr pc) := by
  unfold State.throwAt
  iterate 3
   all_goals try with_reducible apply Keeps.leaf
   repeat' first
    | with_reducible exact h_
    | with_reducible assumption
    | with_reducible exact memWrite_wf _ _ _
    | with_reducible exact memSet_wf _ _ _
    | with_reducible exact memClear_wf _ _ _
    | with_reducible exact memFilter_wf _ _
    | with_reducible exact memFold_wf (fun _ _ => memClear_wf _ _ _)
    | exact Eq.refl _
    | exact fun h => h
    | exact memWrite_wf _ _ _
    | exact memSet_wf _ _ _
    | exact memClear_wf _ _ _
    | exact memFilter_wf _ _
    | with_reducible apply State.stopCtx_keeps

theorem State.landStores_keeps {b_ s : State} (h_ : Keeps b_ s) (c : Nat) (fn : Nat) : Keeps b_ (State.landStores s c fn) := by
  unfold State.landStores
  iterate 3
   all_goals try with_reducible apply Keeps.leaf
   repeat' first
    | with_reducible exact h_
    | with_reducible assumption
    | with_reducible exact memWrite_wf _ _ _
    | with_reducible exact memSet_wf _ _ _
    | with_reducible exact memClear_wf _ _ _
    | with_reducible exact memFilter_wf _ _
    | with_reducible exact memFold_wf (fun _ _ => memClear_wf _ _ _)
    | exact Eq.refl _
    | exact fun h => h
    | exact memWrite_wf _ _ _
    | exact memSet_wf _ _ _
    | exact memClear_wf _ _ _
    | exact memFilter_wf _ _
    | with_reducible apply State.landParts_keeps
    | with_reducible apply State.store_keeps
    | with_reducible apply KeepsOut.onUnit
    | with_reducible apply Keeps.ite
    | with_reducible refine Keeps.foldFst ?_ ?_
    | with_reducible refine Keeps.foldSnd ?_ ?_
    | with_reducible refine Keeps.getD ?_ ?_
    | with_reducible apply Keeps.fold
    | intro _ _ _ _
    | intro _ _ _
    | intro _ _
    | intro _ 
    | split

theorem State.discardCtx_keeps {b_ s : State} (h_ : Keeps b_ s) (c : Nat) : Keeps b_ (State.discardCtx s c) := by
  unfold State.discardCtx
  iterate 3
   all_goals try with_reducible apply Keeps.leaf
   repeat' first
    | with_reducible exact h_
    | with_reducible assumption
    | with_reducible exact memWrite_wf _ _ _
    | with_reducible exact memSet_wf _ _ _
    | with_reducible exact memClear_wf _ _ _
    | with_reducible exact memFilter_wf _ _
    | with_reducible exact memFold_wf (fun _ _ => memClear_wf _ _ _)
    | exact Eq.refl _
    | exact fun h => h
    | exact memWrite_wf _ _ _
    | exact memSet_wf _ _ _
    | exact memClear_wf _ _ _
    | exact memFilter_wf _ _
    | with_reducible apply State.landStores_keeps

theorem State.faultEvent_keeps {b_ s : State} (h_ : Keeps b_ s) (c : Nat) (x : Ctx) (why : CtxEnd) : Keeps b_ (State.faultEvent s c x why) := by
  unfold State.faultEvent
  iterate 3
   all_goals try with_reducible apply Keeps.leaf
   repeat' first
    | with_reducible exact h_
    | with_reducible assumption
    | with_reducible exact memWrite_wf _ _ _
    | with_reducible exact memSet_wf _ _ _
    | with_reducible exact memClear_wf _ _ _
    | with_reducible exact memFilter_wf _ _
    | with_reducible exact memFold_wf (fun _ _ => memClear_wf _ _ _)
    | exact Eq.refl _
    | exact fun h => h
    | exact memWrite_wf _ _ _
    | exact memSet_wf _ _ _
    | exact memClear_wf _ _ _
    | exact memFilter_wf _ _
    | with_reducible apply State.post_keeps
    | with_reducible apply State.postAt_keeps
    | with_reducible apply KeepsOut.onUnit
    | with_reducible apply Keeps.ite
    | with_reducible refine Keeps.foldFst ?_ ?_
    | with_reducible refine Keeps.foldSnd ?_ ?_
    | with_reducible refine Keeps.getD ?_ ?_
    | with_reducible apply Keeps.fold
    | intro _ _ _ _
    | intro _ _ _
    | intro _ _
    | intro _ 
    | split

theorem State.dropKvPage_keeps {b_ s : State} (h_ : Keeps b_ s) (fn : Nat) (m : Nat) (addr : Nat) : Keeps b_ (State.dropKvPage s fn m addr) := by
  unfold State.dropKvPage
  iterate 3
   all_goals try with_reducible apply Keeps.leaf
   repeat' first
    | with_reducible exact h_
    | with_reducible assumption
    | with_reducible exact memWrite_wf _ _ _
    | with_reducible exact memSet_wf _ _ _
    | with_reducible exact memClear_wf _ _ _
    | with_reducible exact memFilter_wf _ _
    | with_reducible exact memFold_wf (fun _ _ => memClear_wf _ _ _)
    | exact Eq.refl _
    | exact fun h => h
    | exact memWrite_wf _ _ _
    | exact memSet_wf _ _ _
    | exact memClear_wf _ _ _
    | exact memFilter_wf _ _
    | with_reducible apply State.returnKv_keeps
    | with_reducible apply State.setModel_keeps
    | with_reducible apply State.setReq_keeps
    | with_reducible apply KeepsOut.onUnit
    | with_reducible apply Keeps.ite
    | with_reducible refine Keeps.foldFst ?_ ?_
    | with_reducible refine Keeps.foldSnd ?_ ?_
    | with_reducible refine Keeps.getD ?_ ?_
    | with_reducible apply Keeps.fold
    | intro _ _ _ _
    | intro _ _ _
    | intro _ _
    | intro _ 
    | split

theorem State.finishCtx_keeps {b_ s : State} (h_ : Keeps b_ s) (c : Nat) (why : CtxEnd) (replay : Bool) : Keeps b_ (State.finishCtx s c why replay) := by
  unfold State.finishCtx
  iterate 3
   all_goals try with_reducible apply Keeps.leaf
   repeat' first
    | with_reducible exact h_
    | with_reducible assumption
    | with_reducible exact memWrite_wf _ _ _
    | with_reducible exact memSet_wf _ _ _
    | with_reducible exact memClear_wf _ _ _
    | with_reducible exact memFilter_wf _ _
    | with_reducible exact memFold_wf (fun _ _ => memClear_wf _ _ _)
    | exact Eq.refl _
    | exact fun h => h
    | exact memWrite_wf _ _ _
    | exact memSet_wf _ _ _
    | exact memClear_wf _ _ _
    | exact memFilter_wf _ _
    | with_reducible apply State.discardCtx_keeps
    | with_reducible apply State.dropKvPage_keeps
    | with_reducible apply State.failStep_keeps
    | with_reducible apply State.interruptStep_keeps
    | with_reducible apply State.post_keeps
    | with_reducible apply State.resetRecord_keeps
    | with_reducible apply State.setCtx_keeps
    | with_reducible apply State.syncCtx_keeps
    | with_reducible apply KeepsOut.onUnit
    | with_reducible apply Keeps.ite
    | with_reducible refine Keeps.foldFst ?_ ?_
    | with_reducible refine Keeps.foldSnd ?_ ?_
    | with_reducible refine Keeps.getD ?_ ?_
    | with_reducible apply Keeps.fold
    | intro _ _ _ _
    | intro _ _ _
    | intro _ _
    | intro _ 
    | split

theorem State.bumpRule_of {b_ s t_ : State} {w_ : Bool} (h_ : Keeps b_ s) {rule : Nat} {scope : Nat} (e_ : State.bumpRule s rule scope = (t_, w_)) : Keeps b_ t_ := by
  unfold State.bumpRule at e_
  dsimp only at e_
  iterate 3
   all_goals try with_reducible apply Keeps.leaf
   repeat' first
    | (cases e_; done)
    | cases e_
    | split at e_
    | with_reducible exact h_
    | with_reducible assumption
    | with_reducible exact memWrite_wf _ _ _
    | with_reducible exact memSet_wf _ _ _
    | with_reducible exact memClear_wf _ _ _
    | with_reducible exact memFilter_wf _ _
    | with_reducible exact memFold_wf (fun _ _ => memClear_wf _ _ _)
    | exact Eq.refl _
    | exact fun h => h
    | exact memWrite_wf _ _ _
    | exact memSet_wf _ _ _
    | exact memClear_wf _ _ _
    | exact memFilter_wf _ _
    | with_reducible apply KeepsOut.onUnit
    | with_reducible apply Keeps.ite
    | with_reducible refine Keeps.foldFst ?_ ?_
    | with_reducible refine Keeps.foldSnd ?_ ?_
    | with_reducible refine Keeps.getD ?_ ?_
    | with_reducible apply Keeps.fold
    | intro _ _ _ _
    | intro _ _ _
    | intro _ _
    | intro _ 
    | split
    | dsimp only

theorem State.bumpRule_fst {b_ s : State} (h_ : Keeps b_ s) (rule : Nat) (scope : Nat) : Keeps b_ (State.bumpRule s rule scope).1 := State.bumpRule_of h_ rfl

theorem State.escalate_keeps {b_ s : State} (h_ : Keeps b_ s) (rule : Nat) (domain : Nat) (target : Nat) (owner : Nat) : Keeps b_ (State.escalate s rule domain target owner) := by
  unfold State.escalate
  iterate 3
   all_goals try with_reducible apply Keeps.leaf
   repeat' first
    | with_reducible exact h_
    | with_reducible assumption
    | with_reducible exact memWrite_wf _ _ _
    | with_reducible exact memSet_wf _ _ _
    | with_reducible exact memClear_wf _ _ _
    | with_reducible exact memFilter_wf _ _
    | with_reducible exact memFold_wf (fun _ _ => memClear_wf _ _ _)
    | exact Eq.refl _
    | exact fun h => h
    | exact memWrite_wf _ _ _
    | exact memSet_wf _ _ _
    | exact memClear_wf _ _ _
    | exact memFilter_wf _ _
    | with_reducible apply State.hwSet_keeps
    | with_reducible apply State.log_keeps
    | with_reducible apply State.resetEvent_keeps

theorem State.askReset_keeps {b_ s : State} (h_ : Keeps b_ s) (r : ResetReq) : Keeps b_ (State.askReset s r) := by
  unfold State.askReset
  iterate 3
   all_goals try with_reducible apply Keeps.leaf
   repeat' first
    | with_reducible exact h_
    | with_reducible assumption
    | with_reducible exact memWrite_wf _ _ _
    | with_reducible exact memSet_wf _ _ _
    | with_reducible exact memClear_wf _ _ _
    | with_reducible exact memFilter_wf _ _
    | with_reducible exact memFold_wf (fun _ _ => memClear_wf _ _ _)
    | exact Eq.refl _
    | exact fun h => h

theorem State.wantDump_keeps {b_ s : State} (h_ : Keeps b_ s) (d : Nat) : Keeps b_ (State.wantDump s d) := by
  unfold State.wantDump
  iterate 3
   all_goals try with_reducible apply Keeps.leaf
   repeat' first
    | with_reducible exact h_
    | with_reducible assumption
    | with_reducible exact memWrite_wf _ _ _
    | with_reducible exact memSet_wf _ _ _
    | with_reducible exact memClear_wf _ _ _
    | with_reducible exact memFilter_wf _ _
    | with_reducible exact memFold_wf (fun _ _ => memClear_wf _ _ _)
    | exact Eq.refl _
    | exact fun h => h

theorem State.redomain_keeps {b_ s : State} (h_ : Keeps b_ s) (d : Nat) : Keeps b_ (State.redomain s d) := by
  unfold State.redomain
  iterate 3
   all_goals try with_reducible apply Keeps.leaf
   repeat' first
    | with_reducible exact h_
    | with_reducible assumption
    | with_reducible exact memWrite_wf _ _ _
    | with_reducible exact memSet_wf _ _ _
    | with_reducible exact memClear_wf _ _ _
    | with_reducible exact memFilter_wf _ _
    | with_reducible exact memFold_wf (fun _ _ => memClear_wf _ _ _)
    | exact Eq.refl _
    | exact fun h => h

theorem State.askChip_keeps {b_ s : State} (h_ : Keeps b_ s) (cause : Nat) : Keeps b_ (State.askChip s cause) := by
  unfold State.askChip
  iterate 3
   all_goals try with_reducible apply Keeps.leaf
   repeat' first
    | with_reducible exact h_
    | with_reducible assumption
    | with_reducible exact memWrite_wf _ _ _
    | with_reducible exact memSet_wf _ _ _
    | with_reducible exact memClear_wf _ _ _
    | with_reducible exact memFilter_wf _ _
    | with_reducible exact memFold_wf (fun _ _ => memClear_wf _ _ _)
    | exact Eq.refl _
    | exact fun h => h
    | exact memWrite_wf _ _ _
    | exact memSet_wf _ _ _
    | exact memClear_wf _ _ _
    | exact memFilter_wf _ _
    | with_reducible apply State.askReset_keeps

theorem State.askChipDump_keeps {b_ s : State} (h_ : Keeps b_ s) (cause : Nat) : Keeps b_ (State.askChipDump s cause) := by
  unfold State.askChipDump
  iterate 3
   all_goals try with_reducible apply Keeps.leaf
   repeat' first
    | with_reducible exact h_
    | with_reducible assumption
    | with_reducible exact memWrite_wf _ _ _
    | with_reducible exact memSet_wf _ _ _
    | with_reducible exact memClear_wf _ _ _
    | with_reducible exact memFilter_wf _ _
    | with_reducible exact memFold_wf (fun _ _ => memClear_wf _ _ _)
    | exact Eq.refl _
    | exact fun h => h
    | exact memWrite_wf _ _ _
    | exact memSet_wf _ _ _
    | exact memClear_wf _ _ _
    | exact memFilter_wf _ _
    | with_reducible apply State.askChip_keeps
    | with_reducible apply State.wantDump_keeps

theorem State.countCtx_of {b_ s t_ : State} {w_ : Bool} (h_ : Keeps b_ s) {c : Nat} (e_ : State.countCtx s c = (t_, w_)) : Keeps b_ t_ := by
  unfold State.countCtx at e_
  dsimp only at e_
  iterate 3
   all_goals try with_reducible apply Keeps.leaf
   repeat' first
    | (cases e_; done)
    | cases e_
    | split at e_
    | with_reducible exact h_
    | with_reducible assumption
    | with_reducible exact memWrite_wf _ _ _
    | with_reducible exact memSet_wf _ _ _
    | with_reducible exact memClear_wf _ _ _
    | with_reducible exact memFilter_wf _ _
    | with_reducible exact memFold_wf (fun _ _ => memClear_wf _ _ _)
    | exact Eq.refl _
    | exact fun h => h
    | exact memWrite_wf _ _ _
    | exact memSet_wf _ _ _
    | exact memClear_wf _ _ _
    | exact memFilter_wf _ _
    | with_reducible apply State.askReset_keeps
    | (refine State.bumpRule_of ?_ (by with_reducible assumption))
    | with_reducible apply State.bumpRule_fst
    | with_reducible apply State.count_keeps
    | with_reducible apply State.escalate_keeps
    | with_reducible apply State.wantDump_keeps

theorem State.countCtx_fst {b_ s : State} (h_ : Keeps b_ s) (c : Nat) : Keeps b_ (State.countCtx s c).1 := State.countCtx_of h_ rfl

theorem State.startScrub_keeps {b_ s : State} (h_ : Keeps b_ s) (fn : Nat) (kind : ScrubKind) (issuer : Option (Nat × Nat)) (peer : Nat) (next : Part) : Keeps b_ (State.startScrub s fn kind issuer peer next) := by
  unfold State.startScrub
  iterate 3
   all_goals try with_reducible apply Keeps.leaf
   repeat' first
    | with_reducible exact h_
    | with_reducible assumption
    | with_reducible exact memWrite_wf _ _ _
    | with_reducible exact memSet_wf _ _ _
    | with_reducible exact memClear_wf _ _ _
    | with_reducible exact memFilter_wf _ _
    | with_reducible exact memFold_wf (fun _ _ => memClear_wf _ _ _)
    | exact Eq.refl _
    | exact fun h => h
    | exact memWrite_wf _ _ _
    | exact memSet_wf _ _ _
    | exact memClear_wf _ _ _
    | exact memFilter_wf _ _
    | with_reducible apply KeepsOut.onUnit
    | with_reducible apply Keeps.ite
    | with_reducible refine Keeps.foldFst ?_ ?_
    | with_reducible refine Keeps.foldSnd ?_ ?_
    | with_reducible refine Keeps.getD ?_ ?_
    | with_reducible apply Keeps.fold
    | intro _ _ _ _
    | intro _ _ _
    | intro _ _
    | intro _ 
    | split
    | dsimp only

theorem State.setSlot_keeps {b_ s : State} (h_ : Keeps b_ s) (k : Nat) (x : FwSlot) : Keeps b_ (State.setSlot s k x) := by
  unfold State.setSlot
  iterate 3
   all_goals try with_reducible apply Keeps.leaf
   repeat' first
    | with_reducible exact h_
    | with_reducible assumption
    | with_reducible exact memWrite_wf _ _ _
    | with_reducible exact memSet_wf _ _ _
    | with_reducible exact memClear_wf _ _ _
    | with_reducible exact memFilter_wf _ _
    | with_reducible exact memFold_wf (fun _ _ => memClear_wf _ _ _)
    | exact Eq.refl _
    | exact fun h => h
    | exact memWrite_wf _ _ _
    | exact memSet_wf _ _ _
    | exact memClear_wf _ _ _
    | exact memFilter_wf _ _
    | with_reducible apply State.wrF_keeps
    | with_reducible apply KeepsOut.onUnit
    | with_reducible apply Keeps.ite
    | with_reducible refine Keeps.foldFst ?_ ?_
    | with_reducible refine Keeps.foldSnd ?_ ?_
    | with_reducible refine Keeps.getD ?_ ?_
    | with_reducible apply Keeps.fold
    | intro _ _ _ _
    | intro _ _ _
    | intro _ _
    | intro _ 
    | split
    | dsimp only

theorem State.endOwner_keeps {b_ s : State} (h_ : Keeps b_ s) (op : Nat) (code : Nat) : Keeps b_ (State.endOwner s op code) := by
  unfold State.endOwner
  iterate 3
   all_goals try with_reducible apply Keeps.leaf
   repeat' first
    | with_reducible exact h_
    | with_reducible assumption
    | with_reducible exact memWrite_wf _ _ _
    | with_reducible exact memSet_wf _ _ _
    | with_reducible exact memClear_wf _ _ _
    | with_reducible exact memFilter_wf _ _
    | with_reducible exact memFold_wf (fun _ _ => memClear_wf _ _ _)
    | exact Eq.refl _
    | exact fun h => h
    | exact memWrite_wf _ _ _
    | exact memSet_wf _ _ _
    | exact memClear_wf _ _ _
    | exact memFilter_wf _ _
    | with_reducible apply State.cmdDone_keeps
    | with_reducible apply KeepsOut.onUnit
    | with_reducible apply Keeps.ite
    | with_reducible refine Keeps.foldFst ?_ ?_
    | with_reducible refine Keeps.foldSnd ?_ ?_
    | with_reducible refine Keeps.getD ?_ ?_
    | with_reducible apply Keeps.fold
    | intro _ _ _ _
    | intro _ _ _
    | intro _ _
    | intro _ 
    | split
    | dsimp only

theorem State.updGuard_keeps {b_ s : State} (h_ : Keeps b_ s) : Keeps b_ (State.updGuard s) := by
  unfold State.updGuard
  iterate 3
   all_goals try with_reducible apply Keeps.leaf
   repeat' first
    | with_reducible exact h_
    | with_reducible assumption
    | with_reducible exact memWrite_wf _ _ _
    | with_reducible exact memSet_wf _ _ _
    | with_reducible exact memClear_wf _ _ _
    | with_reducible exact memFilter_wf _ _
    | with_reducible exact memFold_wf (fun _ _ => memClear_wf _ _ _)
    | exact Eq.refl _
    | exact fun h => h
    | exact memWrite_wf _ _ _
    | exact memSet_wf _ _ _
    | exact memClear_wf _ _ _
    | exact memFilter_wf _ _
    | with_reducible apply State.committed_keeps
    | with_reducible apply State.endOwner_keeps
    | with_reducible apply State.resumeSteps_keeps
    | with_reducible apply State.setSlot_keeps
    | with_reducible apply KeepsOut.onUnit
    | with_reducible apply Keeps.ite
    | with_reducible refine Keeps.foldFst ?_ ?_
    | with_reducible refine Keeps.foldSnd ?_ ?_
    | with_reducible refine Keeps.getD ?_ ?_
    | with_reducible apply Keeps.fold
    | intro _ _ _ _
    | intro _ _ _
    | intro _ _
    | intro _ 
    | split
    | dsimp only

theorem State.setRole_keeps {b_ s : State} (h_ : Keeps b_ s) (r : Nat) (reason : Nat) : Keeps b_ (State.setRole s r reason) := by
  unfold State.setRole
  iterate 3
   all_goals try with_reducible apply Keeps.leaf
   repeat' first
    | with_reducible exact h_
    | with_reducible assumption
    | with_reducible exact memWrite_wf _ _ _
    | with_reducible exact memSet_wf _ _ _
    | with_reducible exact memClear_wf _ _ _
    | with_reducible exact memFilter_wf _ _
    | with_reducible exact memFold_wf (fun _ _ => memClear_wf _ _ _)
    | exact Eq.refl _
    | exact fun h => h
    | exact memWrite_wf _ _ _
    | exact memSet_wf _ _ _
    | exact memClear_wf _ _ _
    | exact memFilter_wf _ _
    | with_reducible apply State.allFns_keeps
    | with_reducible apply State.hwSet_keeps
    | with_reducible apply State.post_keeps
    | with_reducible apply State.wrF_keeps
    | with_reducible apply KeepsOut.onUnit
    | with_reducible apply Keeps.ite
    | with_reducible refine Keeps.foldFst ?_ ?_
    | with_reducible refine Keeps.foldSnd ?_ ?_
    | with_reducible refine Keeps.getD ?_ ?_
    | with_reducible apply Keeps.fold
    | intro _ _ _ _
    | intro _ _ _

theorem State.releaseLine_keeps {b_ s : State} (h_ : Keeps b_ s) (reason : Nat) : Keeps b_ (State.releaseLine s reason) := by
  unfold State.releaseLine
  iterate 3
   all_goals try with_reducible apply Keeps.leaf
   repeat' first
    | with_reducible exact h_
    | with_reducible assumption
    | with_reducible exact memWrite_wf _ _ _
    | with_reducible exact memSet_wf _ _ _
    | with_reducible exact memClear_wf _ _ _
    | with_reducible exact memFilter_wf _ _
    | with_reducible exact memFold_wf (fun _ _ => memClear_wf _ _ _)
    | exact Eq.refl _
    | exact fun h => h
    | exact memWrite_wf _ _ _
    | exact memSet_wf _ _ _
    | exact memClear_wf _ _ _
    | exact memFilter_wf _ _
    | with_reducible apply State.count_keeps
    | with_reducible apply State.setRole_keeps
    | with_reducible apply State.twinSend_keeps
    | with_reducible apply State.updGuard_keeps
    | with_reducible apply KeepsOut.onUnit
    | with_reducible apply Keeps.ite
    | with_reducible refine Keeps.foldFst ?_ ?_
    | with_reducible refine Keeps.foldSnd ?_ ?_
    | with_reducible refine Keeps.getD ?_ ?_
    | with_reducible apply Keeps.fold
    | intro _ _ _ _
    | intro _ _ _
    | intro _ _
    | intro _ 
    | split
    | dsimp only

theorem State.stopWork_keeps {b_ s : State} (h_ : Keeps b_ s) : Keeps b_ (State.stopWork s) := by
  unfold State.stopWork
  refine State.syncCtx_keeps ?_ _
  exact Keeps.leaf h_ id id id id rfl rfl id

theorem State.enterOos_keeps {b_ s : State} (h_ : Keeps b_ s) (reason : Nat) : Keeps b_ (State.enterOos s reason) := by
  unfold State.enterOos
  iterate 3
   all_goals try with_reducible apply Keeps.leaf
   repeat' first
    | with_reducible exact h_
    | with_reducible assumption
    | with_reducible exact memWrite_wf _ _ _
    | with_reducible exact memSet_wf _ _ _
    | with_reducible exact memClear_wf _ _ _
    | with_reducible exact memFilter_wf _ _
    | with_reducible exact memFold_wf (fun _ _ => memClear_wf _ _ _)
    | exact Eq.refl _
    | exact fun h => h
    | exact memWrite_wf _ _ _
    | exact memSet_wf _ _ _
    | exact memClear_wf _ _ _
    | exact memFilter_wf _ _
    | with_reducible apply State.allFns_keeps
    | with_reducible apply State.hwSet_keeps
    | with_reducible apply State.log_keeps
    | with_reducible apply State.releaseLine_keeps
    | with_reducible apply State.setFnState_keeps
    | with_reducible apply State.stopWork_keeps
    | with_reducible apply State.wrF_keeps
    | with_reducible apply State.wrN_keeps
    | with_reducible apply KeepsOut.onUnit
    | with_reducible apply Keeps.ite
    | with_reducible refine Keeps.foldFst ?_ ?_
    | with_reducible refine Keeps.foldSnd ?_ ?_
    | with_reducible refine Keeps.getD ?_ ?_
    | with_reducible apply Keeps.fold
    | intro _ _ _ _
    | intro _ _ _

theorem State.requestCycle_keeps {b_ s : State} (h_ : Keeps b_ s) : Keeps b_ (State.requestCycle s) := by
  unfold State.requestCycle
  iterate 3
   all_goals try with_reducible apply Keeps.leaf
   repeat' first
    | with_reducible exact h_
    | with_reducible assumption
    | with_reducible exact memWrite_wf _ _ _
    | with_reducible exact memSet_wf _ _ _
    | with_reducible exact memClear_wf _ _ _
    | with_reducible exact memFilter_wf _ _
    | with_reducible exact memFold_wf (fun _ _ => memClear_wf _ _ _)
    | exact Eq.refl _
    | exact fun h => h
    | exact memWrite_wf _ _ _
    | exact memSet_wf _ _ _
    | exact memClear_wf _ _ _
    | exact memFilter_wf _ _
    | (refine State.bumpRule_of ?_ (by with_reducible assumption))
    | with_reducible apply State.bumpRule_fst
    | with_reducible apply State.enterOos_keeps
    | with_reducible apply State.escalate_keeps
    | with_reducible apply State.hwSet_keeps
    | with_reducible apply State.releaseLine_keeps
    | with_reducible apply State.stopWork_keeps
    | with_reducible apply State.wrF_keeps
    | with_reducible apply KeepsOut.onUnit
    | with_reducible apply Keeps.ite
    | with_reducible refine Keeps.foldFst ?_ ?_
    | with_reducible refine Keeps.foldSnd ?_ ?_
    | with_reducible refine Keeps.getD ?_ ?_
    | with_reducible apply Keeps.fold
    | intro _ _ _ _
    | intro _ _ _
    | intro _ _
    | intro _ 
    | split
    | dsimp only

theorem State.askPart_keeps {b_ s : State} (h_ : Keeps b_ s) (fn : Nat) (src : Nat) : Keeps b_ (State.askPart s fn src) := by
  unfold State.askPart
  iterate 3
   all_goals try with_reducible apply Keeps.leaf
   repeat' first
    | with_reducible exact h_
    | with_reducible assumption
    | with_reducible exact memWrite_wf _ _ _
    | with_reducible exact memSet_wf _ _ _
    | with_reducible exact memClear_wf _ _ _
    | with_reducible exact memFilter_wf _ _
    | with_reducible exact memFold_wf (fun _ _ => memClear_wf _ _ _)
    | exact Eq.refl _
    | exact fun h => h
    | exact memWrite_wf _ _ _
    | exact memSet_wf _ _ _
    | exact memClear_wf _ _ _
    | exact memFilter_wf _ _
    | with_reducible apply State.askChip_keeps
    | (refine State.bumpRule_of ?_ (by with_reducible assumption))
    | with_reducible apply State.bumpRule_fst
    | with_reducible apply State.count_keeps
    | with_reducible apply State.escalate_keeps
    | with_reducible apply State.redomain_keeps
    | with_reducible apply State.startScrub_keeps
    | with_reducible apply KeepsOut.onUnit
    | with_reducible apply Keeps.ite
    | with_reducible refine Keeps.foldFst ?_ ?_
    | with_reducible refine Keeps.foldSnd ?_ ?_
    | with_reducible refine Keeps.getD ?_ ?_
    | with_reducible apply Keeps.fold
    | intro _ _ _ _
    | intro _ _ _
    | intro _ _
    | intro _ 
    | split
    | dsimp only

theorem State.countEngine_of {b_ s t_ : State} {w_ : Bool} (h_ : Keeps b_ s) {src : Nat} (e_ : State.countEngine s src = (t_, w_)) : Keeps b_ t_ := by
  unfold State.countEngine at e_
  dsimp only at e_
  iterate 3
   all_goals try with_reducible apply Keeps.leaf
   repeat' first
    | (cases e_; done)
    | cases e_
    | split at e_
    | with_reducible exact h_
    | with_reducible assumption
    | with_reducible exact memWrite_wf _ _ _
    | with_reducible exact memSet_wf _ _ _
    | with_reducible exact memClear_wf _ _ _
    | with_reducible exact memFilter_wf _ _
    | with_reducible exact memFold_wf (fun _ _ => memClear_wf _ _ _)
    | exact Eq.refl _
    | exact fun h => h
    | exact memWrite_wf _ _ _
    | exact memSet_wf _ _ _
    | exact memClear_wf _ _ _
    | exact memFilter_wf _ _
    | with_reducible apply State.askChip_keeps
    | with_reducible apply State.askPart_keeps
    | (refine State.bumpRule_of ?_ (by with_reducible assumption))
    | with_reducible apply State.bumpRule_fst
    | with_reducible apply State.escalate_keeps
    | with_reducible apply State.redomain_keeps

theorem State.countEngine_fst {b_ s : State} (h_ : Keeps b_ s) (src : Nat) : Keeps b_ (State.countEngine s src).1 := State.countEngine_of h_ rfl

theorem State.markFailing_keeps {b_ s : State} (h_ : Keeps b_ s) (island : Nat) (phys : Nat) : Keeps b_ (State.markFailing s island phys) := by
  unfold State.markFailing
  iterate 3
   all_goals try with_reducible apply Keeps.leaf
   repeat' first
    | with_reducible exact h_
    | with_reducible assumption
    | with_reducible exact memWrite_wf _ _ _
    | with_reducible exact memSet_wf _ _ _
    | with_reducible exact memClear_wf _ _ _
    | with_reducible exact memFilter_wf _ _
    | with_reducible exact memFold_wf (fun _ _ => memClear_wf _ _ _)
    | exact Eq.refl _
    | exact fun h => h
    | exact memWrite_wf _ _ _
    | exact memSet_wf _ _ _
    | exact memClear_wf _ _ _
    | exact memFilter_wf _ _
    | with_reducible apply State.hwSet_keeps
    | with_reducible apply State.wrF_keeps
    | with_reducible apply KeepsOut.onUnit
    | with_reducible apply Keeps.ite
    | with_reducible refine Keeps.foldFst ?_ ?_
    | with_reducible refine Keeps.foldSnd ?_ ?_
    | with_reducible refine Keeps.getD ?_ ?_
    | with_reducible apply Keeps.fold
    | intro _ _ _ _
    | intro _ _ _
    | intro _ _
    | intro _ 
    | split
    | dsimp only

theorem State.spareEvent_keeps {b_ s : State} (h_ : Keeps b_ s) (rule : Nat) (island : Nat) (phys : Nat) : Keeps b_ (State.spareEvent s rule island phys) := by
  unfold State.spareEvent
  iterate 3
   all_goals try with_reducible apply Keeps.leaf
   repeat' first
    | with_reducible exact h_
    | with_reducible assumption
    | with_reducible exact memWrite_wf _ _ _
    | with_reducible exact memSet_wf _ _ _
    | with_reducible exact memClear_wf _ _ _
    | with_reducible exact memFilter_wf _ _
    | with_reducible exact memFold_wf (fun _ _ => memClear_wf _ _ _)
    | exact Eq.refl _
    | exact fun h => h
    | exact memWrite_wf _ _ _
    | exact memSet_wf _ _ _
    | exact memClear_wf _ _ _
    | exact memFilter_wf _ _
    | (refine State.bumpRule_of ?_ (by with_reducible assumption))
    | with_reducible apply State.bumpRule_fst
    | with_reducible apply State.markFailing_keeps
    | with_reducible apply KeepsOut.onUnit
    | with_reducible apply Keeps.ite

theorem State.sramSpare_keeps {b_ s : State} (h_ : Keeps b_ s) (island : Nat) (phys : Nat) (addr : Nat) : Keeps b_ (State.sramSpare s island phys addr) := by
  unfold State.sramSpare
  iterate 3
   all_goals try with_reducible apply Keeps.leaf
   repeat' first
    | with_reducible exact h_
    | with_reducible assumption
    | with_reducible exact memWrite_wf _ _ _
    | with_reducible exact memSet_wf _ _ _
    | with_reducible exact memClear_wf _ _ _
    | with_reducible exact memFilter_wf _ _
    | with_reducible exact memFold_wf (fun _ _ => memClear_wf _ _ _)
    | exact Eq.refl _
    | exact fun h => h
    | exact memWrite_wf _ _ _
    | exact memSet_wf _ _ _
    | exact memClear_wf _ _ _
    | exact memFilter_wf _ _
    | with_reducible apply State.markFailing_keeps
    | with_reducible apply KeepsOut.onUnit
    | with_reducible apply Keeps.ite
    | with_reducible refine Keeps.foldFst ?_ ?_
    | with_reducible refine Keeps.foldSnd ?_ ?_
    | with_reducible refine Keeps.getD ?_ ?_
    | with_reducible apply Keeps.fold
    | intro _ _ _ _
    | intro _ _ _
    | intro _ _
    | intro _ 
    | split
    | dsimp only

end Sys2Proof.Machine
end

