-- ==== Sys2Proof/Laws/KeepsDescOps.lean ====
section
/-! SUPPORT. The frame of every operation of Machine/DescOps.lean: the queue and soundness. -/

namespace Sys2Proof.Machine

open Sys2Proof

theorem State.postDesc_of {b_ s t_ : State} (h_ : Keeps b_ s) {gid : Nat} {ch : Nat} {a : Nat} (e_ : State.postDesc s gid ch a = .ok t_) : Keeps b_ t_ := by
  unfold State.postDesc at e_
  dsimp only at e_
  iterate 3
   all_goals try with_reducible apply Keeps.leaf
   repeat' first
    | (cases e_; done)
    | cases e_
    | split at e_
    | with_reducible exact h_
    | with_reducible assumption
    | with_reducible exact memWrite_wf _ _ _
    | with_reducible exact memSet_wf _ _ _
    | with_reducible exact memClear_wf _ _ _
    | with_reducible exact memFilter_wf _ _
    | with_reducible exact memFold_wf (fun _ _ => memClear_wf _ _ _)
    | exact Eq.refl _
    | exact fun h => h
    | exact memWrite_wf _ _ _
    | exact memSet_wf _ _ _
    | exact memClear_wf _ _ _
    | exact memFilter_wf _ _
    | with_reducible apply State.cmd_keeps
    | with_reducible apply State.setChan_keeps

theorem State.postJob_of {b_ s t_ : State} (h_ : Keeps b_ s) {gid : Nat} {k : Nat} {a : Nat} (e_ : State.postJob s gid k a = .ok t_) : Keeps b_ t_ := by
  unfold State.postJob at e_
  dsimp only at e_
  iterate 3
   all_goals try with_reducible apply Keeps.leaf
   repeat' first
    | (cases e_; done)
    | cases e_
    | split at e_
    | with_reducible exact h_
    | with_reducible assumption
    | with_reducible exact memWrite_wf _ _ _
    | with_reducible exact memSet_wf _ _ _
    | with_reducible exact memClear_wf _ _ _
    | with_reducible exact memFilter_wf _ _
    | with_reducible exact memFold_wf (fun _ _ => memClear_wf _ _ _)
    | exact Eq.refl _
    | exact fun h => h
    | exact memWrite_wf _ _ _
    | exact memSet_wf _ _ _
    | exact memClear_wf _ _ _
    | exact memFilter_wf _ _
    | with_reducible apply State.setSorter_keeps

end Sys2Proof.Machine
end

