-- ==== Sys2Proof/Laws/KeepsRegMap.lean ====
section
/-! SUPPORT. The frame of every operation of Machine/RegMap.lean: the queue and soundness. -/

namespace Sys2Proof.Machine

open Sys2Proof

theorem State.readyEvt_keeps {b_ s : State} (h_ : Keeps b_ s) (fn : Nat) : Keeps b_ (State.readyEvt s fn) := by
  unfold State.readyEvt
  iterate 3
   all_goals try with_reducible apply Keeps.leaf
   repeat' first
    | with_reducible exact h_
    | with_reducible assumption
    | with_reducible exact memWrite_wf _ _ _
    | with_reducible exact memSet_wf _ _ _
    | with_reducible exact memClear_wf _ _ _
    | with_reducible exact memFilter_wf _ _
    | with_reducible exact memFold_wf (fun _ _ => memClear_wf _ _ _)
    | exact Eq.refl _
    | exact fun h => h
    | exact memWrite_wf _ _ _
    | exact memSet_wf _ _ _
    | exact memClear_wf _ _ _
    | exact memFilter_wf _ _
    | with_reducible apply State.dropEvt_keeps
    | with_reducible apply State.flushOverrun_keeps
    | with_reducible apply State.logHostWrite_keeps
    | with_reducible apply State.ringWrite_keeps
    | with_reducible apply KeepsOut.onUnit
    | with_reducible apply Keeps.ite

theorem State.ringCtl_keeps {b_ s : State} (h_ : Keeps b_ s) (fn : Nat) (v : Nat) : Keeps b_ (State.ringCtl s fn v) := by
  unfold State.ringCtl
  iterate 3
   all_goals try with_reducible apply Keeps.leaf
   repeat' first
    | with_reducible exact h_
    | with_reducible assumption
    | with_reducible exact memWrite_wf _ _ _
    | with_reducible exact memSet_wf _ _ _
    | with_reducible exact memClear_wf _ _ _
    | with_reducible exact memFilter_wf _ _
    | with_reducible exact memFold_wf (fun _ _ => memClear_wf _ _ _)
    | exact Eq.refl _
    | exact fun h => h
    | exact memWrite_wf _ _ _
    | exact memSet_wf _ _ _
    | exact memClear_wf _ _ _
    | exact memFilter_wf _ _
    | with_reducible apply State.readyEvt_keeps
    | with_reducible apply State.wrN_keeps
    | with_reducible apply KeepsOut.onUnit
    | with_reducible apply Keeps.ite

theorem State.ringCfg_keeps {b_ s : State} (h_ : Keeps b_ s) (fn : Nat) (r : Reg) (v : Nat) : Keeps b_ (State.ringCfg s fn r v) := by
  unfold State.ringCfg
  iterate 3
   all_goals try with_reducible apply Keeps.leaf
   repeat' first
    | with_reducible exact h_
    | with_reducible assumption
    | with_reducible exact memWrite_wf _ _ _
    | with_reducible exact memSet_wf _ _ _
    | with_reducible exact memClear_wf _ _ _
    | with_reducible exact memFilter_wf _ _
    | with_reducible exact memFold_wf (fun _ _ => memClear_wf _ _ _)
    | exact Eq.refl _
    | exact fun h => h
    | exact memWrite_wf _ _ _
    | exact memSet_wf _ _ _
    | exact memClear_wf _ _ _
    | exact memFilter_wf _ _
    | with_reducible apply State.dropWr_keeps
    | with_reducible apply State.wrN_keeps
    | with_reducible apply KeepsOut.onUnit
    | with_reducible apply Keeps.ite
    | with_reducible refine Keeps.foldFst ?_ ?_
    | with_reducible refine Keeps.foldSnd ?_ ?_
    | with_reducible refine Keeps.getD ?_ ?_
    | with_reducible apply Keeps.fold
    | intro _ _ _ _
    | intro _ _ _
    | intro _ _
    | intro _ 
    | split

theorem State.ringAck_keeps {b_ s : State} (h_ : Keeps b_ s) (fn : Nat) (v : Nat) : Keeps b_ (State.ringAck s fn v) := by
  unfold State.ringAck
  iterate 3
   all_goals try with_reducible apply Keeps.leaf
   repeat' first
    | with_reducible exact h_
    | with_reducible assumption
    | with_reducible exact memWrite_wf _ _ _
    | with_reducible exact memSet_wf _ _ _
    | with_reducible exact memClear_wf _ _ _
    | with_reducible exact memFilter_wf _ _
    | with_reducible exact memFold_wf (fun _ _ => memClear_wf _ _ _)
    | exact Eq.refl _
    | exact fun h => h
    | exact memWrite_wf _ _ _
    | exact memSet_wf _ _ _
    | exact memClear_wf _ _ _
    | exact memFilter_wf _ _
    | with_reducible apply State.dropWr_keeps
    | with_reducible apply State.flushOverrun_keeps
    | with_reducible apply State.wrN_keeps
    | with_reducible apply KeepsOut.onUnit
    | with_reducible apply Keeps.ite

theorem State.vecWrite_keeps {b_ s : State} (h_ : Keeps b_ s) (fn : Nat) (r : Reg) (v : Nat) : Keeps b_ (State.vecWrite s fn r v) := by
  unfold State.vecWrite
  iterate 3
   all_goals try with_reducible apply Keeps.leaf
   repeat' first
    | with_reducible exact h_
    | with_reducible assumption
    | with_reducible exact memWrite_wf _ _ _
    | with_reducible exact memSet_wf _ _ _
    | with_reducible exact memClear_wf _ _ _
    | with_reducible exact memFilter_wf _ _
    | with_reducible exact memFold_wf (fun _ _ => memClear_wf _ _ _)
    | exact Eq.refl _
    | exact fun h => h
    | exact memWrite_wf _ _ _
    | exact memSet_wf _ _ _
    | exact memClear_wf _ _ _
    | exact memFilter_wf _ _
    | with_reducible apply State.dropWr_keeps
    | with_reducible apply State.wrN_keeps
    | with_reducible apply KeepsOut.onUnit
    | with_reducible apply Keeps.ite

theorem State.pdmClear_keeps {b_ s : State} (h_ : Keeps b_ s) (i : Nat) : Keeps b_ (State.pdmClear s i) := by
  unfold State.pdmClear
  iterate 3
   all_goals try with_reducible apply Keeps.leaf
   repeat' first
    | with_reducible exact h_
    | with_reducible assumption
    | with_reducible exact memWrite_wf _ _ _
    | with_reducible exact memSet_wf _ _ _
    | with_reducible exact memClear_wf _ _ _
    | with_reducible exact memFilter_wf _ _
    | with_reducible exact memFold_wf (fun _ _ => memClear_wf _ _ _)
    | exact Eq.refl _
    | exact fun h => h
    | exact memWrite_wf _ _ _
    | exact memSet_wf _ _ _
    | exact memClear_wf _ _ _
    | exact memFilter_wf _ _
    | with_reducible apply State.wrF_keeps
    | with_reducible apply KeepsOut.onUnit
    | with_reducible apply Keeps.ite
    | with_reducible refine Keeps.foldFst ?_ ?_
    | with_reducible refine Keeps.foldSnd ?_ ?_
    | with_reducible refine Keeps.getD ?_ ?_
    | with_reducible apply Keeps.fold
    | intro _ _ _ _
    | intro _ _ _

theorem State.pdmStart_keeps {b_ s : State} (h_ : Keeps b_ s) (i : Nat) : Keeps b_ (State.pdmStart s i) := by
  unfold State.pdmStart
  iterate 3
   all_goals try with_reducible apply Keeps.leaf
   repeat' first
    | with_reducible exact h_
    | with_reducible assumption
    | with_reducible exact memWrite_wf _ _ _
    | with_reducible exact memSet_wf _ _ _
    | with_reducible exact memClear_wf _ _ _
    | with_reducible exact memFilter_wf _ _
    | with_reducible exact memFold_wf (fun _ _ => memClear_wf _ _ _)
    | exact Eq.refl _
    | exact fun h => h
    | exact memWrite_wf _ _ _
    | exact memSet_wf _ _ _
    | exact memClear_wf _ _ _
    | exact memFilter_wf _ _
    | with_reducible apply State.pdmClear_keeps
    | with_reducible apply State.wrF_keeps
    | with_reducible apply KeepsOut.onUnit
    | with_reducible apply Keeps.ite

theorem State.swWrite_keeps {b_ s : State} (h_ : Keeps b_ s) (fn : Nat) (r : Reg) (i : Nat) (v : Nat) : Keeps b_ (State.swWrite s fn r i v) := by
  unfold State.swWrite
  iterate 3
   all_goals try with_reducible apply Keeps.leaf
   repeat' first
    | with_reducible exact h_
    | with_reducible assumption
    | with_reducible exact memWrite_wf _ _ _
    | with_reducible exact memSet_wf _ _ _
    | with_reducible exact memClear_wf _ _ _
    | with_reducible exact memFilter_wf _ _
    | with_reducible exact memFold_wf (fun _ _ => memClear_wf _ _ _)
    | exact Eq.refl _
    | exact fun h => h
    | exact memWrite_wf _ _ _
    | exact memSet_wf _ _ _
    | exact memClear_wf _ _ _
    | exact memFilter_wf _ _
    | with_reducible apply State.dropWr_keeps
    | with_reducible apply State.pdmStart_keeps
    | with_reducible apply State.ringAck_keeps
    | with_reducible apply State.ringCfg_keeps
    | with_reducible apply State.ringCtl_keeps
    | with_reducible apply State.vecWrite_keeps
    | with_reducible apply State.w1cWrite_keeps
    | with_reducible apply State.wr_keeps
    | with_reducible apply KeepsOut.onUnit
    | with_reducible apply Keeps.ite
    | with_reducible refine Keeps.foldFst ?_ ?_
    | with_reducible refine Keeps.foldSnd ?_ ?_
    | with_reducible refine Keeps.getD ?_ ?_
    | with_reducible apply Keeps.fold
    | intro _ _ _ _
    | intro _ _ _
    | intro _ _
    | intro _ 
    | split

theorem State.unhold_keeps {b_ s : State} (h_ : Keeps b_ s) (fn : Nat) (off : Nat) : Keeps b_ (State.unhold s fn off) := by
  unfold State.unhold
  iterate 3
   all_goals try with_reducible apply Keeps.leaf
   repeat' first
    | with_reducible exact h_
    | with_reducible assumption
    | with_reducible exact memWrite_wf _ _ _
    | with_reducible exact memSet_wf _ _ _
    | with_reducible exact memClear_wf _ _ _
    | with_reducible exact memFilter_wf _ _
    | with_reducible exact memFold_wf (fun _ _ => memClear_wf _ _ _)
    | exact Eq.refl _
    | exact fun h => h

end Sys2Proof.Machine
end

