-- ==== Sys2Proof/Laws/KeepsThreadOps.lean ====
section
/-! SUPPORT. The frame of every operation of Machine/ThreadOps.lean: the queue and soundness. -/

namespace Sys2Proof.Machine

open Sys2Proof

theorem State.slotUsed_keeps {b_ s : State} (h_ : Keeps b_ s) (g : Nat) : Keeps b_ (State.slotUsed s g) := by
  unfold State.slotUsed
  iterate 3
   all_goals try with_reducible apply Keeps.leaf
   repeat' first
    | with_reducible exact h_
    | with_reducible assumption
    | with_reducible exact memWrite_wf _ _ _
    | with_reducible exact memSet_wf _ _ _
    | with_reducible exact memClear_wf _ _ _
    | with_reducible exact memFilter_wf _ _
    | with_reducible exact memFold_wf (fun _ _ => memClear_wf _ _ _)
    | exact Eq.refl _
    | exact fun h => h
    | exact memWrite_wf _ _ _
    | exact memSet_wf _ _ _
    | exact memClear_wf _ _ _
    | exact memFilter_wf _ _
    | with_reducible apply State.updTh_keeps

theorem State.retired_keeps {b_ s : State} (h_ : Keeps b_ s) (g : Nat) (len : Nat) : Keeps b_ (State.retired s g len) := by
  unfold State.retired
  iterate 3
   all_goals try with_reducible apply Keeps.leaf
   repeat' first
    | with_reducible exact h_
    | with_reducible assumption
    | with_reducible exact memWrite_wf _ _ _
    | with_reducible exact memSet_wf _ _ _
    | with_reducible exact memClear_wf _ _ _
    | with_reducible exact memFilter_wf _ _
    | with_reducible exact memFold_wf (fun _ _ => memClear_wf _ _ _)
    | exact Eq.refl _
    | exact fun h => h
    | exact memWrite_wf _ _ _
    | exact memSet_wf _ _ _
    | exact memClear_wf _ _ _
    | exact memFilter_wf _ _
    | with_reducible apply State.slotUsed_keeps
    | with_reducible apply State.updTh_keeps

theorem State.except_keeps {b_ s : State} (h_ : Keeps b_ s) (g : Nat) (cause : Nat) (addr : Nat) : Keeps b_ (State.except s g cause addr) := by
  unfold State.except
  iterate 3
   all_goals try with_reducible apply Keeps.leaf
   repeat' first
    | with_reducible exact h_
    | with_reducible assumption
    | with_reducible exact memWrite_wf _ _ _
    | with_reducible exact memSet_wf _ _ _
    | with_reducible exact memClear_wf _ _ _
    | with_reducible exact memFilter_wf _ _
    | with_reducible exact memFold_wf (fun _ _ => memClear_wf _ _ _)
    | exact Eq.refl _
    | exact fun h => h
    | exact memWrite_wf _ _ _
    | exact memSet_wf _ _ _
    | exact memClear_wf _ _ _
    | exact memFilter_wf _ _
    | with_reducible apply State.throwAt_keeps
    | with_reducible apply KeepsOut.onUnit
    | with_reducible apply Keeps.ite

theorem State.exceptFree_keeps {b_ s : State} (h_ : Keeps b_ s) (g : Nat) (cause : Nat) : Keeps b_ (State.exceptFree s g cause) := by
  unfold State.exceptFree
  iterate 3
   all_goals try with_reducible apply Keeps.leaf
   repeat' first
    | with_reducible exact h_
    | with_reducible assumption
    | with_reducible exact memWrite_wf _ _ _
    | with_reducible exact memSet_wf _ _ _
    | with_reducible exact memClear_wf _ _ _
    | with_reducible exact memFilter_wf _ _
    | with_reducible exact memFold_wf (fun _ _ => memClear_wf _ _ _)
    | exact Eq.refl _
    | exact fun h => h
    | exact memWrite_wf _ _ _
    | exact memSet_wf _ _ _
    | exact memClear_wf _ _ _
    | exact memFilter_wf _ _
    | (refine State.free_of ?_ (by with_reducible assumption))
    | with_reducible apply State.free_snd
    | with_reducible apply State.throwAt_keeps
    | with_reducible apply KeepsOut.onUnit
    | with_reducible apply Keeps.ite

theorem State.issue_keeps {b_ s : State} (h_ : Keeps b_ s) (g : Nat) (len : Nat) (ks : List Nat) (f : State → State) (hf : ∀ (u : State), Keeps b_ u → Keeps b_ (f u)) : Keeps b_ (State.issue s g len ks f) := by
  unfold State.issue
  iterate 3
   all_goals try with_reducible apply Keeps.leaf
   repeat' first
    | with_reducible exact h_
    | with_reducible assumption
    | with_reducible exact memWrite_wf _ _ _
    | with_reducible exact memSet_wf _ _ _
    | with_reducible exact memClear_wf _ _ _
    | with_reducible exact memFilter_wf _ _
    | with_reducible exact memFold_wf (fun _ _ => memClear_wf _ _ _)
    | exact Eq.refl _
    | exact fun h => h
    | exact memWrite_wf _ _ _
    | exact memSet_wf _ _ _
    | exact memClear_wf _ _ _
    | exact memFilter_wf _ _
    | with_reducible apply hf
    | with_reducible apply State.except_keeps
    | with_reducible apply KeepsOut.onUnit
    | with_reducible apply Keeps.ite

theorem State.retireX_keeps {b_ s : State} (h_ : Keeps b_ s) (g : Nat) (len : Nat) (rd : Nat) (v : Word) : Keeps b_ (State.retireX s g len rd v) := by
  unfold State.retireX
  iterate 3
   all_goals try with_reducible apply Keeps.leaf
   repeat' first
    | with_reducible exact h_
    | with_reducible assumption
    | with_reducible exact memWrite_wf _ _ _
    | with_reducible exact memSet_wf _ _ _
    | with_reducible exact memClear_wf _ _ _
    | with_reducible exact memFilter_wf _ _
    | with_reducible exact memFold_wf (fun _ _ => memClear_wf _ _ _)
    | exact Eq.refl _
    | exact fun h => h
    | exact memWrite_wf _ _ _
    | exact memSet_wf _ _ _
    | exact memClear_wf _ _ _
    | exact memFilter_wf _ _
    | with_reducible apply State.retired_keeps
    | with_reducible apply State.updTh_keeps

theorem State.setClaim_keeps {b_ s : State} (h_ : Keeps b_ s) (i : Nat) (k : Nat) (c : Claim) : Keeps b_ (State.setClaim s i k c) := by
  unfold State.setClaim
  iterate 3
   all_goals try with_reducible apply Keeps.leaf
   repeat' first
    | with_reducible exact h_
    | with_reducible assumption
    | with_reducible exact memWrite_wf _ _ _
    | with_reducible exact memSet_wf _ _ _
    | with_reducible exact memClear_wf _ _ _
    | with_reducible exact memFilter_wf _ _
    | with_reducible exact memFold_wf (fun _ _ => memClear_wf _ _ _)
    | exact Eq.refl _
    | exact fun h => h
    | exact memWrite_wf _ _ _
    | exact memSet_wf _ _ _
    | exact memClear_wf _ _ _
    | exact memFilter_wf _ _
    | with_reducible apply State.updIsl_keeps

theorem State.addClaim_keeps {b_ s : State} (h_ : Keeps b_ s) (i : Nat) (k : Nat) (n : Nat) : Keeps b_ (State.addClaim s i k n) := by
  unfold State.addClaim
  iterate 3
   all_goals try with_reducible apply Keeps.leaf
   repeat' first
    | with_reducible exact h_
    | with_reducible assumption
    | with_reducible exact memWrite_wf _ _ _
    | with_reducible exact memSet_wf _ _ _
    | with_reducible exact memClear_wf _ _ _
    | with_reducible exact memFilter_wf _ _
    | with_reducible exact memFold_wf (fun _ _ => memClear_wf _ _ _)
    | exact Eq.refl _
    | exact fun h => h
    | exact memWrite_wf _ _ _
    | exact memSet_wf _ _ _
    | exact memClear_wf _ _ _
    | exact memFilter_wf _ _
    | with_reducible apply State.setClaim_keeps

theorem State.claimLoad_of {b_ s t_ : State} {w_ : Nat} (h_ : Keeps b_ s) {i : Nat} {k : Nat} {reg : Nat} (e_ : State.claimLoad s i k reg = some (w_, t_)) : Keeps b_ t_ := by
  unfold State.claimLoad at e_
  dsimp only at e_
  iterate 3
   all_goals try with_reducible apply Keeps.leaf
   repeat' first
    | (cases e_; done)
    | cases e_
    | split at e_
    | with_reducible exact h_
    | with_reducible assumption
    | with_reducible exact memWrite_wf _ _ _
    | with_reducible exact memSet_wf _ _ _
    | with_reducible exact memClear_wf _ _ _
    | with_reducible exact memFilter_wf _ _
    | with_reducible exact memFold_wf (fun _ _ => memClear_wf _ _ _)
    | exact Eq.refl _
    | exact fun h => h
    | exact memWrite_wf _ _ _
    | exact memSet_wf _ _ _
    | exact memClear_wf _ _ _
    | exact memFilter_wf _ _
    | with_reducible apply State.addClaim_keeps
    | with_reducible apply KeepsOut.onUnit
    | with_reducible apply Keeps.ite

theorem State.winLoad_of {b_ s t_ : State} {w_ : Nat} (h_ : Keeps b_ s) {fn : Nat} {island : Nat} {w : WinRef} (e_ : State.winLoad s fn island w = some (w_, t_)) : Keeps b_ t_ := by
  unfold State.winLoad at e_
  dsimp only at e_
  iterate 3
   all_goals try with_reducible apply Keeps.leaf
   repeat' first
    | (cases e_; done)
    | cases e_
    | split at e_
    | with_reducible exact h_
    | with_reducible assumption
    | with_reducible exact memWrite_wf _ _ _
    | with_reducible exact memSet_wf _ _ _
    | with_reducible exact memClear_wf _ _ _
    | with_reducible exact memFilter_wf _ _
    | with_reducible exact memFold_wf (fun _ _ => memClear_wf _ _ _)
    | exact Eq.refl _
    | exact fun h => h
    | exact memWrite_wf _ _ _
    | exact memSet_wf _ _ _
    | exact memClear_wf _ _ _
    | exact memFilter_wf _ _
    | (refine State.claimLoad_of ?_ (by with_reducible assumption))

theorem State.winStore_of {b_ s t_ : State} (h_ : Keeps b_ s) {g : Nat} {w : WinRef} {v : Nat} (e_ : State.winStore s g w v = .ok t_) : Keeps b_ t_ := by
  unfold State.winStore at e_
  dsimp only at e_
  iterate 3
   all_goals try with_reducible apply Keeps.leaf
   repeat' first
    | (cases e_; done)
    | cases e_
    | split at e_
    | with_reducible exact h_
    | with_reducible assumption
    | with_reducible exact memWrite_wf _ _ _
    | with_reducible exact memSet_wf _ _ _
    | with_reducible exact memClear_wf _ _ _
    | with_reducible exact memFilter_wf _ _
    | with_reducible exact memFold_wf (fun _ _ => memClear_wf _ _ _)
    | exact Eq.refl _
    | exact fun h => h
    | exact memWrite_wf _ _ _
    | exact memSet_wf _ _ _
    | exact memClear_wf _ _ _
    | exact memFilter_wf _ _
    | with_reducible apply State.movePass_keeps
    | (refine State.postDesc_of ?_ (by with_reducible assumption))
    | (refine State.postJob_of ?_ (by with_reducible assumption))
    | with_reducible apply State.setClaim_keeps
    | with_reducible apply State.setPhase_keeps
    | with_reducible apply State.updIsl_keeps

theorem State.tlbLook_keeps {b_ s : State} (h_ : Keeps b_ s) (island : Nat) (fn : Nat) (vpn : Nat) : Keeps b_ (State.tlbLook s island fn vpn) := by
  unfold State.tlbLook
  iterate 3
   all_goals try with_reducible apply Keeps.leaf
   repeat' first
    | with_reducible exact h_
    | with_reducible assumption
    | with_reducible exact memWrite_wf _ _ _
    | with_reducible exact memSet_wf _ _ _
    | with_reducible exact memClear_wf _ _ _
    | with_reducible exact memFilter_wf _ _
    | with_reducible exact memFold_wf (fun _ _ => memClear_wf _ _ _)
    | exact Eq.refl _
    | exact fun h => h
    | exact memWrite_wf _ _ _
    | exact memSet_wf _ _ _
    | exact memClear_wf _ _ _
    | exact memFilter_wf _ _
    | with_reducible apply State.count_keeps

theorem State.tlbLooksOf_keeps {b_ s : State} (h_ : Keeps b_ s) (island : Nat) (fn : Nat) (as : List Nat) : Keeps b_ (State.tlbLooksOf s island fn as) := by
  unfold State.tlbLooksOf
  iterate 3
   all_goals try with_reducible apply Keeps.leaf
   repeat' first
    | with_reducible exact h_
    | with_reducible assumption
    | with_reducible exact memWrite_wf _ _ _
    | with_reducible exact memSet_wf _ _ _
    | with_reducible exact memClear_wf _ _ _
    | with_reducible exact memFilter_wf _ _
    | with_reducible exact memFold_wf (fun _ _ => memClear_wf _ _ _)
    | exact Eq.refl _
    | exact fun h => h
    | exact memWrite_wf _ _ _
    | exact memSet_wf _ _ _
    | exact memClear_wf _ _ _
    | exact memFilter_wf _ _
    | with_reducible apply State.tlbLook_keeps
    | with_reducible apply KeepsOut.onUnit
    | with_reducible apply Keeps.ite
    | with_reducible refine Keeps.foldFst ?_ ?_
    | with_reducible refine Keeps.foldSnd ?_ ?_
    | with_reducible refine Keeps.getD ?_ ?_
    | with_reducible apply Keeps.fold
    | intro _ _ _ _
    | intro _ _ _

theorem State.tlbLooks_keeps {b_ s : State} (h_ : Keeps b_ s) (g : Nat) (as : List Nat) : Keeps b_ (State.tlbLooks s g as) := by
  unfold State.tlbLooks
  iterate 3
   all_goals try with_reducible apply Keeps.leaf
   repeat' first
    | with_reducible exact h_
    | with_reducible assumption
    | with_reducible exact memWrite_wf _ _ _
    | with_reducible exact memSet_wf _ _ _
    | with_reducible exact memClear_wf _ _ _
    | with_reducible exact memFilter_wf _ _
    | with_reducible exact memFold_wf (fun _ _ => memClear_wf _ _ _)
    | exact Eq.refl _
    | exact fun h => h
    | exact memWrite_wf _ _ _
    | exact memSet_wf _ _ _
    | exact memClear_wf _ _ _
    | exact memFilter_wf _ _
    | with_reducible apply State.tlbLooksOf_keeps

theorem State.startLoad_keeps {b_ s : State} (h_ : Keeps b_ s) (g : Nat) (len : Nat) (l : PLoad) : Keeps b_ (State.startLoad s g len l) := by
  unfold State.startLoad
  iterate 3
   all_goals try with_reducible apply Keeps.leaf
   repeat' first
    | with_reducible exact h_
    | with_reducible assumption
    | with_reducible exact memWrite_wf _ _ _
    | with_reducible exact memSet_wf _ _ _
    | with_reducible exact memClear_wf _ _ _
    | with_reducible exact memFilter_wf _ _
    | with_reducible exact memFold_wf (fun _ _ => memClear_wf _ _ _)
    | exact Eq.refl _
    | exact fun h => h
    | exact memWrite_wf _ _ _
    | exact memSet_wf _ _ _
    | exact memClear_wf _ _ _
    | exact memFilter_wf _ _
    | with_reducible apply State.except_keeps
    | with_reducible apply State.retired_keeps
    | with_reducible apply State.tlbLooks_keeps
    | with_reducible apply State.updTh_keeps
    | with_reducible apply KeepsOut.onUnit
    | with_reducible apply Keeps.ite
    | with_reducible refine Keeps.foldFst ?_ ?_
    | with_reducible refine Keeps.foldSnd ?_ ?_
    | with_reducible refine Keeps.getD ?_ ?_
    | with_reducible apply Keeps.fold
    | intro _ _ _ _
    | intro _ _ _
    | intro _ _
    | intro _ 
    | split

theorem State.load_keeps {b_ s : State} (h_ : Keeps b_ s) (g : Nat) (len : Nat) (rd : Nat) (a : Nat) (k : LdKind) : Keeps b_ (State.load s g len rd a k) := by
  unfold State.load
  iterate 3
   all_goals try with_reducible apply Keeps.leaf
   repeat' first
    | with_reducible exact h_
    | with_reducible assumption
    | with_reducible exact memWrite_wf _ _ _
    | with_reducible exact memSet_wf _ _ _
    | with_reducible exact memClear_wf _ _ _
    | with_reducible exact memFilter_wf _ _
    | with_reducible exact memFold_wf (fun _ _ => memClear_wf _ _ _)
    | exact Eq.refl _
    | exact fun h => h
    | exact memWrite_wf _ _ _
    | exact memSet_wf _ _ _
    | exact memClear_wf _ _ _
    | exact memFilter_wf _ _
    | with_reducible apply State.except_keeps
    | with_reducible apply State.retireX_keeps
    | with_reducible apply State.startLoad_keeps
    | (refine State.winLoad_of ?_ (by with_reducible assumption))
    | with_reducible apply KeepsOut.onUnit
    | with_reducible apply Keeps.ite
    | with_reducible refine Keeps.foldFst ?_ ?_
    | with_reducible refine Keeps.foldSnd ?_ ?_
    | with_reducible refine Keeps.getD ?_ ?_
    | with_reducible apply Keeps.fold
    | intro _ _ _ _
    | intro _ _ _
    | intro _ _
    | intro _ 
    | split

theorem State.startStore_keeps {b_ s : State} (h_ : Keeps b_ s) (g : Nat) (len : Nat) (parts : List (Nat × List Byte)) : Keeps b_ (State.startStore s g len parts) := by
  unfold State.startStore
  iterate 3
   all_goals try with_reducible apply Keeps.leaf
   repeat' first
    | with_reducible exact h_
    | with_reducible assumption
    | with_reducible exact memWrite_wf _ _ _
    | with_reducible exact memSet_wf _ _ _
    | with_reducible exact memClear_wf _ _ _
    | with_reducible exact memFilter_wf _ _
    | with_reducible exact memFold_wf (fun _ _ => memClear_wf _ _ _)
    | exact Eq.refl _
    | exact fun h => h
    | exact memWrite_wf _ _ _
    | exact memSet_wf _ _ _
    | exact memClear_wf _ _ _
    | exact memFilter_wf _ _
    | with_reducible apply State.except_keeps
    | with_reducible apply State.retired_keeps
    | with_reducible apply State.store_keeps
    | with_reducible apply State.tlbLooks_keeps
    | with_reducible apply State.updTh_keeps
    | with_reducible apply State.writeBytes_keeps
    | with_reducible apply KeepsOut.onUnit
    | with_reducible apply Keeps.ite
    | with_reducible refine Keeps.foldFst ?_ ?_
    | with_reducible refine Keeps.foldSnd ?_ ?_
    | with_reducible refine Keeps.getD ?_ ?_
    | with_reducible apply Keeps.fold
    | intro _ _ _ _
    | intro _ _ _
    | intro _ _
    | intro _ 
    | split

theorem State.store_keeps {b_ s : State} (h_ : Keeps b_ s) (g : Nat) (len : Nat) (a : Nat) (l : List Byte) : Keeps b_ (State.store s g len a l) := by
  unfold State.store
  iterate 3
   all_goals try with_reducible apply Keeps.leaf
   repeat' first
    | with_reducible exact h_
    | with_reducible assumption
    | with_reducible exact memWrite_wf _ _ _
    | with_reducible exact memSet_wf _ _ _
    | with_reducible exact memClear_wf _ _ _
    | with_reducible exact memFilter_wf _ _
    | with_reducible exact memFold_wf (fun _ _ => memClear_wf _ _ _)
    | exact Eq.refl _
    | exact fun h => h
    | exact memWrite_wf _ _ _
    | exact memSet_wf _ _ _
    | exact memClear_wf _ _ _
    | exact memFilter_wf _ _
    | with_reducible apply State.except_keeps
    | with_reducible apply State.retired_keeps
    | with_reducible apply State.startStore_keeps
    | with_reducible apply State.updTh_keeps
    | (refine State.winStore_of ?_ (by with_reducible assumption))
    | with_reducible apply KeepsOut.onUnit
    | with_reducible apply Keeps.ite
    | with_reducible refine Keeps.foldFst ?_ ?_
    | with_reducible refine Keeps.foldSnd ?_ ?_
    | with_reducible refine Keeps.getD ?_ ?_
    | with_reducible apply Keeps.fold
    | intro _ _ _ _
    | intro _ _ _
    | intro _ _
    | intro _ 
    | split

theorem State.settleExit_keeps {b_ s : State} (h_ : Keeps b_ s) (g : Nat) : Keeps b_ (State.settleExit s g) := by
  unfold State.settleExit
  iterate 3
   all_goals try with_reducible apply Keeps.leaf
   repeat' first
    | with_reducible exact h_
    | with_reducible assumption
    | with_reducible exact memWrite_wf _ _ _
    | with_reducible exact memSet_wf _ _ _
    | with_reducible exact memClear_wf _ _ _
    | with_reducible exact memFilter_wf _ _
    | with_reducible exact memFold_wf (fun _ _ => memClear_wf _ _ _)
    | exact Eq.refl _
    | exact fun h => h
    | exact memWrite_wf _ _ _
    | exact memSet_wf _ _ _
    | exact memClear_wf _ _ _
    | exact memFilter_wf _ _
    | with_reducible apply State.setTh_keeps
    | with_reducible apply KeepsOut.onUnit
    | with_reducible apply Keeps.ite

theorem State.askRemap_keeps {b_ s : State} (h_ : Keeps b_ s) (i : Nat) : Keeps b_ (State.askRemap s i) := by
  unfold State.askRemap
  iterate 3
   all_goals try with_reducible apply Keeps.leaf
   repeat' first
    | with_reducible exact h_
    | with_reducible assumption
    | with_reducible exact memWrite_wf _ _ _
    | with_reducible exact memSet_wf _ _ _
    | with_reducible exact memClear_wf _ _ _
    | with_reducible exact memFilter_wf _ _
    | with_reducible exact memFold_wf (fun _ _ => memClear_wf _ _ _)
    | exact Eq.refl _
    | exact fun h => h
    | exact memWrite_wf _ _ _
    | exact memSet_wf _ _ _
    | exact memClear_wf _ _ _
    | exact memFilter_wf _ _
    | with_reducible apply State.askReset_keeps
    | with_reducible apply State.updIsl_keeps

theorem State.remapFree_keeps {b_ s : State} (h_ : Keeps b_ s) (is : List Nat) : Keeps b_ (State.remapFree s is) := by
  unfold State.remapFree
  iterate 3
   all_goals try with_reducible apply Keeps.leaf
   repeat' first
    | with_reducible exact h_
    | with_reducible assumption
    | with_reducible exact memWrite_wf _ _ _
    | with_reducible exact memSet_wf _ _ _
    | with_reducible exact memClear_wf _ _ _
    | with_reducible exact memFilter_wf _ _
    | with_reducible exact memFold_wf (fun _ _ => memClear_wf _ _ _)
    | exact Eq.refl _
    | exact fun h => h
    | exact memWrite_wf _ _ _
    | exact memSet_wf _ _ _
    | exact memClear_wf _ _ _
    | exact memFilter_wf _ _
    | with_reducible apply State.askRemap_keeps
    | with_reducible apply KeepsOut.onUnit
    | with_reducible apply Keeps.ite
    | with_reducible refine Keeps.foldFst ?_ ?_
    | with_reducible refine Keeps.foldSnd ?_ ?_
    | with_reducible refine Keeps.getD ?_ ?_
    | with_reducible apply Keeps.fold
    | intro _ _ _ _
    | intro _ _ _

theorem State.logStore_keeps {b_ s : State} (h_ : Keeps b_ s) (island : Nat) (cls : Nat) (sev : Nat) (addr : Nat) (ctx : Nat) : Keeps b_ (State.logStore s island cls sev addr ctx) := by
  unfold State.logStore
  iterate 3
   all_goals try with_reducible apply Keeps.leaf
   repeat' first
    | with_reducible exact h_
    | with_reducible assumption
    | with_reducible exact memWrite_wf _ _ _
    | with_reducible exact memSet_wf _ _ _
    | with_reducible exact memClear_wf _ _ _
    | with_reducible exact memFilter_wf _ _
    | with_reducible exact memFold_wf (fun _ _ => memClear_wf _ _ _)
    | exact Eq.refl _
    | exact fun h => h
    | exact memWrite_wf _ _ _
    | exact memSet_wf _ _ _
    | exact memClear_wf _ _ _
    | exact memFilter_wf _ _
    | (refine State.free_of ?_ (by with_reducible assumption))
    | with_reducible apply State.free_snd
    | with_reducible apply State.log_keeps

theorem State.logFault_keeps {b_ s : State} (h_ : Keeps b_ s) (island : Nat) (slot : Nat) (cls : Nat) (addr : Nat) (ctx : Nat) : Keeps b_ (State.logFault s island slot cls addr ctx) := by
  unfold State.logFault
  iterate 3
   all_goals try with_reducible apply Keeps.leaf
   repeat' first
    | with_reducible exact h_
    | with_reducible assumption
    | with_reducible exact memWrite_wf _ _ _
    | with_reducible exact memSet_wf _ _ _
    | with_reducible exact memClear_wf _ _ _
    | with_reducible exact memFilter_wf _ _
    | with_reducible exact memFold_wf (fun _ _ => memClear_wf _ _ _)
    | exact Eq.refl _
    | exact fun h => h
    | exact memWrite_wf _ _ _
    | exact memSet_wf _ _ _
    | exact memClear_wf _ _ _
    | exact memFilter_wf _ _
    | (refine State.free_of ?_ (by with_reducible assumption))
    | with_reducible apply State.free_snd
    | with_reducible apply State.logCore_keeps

theorem State.sramError_keeps {b_ s : State} (h_ : Keeps b_ s) (island : Nat) (slot : Nat) (addr : Nat) (ctx : Nat) (cls : Nat) : Keeps b_ (State.sramError s island slot addr ctx cls) := by
  unfold State.sramError
  iterate 3
   all_goals try with_reducible apply Keeps.leaf
   repeat' first
    | with_reducible exact h_
    | with_reducible assumption
    | with_reducible exact memWrite_wf _ _ _
    | with_reducible exact memSet_wf _ _ _
    | with_reducible exact memClear_wf _ _ _
    | with_reducible exact memFilter_wf _ _
    | with_reducible exact memFold_wf (fun _ _ => memClear_wf _ _ _)
    | exact Eq.refl _
    | exact fun h => h
    | exact memWrite_wf _ _ _
    | exact memSet_wf _ _ _
    | exact memClear_wf _ _ _
    | exact memFilter_wf _ _
    | with_reducible apply State.count_keeps
    | with_reducible apply State.hwSet_keeps
    | with_reducible apply State.logFault_keeps
    | with_reducible apply State.logStore_keeps
    | with_reducible apply State.remapFree_keeps
    | with_reducible apply State.sramSpare_keeps
    | with_reducible apply KeepsOut.onUnit
    | with_reducible apply Keeps.ite

theorem State.sramCorrected_keeps {b_ s : State} (h_ : Keeps b_ s) (island : Nat) (slot : Nat) (addr : Nat) (ctx : Nat) (store : Bool) : Keeps b_ (State.sramCorrected s island slot addr ctx store) := by
  unfold State.sramCorrected
  iterate 3
   all_goals try with_reducible apply Keeps.leaf
   repeat' first
    | with_reducible exact h_
    | with_reducible assumption
    | with_reducible exact memWrite_wf _ _ _
    | with_reducible exact memSet_wf _ _ _
    | with_reducible exact memClear_wf _ _ _
    | with_reducible exact memFilter_wf _ _
    | with_reducible exact memFold_wf (fun _ _ => memClear_wf _ _ _)
    | exact Eq.refl _
    | exact fun h => h
    | exact memWrite_wf _ _ _
    | exact memSet_wf _ _ _
    | exact memClear_wf _ _ _
    | exact memFilter_wf _ _
    | with_reducible apply State.count_keeps
    | with_reducible apply State.hwSet_keeps
    | with_reducible apply State.logCore_keeps
    | with_reducible apply State.logStore_keeps
    | with_reducible apply State.store_keeps
    | with_reducible apply KeepsOut.onUnit
    | with_reducible apply Keeps.ite

end Sys2Proof.Machine
end

