-- ==== Sys2Proof/Laws/KeepsPlainOps.lean ====
section
/-! SUPPORT. The frame of every operation of Machine/PlainOps.lean: the queue and soundness. -/

namespace Sys2Proof.Machine

open Sys2Proof

theorem State.plainCe_keeps {b_ s : State} (h_ : Keeps b_ s) (psn : Nat) (x : Seen) (ctx : Nat) : Keeps b_ (State.plainCe s psn x ctx) := by
  unfold State.plainCe
  iterate 3
   all_goals try with_reducible apply Keeps.leaf
   repeat' first
    | with_reducible exact h_
    | with_reducible assumption
    | with_reducible exact memWrite_wf _ _ _
    | with_reducible exact memSet_wf _ _ _
    | with_reducible exact memClear_wf _ _ _
    | with_reducible exact memFilter_wf _ _
    | with_reducible exact memFold_wf (fun _ _ => memClear_wf _ _ _)
    | exact Eq.refl _
    | exact fun h => h
    | exact memWrite_wf _ _ _
    | exact memSet_wf _ _ _
    | exact memClear_wf _ _ _
    | exact memFilter_wf _ _
    | with_reducible apply State.count_keeps
    | with_reducible apply State.hwSet_keeps
    | with_reducible apply State.logPlain_keeps
    | with_reducible apply State.updPage_keeps

theorem State.plainUe_keeps {b_ s : State} (h_ : Keeps b_ s) (psn : Nat) (mac : Bool) (dev : Nat) (synd : Nat) (ctx : Nat) : Keeps b_ (State.plainUe s psn mac dev synd ctx) := by
  unfold State.plainUe
  iterate 3
   all_goals try with_reducible apply Keeps.leaf
   repeat' first
    | with_reducible exact h_
    | with_reducible assumption
    | with_reducible exact memWrite_wf _ _ _
    | with_reducible exact memSet_wf _ _ _
    | with_reducible exact memClear_wf _ _ _
    | with_reducible exact memFilter_wf _ _
    | with_reducible exact memFold_wf (fun _ _ => memClear_wf _ _ _)
    | exact Eq.refl _
    | exact fun h => h
    | exact memWrite_wf _ _ _
    | exact memSet_wf _ _ _
    | exact memClear_wf _ _ _
    | exact memFilter_wf _ _
    | with_reducible apply State.count_keeps
    | with_reducible apply State.hwSet_keeps
    | with_reducible apply State.logPlain_keeps
    | with_reducible apply State.quarantine_keeps
    | with_reducible apply KeepsOut.onUnit
    | with_reducible apply Keeps.ite
    | with_reducible refine Keeps.foldFst ?_ ?_
    | with_reducible refine Keeps.foldSnd ?_ ?_
    | with_reducible refine Keeps.getD ?_ ?_
    | with_reducible apply Keeps.fold
    | intro _ _ _ _
    | intro _ _ _
    | intro _ _
    | intro _ 
    | split
    | dsimp only

theorem State.sectorUe_keeps {b_ s : State} (h_ : Keeps b_ s) (psn : Nat) (x : Seen) (ctx : Nat) : Keeps b_ (State.sectorUe s psn x ctx) := by
  unfold State.sectorUe
  iterate 3
   all_goals try with_reducible apply Keeps.leaf
   repeat' first
    | with_reducible exact h_
    | with_reducible assumption
    | with_reducible exact memWrite_wf _ _ _
    | with_reducible exact memSet_wf _ _ _
    | with_reducible exact memClear_wf _ _ _
    | with_reducible exact memFilter_wf _ _
    | with_reducible exact memFold_wf (fun _ _ => memClear_wf _ _ _)
    | exact Eq.refl _
    | exact fun h => h
    | exact memWrite_wf _ _ _
    | exact memSet_wf _ _ _
    | exact memClear_wf _ _ _
    | exact memFilter_wf _ _
    | with_reducible apply State.plainUe_keeps

theorem State.chanUe_keeps {b_ s : State} (h_ : Keeps b_ s) (psn : Nat) (ctx : Nat) : Keeps b_ (State.chanUe s psn ctx) := by
  unfold State.chanUe
  iterate 3
   all_goals try with_reducible apply Keeps.leaf
   repeat' first
    | with_reducible exact h_
    | with_reducible assumption
    | with_reducible exact memWrite_wf _ _ _
    | with_reducible exact memSet_wf _ _ _
    | with_reducible exact memClear_wf _ _ _
    | with_reducible exact memFilter_wf _ _
    | with_reducible exact memFold_wf (fun _ _ => memClear_wf _ _ _)
    | exact Eq.refl _
    | exact fun h => h
    | exact memWrite_wf _ _ _
    | exact memSet_wf _ _ _
    | exact memClear_wf _ _ _
    | exact memFilter_wf _ _
    | (refine State.free_of ?_ (by with_reducible assumption))
    | with_reducible apply State.free_snd
    | with_reducible apply State.plainUe_keeps
    | with_reducible apply KeepsOut.onUnit
    | with_reducible apply Keeps.ite

theorem State.failAt_keeps {b_ s : State} (h_ : Keeps b_ s) (fn : Nat) (a : Nat) (ctx : Nat) : Keeps b_ (State.failAt s fn a ctx) := by
  unfold State.failAt
  iterate 3
   all_goals try with_reducible apply Keeps.leaf
   repeat' first
    | with_reducible exact h_
    | with_reducible assumption
    | with_reducible exact memWrite_wf _ _ _
    | with_reducible exact memSet_wf _ _ _
    | with_reducible exact memClear_wf _ _ _
    | with_reducible exact memFilter_wf _ _
    | with_reducible exact memFold_wf (fun _ _ => memClear_wf _ _ _)
    | exact Eq.refl _
    | exact fun h => h
    | exact memWrite_wf _ _ _
    | exact memSet_wf _ _ _
    | exact memClear_wf _ _ _
    | exact memFilter_wf _ _
    | with_reducible apply State.chanUe_keeps
    | with_reducible apply KeepsOut.onUnit
    | with_reducible apply Keeps.ite
    | with_reducible refine Keeps.foldFst ?_ ?_
    | with_reducible refine Keeps.foldSnd ?_ ?_
    | with_reducible refine Keeps.getD ?_ ?_
    | with_reducible apply Keeps.fold
    | intro _ _ _ _
    | intro _ _ _
    | intro _ _
    | intro _ 
    | split

theorem State.readGood_fst {b_ s : State} (h_ : Keeps b_ s) (psn ctx : Nat) (ce : Bool) (x : Seen) : Keeps b_ (State.readGood s psn ctx ce x).1 := by
  have ht : Keeps b_ (if ce then s.plainCe psn x ctx else s) := Keeps.ite (State.plainCe_keeps h_ _ _ _) h_
  unfold State.readGood
  generalize (if ce then s.plainCe psn x ctx else s) = t at ht ⊢
  dsimp only
  split
  · split
    · exact State.plainUe_keeps ht _ _ _ _ _
    · exact ht
  · split
    · exact ht
    · exact Keeps.leaf ht id id id id rfl rfl id

theorem State.readGood_of {b_ s t_ : State} {w_ : Bool} (h_ : Keeps b_ s) {psn ctx : Nat} {ce : Bool} {x : Seen}
    (e_ : State.readGood s psn ctx ce x = (t_, w_)) : Keeps b_ t_ := by
  have := State.readGood_fst h_ psn ctx ce x
  rwa [e_] at this

theorem State.readSector_fst {b_ s : State} (h_ : Keeps b_ s) (psn ctx : Nat) (x again : Seen) :
    Keeps b_ (State.readSector s psn ctx x again).1 := by
  unfold State.readSector
  split
  · exact State.readGood_fst h_ _ _ _ _
  · split
    · exact State.sectorUe_keeps h_ _ _ _
    · exact State.readGood_fst h_ _ _ _ _

theorem State.readSector_of {b_ s t_ : State} {w_ : Bool} (h_ : Keeps b_ s) {psn ctx : Nat} {x again : Seen}
    (e_ : State.readSector s psn ctx x again = (t_, w_)) : Keeps b_ t_ := by
  have := State.readSector_fst h_ psn ctx x again
  rwa [e_] at this

theorem State.remapPage_keeps {b_ s : State} (h_ : Keeps b_ s) (p : Nat) (q : Nat) : Keeps b_ (State.remapPage s p q) := by
  unfold State.remapPage
  iterate 3
   all_goals try with_reducible apply Keeps.leaf
   repeat' first
    | with_reducible exact h_
    | with_reducible assumption
    | with_reducible exact memWrite_wf _ _ _
    | with_reducible exact memSet_wf _ _ _
    | with_reducible exact memClear_wf _ _ _
    | with_reducible exact memFilter_wf _ _
    | with_reducible exact memFold_wf (fun _ _ => memClear_wf _ _ _)
    | exact Eq.refl _
    | exact fun h => h
    | exact memWrite_wf _ _ _
    | exact memSet_wf _ _ _
    | exact memClear_wf _ _ _
    | exact memFilter_wf _ _
    | with_reducible apply State.tlbDrop_keeps
    | with_reducible apply KeepsOut.onUnit
    | with_reducible apply Keeps.ite
    | with_reducible refine Keeps.foldFst ?_ ?_
    | with_reducible refine Keeps.foldSnd ?_ ?_
    | with_reducible refine Keeps.getD ?_ ?_
    | with_reducible apply Keeps.fold
    | intro _ _ _ _
    | intro _ _ _
    | intro _ _
    | intro _ 
    | split
    | dsimp only

theorem State.copyPage_keeps {b_ s : State} (h_ : Keeps b_ s) (p : Nat) (q : Nat) (epoch : Nat) : Keeps b_ (State.copyPage s p q epoch) := by
  unfold State.copyPage
  iterate 3
   all_goals try with_reducible apply Keeps.leaf
   repeat' first
    | with_reducible exact h_
    | with_reducible assumption
    | with_reducible exact memWrite_wf _ _ _
    | with_reducible exact memSet_wf _ _ _
    | with_reducible exact memClear_wf _ _ _
    | with_reducible exact memFilter_wf _ _
    | with_reducible exact memFold_wf (fun _ _ => memClear_wf _ _ _)
    | exact Eq.refl _
    | exact fun h => h
    | exact memWrite_wf _ _ _
    | exact memSet_wf _ _ _
    | exact memClear_wf _ _ _
    | exact memFilter_wf _ _
    | with_reducible apply KeepsOut.onUnit
    | with_reducible apply Keeps.ite
    | with_reducible refine Keeps.foldFst ?_ ?_
    | with_reducible refine Keeps.foldSnd ?_ ?_
    | with_reducible refine Keeps.getD ?_ ?_
    | with_reducible apply Keeps.fold
    | intro _ _ _ _
    | intro _ _ _
    | intro _ _
    | intro _ 
    | split
    | dsimp only

theorem State.migrateStart_keeps {b_ s : State} (h_ : Keeps b_ s) (p : Nat) : Keeps b_ (State.migrateStart s p) := by
  unfold State.migrateStart
  iterate 3
   all_goals try with_reducible apply Keeps.leaf
   repeat' first
    | with_reducible exact h_
    | with_reducible assumption
    | with_reducible exact memWrite_wf _ _ _
    | with_reducible exact memSet_wf _ _ _
    | with_reducible exact memClear_wf _ _ _
    | with_reducible exact memFilter_wf _ _
    | with_reducible exact memFold_wf (fun _ _ => memClear_wf _ _ _)
    | exact Eq.refl _
    | exact fun h => h
    | exact memWrite_wf _ _ _
    | exact memSet_wf _ _ _
    | exact memClear_wf _ _ _
    | exact memFilter_wf _ _
    | (refine State.drawEpoch_of ?_ (by with_reducible assumption))
    | with_reducible apply State.setPage_keeps
    | with_reducible apply KeepsOut.onUnit
    | with_reducible apply Keeps.ite
    | with_reducible refine Keeps.foldFst ?_ ?_
    | with_reducible refine Keeps.foldSnd ?_ ?_
    | with_reducible refine Keeps.getD ?_ ?_
    | with_reducible apply Keeps.fold
    | intro _ _ _ _
    | intro _ _ _
    | intro _ _
    | intro _ 
    | split
    | dsimp only

theorem State.readPage_fst {b_ s : State} (h_ : Keeps b_ s) (p : Nat) (reads : List (Nat × Seen × Seen)) :
    Keeps b_ (State.readPage s p reads).1 := by
  unfold State.readPage
  refine Keeps.foldFst (fun t d a h => ?_) h_
  dsimp only
  split
  · exact h
  · exact State.readSector_fst h _ _ _ _

theorem State.readPage_of {b_ s t_ : State} {w_ : Bool} (h_ : Keeps b_ s) {p : Nat} {reads : List (Nat × Seen × Seen)}
    (e_ : State.readPage s p reads = (t_, w_)) : Keeps b_ t_ := by
  have := State.readPage_fst h_ p reads
  rwa [e_] at this

theorem State.migrateStop_of {b_ s t_ : State} (h_ : Keeps b_ s) {p q : Nat} (e_ : State.migrateStop s p q = some t_) : Keeps b_ t_ := by
  unfold State.migrateStop at e_
  rw [Option.map_eq_some_iff] at e_
  obtain ⟨⟨w, t⟩, e1, e2⟩ := e_
  have ht := State.updPage_keeps (State.setPage_keeps (State.drawEpoch_of h_ e1) q { epoch := w }) p fun e => { e with migrating := false }
  cases e2
  exact Keeps.leaf ht id id id id rfl rfl id

theorem State.migrateEnd_keeps {b_ s : State} (h_ : Keeps b_ s) (p q : Nat) (reads : List (Nat × Seen × Seen)) :
    Keeps b_ (State.migrateEnd s p q reads) := by
  have hr := State.readPage_fst h_ p reads
  unfold State.migrateEnd
  generalize s.readPage p reads = r at hr ⊢
  dsimp only
  split
  · exact Keeps.getD (fun _ e => State.migrateStop_of h_ e) h_
  split
  · exact Keeps.getD (fun _ e => State.migrateStop_of hr e) h_
  refine State.retire_keeps (State.log_keeps (State.hwSet_keeps (State.remapPage_keeps ?_ _ _) _ _ _) _ _ _ _ _ _ _ _ _ _) _
  refine Keeps.leaf (State.setPage_keeps (State.copyPage_keeps ?_ p q (s.page q).epoch) q _) id id id id rfl rfl id
  exact Keeps.leaf hr id id id (memClear_wf _ _ _) rfl rfl id

theorem State.trainChan_keeps {b_ s : State} (h_ : Keeps b_ s) (c : Nat) : Keeps b_ (State.trainChan s c) :=
  State.wrF_keeps (State.wrF_keeps h_ _ _ _ _ _) _ _ _ _ _

theorem State.putRate_keeps {b_ s : State} (h_ : Keeps b_ s) : Keeps b_ (State.putRate s) := by
  unfold State.putRate
  iterate 3
   all_goals try with_reducible apply Keeps.leaf
   repeat' first
    | with_reducible exact h_
    | with_reducible assumption
    | with_reducible exact memWrite_wf _ _ _
    | with_reducible exact memSet_wf _ _ _
    | with_reducible exact memClear_wf _ _ _
    | with_reducible exact memFilter_wf _ _
    | with_reducible exact memFold_wf (fun _ _ => memClear_wf _ _ _)
    | exact Eq.refl _
    | exact fun h => h
    | exact memWrite_wf _ _ _
    | exact memSet_wf _ _ _
    | exact memClear_wf _ _ _
    | exact memFilter_wf _ _
    | with_reducible apply State.hwSet_keeps
    | with_reducible apply State.log_keeps
    | with_reducible apply State.trainChan_keeps
    | with_reducible apply State.wrF_keeps
    | with_reducible apply KeepsOut.onUnit
    | with_reducible apply Keeps.ite
    | with_reducible refine Keeps.foldFst ?_ ?_
    | with_reducible refine Keeps.foldSnd ?_ ?_
    | with_reducible refine Keeps.getD ?_ ?_
    | with_reducible apply Keeps.fold
    | intro _ _ _ _
    | intro _ _ _

end Sys2Proof.Machine
end

