-- ==== Sys2Proof/Laws/KeepsFerries.lean ====
section
/-! SUPPORT. The frame of every operation of Machine/Ferries.lean: the queue and soundness. -/

namespace Sys2Proof.Machine

open Sys2Proof

theorem State.postBy_keeps {b_ s : State} (h_ : Keeps b_ s) (gid : Nat) (len : Nat) (win : Nat) (p : Posted) (wait : Stall) (hp : ∀ t, p = .ok t → Keeps b_ t) : Keeps b_ (State.postBy s gid len win p wait) := by
  unfold State.postBy
  iterate 3
   all_goals try with_reducible apply Keeps.leaf
   repeat' first
    | with_reducible exact h_
    | with_reducible assumption
    | with_reducible exact memWrite_wf _ _ _
    | with_reducible exact memSet_wf _ _ _
    | with_reducible exact memClear_wf _ _ _
    | with_reducible exact memFilter_wf _ _
    | with_reducible exact memFold_wf (fun _ _ => memClear_wf _ _ _)
    | exact Eq.refl _
    | exact fun h => h
    | exact memWrite_wf _ _ _
    | exact memSet_wf _ _ _
    | exact memClear_wf _ _ _
    | exact memFilter_wf _ _
    | exact hp _ rfl
    | with_reducible apply State.except_keeps
    | with_reducible apply State.retired_keeps
    | with_reducible apply State.updTh_keeps
    | with_reducible apply KeepsOut.onUnit
    | with_reducible apply Keeps.ite
    | with_reducible refine Keeps.foldFst ?_ ?_
    | with_reducible refine Keeps.foldSnd ?_ ?_
    | with_reducible refine Keeps.getD ?_ ?_
    | with_reducible apply Keeps.fold
    | intro _ _ _ _
    | intro _ _ _
    | intro _ _
    | intro _ 
    | split

theorem execFryPost_keeps {b_ s : State} (h_ : Keeps b_ s) (gid : Nat) (ch : Nat) (addr : Nat) : KeepsOut b_ (execFryPost gid ch addr s) := by
  unfold execFryPost
  iterate 3
   all_goals try with_reducible apply Keeps.leaf
   repeat' first
    | with_reducible exact h_
    | with_reducible assumption
    | with_reducible exact memWrite_wf _ _ _
    | with_reducible exact memSet_wf _ _ _
    | with_reducible exact memClear_wf _ _ _
    | with_reducible exact memFilter_wf _ _
    | with_reducible exact memFold_wf (fun _ _ => memClear_wf _ _ _)
    | exact Eq.refl _
    | exact fun h => h
    | exact memWrite_wf _ _ _
    | exact memSet_wf _ _ _
    | exact memClear_wf _ _ _
    | exact memFilter_wf _ _
    | with_reducible apply State.except_keeps
    | with_reducible apply State.issue_keeps
    | with_reducible apply State.post_keeps
    | with_reducible apply State.postBy_keeps
    | (refine State.postDesc_of ?_ (by with_reducible assumption))
    | with_reducible apply onUnit_keeps
    | with_reducible apply KeepsOut.onUnit
    | with_reducible apply KeepsOut.next
    | with_reducible apply KeepsOut.ite
    | with_reducible apply Keeps.ite
    | with_reducible refine Keeps.foldFst ?_ ?_
    | with_reducible refine Keeps.foldSnd ?_ ?_
    | with_reducible refine Keeps.getD ?_ ?_
    | with_reducible apply Keeps.fold
    | intro _ _ _ _
    | intro _ _ _
    | intro _ _

theorem execFerryPostResume_keeps {b_ s : State} (h_ : Keeps b_ s) (gid : Nat) : KeepsOut b_ (execFerryPostResume gid s) := by
  unfold execFerryPostResume
  iterate 3
   all_goals try with_reducible apply Keeps.leaf
   repeat' first
    | with_reducible exact h_
    | with_reducible assumption
    | with_reducible exact memWrite_wf _ _ _
    | with_reducible exact memSet_wf _ _ _
    | with_reducible exact memClear_wf _ _ _
    | with_reducible exact memFilter_wf _ _
    | with_reducible exact memFold_wf (fun _ _ => memClear_wf _ _ _)
    | exact Eq.refl _
    | exact fun h => h
    | exact memWrite_wf _ _ _
    | exact memSet_wf _ _ _
    | exact memClear_wf _ _ _
    | exact memFilter_wf _ _
    | with_reducible apply State.post_keeps
    | with_reducible apply State.postBy_keeps
    | (refine State.postDesc_of ?_ (by with_reducible assumption))
    | with_reducible apply onUnit_keeps
    | with_reducible apply KeepsOut.onUnit
    | with_reducible apply KeepsOut.next
    | with_reducible apply KeepsOut.ite
    | with_reducible apply Keeps.ite
    | with_reducible refine Keeps.foldFst ?_ ?_
    | with_reducible refine Keeps.foldSnd ?_ ?_
    | with_reducible refine Keeps.getD ?_ ?_
    | with_reducible apply Keeps.fold
    | intro _ _ _ _
    | intro _ _ _
    | intro _ _
    | intro _ 
    | split

theorem execFerryDescriptorStart_keeps {b_ s : State} (h_ : Keeps b_ s) (ch : Nat) : KeepsOut b_ (execFerryDescriptorStart ch s) := by
  unfold execFerryDescriptorStart
  iterate 3
   all_goals try with_reducible apply Keeps.leaf
   repeat' first
    | with_reducible exact h_
    | with_reducible assumption
    | with_reducible exact memWrite_wf _ _ _
    | with_reducible exact memSet_wf _ _ _
    | with_reducible exact memClear_wf _ _ _
    | with_reducible exact memFilter_wf _ _
    | with_reducible exact memFold_wf (fun _ _ => memClear_wf _ _ _)
    | exact Eq.refl _
    | exact fun h => h
    | exact memWrite_wf _ _ _
    | exact memSet_wf _ _ _
    | exact memClear_wf _ _ _
    | exact memFilter_wf _ _
    | with_reducible apply State.setChan_keeps
    | with_reducible apply onUnit_keeps
    | with_reducible apply KeepsOut.onUnit
    | with_reducible apply KeepsOut.next
    | with_reducible apply KeepsOut.ite
    | with_reducible apply Keeps.ite

theorem State.copyDone_keeps {b_ s : State} (h_ : Keeps b_ s) (x : Desc) (result : Nat) : Keeps b_ (State.copyDone s x result) := by
  unfold State.copyDone
  iterate 3
   all_goals try with_reducible apply Keeps.leaf
   repeat' first
    | with_reducible exact h_
    | with_reducible assumption
    | with_reducible exact memWrite_wf _ _ _
    | with_reducible exact memSet_wf _ _ _
    | with_reducible exact memClear_wf _ _ _
    | with_reducible exact memFilter_wf _ _
    | with_reducible exact memFold_wf (fun _ _ => memClear_wf _ _ _)
    | exact Eq.refl _
    | exact fun h => h
    | exact memWrite_wf _ _ _
    | exact memSet_wf _ _ _
    | exact memClear_wf _ _ _
    | exact memFilter_wf _ _
    | with_reducible apply State.cmd_keeps
    | with_reducible apply State.cmdDone_keeps
    | with_reducible apply KeepsOut.onUnit
    | with_reducible apply Keeps.ite
    | with_reducible refine Keeps.foldFst ?_ ?_
    | with_reducible refine Keeps.foldSnd ?_ ?_
    | with_reducible refine Keeps.getD ?_ ?_
    | with_reducible apply Keeps.fold
    | intro _ _ _ _
    | intro _ _ _
    | intro _ _
    | intro _ 
    | split

theorem State.hostWrites_keeps {b_ s : State} (h_ : Keeps b_ s) (x : Desc) (full : State) (hfull : Keeps b_ full) :
    Keeps b_ (State.hostWrites s x full) := by
  have hx := Keeps.withHost h_ hfull
  unfold State.hostWrites
  exact Keeps.ite hfull (Keeps.ite hx (Keeps.ite hfull (State.logHostWrite_keeps hx _)))

theorem State.descDone_keeps {b_ s : State} (h_ : Keeps b_ s) (ch : Nat) (x : Desc) (host : List Byte) : Keeps b_ (State.descDone s ch x host) := by
  unfold State.descDone
  have hf : Keeps b_ (s.runMoves x host (s.convByte x.fn (fdesc x.raw).src)) := State.runMoves_keeps h_ _ _ _
  dsimp only
  generalize s.runMoves x host (s.convByte x.fn (fdesc x.raw).src) = full at hf ⊢
  have hh : Keeps b_ { full with host := s.host } := Keeps.withHost h_ hf
  have ht := State.noteRace_keeps (State.ferryLooks_keeps (Keeps.ite (c := s.isDecision x) hh (State.hostWrites_keeps h_ x full hf)) ch x)
    s ch x.seq (s.dstLocs x) h_
  generalize ((if s.isDecision x then { full with host := s.host } else s.hostWrites x full).ferryLooks ch x).noteRace s ch x.seq
    (s.dstLocs x) = t at ht ⊢
  have hu : Keeps b_ (if (fdesc x.raw).xform = 8 then t.takeFrame x.fn (fdesc x.raw).src ((fdesc x.raw).elems * (fdesc x.raw).ebits / 8) else t) :=
    Keeps.ite (State.takeFrame_keeps ht _ _ _) ht
  generalize (if (fdesc x.raw).xform = 8 then t.takeFrame x.fn (fdesc x.raw).src ((fdesc x.raw).elems * (fdesc x.raw).ebits / 8) else t) = u at hu ⊢
  have hv := fun c => State.setChan_keeps hu ch c
  split
  · split
    · exact State.copyDone_keeps (hv _) _ _
    · exact hv _
  · split
    · exact State.decisionOutput_keeps (hv _) _ _ _ _ _ _
    · exact State.compAction_keeps (hv _) _ _ _ _ _ _

theorem State.descError_keeps {b_ s : State} (h_ : Keeps b_ s) (ch : Nat) (x : Desc) (written : State) (code : Nat) (addr : Nat) (hwritten : Keeps b_ written) : Keeps b_ (State.descError s ch x written code addr) := by
  unfold State.descError
  iterate 3
   all_goals try with_reducible apply Keeps.leaf
   repeat' first
    | with_reducible exact h_
    | with_reducible assumption
    | with_reducible exact memWrite_wf _ _ _
    | with_reducible exact memSet_wf _ _ _
    | with_reducible exact memClear_wf _ _ _
    | with_reducible exact memFilter_wf _ _
    | with_reducible exact memFold_wf (fun _ _ => memClear_wf _ _ _)
    | exact Eq.refl _
    | exact fun h => h
    | exact memWrite_wf _ _ _
    | exact memSet_wf _ _ _
    | exact memClear_wf _ _ _
    | exact memFilter_wf _ _
    | with_reducible exact hwritten
    | with_reducible apply State.cmd_keeps
    | with_reducible apply State.copyDone_keeps
    | with_reducible apply State.ferryFail_keeps
    | with_reducible apply State.hostWrites_keeps
    | with_reducible apply State.logFerry_keeps
    | with_reducible apply State.memFail_keeps
    | with_reducible apply State.noteRace_keeps
    | with_reducible apply State.setChan_keeps
    | with_reducible apply KeepsOut.onUnit
    | with_reducible apply Keeps.ite

theorem State.frameCut_keeps {b_ s : State} (h_ : Keeps b_ s) (x : Desc) (n : Nat) : Keeps b_ (State.frameCut s x n) := by
  unfold State.frameCut
  iterate 3
   all_goals try with_reducible apply Keeps.leaf
   repeat' first
    | with_reducible exact h_
    | with_reducible assumption
    | with_reducible exact memWrite_wf _ _ _
    | with_reducible exact memSet_wf _ _ _
    | with_reducible exact memClear_wf _ _ _
    | with_reducible exact memFilter_wf _ _
    | with_reducible exact memFold_wf (fun _ _ => memClear_wf _ _ _)
    | exact Eq.refl _
    | exact fun h => h
    | exact memWrite_wf _ _ _
    | exact memSet_wf _ _ _
    | exact memClear_wf _ _ _
    | exact memFilter_wf _ _
    | with_reducible apply State.flocPut_keeps
    | with_reducible apply State.runMoves_keeps
    | with_reducible apply KeepsOut.onUnit
    | with_reducible apply Keeps.ite
    | with_reducible refine Keeps.foldFst ?_ ?_
    | with_reducible refine Keeps.foldSnd ?_ ?_
    | with_reducible refine Keeps.getD ?_ ?_
    | with_reducible apply Keeps.fold
    | intro _ _ _ _
    | intro _ _ _
    | intro _ _
    | intro _ 
    | split

theorem execFerryDescriptorComplete_keeps {b_ s : State} (h_ : Keeps b_ s) (ch : Nat) (host : List Byte) : KeepsOut b_ (execFerryDescriptorComplete ch host s) := by
  unfold execFerryDescriptorComplete
  iterate 3
   all_goals try with_reducible apply Keeps.leaf
   repeat' first
    | with_reducible exact h_
    | with_reducible assumption
    | with_reducible exact memWrite_wf _ _ _
    | with_reducible exact memSet_wf _ _ _
    | with_reducible exact memClear_wf _ _ _
    | with_reducible exact memFilter_wf _ _
    | with_reducible exact memFold_wf (fun _ _ => memClear_wf _ _ _)
    | exact Eq.refl _
    | exact fun h => h
    | exact memWrite_wf _ _ _
    | exact memSet_wf _ _ _
    | exact memClear_wf _ _ _
    | exact memFilter_wf _ _
    | with_reducible apply State.descDone_keeps
    | with_reducible apply State.descError_keeps
    | with_reducible apply State.frameCut_keeps
    | with_reducible apply State.runSome_keeps
    | with_reducible apply State.takeFrame_keeps
    | with_reducible apply onUnit_keeps
    | with_reducible apply KeepsOut.onUnit
    | with_reducible apply KeepsOut.next
    | with_reducible apply KeepsOut.ite
    | with_reducible apply Keeps.ite
    | with_reducible refine Keeps.foldFst ?_ ?_
    | with_reducible refine Keeps.foldSnd ?_ ?_
    | with_reducible refine Keeps.getD ?_ ?_
    | with_reducible apply Keeps.fold
    | intro _ _ _ _
    | intro _ _ _
    | intro _ _
    | intro _ 
    | split
    | dsimp only

theorem State.failHead_keeps {b_ s : State} (h_ : Keeps b_ s) (ch : Nat) (code : Nat) (addr : Nat) (host : List Byte) (ok : Desc → Bool) : Keeps b_ (State.failHead s ch code addr host ok) := by
  unfold State.failHead
  iterate 3
   all_goals try with_reducible apply Keeps.leaf
   repeat' first
    | with_reducible exact h_
    | with_reducible assumption
    | with_reducible exact memWrite_wf _ _ _
    | with_reducible exact memSet_wf _ _ _
    | with_reducible exact memClear_wf _ _ _
    | with_reducible exact memFilter_wf _ _
    | with_reducible exact memFold_wf (fun _ _ => memClear_wf _ _ _)
    | exact Eq.refl _
    | exact fun h => h
    | exact memWrite_wf _ _ _
    | exact memSet_wf _ _ _
    | exact memClear_wf _ _ _
    | exact memFilter_wf _ _
    | with_reducible apply State.descError_keeps
    | with_reducible apply State.runSome_keeps
    | with_reducible apply KeepsOut.onUnit
    | with_reducible apply Keeps.ite
    | with_reducible refine Keeps.foldFst ?_ ?_
    | with_reducible refine Keeps.foldSnd ?_ ?_
    | with_reducible refine Keeps.getD ?_ ?_
    | with_reducible apply Keeps.fold
    | intro _ _ _ _
    | intro _ _ _
    | intro _ _
    | intro _ 
    | split

theorem execFerryErrorCompletion_keeps {b_ s : State} (h_ : Keeps b_ s) (ch : Nat) (code : Nat) (addr : Nat) (host : List Byte) : KeepsOut b_ (execFerryErrorCompletion ch code addr host s) := by
  unfold execFerryErrorCompletion
  iterate 3
   all_goals try with_reducible apply Keeps.leaf
   repeat' first
    | with_reducible exact h_
    | with_reducible assumption
    | with_reducible exact memWrite_wf _ _ _
    | with_reducible exact memSet_wf _ _ _
    | with_reducible exact memClear_wf _ _ _
    | with_reducible exact memFilter_wf _ _
    | with_reducible exact memFold_wf (fun _ _ => memClear_wf _ _ _)
    | exact Eq.refl _
    | exact fun h => h
    | exact memWrite_wf _ _ _
    | exact memSet_wf _ _ _
    | exact memClear_wf _ _ _
    | exact memFilter_wf _ _
    | with_reducible apply State.failHead_keeps
    | with_reducible apply onUnit_keeps
    | with_reducible apply KeepsOut.onUnit

theorem execHostTimeout_keeps {b_ s : State} (h_ : Keeps b_ s) (ch : Nat) (addr : Nat) (host : List Byte) : KeepsOut b_ (execHostTimeout ch addr host s) := by
  unfold execHostTimeout
  iterate 3
   all_goals try with_reducible apply Keeps.leaf
   repeat' first
    | with_reducible exact h_
    | with_reducible assumption
    | with_reducible exact memWrite_wf _ _ _
    | with_reducible exact memSet_wf _ _ _
    | with_reducible exact memClear_wf _ _ _
    | with_reducible exact memFilter_wf _ _
    | with_reducible exact memFold_wf (fun _ _ => memClear_wf _ _ _)
    | exact Eq.refl _
    | exact fun h => h
    | exact memWrite_wf _ _ _
    | exact memSet_wf _ _ _
    | exact memClear_wf _ _ _
    | exact memFilter_wf _ _
    | with_reducible apply State.failHead_keeps
    | with_reducible apply onUnit_keeps
    | with_reducible apply KeepsOut.onUnit

theorem execPasTargetStore_keeps {b_ s : State} (h_ : Keeps b_ s) (gid : Nat) (pass : Nat) (value : Nat) : KeepsOut b_ (execPasTargetStore gid pass value s) := by
  unfold execPasTargetStore
  iterate 3
   all_goals try with_reducible apply Keeps.leaf
   repeat' first
    | with_reducible exact h_
    | with_reducible assumption
    | with_reducible exact memWrite_wf _ _ _
    | with_reducible exact memSet_wf _ _ _
    | with_reducible exact memClear_wf _ _ _
    | with_reducible exact memFilter_wf _ _
    | with_reducible exact memFold_wf (fun _ _ => memClear_wf _ _ _)
    | exact Eq.refl _
    | exact fun h => h
    | exact memWrite_wf _ _ _
    | exact memSet_wf _ _ _
    | exact memClear_wf _ _ _
    | exact memFilter_wf _ _
    | with_reducible apply State.except_keeps
    | with_reducible apply State.issue_keeps
    | with_reducible apply State.movePass_keeps
    | with_reducible apply State.retired_keeps
    | with_reducible apply onUnit_keeps
    | with_reducible apply KeepsOut.onUnit
    | with_reducible apply KeepsOut.next
    | with_reducible apply KeepsOut.ite
    | with_reducible apply Keeps.ite
    | with_reducible refine Keeps.foldFst ?_ ?_
    | with_reducible refine Keeps.foldSnd ?_ ?_
    | with_reducible refine Keeps.getD ?_ ?_
    | with_reducible apply Keeps.fold
    | intro _ _ _ _
    | intro _ _ _
    | intro _ _

theorem State.markServing_keeps {b_ s : State} (h_ : Keeps b_ s) (p : Nat) (gid : Nat) : Keeps b_ (State.markServing s p gid) := by
  unfold State.markServing
  iterate 3
   all_goals try with_reducible apply Keeps.leaf
   repeat' first
    | with_reducible exact h_
    | with_reducible assumption
    | with_reducible exact memWrite_wf _ _ _
    | with_reducible exact memSet_wf _ _ _
    | with_reducible exact memClear_wf _ _ _
    | with_reducible exact memFilter_wf _ _
    | with_reducible exact memFold_wf (fun _ _ => memClear_wf _ _ _)
    | exact Eq.refl _
    | exact fun h => h
    | exact memWrite_wf _ _ _
    | exact memSet_wf _ _ _
    | exact memClear_wf _ _ _
    | exact memFilter_wf _ _
    | with_reducible apply State.setCtx_keeps
    | with_reducible apply KeepsOut.onUnit
    | with_reducible apply Keeps.ite
    | with_reducible refine Keeps.foldFst ?_ ?_
    | with_reducible refine Keeps.foldSnd ?_ ?_
    | with_reducible refine Keeps.getD ?_ ?_
    | with_reducible apply Keeps.fold
    | intro _ _ _ _
    | intro _ _ _
    | intro _ _
    | intro _ 
    | split

theorem execPassArrivalCount_keeps {b_ s : State} (h_ : Keeps b_ s) (pass : Nat) : KeepsOut b_ (execPassArrivalCount pass s) := by
  unfold execPassArrivalCount
  iterate 3
   all_goals try with_reducible apply Keeps.leaf
   repeat' first
    | with_reducible exact h_
    | with_reducible assumption
    | with_reducible exact memWrite_wf _ _ _
    | with_reducible exact memSet_wf _ _ _
    | with_reducible exact memClear_wf _ _ _
    | with_reducible exact memFilter_wf _ _
    | with_reducible exact memFold_wf (fun _ _ => memClear_wf _ _ _)
    | exact Eq.refl _
    | exact fun h => h
    | exact memWrite_wf _ _ _
    | exact memSet_wf _ _ _
    | exact memClear_wf _ _ _
    | exact memFilter_wf _ _
    | with_reducible apply State.markServing_keeps
    | with_reducible apply State.movePass_keeps
    | with_reducible apply onUnit_keeps
    | with_reducible apply KeepsOut.onUnit
    | with_reducible apply KeepsOut.next
    | with_reducible apply KeepsOut.ite
    | with_reducible apply Keeps.ite
    | with_reducible refine Keeps.foldFst ?_ ?_
    | with_reducible refine Keeps.foldSnd ?_ ?_
    | with_reducible refine Keeps.getD ?_ ?_
    | with_reducible apply Keeps.fold
    | intro _ _ _ _
    | intro _ _ _
    | intro _ _
    | intro _ 
    | split
    | dsimp only

theorem execPassArriveAck_keeps {b_ s : State} (h_ : Keeps b_ s) (gid : Nat) : KeepsOut b_ (execPassArriveAck gid s) := by
  unfold execPassArriveAck
  iterate 3
   all_goals try with_reducible apply Keeps.leaf
   repeat' first
    | with_reducible exact h_
    | with_reducible assumption
    | with_reducible exact memWrite_wf _ _ _
    | with_reducible exact memSet_wf _ _ _
    | with_reducible exact memClear_wf _ _ _
    | with_reducible exact memFilter_wf _ _
    | with_reducible exact memFold_wf (fun _ _ => memClear_wf _ _ _)
    | exact Eq.refl _
    | exact fun h => h
    | exact memWrite_wf _ _ _
    | exact memSet_wf _ _ _
    | exact memClear_wf _ _ _
    | exact memFilter_wf _ _
    | with_reducible apply State.arrive_keeps
    | with_reducible apply State.updTh_keeps
    | with_reducible apply onUnit_keeps
    | with_reducible apply KeepsOut.onUnit
    | with_reducible apply KeepsOut.next
    | with_reducible apply KeepsOut.ite
    | with_reducible apply Keeps.ite
    | with_reducible refine Keeps.foldFst ?_ ?_
    | with_reducible refine Keeps.foldSnd ?_ ?_
    | with_reducible refine Keeps.getD ?_ ?_
    | with_reducible apply Keeps.fold
    | intro _ _ _ _
    | intro _ _ _
    | intro _ _
    | intro _ 
    | split
    | dsimp only

theorem State.resumeWaiter_keeps {b_ s : State} (h_ : Keeps b_ s) (p : Nat) (g : Nat) : Keeps b_ (State.resumeWaiter s p g) := by
  unfold State.resumeWaiter
  iterate 3
   all_goals try with_reducible apply Keeps.leaf
   repeat' first
    | with_reducible exact h_
    | with_reducible assumption
    | with_reducible exact memWrite_wf _ _ _
    | with_reducible exact memSet_wf _ _ _
    | with_reducible exact memClear_wf _ _ _
    | with_reducible exact memFilter_wf _ _
    | with_reducible exact memFold_wf (fun _ _ => memClear_wf _ _ _)
    | exact Eq.refl _
    | exact fun h => h
    | exact memWrite_wf _ _ _
    | exact memSet_wf _ _ _
    | exact memClear_wf _ _ _
    | exact memFilter_wf _ _
    | with_reducible apply State.updTh_keeps
    | with_reducible apply KeepsOut.onUnit
    | with_reducible apply Keeps.ite
    | with_reducible refine Keeps.foldFst ?_ ?_
    | with_reducible refine Keeps.foldSnd ?_ ?_
    | with_reducible refine Keeps.getD ?_ ?_
    | with_reducible apply Keeps.fold
    | intro _ _ _ _
    | intro _ _ _
    | intro _ _
    | intro _ 
    | split

theorem execPassWaiterResume_keeps {b_ s : State} (h_ : Keeps b_ s) (island : Nat) (pass : Nat) : KeepsOut b_ (execPassWaiterResume island pass s) := by
  unfold execPassWaiterResume
  iterate 3
   all_goals try with_reducible apply Keeps.leaf
   repeat' first
    | with_reducible exact h_
    | with_reducible assumption
    | with_reducible exact memWrite_wf _ _ _
    | with_reducible exact memSet_wf _ _ _
    | with_reducible exact memClear_wf _ _ _
    | with_reducible exact memFilter_wf _ _
    | with_reducible exact memFold_wf (fun _ _ => memClear_wf _ _ _)
    | exact Eq.refl _
    | exact fun h => h
    | exact memWrite_wf _ _ _
    | exact memSet_wf _ _ _
    | exact memClear_wf _ _ _
    | exact memFilter_wf _ _
    | with_reducible apply State.resumeWaiter_keeps
    | with_reducible apply onUnit_keeps
    | with_reducible apply KeepsOut.onUnit
    | with_reducible apply KeepsOut.next
    | with_reducible apply KeepsOut.ite
    | with_reducible apply Keeps.ite
    | with_reducible refine Keeps.foldFst ?_ ?_
    | with_reducible refine Keeps.foldSnd ?_ ?_
    | with_reducible refine Keeps.getD ?_ ?_
    | with_reducible apply Keeps.fold
    | intro _ _ _ _
    | intro _ _ _

end Sys2Proof.Machine
end

