-- ==== Sys2Proof/Laws/KeepsSorters.lean ====
section
/-! SUPPORT. The frame of every operation of Machine/Sorters.lean: the queue and soundness. -/

namespace Sys2Proof.Machine

open Sys2Proof

theorem execIslSrtPost_keeps {b_ s : State} (h_ : Keeps b_ s) (gid : Nat) (k : Nat) (addr : Nat) : KeepsOut b_ (execIslSrtPost gid k addr s) := by
  unfold execIslSrtPost
  iterate 3
   all_goals try with_reducible apply Keeps.leaf
   repeat' first
    | with_reducible exact h_
    | with_reducible assumption
    | with_reducible exact memWrite_wf _ _ _
    | with_reducible exact memSet_wf _ _ _
    | with_reducible exact memClear_wf _ _ _
    | with_reducible exact memFilter_wf _ _
    | with_reducible exact memFold_wf (fun _ _ => memClear_wf _ _ _)
    | exact Eq.refl _
    | exact fun h => h
    | exact memWrite_wf _ _ _
    | exact memSet_wf _ _ _
    | exact memClear_wf _ _ _
    | exact memFilter_wf _ _
    | with_reducible apply State.except_keeps
    | with_reducible apply State.issue_keeps
    | with_reducible apply State.postBy_keeps
    | (refine State.postJob_of ?_ (by with_reducible assumption))
    | with_reducible apply onUnit_keeps
    | with_reducible apply KeepsOut.onUnit
    | with_reducible apply KeepsOut.next
    | with_reducible apply KeepsOut.ite
    | with_reducible apply Keeps.ite
    | with_reducible refine Keeps.foldFst ?_ ?_
    | with_reducible refine Keeps.foldSnd ?_ ?_
    | with_reducible refine Keeps.getD ?_ ?_
    | with_reducible apply Keeps.fold
    | intro _ _ _ _
    | intro _ _ _
    | intro _ _

theorem execSorterPostResume_keeps {b_ s : State} (h_ : Keeps b_ s) (gid : Nat) : KeepsOut b_ (execSorterPostResume gid s) := by
  unfold execSorterPostResume
  iterate 3
   all_goals try with_reducible apply Keeps.leaf
   repeat' first
    | with_reducible exact h_
    | with_reducible assumption
    | with_reducible exact memWrite_wf _ _ _
    | with_reducible exact memSet_wf _ _ _
    | with_reducible exact memClear_wf _ _ _
    | with_reducible exact memFilter_wf _ _
    | with_reducible exact memFold_wf (fun _ _ => memClear_wf _ _ _)
    | exact Eq.refl _
    | exact fun h => h
    | exact memWrite_wf _ _ _
    | exact memSet_wf _ _ _
    | exact memClear_wf _ _ _
    | exact memFilter_wf _ _
    | with_reducible apply State.postBy_keeps
    | (refine State.postJob_of ?_ (by with_reducible assumption))
    | with_reducible apply onUnit_keeps
    | with_reducible apply KeepsOut.onUnit
    | with_reducible apply KeepsOut.next
    | with_reducible apply KeepsOut.ite
    | with_reducible apply Keeps.ite
    | with_reducible refine Keeps.foldFst ?_ ?_
    | with_reducible refine Keeps.foldSnd ?_ ?_
    | with_reducible refine Keeps.getD ?_ ?_
    | with_reducible apply Keeps.fold
    | intro _ _ _ _
    | intro _ _ _
    | intro _ _
    | intro _ 
    | split

theorem execSorterJobStart_keeps {b_ s : State} (h_ : Keeps b_ s) (k : Nat) : KeepsOut b_ (execSorterJobStart k s) := by
  unfold execSorterJobStart
  iterate 3
   all_goals try with_reducible apply Keeps.leaf
   repeat' first
    | with_reducible exact h_
    | with_reducible assumption
    | with_reducible exact memWrite_wf _ _ _
    | with_reducible exact memSet_wf _ _ _
    | with_reducible exact memClear_wf _ _ _
    | with_reducible exact memFilter_wf _ _
    | with_reducible exact memFold_wf (fun _ _ => memClear_wf _ _ _)
    | exact Eq.refl _
    | exact fun h => h
    | exact memWrite_wf _ _ _
    | exact memSet_wf _ _ _
    | exact memClear_wf _ _ _
    | exact memFilter_wf _ _
    | with_reducible apply State.setSorter_keeps
    | with_reducible apply onUnit_keeps
    | with_reducible apply KeepsOut.onUnit
    | with_reducible apply KeepsOut.next
    | with_reducible apply KeepsOut.ite
    | with_reducible apply Keeps.ite
    | with_reducible refine Keeps.foldFst ?_ ?_
    | with_reducible refine Keeps.foldSnd ?_ ?_
    | with_reducible refine Keeps.getD ?_ ?_
    | with_reducible apply Keeps.fold
    | intro _ _ _ _
    | intro _ _ _
    | intro _ _
    | intro _ 
    | split

theorem State.runJob_keeps {b_ s : State} (h_ : Keeps b_ s) (x : SJob) : Keeps b_ (State.runJob s x) := by
  unfold State.runJob
  dsimp only
  refine Keeps.foldFst (fun t d w h => ?_) (Keeps.leaf h_ id id id id rfl rfl id)
  dsimp only
  split
  · exact State.raceByte_keeps h _ _ _ _ _ _
  · exact h

theorem State.jobDone_keeps {b_ s : State} (h_ : Keeps b_ s) (k : Nat) (x : SJob) : Keeps b_ (State.jobDone s k x) := by
  unfold State.jobDone
  iterate 3
   all_goals try with_reducible apply Keeps.leaf
   repeat' first
    | with_reducible exact h_
    | with_reducible assumption
    | with_reducible exact memWrite_wf _ _ _
    | with_reducible exact memSet_wf _ _ _
    | with_reducible exact memClear_wf _ _ _
    | with_reducible exact memFilter_wf _ _
    | with_reducible exact memFold_wf (fun _ _ => memClear_wf _ _ _)
    | exact Eq.refl _
    | exact fun h => h
    | exact memWrite_wf _ _ _
    | exact memSet_wf _ _ _
    | exact memClear_wf _ _ _
    | exact memFilter_wf _ _
    | with_reducible apply State.compAction_keeps
    | (refine State.free_of ?_ (by with_reducible assumption))
    | with_reducible apply State.free_snd
    | with_reducible apply State.noteRace_keeps
    | with_reducible apply State.runJob_keeps
    | with_reducible apply State.setSorter_keeps
    | with_reducible apply KeepsOut.onUnit
    | with_reducible apply Keeps.ite

theorem State.jobFail_keeps {b_ s : State} (h_ : Keeps b_ s) (k : Nat) (x : SJob) (code : Nat) (addr : Nat) : Keeps b_ (State.jobFail s k x code addr) := by
  unfold State.jobFail
  iterate 3
   all_goals try with_reducible apply Keeps.leaf
   repeat' first
    | with_reducible exact h_
    | with_reducible assumption
    | with_reducible exact memWrite_wf _ _ _
    | with_reducible exact memSet_wf _ _ _
    | with_reducible exact memClear_wf _ _ _
    | with_reducible exact memFilter_wf _ _
    | with_reducible exact memFold_wf (fun _ _ => memClear_wf _ _ _)
    | exact Eq.refl _
    | exact fun h => h
    | exact memWrite_wf _ _ _
    | exact memSet_wf _ _ _
    | exact memClear_wf _ _ _
    | exact memFilter_wf _ _
    | with_reducible apply State.flocPut_keeps
    | with_reducible apply State.log_keeps
    | with_reducible apply State.memFail_keeps
    | with_reducible apply State.noteRace_keeps
    | with_reducible apply State.runJob_keeps
    | with_reducible apply State.setSorter_keeps
    | with_reducible apply State.stopCtx_keeps
    | with_reducible apply KeepsOut.onUnit
    | with_reducible apply Keeps.ite
    | with_reducible refine Keeps.foldFst ?_ ?_
    | with_reducible refine Keeps.foldSnd ?_ ?_
    | with_reducible refine Keeps.getD ?_ ?_
    | with_reducible apply Keeps.fold
    | intro _ _ _ _
    | intro _ _ _
    | intro _ _
    | intro _ 
    | split
    | dsimp only

theorem execSorterJobComplete_keeps {b_ s : State} (h_ : Keeps b_ s) (k : Nat) : KeepsOut b_ (execSorterJobComplete k s) := by
  unfold execSorterJobComplete
  iterate 3
   all_goals try with_reducible apply Keeps.leaf
   repeat' first
    | with_reducible exact h_
    | with_reducible assumption
    | with_reducible exact memWrite_wf _ _ _
    | with_reducible exact memSet_wf _ _ _
    | with_reducible exact memClear_wf _ _ _
    | with_reducible exact memFilter_wf _ _
    | with_reducible exact memFold_wf (fun _ _ => memClear_wf _ _ _)
    | exact Eq.refl _
    | exact fun h => h
    | exact memWrite_wf _ _ _
    | exact memSet_wf _ _ _
    | exact memClear_wf _ _ _
    | exact memFilter_wf _ _
    | with_reducible apply State.jobDone_keeps
    | with_reducible apply State.jobFail_keeps
    | with_reducible apply onUnit_keeps
    | with_reducible apply KeepsOut.onUnit
    | with_reducible apply KeepsOut.next
    | with_reducible apply KeepsOut.ite
    | with_reducible apply Keeps.ite
    | with_reducible refine Keeps.foldFst ?_ ?_
    | with_reducible refine Keeps.foldSnd ?_ ?_
    | with_reducible refine Keeps.getD ?_ ?_
    | with_reducible apply Keeps.fold
    | intro _ _ _ _
    | intro _ _ _
    | intro _ _
    | intro _ 
    | split
    | dsimp only

theorem execSorterJobError_keeps {b_ s : State} (h_ : Keeps b_ s) (k : Nat) (code : Nat) (addr : Nat) : KeepsOut b_ (execSorterJobError k code addr s) := by
  unfold execSorterJobError
  iterate 3
   all_goals try with_reducible apply Keeps.leaf
   repeat' first
    | with_reducible exact h_
    | with_reducible assumption
    | with_reducible exact memWrite_wf _ _ _
    | with_reducible exact memSet_wf _ _ _
    | with_reducible exact memClear_wf _ _ _
    | with_reducible exact memFilter_wf _ _
    | with_reducible exact memFold_wf (fun _ _ => memClear_wf _ _ _)
    | exact Eq.refl _
    | exact fun h => h
    | exact memWrite_wf _ _ _
    | exact memSet_wf _ _ _
    | exact memClear_wf _ _ _
    | exact memFilter_wf _ _
    | with_reducible apply State.jobFail_keeps
    | with_reducible apply onUnit_keeps
    | with_reducible apply KeepsOut.onUnit
    | with_reducible apply KeepsOut.next
    | with_reducible apply KeepsOut.ite
    | with_reducible apply Keeps.ite
    | with_reducible refine Keeps.foldFst ?_ ?_
    | with_reducible refine Keeps.foldSnd ?_ ?_
    | with_reducible refine Keeps.getD ?_ ?_
    | with_reducible apply Keeps.fold
    | intro _ _ _ _
    | intro _ _ _
    | intro _ _
    | intro _ 
    | split
    | dsimp only

end Sys2Proof.Machine
end

