-- ==== Sys2Proof/Laws/KeepsSpares.lean ====
section
/-! SUPPORT. The frame of every operation of Machine/Spares.lean: the queue and soundness. -/

namespace Sys2Proof.Machine

open Sys2Proof

theorem State.showCores_keeps {b_ s : State} (h_ : Keeps b_ s) (i : Nat) : Keeps b_ (State.showCores s i) := by
  unfold State.showCores
  iterate 3
   all_goals try with_reducible apply Keeps.leaf
   repeat' first
    | with_reducible exact h_
    | with_reducible assumption
    | with_reducible exact memWrite_wf _ _ _
    | with_reducible exact memSet_wf _ _ _
    | with_reducible exact memClear_wf _ _ _
    | with_reducible exact memFilter_wf _ _
    | with_reducible exact memFold_wf (fun _ _ => memClear_wf _ _ _)
    | exact Eq.refl _
    | exact fun h => h
    | exact memWrite_wf _ _ _
    | exact memSet_wf _ _ _
    | exact memClear_wf _ _ _
    | exact memFilter_wf _ _
    | with_reducible apply State.wrF_keeps
    | with_reducible apply State.wrN_keeps
    | with_reducible apply KeepsOut.onUnit
    | with_reducible apply Keeps.ite
    | with_reducible refine Keeps.foldFst ?_ ?_
    | with_reducible refine Keeps.foldSnd ?_ ?_
    | with_reducible refine Keeps.getD ?_ ?_
    | with_reducible apply Keeps.fold
    | intro _ _ _ _
    | intro _ _ _
    | intro _ _
    | intro _ 
    | split
    | dsimp only

theorem State.selftestFail_keeps {b_ s : State} (h_ : Keeps b_ s) (i : Nat) (ph : Nat) : Keeps b_ (State.selftestFail s i ph) := by
  unfold State.selftestFail
  iterate 3
   all_goals try with_reducible apply Keeps.leaf
   repeat' first
    | with_reducible exact h_
    | with_reducible assumption
    | with_reducible exact memWrite_wf _ _ _
    | with_reducible exact memSet_wf _ _ _
    | with_reducible exact memClear_wf _ _ _
    | with_reducible exact memFilter_wf _ _
    | with_reducible exact memFold_wf (fun _ _ => memClear_wf _ _ _)
    | exact Eq.refl _
    | exact fun h => h
    | exact memWrite_wf _ _ _
    | exact memSet_wf _ _ _
    | exact memClear_wf _ _ _
    | exact memFilter_wf _ _
    | with_reducible apply State.hwSet_keeps
    | with_reducible apply State.log_keeps
    | with_reducible apply State.markFailing_keeps

theorem State.testCore_fst {b_ s : State} (h_ : Keeps b_ s) (i ph : Nat) (failed : Option (List Nat)) :
    Keeps b_ (State.testCore s i ph failed).1 := by
  have hf := State.free_snd h_
  cases failed with
  | none =>
    unfold State.testCore
    generalize s.free = p at hf ⊢
    dsimp only
    split
    · exact State.selftestFail_keeps hf _ _
    · dsimp only
      split
      · exact Keeps.leaf hf id id id id rfl rfl id
      · exact hf
  | some l =>
    unfold State.testCore
    dsimp only
    split
    · exact State.selftestFail_keeps h_ _ _
    · dsimp only
      split
      · exact Keeps.leaf h_ id id id id rfl rfl id
      · exact h_

theorem State.testCore_of {b_ s t_ : State} {w_ : Bool} (h_ : Keeps b_ s) {i ph : Nat} {failed : Option (List Nat)}
    (e_ : State.testCore s i ph failed = (t_, w_)) : Keeps b_ t_ := by
  have := State.testCore_fst h_ i ph failed
  rwa [e_] at this

theorem State.placeSpare_fst {b_ s : State} (h_ : Keeps b_ s) (i k : Nat) (failed : Option (List Nat)) (l : List Nat) :
    Keeps b_ (State.placeSpare s i k failed l).1 := by
  induction l generalizing s with
  | nil => exact h_
  | cons c r ih =>
    have ht := State.testCore_fst h_ i c failed
    unfold State.placeSpare
    generalize s.testCore i c failed = t at ht ⊢
    dsimp only
    split
    · exact ih ht
    · dsimp only
      apply State.hwSet_keeps
      apply State.showCores_keeps
      apply State.wrF_keeps
      exact State.updIsl_keeps ht _ _

theorem State.placeSpare_of {b_ s t_ : State} {w_ : Bool} (h_ : Keeps b_ s) {i k : Nat} {failed : Option (List Nat)} {l : List Nat}
    (e_ : State.placeSpare s i k failed l = (t_, w_)) : Keeps b_ t_ := by
  have := State.placeSpare_fst h_ i k failed l
  rwa [e_] at this

theorem State.dropSlot_keeps {b_ s : State} (h_ : Keeps b_ s) (i : Nat) (k : Nat) : Keeps b_ (State.dropSlot s i k) := by
  unfold State.dropSlot
  iterate 3
   all_goals try with_reducible apply Keeps.leaf
   repeat' first
    | with_reducible exact h_
    | with_reducible assumption
    | with_reducible exact memWrite_wf _ _ _
    | with_reducible exact memSet_wf _ _ _
    | with_reducible exact memClear_wf _ _ _
    | with_reducible exact memFilter_wf _ _
    | with_reducible exact memFold_wf (fun _ _ => memClear_wf _ _ _)
    | exact Eq.refl _
    | exact fun h => h
    | exact memWrite_wf _ _ _
    | exact memSet_wf _ _ _
    | exact memClear_wf _ _ _
    | exact memFilter_wf _ _
    | with_reducible apply State.hwSet_keeps
    | with_reducible apply State.post_keeps
    | with_reducible apply State.postOwner_keeps
    | with_reducible apply State.showCores_keeps
    | with_reducible apply State.updIsl_keeps
    | with_reducible apply State.wrF_keeps

theorem State.remapSlot_keeps {b_ s : State} (h_ : Keeps b_ s) (i : Nat) (k : Nat) (failed : Option (List Nat)) : Keeps b_ (State.remapSlot s i k failed) := by
  unfold State.remapSlot
  iterate 3
   all_goals try with_reducible apply Keeps.leaf
   repeat' first
    | with_reducible exact h_
    | with_reducible assumption
    | with_reducible exact memWrite_wf _ _ _
    | with_reducible exact memSet_wf _ _ _
    | with_reducible exact memClear_wf _ _ _
    | with_reducible exact memFilter_wf _ _
    | with_reducible exact memFold_wf (fun _ _ => memClear_wf _ _ _)
    | exact Eq.refl _
    | exact fun h => h
    | exact memWrite_wf _ _ _
    | exact memSet_wf _ _ _
    | exact memClear_wf _ _ _
    | exact memFilter_wf _ _
    | with_reducible apply State.dropSlot_keeps
    | (refine State.placeSpare_of ?_ (by with_reducible assumption))
    | with_reducible apply State.placeSpare_fst
    | with_reducible apply KeepsOut.onUnit
    | with_reducible apply Keeps.ite

theorem State.testIsland_keeps {b_ s : State} (h_ : Keeps b_ s) (i : Nat) (all : Bool) (failed : Option (List Nat)) : Keeps b_ (State.testIsland s i all failed) := by
  unfold State.testIsland
  iterate 3
   all_goals try with_reducible apply Keeps.leaf
   repeat' first
    | with_reducible exact h_
    | with_reducible assumption
    | with_reducible exact memWrite_wf _ _ _
    | with_reducible exact memSet_wf _ _ _
    | with_reducible exact memClear_wf _ _ _
    | with_reducible exact memFilter_wf _ _
    | with_reducible exact memFold_wf (fun _ _ => memClear_wf _ _ _)
    | exact Eq.refl _
    | exact fun h => h
    | exact memWrite_wf _ _ _
    | exact memSet_wf _ _ _
    | exact memClear_wf _ _ _
    | exact memFilter_wf _ _
    | with_reducible apply State.remapSlot_keeps
    | (refine State.testCore_of ?_ (by with_reducible assumption))
    | with_reducible apply State.testCore_fst
    | with_reducible apply State.wrF_keeps
    | with_reducible apply KeepsOut.onUnit
    | with_reducible apply Keeps.ite
    | with_reducible refine Keeps.foldFst ?_ ?_
    | with_reducible refine Keeps.foldSnd ?_ ?_
    | with_reducible refine Keeps.getD ?_ ?_
    | with_reducible apply Keeps.fold
    | intro _ _ _ _
    | intro _ _ _

theorem State.clearIsland_keeps {b_ s : State} (h_ : Keeps b_ s) (i : Nat) : Keeps b_ (State.clearIsland s i) := by
  unfold State.clearIsland
  iterate 3
   all_goals try with_reducible apply Keeps.leaf
   repeat' first
    | with_reducible exact h_
    | with_reducible assumption
    | with_reducible exact memWrite_wf _ _ _
    | with_reducible exact memSet_wf _ _ _
    | with_reducible exact memClear_wf _ _ _
    | with_reducible exact memFilter_wf _ _
    | with_reducible exact memFold_wf (fun _ _ => memClear_wf _ _ _)
    | exact Eq.refl _
    | exact fun h => h
    | exact memWrite_wf _ _ _
    | exact memSet_wf _ _ _
    | exact memClear_wf _ _ _
    | exact memFilter_wf _ _
    | with_reducible apply State.accrueSteps_keeps
    | with_reducible apply State.setIsl_keeps
    | with_reducible apply State.wrF_keeps
    | with_reducible apply KeepsOut.onUnit
    | with_reducible apply Keeps.ite
    | with_reducible refine Keeps.foldFst ?_ ?_
    | with_reducible refine Keeps.foldSnd ?_ ?_
    | with_reducible refine Keeps.getD ?_ ?_
    | with_reducible apply Keeps.fold
    | intro _ _ _ _
    | intro _ _ _
    | intro _ _
    | intro _ 
    | split
    | dsimp only

theorem State.resetIsland_keeps {b_ s : State} (h_ : Keeps b_ s) (i : Nat) (all : Bool) (failed : Option (List Nat)) : Keeps b_ (State.resetIsland s i all failed) := by
  unfold State.resetIsland
  iterate 3
   all_goals try with_reducible apply Keeps.leaf
   repeat' first
    | with_reducible exact h_
    | with_reducible assumption
    | with_reducible exact memWrite_wf _ _ _
    | with_reducible exact memSet_wf _ _ _
    | with_reducible exact memClear_wf _ _ _
    | with_reducible exact memFilter_wf _ _
    | with_reducible exact memFold_wf (fun _ _ => memClear_wf _ _ _)
    | exact Eq.refl _
    | exact fun h => h
    | exact memWrite_wf _ _ _
    | exact memSet_wf _ _ _
    | exact memClear_wf _ _ _
    | exact memFilter_wf _ _
    | with_reducible apply State.clearIsland_keeps
    | with_reducible apply State.testIsland_keeps

theorem State.engineRecord_keeps {b_ s : State} (h_ : Keeps b_ s) (src : Nat) (cause : Nat) : Keeps b_ (State.engineRecord s src cause) := by
  unfold State.engineRecord
  iterate 3
   all_goals try with_reducible apply Keeps.leaf
   repeat' first
    | with_reducible exact h_
    | with_reducible assumption
    | with_reducible exact memWrite_wf _ _ _
    | with_reducible exact memSet_wf _ _ _
    | with_reducible exact memClear_wf _ _ _
    | with_reducible exact memFilter_wf _ _
    | with_reducible exact memFold_wf (fun _ _ => memClear_wf _ _ _)
    | exact Eq.refl _
    | exact fun h => h
    | exact memWrite_wf _ _ _
    | exact memSet_wf _ _ _
    | exact memClear_wf _ _ _
    | exact memFilter_wf _ _
    | with_reducible apply State.count_keeps
    | with_reducible apply State.hwSet_keeps
    | with_reducible apply State.resetRecord_keeps

theorem State.remapIsland_keeps {b_ s : State} (h_ : Keeps b_ s) (i : Nat) : Keeps b_ (State.remapIsland s i) := by
  unfold State.remapIsland
  iterate 3
   all_goals try with_reducible apply Keeps.leaf
   repeat' first
    | with_reducible exact h_
    | with_reducible assumption
    | with_reducible exact memWrite_wf _ _ _
    | with_reducible exact memSet_wf _ _ _
    | with_reducible exact memClear_wf _ _ _
    | with_reducible exact memFilter_wf _ _
    | with_reducible exact memFold_wf (fun _ _ => memClear_wf _ _ _)
    | exact Eq.refl _
    | exact fun h => h
    | exact memWrite_wf _ _ _
    | exact memSet_wf _ _ _
    | exact memClear_wf _ _ _
    | exact memFilter_wf _ _
    | with_reducible apply State.engineRecord_keeps
    | with_reducible apply State.resetIsland_keeps
    | with_reducible apply KeepsOut.onUnit
    | with_reducible apply Keeps.ite

end Sys2Proof.Machine
end

