-- ==== Sys2Proof/Laws/KeepsTick.lean ====
section
/-! SUPPORT. The frame of every operation of Machine/Tick.lean: the queue and soundness. -/

namespace Sys2Proof.Machine

open Sys2Proof

theorem State.countBubbles_keeps {b_ s : State} (h_ : Keeps b_ s) (i : Nat) (lo : Nat) : Keeps b_ (State.countBubbles s i lo) := by
  unfold State.countBubbles
  iterate 3
   all_goals try with_reducible apply Keeps.leaf
   repeat' first
    | with_reducible exact h_
    | with_reducible assumption
    | with_reducible exact memWrite_wf _ _ _
    | with_reducible exact memSet_wf _ _ _
    | with_reducible exact memClear_wf _ _ _
    | with_reducible exact memFilter_wf _ _
    | with_reducible exact memFold_wf (fun _ _ => memClear_wf _ _ _)
    | exact Eq.refl _
    | exact fun h => h
    | exact memWrite_wf _ _ _
    | exact memSet_wf _ _ _
    | exact memClear_wf _ _ _
    | exact memFilter_wf _ _
    | with_reducible apply State.updIsl_keeps
    | with_reducible apply KeepsOut.onUnit
    | with_reducible apply Keeps.ite

end Sys2Proof.Machine
end

