-- ==== Sys2Proof/Laws/KeepsIdle.lean ====
section
/-! SUPPORT. The frame of every operation of Machine/Idle.lean: the queue and soundness. -/

namespace Sys2Proof.Machine

open Sys2Proof

theorem State.relockDue_keeps {b_ s : State} (h_ : Keeps b_ s) : Keeps b_ (State.relockDue s) := by
  unfold State.relockDue
  iterate 3
   all_goals try with_reducible apply Keeps.leaf
   repeat' first
    | with_reducible exact h_
    | with_reducible assumption
    | with_reducible exact memWrite_wf _ _ _
    | with_reducible exact memSet_wf _ _ _
    | with_reducible exact memClear_wf _ _ _
    | with_reducible exact memFilter_wf _ _
    | with_reducible exact memFold_wf (fun _ _ => memClear_wf _ _ _)
    | exact Eq.refl _
    | exact fun h => h
    | exact memWrite_wf _ _ _
    | exact memSet_wf _ _ _
    | exact memClear_wf _ _ _
    | exact memFilter_wf _ _
    | with_reducible apply State.hwSet_keeps
    | with_reducible apply State.wrF_keeps
    | with_reducible apply KeepsOut.onUnit
    | with_reducible apply Keeps.ite
    | with_reducible refine Keeps.foldFst ?_ ?_
    | with_reducible refine Keeps.foldSnd ?_ ?_
    | with_reducible refine Keeps.getD ?_ ?_
    | with_reducible apply Keeps.fold
    | intro _ _ _ _
    | intro _ _ _
    | intro _ _
    | intro _ 
    | split
    | dsimp only

theorem State.countCycles_keeps {b_ s : State} (h_ : Keeps b_ s) : Keeps b_ (State.countCycles s) := by
  unfold State.countCycles
  iterate 3
   all_goals try with_reducible apply Keeps.leaf
   repeat' first
    | with_reducible exact h_
    | with_reducible assumption
    | with_reducible exact memWrite_wf _ _ _
    | with_reducible exact memSet_wf _ _ _
    | with_reducible exact memClear_wf _ _ _
    | with_reducible exact memFilter_wf _ _
    | with_reducible exact memFold_wf (fun _ _ => memClear_wf _ _ _)
    | exact Eq.refl _
    | exact fun h => h
    | exact memWrite_wf _ _ _
    | exact memSet_wf _ _ _
    | exact memClear_wf _ _ _
    | exact memFilter_wf _ _
    | with_reducible apply State.countBubbles_keeps
    | with_reducible apply KeepsOut.onUnit
    | with_reducible apply Keeps.ite
    | with_reducible refine Keeps.foldFst ?_ ?_
    | with_reducible refine Keeps.foldSnd ?_ ?_
    | with_reducible refine Keeps.getD ?_ ?_
    | with_reducible apply Keeps.fold
    | intro _ _ _ _
    | intro _ _ _
    | intro _ _
    | intro _ 
    | split
    | dsimp only

theorem tick_keeps {b_ s : State} (h_ : Keeps b_ s) : Keeps b_ (tick s) := by
  have hx : Keeps b_ { s with time := (s.time + 1) % 2 ^ 64 } :=
    h_.trans ⟨rfl, fun i => ⟨i.mem, i.regs, Nat.mod_lt _ (by decide), i.fatal, i.retired⟩⟩
  unfold tick
  generalize { s with time := (s.time + 1) % 2 ^ 64 } = t at hx ⊢
  exact Keeps.ite h_ (State.settleInval_keeps (State.closeWindow_keeps (State.relockDue_keeps (State.countCycles_keeps hx))))

end Sys2Proof.Machine
end

