-- ==== Sys2Proof/Laws/KeepsSpdm.lean ====
section
/-! SUPPORT. The frame of every operation of Machine/Spdm.lean: the queue and soundness. -/

namespace Sys2Proof.Machine

open Sys2Proof

theorem execSpdmGetVersion_keeps {b_ s : State} (h_ : Keeps b_ s) (doe : Bool) : KeepsOut b_ (execSpdmGetVersion doe s) := by
  unfold execSpdmGetVersion
  iterate 3
   all_goals try with_reducible apply Keeps.leaf
   repeat' first
    | with_reducible exact h_
    | with_reducible assumption
    | with_reducible exact memWrite_wf _ _ _
    | with_reducible exact memSet_wf _ _ _
    | with_reducible exact memClear_wf _ _ _
    | with_reducible exact memFilter_wf _ _
    | with_reducible exact memFold_wf (fun _ _ => memClear_wf _ _ _)
    | exact Eq.refl _
    | exact fun h => h
    | exact memWrite_wf _ _ _
    | exact memSet_wf _ _ _
    | exact memClear_wf _ _ _
    | exact memFilter_wf _ _
    | with_reducible apply State.spdm_keeps
    | with_reducible apply KeepsOut.onUnit
    | with_reducible apply KeepsOut.next

theorem execSpdmGetCapabilities_keeps {b_ s : State} (h_ : Keeps b_ s) (doe : Bool) : KeepsOut b_ (execSpdmGetCapabilities doe s) := by
  unfold execSpdmGetCapabilities
  iterate 3
   all_goals try with_reducible apply Keeps.leaf
   repeat' first
    | with_reducible exact h_
    | with_reducible assumption
    | with_reducible exact memWrite_wf _ _ _
    | with_reducible exact memSet_wf _ _ _
    | with_reducible exact memClear_wf _ _ _
    | with_reducible exact memFilter_wf _ _
    | with_reducible exact memFold_wf (fun _ _ => memClear_wf _ _ _)
    | exact Eq.refl _
    | exact fun h => h
    | exact memWrite_wf _ _ _
    | exact memSet_wf _ _ _
    | exact memClear_wf _ _ _
    | exact memFilter_wf _ _
    | with_reducible apply State.spdm_keeps
    | with_reducible apply KeepsOut.onUnit
    | with_reducible apply KeepsOut.next

theorem execNegotiateAlgorithms_keeps {b_ s : State} (h_ : Keeps b_ s) (doe : Bool) (asym : Bool) (hash : Bool) (meas : Bool) (dhe : Bool) (aead : Bool) (sched : Bool) : KeepsOut b_ (execNegotiateAlgorithms doe asym hash meas dhe aead sched s) := by
  unfold execNegotiateAlgorithms
  iterate 3
   all_goals try with_reducible apply Keeps.leaf
   repeat' first
    | with_reducible exact h_
    | with_reducible assumption
    | with_reducible exact memWrite_wf _ _ _
    | with_reducible exact memSet_wf _ _ _
    | with_reducible exact memClear_wf _ _ _
    | with_reducible exact memFilter_wf _ _
    | with_reducible exact memFold_wf (fun _ _ => memClear_wf _ _ _)
    | exact Eq.refl _
    | exact fun h => h
    | exact memWrite_wf _ _ _
    | exact memSet_wf _ _ _
    | exact memClear_wf _ _ _
    | exact memFilter_wf _ _
    | with_reducible apply State.spdm_keeps
    | with_reducible apply KeepsOut.onUnit
    | with_reducible apply KeepsOut.next

theorem execGetDigests_keeps {b_ s : State} (h_ : Keeps b_ s) (doe : Bool) : KeepsOut b_ (execGetDigests doe s) := by
  unfold execGetDigests
  iterate 3
   all_goals try with_reducible apply Keeps.leaf
   repeat' first
    | with_reducible exact h_
    | with_reducible assumption
    | with_reducible exact memWrite_wf _ _ _
    | with_reducible exact memSet_wf _ _ _
    | with_reducible exact memClear_wf _ _ _
    | with_reducible exact memFilter_wf _ _
    | with_reducible exact memFold_wf (fun _ _ => memClear_wf _ _ _)
    | exact Eq.refl _
    | exact fun h => h
    | exact memWrite_wf _ _ _
    | exact memSet_wf _ _ _
    | exact memClear_wf _ _ _
    | exact memFilter_wf _ _
    | with_reducible apply State.spdm_keeps
    | with_reducible apply KeepsOut.onUnit
    | with_reducible apply KeepsOut.next

theorem execGetCertificate_keeps {b_ s : State} (h_ : Keeps b_ s) (doe : Bool) (slot : Nat) (off : Nat) (len : Nat) : KeepsOut b_ (execGetCertificate doe slot off len s) := by
  unfold execGetCertificate
  iterate 3
   all_goals try with_reducible apply Keeps.leaf
   repeat' first
    | with_reducible exact h_
    | with_reducible assumption
    | with_reducible exact memWrite_wf _ _ _
    | with_reducible exact memSet_wf _ _ _
    | with_reducible exact memClear_wf _ _ _
    | with_reducible exact memFilter_wf _ _
    | with_reducible exact memFold_wf (fun _ _ => memClear_wf _ _ _)
    | exact Eq.refl _
    | exact fun h => h
    | exact memWrite_wf _ _ _
    | exact memSet_wf _ _ _
    | exact memClear_wf _ _ _
    | exact memFilter_wf _ _
    | with_reducible apply State.spdm_keeps
    | with_reducible apply KeepsOut.onUnit
    | with_reducible apply KeepsOut.next

theorem execChallenge_keeps {b_ s : State} (h_ : Keeps b_ s) (doe : Bool) (slot : Nat) : KeepsOut b_ (execChallenge doe slot s) := by
  unfold execChallenge
  iterate 3
   all_goals try with_reducible apply Keeps.leaf
   repeat' first
    | with_reducible exact h_
    | with_reducible assumption
    | with_reducible exact memWrite_wf _ _ _
    | with_reducible exact memSet_wf _ _ _
    | with_reducible exact memClear_wf _ _ _
    | with_reducible exact memFilter_wf _ _
    | with_reducible exact memFold_wf (fun _ _ => memClear_wf _ _ _)
    | exact Eq.refl _
    | exact fun h => h
    | exact memWrite_wf _ _ _
    | exact memSet_wf _ _ _
    | exact memClear_wf _ _ _
    | exact memFilter_wf _ _
    | with_reducible apply State.spdm_keeps
    | with_reducible apply KeepsOut.onUnit
    | with_reducible apply KeepsOut.next

theorem execGetMeasurements_keeps {b_ s : State} (h_ : Keeps b_ s) (doe : Bool) (index : Nat) : KeepsOut b_ (execGetMeasurements doe index s) := by
  unfold execGetMeasurements
  iterate 3
   all_goals try with_reducible apply Keeps.leaf
   repeat' first
    | with_reducible exact h_
    | with_reducible assumption
    | with_reducible exact memWrite_wf _ _ _
    | with_reducible exact memSet_wf _ _ _
    | with_reducible exact memClear_wf _ _ _
    | with_reducible exact memFilter_wf _ _
    | with_reducible exact memFold_wf (fun _ _ => memClear_wf _ _ _)
    | exact Eq.refl _
    | exact fun h => h
    | exact memWrite_wf _ _ _
    | exact memSet_wf _ _ _
    | exact memClear_wf _ _ _
    | exact memFilter_wf _ _
    | with_reducible apply State.spdm_keeps
    | with_reducible apply KeepsOut.onUnit
    | with_reducible apply KeepsOut.next

theorem execKeyExchange_keeps {b_ s : State} (h_ : Keeps b_ s) (doe : Bool) : KeepsOut b_ (execKeyExchange doe s) := by
  unfold execKeyExchange
  iterate 3
   all_goals try with_reducible apply Keeps.leaf
   repeat' first
    | with_reducible exact h_
    | with_reducible assumption
    | with_reducible exact memWrite_wf _ _ _
    | with_reducible exact memSet_wf _ _ _
    | with_reducible exact memClear_wf _ _ _
    | with_reducible exact memFilter_wf _ _
    | with_reducible exact memFold_wf (fun _ _ => memClear_wf _ _ _)
    | exact Eq.refl _
    | exact fun h => h
    | exact memWrite_wf _ _ _
    | exact memSet_wf _ _ _
    | exact memClear_wf _ _ _
    | exact memFilter_wf _ _
    | with_reducible apply State.spdm_keeps
    | with_reducible apply KeepsOut.onUnit
    | with_reducible apply KeepsOut.next

theorem execFinish_keeps {b_ s : State} (h_ : Keeps b_ s) (doe : Bool) (session : Nat) (ok : Bool) : KeepsOut b_ (execFinish doe session ok s) := by
  unfold execFinish
  iterate 3
   all_goals try with_reducible apply Keeps.leaf
   repeat' first
    | with_reducible exact h_
    | with_reducible assumption
    | with_reducible exact memWrite_wf _ _ _
    | with_reducible exact memSet_wf _ _ _
    | with_reducible exact memClear_wf _ _ _
    | with_reducible exact memFilter_wf _ _
    | with_reducible exact memFold_wf (fun _ _ => memClear_wf _ _ _)
    | exact Eq.refl _
    | exact fun h => h
    | exact memWrite_wf _ _ _
    | exact memSet_wf _ _ _
    | exact memClear_wf _ _ _
    | exact memFilter_wf _ _
    | with_reducible apply State.spdm_keeps
    | with_reducible apply KeepsOut.onUnit
    | with_reducible apply KeepsOut.next

theorem execSpdmHeartbeat_keeps {b_ s : State} (h_ : Keeps b_ s) (doe : Bool) (session : Nat) : KeepsOut b_ (execSpdmHeartbeat doe session s) := by
  unfold execSpdmHeartbeat
  iterate 3
   all_goals try with_reducible apply Keeps.leaf
   repeat' first
    | with_reducible exact h_
    | with_reducible assumption
    | with_reducible exact memWrite_wf _ _ _
    | with_reducible exact memSet_wf _ _ _
    | with_reducible exact memClear_wf _ _ _
    | with_reducible exact memFilter_wf _ _
    | with_reducible exact memFold_wf (fun _ _ => memClear_wf _ _ _)
    | exact Eq.refl _
    | exact fun h => h
    | exact memWrite_wf _ _ _
    | exact memSet_wf _ _ _
    | exact memClear_wf _ _ _
    | exact memFilter_wf _ _
    | with_reducible apply State.spdm_keeps
    | with_reducible apply KeepsOut.onUnit
    | with_reducible apply KeepsOut.next

theorem execKeyUpdate_keeps {b_ s : State} (h_ : Keeps b_ s) (doe : Bool) (session : Nat) : KeepsOut b_ (execKeyUpdate doe session s) := by
  unfold execKeyUpdate
  iterate 3
   all_goals try with_reducible apply Keeps.leaf
   repeat' first
    | with_reducible exact h_
    | with_reducible assumption
    | with_reducible exact memWrite_wf _ _ _
    | with_reducible exact memSet_wf _ _ _
    | with_reducible exact memClear_wf _ _ _
    | with_reducible exact memFilter_wf _ _
    | with_reducible exact memFold_wf (fun _ _ => memClear_wf _ _ _)
    | exact Eq.refl _
    | exact fun h => h
    | exact memWrite_wf _ _ _
    | exact memSet_wf _ _ _
    | exact memClear_wf _ _ _
    | exact memFilter_wf _ _
    | with_reducible apply State.spdm_keeps
    | with_reducible apply KeepsOut.onUnit
    | with_reducible apply KeepsOut.next

theorem execEndSession_keeps {b_ s : State} (h_ : Keeps b_ s) (doe : Bool) (session : Nat) : KeepsOut b_ (execEndSession doe session s) := by
  unfold execEndSession
  iterate 3
   all_goals try with_reducible apply Keeps.leaf
   repeat' first
    | with_reducible exact h_
    | with_reducible assumption
    | with_reducible exact memWrite_wf _ _ _
    | with_reducible exact memSet_wf _ _ _
    | with_reducible exact memClear_wf _ _ _
    | with_reducible exact memFilter_wf _ _
    | with_reducible exact memFold_wf (fun _ _ => memClear_wf _ _ _)
    | exact Eq.refl _
    | exact fun h => h
    | exact memWrite_wf _ _ _
    | exact memSet_wf _ _ _
    | exact memClear_wf _ _ _
    | exact memFilter_wf _ _
    | with_reducible apply State.spdm_keeps
    | with_reducible apply KeepsOut.onUnit
    | with_reducible apply KeepsOut.next

theorem execChunkSend_keeps {b_ s : State} (h_ : Keeps b_ s) (doe : Bool) (seq : Nat) (last : Bool) : KeepsOut b_ (execChunkSend doe seq last s) := by
  unfold execChunkSend
  iterate 3
   all_goals try with_reducible apply Keeps.leaf
   repeat' first
    | with_reducible exact h_
    | with_reducible assumption
    | with_reducible exact memWrite_wf _ _ _
    | with_reducible exact memSet_wf _ _ _
    | with_reducible exact memClear_wf _ _ _
    | with_reducible exact memFilter_wf _ _
    | with_reducible exact memFold_wf (fun _ _ => memClear_wf _ _ _)
    | exact Eq.refl _
    | exact fun h => h
    | exact memWrite_wf _ _ _
    | exact memSet_wf _ _ _
    | exact memClear_wf _ _ _
    | exact memFilter_wf _ _
    | with_reducible apply State.spdm_keeps
    | with_reducible apply KeepsOut.onUnit
    | with_reducible apply KeepsOut.next

theorem execChunkGet_keeps {b_ s : State} (h_ : Keeps b_ s) (doe : Bool) (seq : Nat) : KeepsOut b_ (execChunkGet doe seq s) := by
  unfold execChunkGet
  iterate 3
   all_goals try with_reducible apply Keeps.leaf
   repeat' first
    | with_reducible exact h_
    | with_reducible assumption
    | with_reducible exact memWrite_wf _ _ _
    | with_reducible exact memSet_wf _ _ _
    | with_reducible exact memClear_wf _ _ _
    | with_reducible exact memFilter_wf _ _
    | with_reducible exact memFold_wf (fun _ _ => memClear_wf _ _ _)
    | exact Eq.refl _
    | exact fun h => h
    | exact memWrite_wf _ _ _
    | exact memSet_wf _ _ _
    | exact memClear_wf _ _ _
    | exact memFilter_wf _ _
    | with_reducible apply State.spdm_keeps
    | with_reducible apply KeepsOut.onUnit
    | with_reducible apply KeepsOut.next

theorem execRespondIfReady_keeps {b_ s : State} (h_ : Keeps b_ s) (doe : Bool) (code : Nat) : KeepsOut b_ (execRespondIfReady doe code s) := by
  unfold execRespondIfReady
  iterate 3
   all_goals try with_reducible apply Keeps.leaf
   repeat' first
    | with_reducible exact h_
    | with_reducible assumption
    | with_reducible exact memWrite_wf _ _ _
    | with_reducible exact memSet_wf _ _ _
    | with_reducible exact memClear_wf _ _ _
    | with_reducible exact memFilter_wf _ _
    | with_reducible exact memFold_wf (fun _ _ => memClear_wf _ _ _)
    | exact Eq.refl _
    | exact fun h => h
    | exact memWrite_wf _ _ _
    | exact memSet_wf _ _ _
    | exact memClear_wf _ _ _
    | exact memFilter_wf _ _
    | with_reducible apply State.spdm_keeps
    | with_reducible apply KeepsOut.onUnit
    | with_reducible apply KeepsOut.next

theorem execVendorDefinedRequest_keeps {b_ s : State} (h_ : Keeps b_ s) (doe : Bool) (proto : Nat) : KeepsOut b_ (execVendorDefinedRequest doe proto s) := by
  unfold execVendorDefinedRequest
  iterate 3
   all_goals try with_reducible apply Keeps.leaf
   repeat' first
    | with_reducible exact h_
    | with_reducible assumption
    | with_reducible exact memWrite_wf _ _ _
    | with_reducible exact memSet_wf _ _ _
    | with_reducible exact memClear_wf _ _ _
    | with_reducible exact memFilter_wf _ _
    | with_reducible exact memFold_wf (fun _ _ => memClear_wf _ _ _)
    | exact Eq.refl _
    | exact fun h => h
    | exact memWrite_wf _ _ _
    | exact memSet_wf _ _ _
    | exact memClear_wf _ _ _
    | exact memFilter_wf _ _
    | with_reducible apply State.spdm_keeps
    | with_reducible apply KeepsOut.onUnit
    | with_reducible apply KeepsOut.next

theorem execSpdmUnsupported_keeps {b_ s : State} (h_ : Keeps b_ s) (doe : Bool) (_code : Nat) : KeepsOut b_ (execSpdmUnsupported doe _code s) := by
  unfold execSpdmUnsupported
  iterate 3
   all_goals try with_reducible apply Keeps.leaf
   repeat' first
    | with_reducible exact h_
    | with_reducible assumption
    | with_reducible exact memWrite_wf _ _ _
    | with_reducible exact memSet_wf _ _ _
    | with_reducible exact memClear_wf _ _ _
    | with_reducible exact memFilter_wf _ _
    | with_reducible exact memFold_wf (fun _ _ => memClear_wf _ _ _)
    | exact Eq.refl _
    | exact fun h => h
    | exact memWrite_wf _ _ _
    | exact memSet_wf _ _ _
    | exact memClear_wf _ _ _
    | exact memFilter_wf _ _
    | with_reducible apply State.spdm_keeps
    | with_reducible apply KeepsOut.onUnit
    | with_reducible apply KeepsOut.next

theorem execSessionHeartbeatTimeout_keeps {b_ s : State} (h_ : Keeps b_ s) (session : Nat) : KeepsOut b_ (execSessionHeartbeatTimeout session s) := by
  unfold execSessionHeartbeatTimeout
  iterate 3
   all_goals try with_reducible apply Keeps.leaf
   repeat' first
    | with_reducible exact h_
    | with_reducible assumption
    | with_reducible exact memWrite_wf _ _ _
    | with_reducible exact memSet_wf _ _ _
    | with_reducible exact memClear_wf _ _ _
    | with_reducible exact memFilter_wf _ _
    | with_reducible exact memFold_wf (fun _ _ => memClear_wf _ _ _)
    | exact Eq.refl _
    | exact fun h => h
    | exact memWrite_wf _ _ _
    | exact memSet_wf _ _ _
    | exact memClear_wf _ _ _
    | exact memFilter_wf _ _
    | with_reducible apply State.dropSession_keeps
    | with_reducible apply KeepsOut.onUnit
    | with_reducible apply KeepsOut.next

end Sys2Proof.Machine
end

