-- ==== Sys2Proof/Laws/PerInstr.lean ====
section
/-! SUPPORT. The family Operands of statements made per command: a well-formed command names a function and a mailbox that the module has
(R3, R353; functions 17 and 18 are the model's, log entry 9). -/

section

set_option Elab.async false

namespace Sys2Proof

open Machine

/-- The function that a command names. -/
def Instr.fnOf (i : Instr) : Option Nat :=
  match i with
  | .registerWrite fn _ _ _ | .bar0BadAccess fn _ _ _ _ | .splitLowRead fn _ | .splitLowWrite fn _ _ | .splitHighWrite fn _ _
  | .w1cClearWrite fn _ _ _ | .tlbFill _ fn _ | .plainSectorWrite fn _ _ _ _ _ _ | .serveConfig fn _ | .serveSubmit fn _ _
  | .serveCancel fn _ | .serveQuery fn _ | .stopsetSet fn _ _ | .adapterLoad fn _ _ | .adapterFree fn _ | .serveStats fn _
  | .serveUnconfig fn _ | .slackRecompute fn _ | .stepResultProcess fn _ | .vidStreamOpen fn _ | .vidStreamClose fn _
  | .vidDecodeSubmit fn _ | .vidEncodeSubmit fn _ | .vidEncodeSet fn _ | .vidConvertJob fn _ | .vidJobCancel fn _
  | .vidJpegSubmit fn _ | .vidStreamQuery fn _ | .vidOutputAck fn _ | .converterStrip fn _ | .mailboxPost fn _ _
  | .mailboxPayloadWrite fn _ _ _ | .evtRingEnable fn _ | .evtRingConfigWrite fn _ _ | .fnEvtAckWrite fn _ | .vectorMapWrite fn _ _
  | .interruptCoalesceTimeout fn _ | .functionLevelReset fn | .moduleInfo fn _ | .moduleStatus fn _ | .moduleDrain fn _
  | .moduleResume fn _ | .valleyEnter fn _ _ | .valleyExit fn _ | .timeGet fn _ | .linkRestore fn _ _ | .ledIdentify fn _ | .nop fn _
  | .partQuery fn _ | .partBind fn _ | .partUnbind fn _ | .partRebind fn _ | .partReset fn _ | .partSetRamp fn _ | .pageRelease fn _
  | .pageMap fn _ | .pageReplace fn _ | .progLoad fn _ _ | .progUnload fn _ | .ctxStart fn _ | .ctxStop fn _ | .ctxQuery fn _
  | .memCopyIn fn _ | .memCopyOut fn _ | .pwrStatus fn _ | .pwrSetPhases fn _ | .pwrSetShare fn _ | .pwrSetSafe fn _
  | .pwrOperatorCap fn _ | .pwrThrottleRead fn _ | .lifeQuery fn _ | .logRead fn _ | .logClear fn _ | .dumpRead fn _
  | .dumpClear fn _ | .rasSetPolicy fn _ | .pageStateRead fn _ | .selftest fn _ _ | .chipReset fn _ | .rasQuery fn _
  | .secStatus fn _ | .secCertGet fn _ _ | .ownerLock fn _ _ _ | .ownerUnlock fn _ _ _ | .debugOpen fn _ | .debugClose fn _
  | .updateBegin fn _ _ _ _ | .updateBlock fn _ _ _ | .updateCommit fn _ | .updateActivate fn _ | .updateAbort fn _
  | .updateStatus fn _ | .pairStatus fn _ | .pairSetMode fn _ | .pairTakeback fn _ | .pairResync fn _ | .scrubStart fn
  | .scrubDrainEnd fn _ | .scrubBoundExpiry fn | .unexpectedCompletion fn | .bar2Read fn _ _ | .bar2Write fn _ _
  | .msixUnmask fn _ _ _ | .atsInvalidate fn _ _ | .pasidWrite fn _ | .vfBarResize fn _ _ | .tdiUnsecuredRequest fn _ _
  | .throttleEndTimeout fn _ | .mirrorInput fn _ _ | .resyncBulk fn _ _ | .resyncHoldTimeout fn | .tdispGetVersion fn
  | .tdispGetCapabilities fn | .lockInterfaceRequest fn | .getDeviceInterfaceReport fn | .getDeviceInterfaceState fn
  | .startInterfaceRequest fn | .stopInterfaceRequest fn | .tdispUnsupported fn _ | .tdispConfigViolation fn => some fn
  | _ => none

/-- The mailbox that a command names. -/
def Instr.mbxOf (i : Instr) : Option Nat :=
  match i with
  | .serveConfig _ mbx | .serveSubmit _ mbx _ | .serveCancel _ mbx | .serveQuery _ mbx | .stopsetSet _ mbx _ | .adapterLoad _ mbx _
  | .adapterFree _ mbx | .serveStats _ mbx | .serveUnconfig _ mbx | .vidStreamOpen _ mbx | .vidStreamClose _ mbx
  | .vidDecodeSubmit _ mbx | .vidEncodeSubmit _ mbx | .vidEncodeSet _ mbx | .vidConvertJob _ mbx | .vidJobCancel _ mbx
  | .vidJpegSubmit _ mbx | .vidStreamQuery _ mbx | .vidOutputAck _ mbx | .mailboxPost _ mbx _ | .mailboxPayloadWrite _ mbx _ _
  | .moduleInfo _ mbx | .moduleStatus _ mbx | .moduleDrain _ mbx | .moduleResume _ mbx | .valleyEnter _ mbx _ | .valleyExit _ mbx
  | .timeGet _ mbx | .linkRestore _ mbx _ | .ledIdentify _ mbx | .nop _ mbx | .partQuery _ mbx | .partBind _ mbx | .partUnbind _ mbx
  | .partRebind _ mbx | .partReset _ mbx | .partSetRamp _ mbx | .pageRelease _ mbx | .pageMap _ mbx | .pageReplace _ mbx
  | .progLoad _ mbx _ | .progUnload _ mbx | .ctxStart _ mbx | .ctxStop _ mbx | .ctxQuery _ mbx | .memCopyIn _ mbx | .memCopyOut _ mbx
  | .pwrStatus _ mbx | .pwrSetPhases _ mbx | .pwrSetShare _ mbx | .pwrSetSafe _ mbx | .pwrOperatorCap _ mbx | .pwrThrottleRead _ mbx
  | .lifeQuery _ mbx | .logRead _ mbx | .logClear _ mbx | .dumpRead _ mbx | .dumpClear _ mbx | .rasSetPolicy _ mbx
  | .pageStateRead _ mbx | .selftest _ mbx _ | .chipReset _ mbx | .rasQuery _ mbx | .secStatus _ mbx | .secCertGet _ mbx _
  | .ownerLock _ mbx _ _ | .ownerUnlock _ mbx _ _ | .debugOpen _ mbx | .debugClose _ mbx | .updateBegin _ mbx _ _ _
  | .updateBlock _ mbx _ _ | .updateCommit _ mbx | .updateActivate _ mbx | .updateAbort _ mbx | .updateStatus _ mbx
  | .pairStatus _ mbx | .pairSetMode _ mbx | .pairTakeback _ mbx | .pairResync _ mbx | .usbPost mbx _ => some mbx
  | _ => none

/-- A well-formed command's function and mailbox exist. -/
def Laws.Operands.Statement (i : Instr) : Prop :=
  i.wf = true → (∀ f, i.fnOf = some f → f ≤ 18) ∧ (∀ m, i.mbxOf = some m → m ≤ 16)

theorem Laws.Operands.registerWrite (fn off width value : Nat) : Laws.Operands.Statement (.registerWrite fn off width value) := by
  intro h; simp [Instr.wf] at h; simp [Instr.fnOf, Instr.mbxOf]; try omega
theorem Laws.Operands.bar0BadAccess (fn off width : Nat) (write : Bool) (value : Nat) : Laws.Operands.Statement (.bar0BadAccess fn off width write value) := by
  intro h; simp [Instr.wf] at h; simp [Instr.fnOf, Instr.mbxOf]; try omega
theorem Laws.Operands.splitLowRead (fn off : Nat) : Laws.Operands.Statement (.splitLowRead fn off) := by
  intro h; simp [Instr.wf] at h; simp [Instr.fnOf, Instr.mbxOf]; try omega
theorem Laws.Operands.splitLowWrite (fn off value : Nat) : Laws.Operands.Statement (.splitLowWrite fn off value) := by
  intro h; simp [Instr.wf] at h; simp [Instr.fnOf, Instr.mbxOf]; try omega
theorem Laws.Operands.splitHighWrite (fn off value : Nat) : Laws.Operands.Statement (.splitHighWrite fn off value) := by
  intro h; simp [Instr.wf] at h; simp [Instr.fnOf, Instr.mbxOf]; try omega
theorem Laws.Operands.w1cClearWrite (fn off value hw : Nat) : Laws.Operands.Statement (.w1cClearWrite fn off value hw) := by
  intro h; simp [Instr.wf] at h; simp [Instr.fnOf, Instr.mbxOf]; try omega
theorem Laws.Operands.straitFlitFail (strait : Nat) (ok : Bool) : Laws.Operands.Statement (.straitFlitFail strait ok) :=
  fun _ => ⟨nofun, nofun⟩
theorem Laws.Operands.straitRetrainDone (strait : Nat) (ok : Bool) : Laws.Operands.Statement (.straitRetrainDone strait ok) :=
  fun _ => ⟨nofun, nofun⟩
theorem Laws.Operands.threadIssue (island slot : Nat) (op : ScalarOp) (len : Nat) : Laws.Operands.Statement (.threadIssue island slot op len) :=
  fun _ => ⟨nofun, nofun⟩
theorem Laws.Operands.vectorInstruction (gid : Nat) (op : VecOp) : Laws.Operands.Statement (.vectorInstruction gid op) :=
  fun _ => ⟨nofun, nofun⟩
theorem Laws.Operands.threadLoadReturn (gid n : Nat) (err : SramErr) : Laws.Operands.Statement (.threadLoadReturn gid n err) :=
  fun _ => ⟨nofun, nofun⟩
theorem Laws.Operands.threadStoreComplete (gid : Nat) : Laws.Operands.Statement (.threadStoreComplete gid) :=
  fun _ => ⟨nofun, nofun⟩
theorem Laws.Operands.fence (gid pred succ : Nat) : Laws.Operands.Statement (.fence gid pred succ) :=
  fun _ => ⟨nofun, nofun⟩
theorem Laws.Operands.fenceI (gid : Nat) : Laws.Operands.Statement (.fenceI gid) :=
  fun _ => ⟨nofun, nofun⟩
theorem Laws.Operands.ebreak (gid len : Nat) : Laws.Operands.Statement (.ebreak gid len) :=
  fun _ => ⟨nofun, nofun⟩
theorem Laws.Operands.csrAccess (gid csr : Nat) (op : CsrOp) (rd src : Nat) : Laws.Operands.Statement (.csrAccess gid csr op rd src) :=
  fun _ => ⟨nofun, nofun⟩
theorem Laws.Operands.yphaseWrite (gid value : Nat) : Laws.Operands.Statement (.yphaseWrite gid value) :=
  fun _ => ⟨nofun, nofun⟩
theorem Laws.Operands.pwrPhPhaseStore (gid value : Nat) : Laws.Operands.Statement (.pwrPhPhaseStore gid value) :=
  fun _ => ⟨nofun, nofun⟩
theorem Laws.Operands.exit (gid : Nat) : Laws.Operands.Statement (.exit gid) :=
  fun _ => ⟨nofun, nofun⟩
theorem Laws.Operands.trace (gid : Nat) : Laws.Operands.Statement (.trace gid) :=
  fun _ => ⟨nofun, nofun⟩
theorem Laws.Operands.abort (gid : Nat) : Laws.Operands.Statement (.abort gid) :=
  fun _ => ⟨nofun, nofun⟩
theorem Laws.Operands.ecallUnknown (gid : Nat) : Laws.Operands.Statement (.ecallUnknown gid) :=
  fun _ => ⟨nofun, nofun⟩
theorem Laws.Operands.contextReset (ctx : Nat) : Laws.Operands.Statement (.contextReset ctx) :=
  fun _ => ⟨nofun, nofun⟩
theorem Laws.Operands.contextDone (ctx : Nat) : Laws.Operands.Statement (.contextDone ctx) :=
  fun _ => ⟨nofun, nofun⟩
theorem Laws.Operands.claimFetchInc (gid n k rd : Nat) : Laws.Operands.Statement (.claimFetchInc gid n k rd) :=
  fun _ => ⟨nofun, nofun⟩
theorem Laws.Operands.claimFetchAdd (gid n k rd : Nat) : Laws.Operands.Statement (.claimFetchAdd gid n k rd) :=
  fun _ => ⟨nofun, nofun⟩
theorem Laws.Operands.claimBoundedInc (gid n k rd : Nat) : Laws.Operands.Statement (.claimBoundedInc gid n k rd) :=
  fun _ => ⟨nofun, nofun⟩
theorem Laws.Operands.tensorReexecDone (island slot : Nat) (mismatch : Bool) : Laws.Operands.Statement (.tensorReexecDone island slot mismatch) :=
  fun _ => ⟨nofun, nofun⟩
theorem Laws.Operands.remapDeadline (island : Nat) : Laws.Operands.Statement (.remapDeadline island) :=
  fun _ => ⟨nofun, nofun⟩
theorem Laws.Operands.remapForceMidstep (island : Nat) : Laws.Operands.Statement (.remapForceMidstep island) :=
  fun _ => ⟨nofun, nofun⟩
theorem Laws.Operands.tlbFill (cache fn vpn : Nat) : Laws.Operands.Statement (.tlbFill cache fn vpn) := by
  intro h; simp [Instr.wf] at h; simp [Instr.fnOf, Instr.mbxOf]; try omega
theorem Laws.Operands.droopCrossing (island drop : Nat) : Laws.Operands.Statement (.droopCrossing island drop) :=
  fun _ => ⟨nofun, nofun⟩
theorem Laws.Operands.droopBubbleEnd (island : Nat) : Laws.Operands.Statement (.droopBubbleEnd island) :=
  fun _ => ⟨nofun, nofun⟩
theorem Laws.Operands.islWinSelWrite (value : Nat) : Laws.Operands.Statement (.islWinSelWrite value) :=
  fun _ => ⟨nofun, nofun⟩
theorem Laws.Operands.pdmStart (island : Nat) : Laws.Operands.Statement (.pdmStart island) :=
  fun _ => ⟨nofun, nofun⟩
theorem Laws.Operands.pdmDone (island : Nat) (margins : List Nat) : Laws.Operands.Statement (.pdmDone island margins) :=
  fun _ => ⟨nofun, nofun⟩
theorem Laws.Operands.tcfg (gid word : Nat) : Laws.Operands.Statement (.tcfg gid word) :=
  fun _ => ⟨nofun, nofun⟩
theorem Laws.Operands.trowtag (gid word : Nat) : Laws.Operands.Statement (.trowtag gid word) :=
  fun _ => ⟨nofun, nofun⟩
theorem Laws.Operands.tmma (gid word : Nat) : Laws.Operands.Statement (.tmma gid word) :=
  fun _ => ⟨nofun, nofun⟩
theorem Laws.Operands.tmmas (gid word : Nat) : Laws.Operands.Statement (.tmmas gid word) :=
  fun _ => ⟨nofun, nofun⟩
theorem Laws.Operands.tzero (gid word : Nat) : Laws.Operands.Statement (.tzero gid word) :=
  fun _ => ⟨nofun, nofun⟩
theorem Laws.Operands.tepi (gid word : Nat) : Laws.Operands.Statement (.tepi gid word) :=
  fun _ => ⟨nofun, nofun⟩
theorem Laws.Operands.tred (gid word : Nat) : Laws.Operands.Statement (.tred gid word) :=
  fun _ => ⟨nofun, nofun⟩
theorem Laws.Operands.passArrive (gid word : Nat) : Laws.Operands.Statement (.passArrive gid word) :=
  fun _ => ⟨nofun, nofun⟩
theorem Laws.Operands.passWait (gid word : Nat) : Laws.Operands.Statement (.passWait gid word) :=
  fun _ => ⟨nofun, nofun⟩
theorem Laws.Operands.fenceF (gid word : Nat) : Laws.Operands.Statement (.fenceF gid word) :=
  fun _ => ⟨nofun, nofun⟩
theorem Laws.Operands.tensorDispatch (island slot : Nat) : Laws.Operands.Statement (.tensorDispatch island slot) :=
  fun _ => ⟨nofun, nofun⟩
theorem Laws.Operands.tmmaComplete (island slot : Nat) (mismatch : Bool) (err : SramErr) : Laws.Operands.Statement (.tmmaComplete island slot mismatch err) :=
  fun _ => ⟨nofun, nofun⟩
theorem Laws.Operands.tepiComplete (island slot : Nat) (err : SramErr) (bad : List Nat) : Laws.Operands.Statement (.tepiComplete island slot err bad) :=
  fun _ => ⟨nofun, nofun⟩
theorem Laws.Operands.tredComplete (island slot : Nat) (parity : Bool) : Laws.Operands.Statement (.tredComplete island slot parity) :=
  fun _ => ⟨nofun, nofun⟩
theorem Laws.Operands.adapterCacheFill (island slot adapter layer group : Nat) (ue : Bool) : Laws.Operands.Statement (.adapterCacheFill island slot adapter layer group ue) :=
  fun _ => ⟨nofun, nofun⟩
theorem Laws.Operands.tensorIdleTimeout (island slot : Nat) : Laws.Operands.Statement (.tensorIdleTimeout island slot) :=
  fun _ => ⟨nofun, nofun⟩
theorem Laws.Operands.rampWindow (island : Nat) : Laws.Operands.Statement (.rampWindow island) :=
  fun _ => ⟨nofun, nofun⟩
theorem Laws.Operands.plainSectorRead (psn : Nat) (who : Consumer) (seen : Seen) : Laws.Operands.Statement (.plainSectorRead psn who seen) :=
  fun _ => ⟨nofun, nofun⟩
theorem Laws.Operands.sectorReread (psn : Nat) (seen : Seen) : Laws.Operands.Statement (.sectorReread psn seen) :=
  fun _ => ⟨nofun, nofun⟩
theorem Laws.Operands.plainSectorWrite (fn psn first : Nat) (data : List Byte) (kv : Bool) (seen again : Seen) : Laws.Operands.Statement (.plainSectorWrite fn psn first data kv seen again) := by
  intro h; simp [Instr.wf] at h; simp [Instr.fnOf, Instr.mbxOf]; try omega
theorem Laws.Operands.edcRetry (channel : Nat) (ok : Bool) : Laws.Operands.Statement (.edcRetry channel ok) :=
  fun _ => ⟨nofun, nofun⟩
theorem Laws.Operands.channelRetrainDone (channel : Nat) (ok : Bool) : Laws.Operands.Statement (.channelRetrainDone channel ok) :=
  fun _ => ⟨nofun, nofun⟩
theorem Laws.Operands.dataRateChoice (chans : List (Nat × Nat × Nat × Nat)) : Laws.Operands.Statement (.dataRateChoice chans) :=
  fun _ => ⟨nofun, nofun⟩
theorem Laws.Operands.refreshRateChange (hot : Nat) : Laws.Operands.Statement (.refreshRateChange hot) :=
  fun _ => ⟨nofun, nofun⟩
theorem Laws.Operands.pageMigrate (ppn : Nat) (reads : List (Nat × Seen × Seen)) : Laws.Operands.Statement (.pageMigrate ppn reads) :=
  fun _ => ⟨nofun, nofun⟩
theorem Laws.Operands.pageTest (ppn : Nat) (bad : Bool) : Laws.Operands.Statement (.pageTest ppn bad) :=
  fun _ => ⟨nofun, nofun⟩
theorem Laws.Operands.patrolVisit (sector : Nat) (seen again : Seen) : Laws.Operands.Statement (.patrolVisit sector seen again) :=
  fun _ => ⟨nofun, nofun⟩
theorem Laws.Operands.sramScrubVisit (island : Nat) (core : Option Nat) (addr : Nat) (err : SramErr) : Laws.Operands.Statement (.sramScrubVisit island core addr err) :=
  fun _ => ⟨nofun, nofun⟩
theorem Laws.Operands.fryPost (gid ch addr : Nat) : Laws.Operands.Statement (.fryPost gid ch addr) :=
  fun _ => ⟨nofun, nofun⟩
theorem Laws.Operands.ferryPostResume (gid : Nat) : Laws.Operands.Statement (.ferryPostResume gid) :=
  fun _ => ⟨nofun, nofun⟩
theorem Laws.Operands.ferryDescriptorStart (ch : Nat) : Laws.Operands.Statement (.ferryDescriptorStart ch) :=
  fun _ => ⟨nofun, nofun⟩
theorem Laws.Operands.ferryDescriptorComplete (ch : Nat) (host : List Byte) : Laws.Operands.Statement (.ferryDescriptorComplete ch host) :=
  fun _ => ⟨nofun, nofun⟩
theorem Laws.Operands.ferryErrorCompletion (ch code addr : Nat) (host : List Byte) : Laws.Operands.Statement (.ferryErrorCompletion ch code addr host) :=
  fun _ => ⟨nofun, nofun⟩
theorem Laws.Operands.hostTimeout (ch addr : Nat) (host : List Byte) : Laws.Operands.Statement (.hostTimeout ch addr host) :=
  fun _ => ⟨nofun, nofun⟩
theorem Laws.Operands.pasTargetStore (gid pass value : Nat) : Laws.Operands.Statement (.pasTargetStore gid pass value) :=
  fun _ => ⟨nofun, nofun⟩
theorem Laws.Operands.passArrivalCount (pass : Nat) : Laws.Operands.Statement (.passArrivalCount pass) :=
  fun _ => ⟨nofun, nofun⟩
theorem Laws.Operands.passArriveAck (gid : Nat) : Laws.Operands.Statement (.passArriveAck gid) :=
  fun _ => ⟨nofun, nofun⟩
theorem Laws.Operands.passWaiterResume (island pass : Nat) : Laws.Operands.Statement (.passWaiterResume island pass) :=
  fun _ => ⟨nofun, nofun⟩
theorem Laws.Operands.islSrtPost (gid k addr : Nat) : Laws.Operands.Statement (.islSrtPost gid k addr) :=
  fun _ => ⟨nofun, nofun⟩
theorem Laws.Operands.sorterPostResume (gid : Nat) : Laws.Operands.Statement (.sorterPostResume gid) :=
  fun _ => ⟨nofun, nofun⟩
theorem Laws.Operands.sorterJobStart (k : Nat) : Laws.Operands.Statement (.sorterJobStart k) :=
  fun _ => ⟨nofun, nofun⟩
theorem Laws.Operands.sorterJobComplete (k : Nat) : Laws.Operands.Statement (.sorterJobComplete k) :=
  fun _ => ⟨nofun, nofun⟩
theorem Laws.Operands.sorterJobError (k code addr : Nat) : Laws.Operands.Statement (.sorterJobError k code addr) :=
  fun _ => ⟨nofun, nofun⟩
theorem Laws.Operands.serveConfig (fn mbx : Nat) : Laws.Operands.Statement (.serveConfig fn mbx) := by
  intro h; simp [Instr.wf] at h; simp [Instr.fnOf, Instr.mbxOf]; try omega
theorem Laws.Operands.serveSubmit (fn mbx : Nat) (prompt : Option (List Nat)) : Laws.Operands.Statement (.serveSubmit fn mbx prompt) := by
  intro h; simp [Instr.wf] at h; simp [Instr.fnOf, Instr.mbxOf]; try omega
theorem Laws.Operands.serveCancel (fn mbx : Nat) : Laws.Operands.Statement (.serveCancel fn mbx) := by
  intro h; simp [Instr.wf] at h; simp [Instr.fnOf, Instr.mbxOf]; try omega
theorem Laws.Operands.serveQuery (fn mbx : Nat) : Laws.Operands.Statement (.serveQuery fn mbx) := by
  intro h; simp [Instr.wf] at h; simp [Instr.fnOf, Instr.mbxOf]; try omega
theorem Laws.Operands.stopsetSet (fn mbx : Nat) (fetched : Option (List Byte)) : Laws.Operands.Statement (.stopsetSet fn mbx fetched) := by
  intro h; simp [Instr.wf] at h; simp [Instr.fnOf, Instr.mbxOf]; try omega
theorem Laws.Operands.adapterLoad (fn mbx : Nat) (fetched : Option (List Byte)) : Laws.Operands.Statement (.adapterLoad fn mbx fetched) := by
  intro h; simp [Instr.wf] at h; simp [Instr.fnOf, Instr.mbxOf]; try omega
theorem Laws.Operands.adapterFree (fn mbx : Nat) : Laws.Operands.Statement (.adapterFree fn mbx) := by
  intro h; simp [Instr.wf] at h; simp [Instr.fnOf, Instr.mbxOf]; try omega
theorem Laws.Operands.serveStats (fn mbx : Nat) : Laws.Operands.Statement (.serveStats fn mbx) := by
  intro h; simp [Instr.wf] at h; simp [Instr.fnOf, Instr.mbxOf]; try omega
theorem Laws.Operands.serveUnconfig (fn mbx : Nat) : Laws.Operands.Statement (.serveUnconfig fn mbx) := by
  intro h; simp [Instr.wf] at h; simp [Instr.fnOf, Instr.mbxOf]; try omega
theorem Laws.Operands.slackRecompute (fn model : Nat) : Laws.Operands.Statement (.slackRecompute fn model) := by
  intro h; simp [Instr.wf] at h; simp [Instr.fnOf, Instr.mbxOf]; try omega
theorem Laws.Operands.stepResultProcess (fn model : Nat) : Laws.Operands.Statement (.stepResultProcess fn model) := by
  intro h; simp [Instr.wf] at h; simp [Instr.fnOf, Instr.mbxOf]; try omega
theorem Laws.Operands.servingContextRestart (ctx : Nat) : Laws.Operands.Statement (.servingContextRestart ctx) :=
  fun _ => ⟨nofun, nofun⟩
theorem Laws.Operands.vidStreamOpen (fn mbx : Nat) : Laws.Operands.Statement (.vidStreamOpen fn mbx) := by
  intro h; simp [Instr.wf] at h; simp [Instr.fnOf, Instr.mbxOf]; try omega
theorem Laws.Operands.vidStreamClose (fn mbx : Nat) : Laws.Operands.Statement (.vidStreamClose fn mbx) := by
  intro h; simp [Instr.wf] at h; simp [Instr.fnOf, Instr.mbxOf]; try omega
theorem Laws.Operands.vidDecodeSubmit (fn mbx : Nat) : Laws.Operands.Statement (.vidDecodeSubmit fn mbx) := by
  intro h; simp [Instr.wf] at h; simp [Instr.fnOf, Instr.mbxOf]; try omega
theorem Laws.Operands.vidEncodeSubmit (fn mbx : Nat) : Laws.Operands.Statement (.vidEncodeSubmit fn mbx) := by
  intro h; simp [Instr.wf] at h; simp [Instr.fnOf, Instr.mbxOf]; try omega
theorem Laws.Operands.vidEncodeSet (fn mbx : Nat) : Laws.Operands.Statement (.vidEncodeSet fn mbx) := by
  intro h; simp [Instr.wf] at h; simp [Instr.fnOf, Instr.mbxOf]; try omega
theorem Laws.Operands.vidConvertJob (fn mbx : Nat) : Laws.Operands.Statement (.vidConvertJob fn mbx) := by
  intro h; simp [Instr.wf] at h; simp [Instr.fnOf, Instr.mbxOf]; try omega
theorem Laws.Operands.vidJobCancel (fn mbx : Nat) : Laws.Operands.Statement (.vidJobCancel fn mbx) := by
  intro h; simp [Instr.wf] at h; simp [Instr.fnOf, Instr.mbxOf]; try omega
theorem Laws.Operands.vidJpegSubmit (fn mbx : Nat) : Laws.Operands.Statement (.vidJpegSubmit fn mbx) := by
  intro h; simp [Instr.wf] at h; simp [Instr.fnOf, Instr.mbxOf]; try omega
theorem Laws.Operands.vidStreamQuery (fn mbx : Nat) : Laws.Operands.Statement (.vidStreamQuery fn mbx) := by
  intro h; simp [Instr.wf] at h; simp [Instr.fnOf, Instr.mbxOf]; try omega
theorem Laws.Operands.vidOutputAck (fn mbx : Nat) : Laws.Operands.Statement (.vidOutputAck fn mbx) := by
  intro h; simp [Instr.wf] at h; simp [Instr.fnOf, Instr.mbxOf]; try omega
theorem Laws.Operands.decodePicture (eng : Nat) (pic : PicIn) : Laws.Operands.Statement (.decodePicture eng pic) :=
  fun _ => ⟨nofun, nofun⟩
theorem Laws.Operands.pictureOutput (stream which : Nat) : Laws.Operands.Statement (.pictureOutput stream which) :=
  fun _ => ⟨nofun, nofun⟩
theorem Laws.Operands.encodePictureDone (eng bits : Nat) (blocks : List EncBlock) : Laws.Operands.Statement (.encodePictureDone eng bits blocks) :=
  fun _ => ⟨nofun, nofun⟩
theorem Laws.Operands.auRingWrite (stream : Nat) : Laws.Operands.Statement (.auRingWrite stream) :=
  fun _ => ⟨nofun, nofun⟩
theorem Laws.Operands.jpegStrip (w h : Nat) (samples : List Byte) (err : Option Nat) : Laws.Operands.Statement (.jpegStrip w h samples err) :=
  fun _ => ⟨nofun, nofun⟩
theorem Laws.Operands.converterStrip (fn job : Nat) : Laws.Operands.Statement (.converterStrip fn job) := by
  intro h; simp [Instr.wf] at h; simp [Instr.fnOf, Instr.mbxOf]; try omega
theorem Laws.Operands.videoEngineReset (eng : Nat) : Laws.Operands.Statement (.videoEngineReset eng) :=
  fun _ => ⟨nofun, nofun⟩
theorem Laws.Operands.mailboxPost (fn mbx header : Nat) : Laws.Operands.Statement (.mailboxPost fn mbx header) := by
  intro h; simp [Instr.wf] at h; simp [Instr.fnOf, Instr.mbxOf]; try omega
theorem Laws.Operands.mailboxPayloadWrite (fn mbx word value : Nat) : Laws.Operands.Statement (.mailboxPayloadWrite fn mbx word value) := by
  intro h; simp [Instr.wf] at h; simp [Instr.fnOf, Instr.mbxOf]; try omega
theorem Laws.Operands.evtRingEnable (fn value : Nat) : Laws.Operands.Statement (.evtRingEnable fn value) := by
  intro h; simp [Instr.wf] at h; simp [Instr.fnOf, Instr.mbxOf]; try omega
theorem Laws.Operands.evtRingConfigWrite (fn off value : Nat) : Laws.Operands.Statement (.evtRingConfigWrite fn off value) := by
  intro h; simp [Instr.wf] at h; simp [Instr.fnOf, Instr.mbxOf]; try omega
theorem Laws.Operands.fnEvtAckWrite (fn value : Nat) : Laws.Operands.Statement (.fnEvtAckWrite fn value) := by
  intro h; simp [Instr.wf] at h; simp [Instr.fnOf, Instr.mbxOf]; try omega
theorem Laws.Operands.vectorMapWrite (fn off value : Nat) : Laws.Operands.Statement (.vectorMapWrite fn off value) := by
  intro h; simp [Instr.wf] at h; simp [Instr.fnOf, Instr.mbxOf]; try omega
theorem Laws.Operands.interruptCoalesceTimeout (fn vec : Nat) : Laws.Operands.Statement (.interruptCoalesceTimeout fn vec) := by
  intro h; simp [Instr.wf] at h; simp [Instr.fnOf, Instr.mbxOf]; try omega
theorem Laws.Operands.functionLevelReset (fn : Nat) : Laws.Operands.Statement (.functionLevelReset fn) := by
  intro h; simp [Instr.wf] at h; simp [Instr.fnOf, Instr.mbxOf]; try omega
theorem Laws.Operands.moduleInfo (fn mbx : Nat) : Laws.Operands.Statement (.moduleInfo fn mbx) := by
  intro h; simp [Instr.wf] at h; simp [Instr.fnOf, Instr.mbxOf]; try omega
theorem Laws.Operands.moduleStatus (fn mbx : Nat) : Laws.Operands.Statement (.moduleStatus fn mbx) := by
  intro h; simp [Instr.wf] at h; simp [Instr.fnOf, Instr.mbxOf]; try omega
theorem Laws.Operands.moduleDrain (fn mbx : Nat) : Laws.Operands.Statement (.moduleDrain fn mbx) := by
  intro h; simp [Instr.wf] at h; simp [Instr.fnOf, Instr.mbxOf]; try omega
theorem Laws.Operands.moduleResume (fn mbx : Nat) : Laws.Operands.Statement (.moduleResume fn mbx) := by
  intro h; simp [Instr.wf] at h; simp [Instr.fnOf, Instr.mbxOf]; try omega
theorem Laws.Operands.valleyEnter (fn mbx : Nat) (peerOk : Bool) : Laws.Operands.Statement (.valleyEnter fn mbx peerOk) := by
  intro h; simp [Instr.wf] at h; simp [Instr.fnOf, Instr.mbxOf]; try omega
theorem Laws.Operands.valleyExit (fn mbx : Nat) : Laws.Operands.Statement (.valleyExit fn mbx) := by
  intro h; simp [Instr.wf] at h; simp [Instr.fnOf, Instr.mbxOf]; try omega
theorem Laws.Operands.timeGet (fn mbx : Nat) : Laws.Operands.Statement (.timeGet fn mbx) := by
  intro h; simp [Instr.wf] at h; simp [Instr.fnOf, Instr.mbxOf]; try omega
theorem Laws.Operands.linkRestore (fn mbx : Nat) (upconfig : Bool) : Laws.Operands.Statement (.linkRestore fn mbx upconfig) := by
  intro h; simp [Instr.wf] at h; simp [Instr.fnOf, Instr.mbxOf]; try omega
theorem Laws.Operands.ledIdentify (fn mbx : Nat) : Laws.Operands.Statement (.ledIdentify fn mbx) := by
  intro h; simp [Instr.wf] at h; simp [Instr.fnOf, Instr.mbxOf]; try omega
theorem Laws.Operands.nop (fn mbx : Nat) : Laws.Operands.Statement (.nop fn mbx) := by
  intro h; simp [Instr.wf] at h; simp [Instr.fnOf, Instr.mbxOf]; try omega
theorem Laws.Operands.partQuery (fn mbx : Nat) : Laws.Operands.Statement (.partQuery fn mbx) := by
  intro h; simp [Instr.wf] at h; simp [Instr.fnOf, Instr.mbxOf]; try omega
theorem Laws.Operands.partBind (fn mbx : Nat) : Laws.Operands.Statement (.partBind fn mbx) := by
  intro h; simp [Instr.wf] at h; simp [Instr.fnOf, Instr.mbxOf]; try omega
theorem Laws.Operands.partUnbind (fn mbx : Nat) : Laws.Operands.Statement (.partUnbind fn mbx) := by
  intro h; simp [Instr.wf] at h; simp [Instr.fnOf, Instr.mbxOf]; try omega
theorem Laws.Operands.partRebind (fn mbx : Nat) : Laws.Operands.Statement (.partRebind fn mbx) := by
  intro h; simp [Instr.wf] at h; simp [Instr.fnOf, Instr.mbxOf]; try omega
theorem Laws.Operands.partReset (fn mbx : Nat) : Laws.Operands.Statement (.partReset fn mbx) := by
  intro h; simp [Instr.wf] at h; simp [Instr.fnOf, Instr.mbxOf]; try omega
theorem Laws.Operands.partSetRamp (fn mbx : Nat) : Laws.Operands.Statement (.partSetRamp fn mbx) := by
  intro h; simp [Instr.wf] at h; simp [Instr.fnOf, Instr.mbxOf]; try omega
theorem Laws.Operands.pageRelease (fn mbx : Nat) : Laws.Operands.Statement (.pageRelease fn mbx) := by
  intro h; simp [Instr.wf] at h; simp [Instr.fnOf, Instr.mbxOf]; try omega
theorem Laws.Operands.pageMap (fn mbx : Nat) : Laws.Operands.Statement (.pageMap fn mbx) := by
  intro h; simp [Instr.wf] at h; simp [Instr.fnOf, Instr.mbxOf]; try omega
theorem Laws.Operands.pageReplace (fn mbx : Nat) : Laws.Operands.Statement (.pageReplace fn mbx) := by
  intro h; simp [Instr.wf] at h; simp [Instr.fnOf, Instr.mbxOf]; try omega
theorem Laws.Operands.progLoad (fn mbx : Nat) (image : Option ProgImage) : Laws.Operands.Statement (.progLoad fn mbx image) := by
  intro h; simp [Instr.wf] at h; simp [Instr.fnOf, Instr.mbxOf]; try omega
theorem Laws.Operands.progUnload (fn mbx : Nat) : Laws.Operands.Statement (.progUnload fn mbx) := by
  intro h; simp [Instr.wf] at h; simp [Instr.fnOf, Instr.mbxOf]; try omega
theorem Laws.Operands.ctxStart (fn mbx : Nat) : Laws.Operands.Statement (.ctxStart fn mbx) := by
  intro h; simp [Instr.wf] at h; simp [Instr.fnOf, Instr.mbxOf]; try omega
theorem Laws.Operands.ctxStop (fn mbx : Nat) : Laws.Operands.Statement (.ctxStop fn mbx) := by
  intro h; simp [Instr.wf] at h; simp [Instr.fnOf, Instr.mbxOf]; try omega
theorem Laws.Operands.ctxQuery (fn mbx : Nat) : Laws.Operands.Statement (.ctxQuery fn mbx) := by
  intro h; simp [Instr.wf] at h; simp [Instr.fnOf, Instr.mbxOf]; try omega
theorem Laws.Operands.memCopyIn (fn mbx : Nat) : Laws.Operands.Statement (.memCopyIn fn mbx) := by
  intro h; simp [Instr.wf] at h; simp [Instr.fnOf, Instr.mbxOf]; try omega
theorem Laws.Operands.memCopyOut (fn mbx : Nat) : Laws.Operands.Statement (.memCopyOut fn mbx) := by
  intro h; simp [Instr.wf] at h; simp [Instr.fnOf, Instr.mbxOf]; try omega
theorem Laws.Operands.pwrStatus (fn mbx : Nat) : Laws.Operands.Statement (.pwrStatus fn mbx) := by
  intro h; simp [Instr.wf] at h; simp [Instr.fnOf, Instr.mbxOf]; try omega
theorem Laws.Operands.pwrSetPhases (fn mbx : Nat) : Laws.Operands.Statement (.pwrSetPhases fn mbx) := by
  intro h; simp [Instr.wf] at h; simp [Instr.fnOf, Instr.mbxOf]; try omega
theorem Laws.Operands.pwrSetShare (fn mbx : Nat) : Laws.Operands.Statement (.pwrSetShare fn mbx) := by
  intro h; simp [Instr.wf] at h; simp [Instr.fnOf, Instr.mbxOf]; try omega
theorem Laws.Operands.pwrSetSafe (fn mbx : Nat) : Laws.Operands.Statement (.pwrSetSafe fn mbx) := by
  intro h; simp [Instr.wf] at h; simp [Instr.fnOf, Instr.mbxOf]; try omega
theorem Laws.Operands.pwrOperatorCap (fn mbx : Nat) : Laws.Operands.Statement (.pwrOperatorCap fn mbx) := by
  intro h; simp [Instr.wf] at h; simp [Instr.fnOf, Instr.mbxOf]; try omega
theorem Laws.Operands.pwrThrottleRead (fn mbx : Nat) : Laws.Operands.Statement (.pwrThrottleRead fn mbx) := by
  intro h; simp [Instr.wf] at h; simp [Instr.fnOf, Instr.mbxOf]; try omega
theorem Laws.Operands.lifeQuery (fn mbx : Nat) : Laws.Operands.Statement (.lifeQuery fn mbx) := by
  intro h; simp [Instr.wf] at h; simp [Instr.fnOf, Instr.mbxOf]; try omega
theorem Laws.Operands.logRead (fn mbx : Nat) : Laws.Operands.Statement (.logRead fn mbx) := by
  intro h; simp [Instr.wf] at h; simp [Instr.fnOf, Instr.mbxOf]; try omega
theorem Laws.Operands.logClear (fn mbx : Nat) : Laws.Operands.Statement (.logClear fn mbx) := by
  intro h; simp [Instr.wf] at h; simp [Instr.fnOf, Instr.mbxOf]; try omega
theorem Laws.Operands.dumpRead (fn mbx : Nat) : Laws.Operands.Statement (.dumpRead fn mbx) := by
  intro h; simp [Instr.wf] at h; simp [Instr.fnOf, Instr.mbxOf]; try omega
theorem Laws.Operands.dumpClear (fn mbx : Nat) : Laws.Operands.Statement (.dumpClear fn mbx) := by
  intro h; simp [Instr.wf] at h; simp [Instr.fnOf, Instr.mbxOf]; try omega
theorem Laws.Operands.rasSetPolicy (fn mbx : Nat) : Laws.Operands.Statement (.rasSetPolicy fn mbx) := by
  intro h; simp [Instr.wf] at h; simp [Instr.fnOf, Instr.mbxOf]; try omega
theorem Laws.Operands.pageStateRead (fn mbx : Nat) : Laws.Operands.Statement (.pageStateRead fn mbx) := by
  intro h; simp [Instr.wf] at h; simp [Instr.fnOf, Instr.mbxOf]; try omega
theorem Laws.Operands.selftest (fn mbx : Nat) (failed : List Nat) : Laws.Operands.Statement (.selftest fn mbx failed) := by
  intro h; simp [Instr.wf] at h; simp [Instr.fnOf, Instr.mbxOf]; try omega
theorem Laws.Operands.chipReset (fn mbx : Nat) : Laws.Operands.Statement (.chipReset fn mbx) := by
  intro h; simp [Instr.wf] at h; simp [Instr.fnOf, Instr.mbxOf]; try omega
theorem Laws.Operands.rasQuery (fn mbx : Nat) : Laws.Operands.Statement (.rasQuery fn mbx) := by
  intro h; simp [Instr.wf] at h; simp [Instr.fnOf, Instr.mbxOf]; try omega
theorem Laws.Operands.secStatus (fn mbx : Nat) : Laws.Operands.Statement (.secStatus fn mbx) := by
  intro h; simp [Instr.wf] at h; simp [Instr.fnOf, Instr.mbxOf]; try omega
theorem Laws.Operands.secCertGet (fn mbx : Nat) (cert : List Byte) : Laws.Operands.Statement (.secCertGet fn mbx cert) := by
  intro h; simp [Instr.wf] at h; simp [Instr.fnOf, Instr.mbxOf]; try omega
theorem Laws.Operands.ownerLock (fn mbx : Nat) (token : Option (List Byte)) (sigOk : Bool) : Laws.Operands.Statement (.ownerLock fn mbx token sigOk) := by
  intro h; simp [Instr.wf] at h; simp [Instr.fnOf, Instr.mbxOf]; try omega
theorem Laws.Operands.ownerUnlock (fn mbx : Nat) (token : Option (List Byte)) (sigOk : Bool) : Laws.Operands.Statement (.ownerUnlock fn mbx token sigOk) := by
  intro h; simp [Instr.wf] at h; simp [Instr.fnOf, Instr.mbxOf]; try omega
theorem Laws.Operands.debugOpen (fn mbx : Nat) : Laws.Operands.Statement (.debugOpen fn mbx) := by
  intro h; simp [Instr.wf] at h; simp [Instr.fnOf, Instr.mbxOf]; try omega
theorem Laws.Operands.debugClose (fn mbx : Nat) : Laws.Operands.Statement (.debugClose fn mbx) := by
  intro h; simp [Instr.wf] at h; simp [Instr.fnOf, Instr.mbxOf]; try omega
theorem Laws.Operands.updateBegin (fn mbx : Nat) (fetched : Option (List Byte)) (sigOk keyOk : Bool) : Laws.Operands.Statement (.updateBegin fn mbx fetched sigOk keyOk) := by
  intro h; simp [Instr.wf] at h; simp [Instr.fnOf, Instr.mbxOf]; try omega
theorem Laws.Operands.updateBlock (fn mbx : Nat) (fetched : Option (List Byte)) (tagOk : Bool) : Laws.Operands.Statement (.updateBlock fn mbx fetched tagOk) := by
  intro h; simp [Instr.wf] at h; simp [Instr.fnOf, Instr.mbxOf]; try omega
theorem Laws.Operands.updateCommit (fn mbx : Nat) : Laws.Operands.Statement (.updateCommit fn mbx) := by
  intro h; simp [Instr.wf] at h; simp [Instr.fnOf, Instr.mbxOf]; try omega
theorem Laws.Operands.commitComplete (tagsOk rulesOk : Bool) (digests : List Nat) : Laws.Operands.Statement (.commitComplete tagsOk rulesOk digests) :=
  fun _ => ⟨nofun, nofun⟩
theorem Laws.Operands.updateActivate (fn mbx : Nat) : Laws.Operands.Statement (.updateActivate fn mbx) := by
  intro h; simp [Instr.wf] at h; simp [Instr.fnOf, Instr.mbxOf]; try omega
theorem Laws.Operands.updateAbort (fn mbx : Nat) : Laws.Operands.Statement (.updateAbort fn mbx) := by
  intro h; simp [Instr.wf] at h; simp [Instr.fnOf, Instr.mbxOf]; try omega
theorem Laws.Operands.updateStatus (fn mbx : Nat) : Laws.Operands.Statement (.updateStatus fn mbx) := by
  intro h; simp [Instr.wf] at h; simp [Instr.fnOf, Instr.mbxOf]; try omega
theorem Laws.Operands.rollbackTimer (recordOk : Bool) : Laws.Operands.Statement (.rollbackTimer recordOk) :=
  fun _ => ⟨nofun, nofun⟩
theorem Laws.Operands.pairStatus (fn mbx : Nat) : Laws.Operands.Statement (.pairStatus fn mbx) := by
  intro h; simp [Instr.wf] at h; simp [Instr.fnOf, Instr.mbxOf]; try omega
theorem Laws.Operands.pairSetMode (fn mbx : Nat) : Laws.Operands.Statement (.pairSetMode fn mbx) := by
  intro h; simp [Instr.wf] at h; simp [Instr.fnOf, Instr.mbxOf]; try omega
theorem Laws.Operands.pairTakeback (fn mbx : Nat) : Laws.Operands.Statement (.pairTakeback fn mbx) := by
  intro h; simp [Instr.wf] at h; simp [Instr.fnOf, Instr.mbxOf]; try omega
theorem Laws.Operands.pairResync (fn mbx : Nat) : Laws.Operands.Statement (.pairResync fn mbx) := by
  intro h; simp [Instr.wf] at h; simp [Instr.fnOf, Instr.mbxOf]; try omega
theorem Laws.Operands.scrubStart (fn : Nat) : Laws.Operands.Statement (.scrubStart fn) := by
  intro h; simp [Instr.wf, isVf] at h; simp [Instr.fnOf, Instr.mbxOf]; try omega
theorem Laws.Operands.scrubDrainEnd (fn : Nat) (timedOut : Bool) : Laws.Operands.Statement (.scrubDrainEnd fn timedOut) := by
  intro h; simp [Instr.wf, isVf] at h; simp [Instr.fnOf, Instr.mbxOf]; try omega
theorem Laws.Operands.scrubBoundExpiry (fn : Nat) : Laws.Operands.Statement (.scrubBoundExpiry fn) := by
  intro h; simp [Instr.wf, isVf] at h; simp [Instr.fnOf, Instr.mbxOf]; try omega
theorem Laws.Operands.unexpectedCompletion (fn : Nat) : Laws.Operands.Statement (.unexpectedCompletion fn) := by
  intro h; simp [Instr.wf, isVf] at h; simp [Instr.fnOf, Instr.mbxOf]; try omega
theorem Laws.Operands.pcieLinkTrain (hostRate : Nat) (good : List Nat) (revOk : Bool) (worn : List Nat) : Laws.Operands.Statement (.pcieLinkTrain hostRate good revOk worn) :=
  fun _ => ⟨nofun, nofun⟩
theorem Laws.Operands.bar2Read (fn off len : Nat) : Laws.Operands.Statement (.bar2Read fn off len) := by
  intro h; simp [Instr.wf, isVf] at h; simp [Instr.fnOf, Instr.mbxOf]; try omega
theorem Laws.Operands.bar2Write (fn off : Nat) (data : List Byte) : Laws.Operands.Statement (.bar2Write fn off data) := by
  intro h; simp [Instr.wf, isVf] at h; simp [Instr.fnOf, Instr.mbxOf]; try omega
theorem Laws.Operands.msixUnmask (fn vec addr data : Nat) : Laws.Operands.Statement (.msixUnmask fn vec addr data) := by
  intro h; simp [Instr.wf] at h; simp [Instr.fnOf, Instr.mbxOf]; try omega
theorem Laws.Operands.atsInvalidate (fn addr size : Nat) : Laws.Operands.Statement (.atsInvalidate fn addr size) := by
  intro h; simp [Instr.wf] at h; simp [Instr.fnOf, Instr.mbxOf]; try omega
theorem Laws.Operands.pasidWrite (fn value : Nat) : Laws.Operands.Statement (.pasidWrite fn value) := by
  intro h; simp [Instr.wf] at h; simp [Instr.fnOf, Instr.mbxOf]; try omega
theorem Laws.Operands.vfBarResize (fn size : Nat) (mse : Bool) : Laws.Operands.Statement (.vfBarResize fn size mse) := by
  intro h; simp [Instr.wf, isVf] at h; simp [Instr.fnOf, Instr.mbxOf]; try omega
theorem Laws.Operands.numvfsWrite (numVfs : Nat) (vfEnable : Bool) : Laws.Operands.Statement (.numvfsWrite numVfs vfEnable) :=
  fun _ => ⟨nofun, nofun⟩
theorem Laws.Operands.ideKm (stream : Nat) (op : IdeOp) : Laws.Operands.Statement (.ideKm stream op) :=
  fun _ => ⟨nofun, nofun⟩
theorem Laws.Operands.ideStreamFail (stream : Nat) : Laws.Operands.Statement (.ideStreamFail stream) :=
  fun _ => ⟨nofun, nofun⟩
theorem Laws.Operands.tdiUnsecuredRequest (fn : Nat) (onStream tBit : Bool) : Laws.Operands.Statement (.tdiUnsecuredRequest fn onStream tBit) := by
  intro h; simp [Instr.wf, isVf] at h; simp [Instr.fnOf, Instr.mbxOf]; try omega
theorem Laws.Operands.usbPost (mbx : Nat) (words : List Nat) : Laws.Operands.Statement (.usbPost mbx words) := by
  intro h; simp [Instr.wf] at h; simp [Instr.fnOf, Instr.mbxOf]; try omega
theorem Laws.Operands.usbStageWrite (off : Nat) (data : List Byte) : Laws.Operands.Statement (.usbStageWrite off data) :=
  fun _ => ⟨nofun, nofun⟩
theorem Laws.Operands.usbStageRead (off len : Nat) : Laws.Operands.Statement (.usbStageRead off len) :=
  fun _ => ⟨nofun, nofun⟩
theorem Laws.Operands.twinFlitReceive (seq ack : Nat) (ackv : Bool) (symbols : Nat) (fecOk crcOk aligned : Bool) (worn : List Nat) : Laws.Operands.Statement (.twinFlitReceive seq ack ackv symbols fecOk crcOk aligned worn) :=
  fun _ => ⟨nofun, nofun⟩
theorem Laws.Operands.twinNak (ack : Nat) : Laws.Operands.Statement (.twinNak ack) :=
  fun _ => ⟨nofun, nofun⟩
theorem Laws.Operands.heartbeat (time count mode role health lockMv lanes : Nat) : Laws.Operands.Statement (.heartbeat time count mode role health lockMv lanes) :=
  fun _ => ⟨nofun, nofun⟩
theorem Laws.Operands.cableAttach (cable : Nat) (checksumOk typeOk : Bool) (retimers : Nat) : Laws.Operands.Statement (.cableAttach cable checksumOk typeOk retimers) :=
  fun _ => ⟨nofun, nofun⟩
theorem Laws.Operands.cableHotJoin (cable target : Nat) : Laws.Operands.Statement (.cableHotJoin cable target) :=
  fun _ => ⟨nofun, nofun⟩
theorem Laws.Operands.sessionHeartbeatTimeout (session : Nat) : Laws.Operands.Statement (.sessionHeartbeatTimeout session) :=
  fun _ => ⟨nofun, nofun⟩
theorem Laws.Operands.leaseWrite (bytes watts dur seq : Nat) : Laws.Operands.Statement (.leaseWrite bytes watts dur seq) :=
  fun _ => ⟨nofun, nofun⟩
theorem Laws.Operands.coolantWrite (bytes inlet outlet flow : Nat) (motion holdup : Bool) : Laws.Operands.Statement (.coolantWrite bytes inlet outlet flow motion holdup) :=
  fun _ => ⟨nofun, nofun⟩
theorem Laws.Operands.dutyTick (draw islandDraw : Nat) (powers : List Nat) (amps : Nat) : Laws.Operands.Statement (.dutyTick draw islandDraw powers amps) :=
  fun _ => ⟨nofun, nofun⟩
theorem Laws.Operands.throttleEndTimeout (fn reason : Nat) : Laws.Operands.Statement (.throttleEndTimeout fn reason) := by
  intro h; simp [Instr.wf] at h; simp [Instr.fnOf, Instr.mbxOf]; try omega
theorem Laws.Operands.opGrantChange (die op : Nat) : Laws.Operands.Statement (.opGrantChange die op) :=
  fun _ => ⟨nofun, nofun⟩
theorem Laws.Operands.railPresetExpiry (die : Nat) : Laws.Operands.Statement (.railPresetExpiry die) :=
  fun _ => ⟨nofun, nofun⟩
theorem Laws.Operands.powerForecast (next : Option (Nat × Nat)) : Laws.Operands.Statement (.powerForecast next) :=
  fun _ => ⟨nofun, nofun⟩
theorem Laws.Operands.junctionScan (islands : List Int) (hub media : Int) : Laws.Operands.Statement (.junctionScan islands hub media) :=
  fun _ => ⟨nofun, nofun⟩
theorem Laws.Operands.tripExit (failed : List Nat) : Laws.Operands.Statement (.tripExit failed) :=
  fun _ => ⟨nofun, nofun⟩
theorem Laws.Operands.inputOutOfRange (mv : Nat) : Laws.Operands.Statement (.inputOutOfRange mv) :=
  fun _ => ⟨nofun, nofun⟩
theorem Laws.Operands.supplyStopExit (mv : Nat) (failed : List Nat) : Laws.Operands.Statement (.supplyStopExit mv failed) :=
  fun _ => ⟨nofun, nofun⟩
theorem Laws.Operands.powerLoss (mv : Nat) : Laws.Operands.Statement (.powerLoss mv) :=
  fun _ => ⟨nofun, nofun⟩
theorem Laws.Operands.marginMeasure (die : Nat) (taps : List Nat) : Laws.Operands.Statement (.marginMeasure die taps) :=
  fun _ => ⟨nofun, nofun⟩
theorem Laws.Operands.weeklyCheck (eye24 eye20 eye16 : Bool) : Laws.Operands.Statement (.weeklyCheck eye24 eye20 eye16) :=
  fun _ => ⟨nofun, nofun⟩
theorem Laws.Operands.rainflowSample (temps : List Int) (hourHot : List Nat) : Laws.Operands.Statement (.rainflowSample temps hourHot) :=
  fun _ => ⟨nofun, nofun⟩
theorem Laws.Operands.errorReport (rep : Rep) : Laws.Operands.Statement (.errorReport rep) :=
  fun _ => ⟨nofun, nofun⟩
theorem Laws.Operands.hangScan (moved : List Nat) : Laws.Operands.Statement (.hangScan moved) :=
  fun _ => ⟨nofun, nofun⟩
theorem Laws.Operands.coreProgressWatchdog (gid : Nat) : Laws.Operands.Statement (.coreProgressWatchdog gid) :=
  fun _ => ⟨nofun, nofun⟩
theorem Laws.Operands.unitStopWatchdog (src : Nat) : Laws.Operands.Statement (.unitStopWatchdog src) :=
  fun _ => ⟨nofun, nofun⟩
theorem Laws.Operands.videoEngineWatchdog (eng : Nat) : Laws.Operands.Statement (.videoEngineWatchdog eng) :=
  fun _ => ⟨nofun, nofun⟩
theorem Laws.Operands.engineReset (src cause : Nat) (failed : List Nat) : Laws.Operands.Statement (.engineReset src cause failed) :=
  fun _ => ⟨nofun, nofun⟩
theorem Laws.Operands.chipResetSequence (boot : BootIn) : Laws.Operands.Statement (.chipResetSequence boot) :=
  fun _ => ⟨nofun, nofun⟩
theorem Laws.Operands.crashDumpStart (trigger domain : Nat) : Laws.Operands.Statement (.crashDumpStart trigger domain) :=
  fun _ => ⟨nofun, nofun⟩
theorem Laws.Operands.dumpUnitTimeout (src : Nat) : Laws.Operands.Statement (.dumpUnitTimeout src) :=
  fun _ => ⟨nofun, nofun⟩
theorem Laws.Operands.dumpDeadline (left : List Nat) : Laws.Operands.Statement (.dumpDeadline left) :=
  fun _ => ⟨nofun, nofun⟩
theorem Laws.Operands.dumpWriteDone (slot : Nat) : Laws.Operands.Statement (.dumpWriteDone slot) :=
  fun _ => ⟨nofun, nofun⟩
theorem Laws.Operands.pairHello (chainOk sigOk : Bool) (fwVer serial certHash : Nat) (secondary : Bool) : Laws.Operands.Statement (.pairHello chainOk sigOk fwVer serial certHash secondary) :=
  fun _ => ⟨nofun, nofun⟩
theorem Laws.Operands.mirrorInput (fn opcode : Nat) (words : List Nat) : Laws.Operands.Statement (.mirrorInput fn opcode words) := by
  intro h; simp [Instr.wf] at h; simp [Instr.fnOf, Instr.mbxOf]; try omega
theorem Laws.Operands.mirrorCtl (msg : CtlMsg) : Laws.Operands.Statement (.mirrorCtl msg) :=
  fun _ => ⟨nofun, nofun⟩
theorem Laws.Operands.digest (dig : Dig) : Laws.Operands.Statement (.digest dig) :=
  fun _ => ⟨nofun, nofun⟩
theorem Laws.Operands.knownAnswerTestDone (passed : Bool) (failed : List Nat) : Laws.Operands.Statement (.knownAnswerTestDone passed failed) :=
  fun _ => ⟨nofun, nofun⟩
theorem Laws.Operands.resyncBulk (fn : Nat) (pages : List (Nat × Bool × List Byte)) (last : Bool) : Laws.Operands.Statement (.resyncBulk fn pages last) := by
  intro h; simp [Instr.wf] at h; simp [Instr.fnOf, Instr.mbxOf]; try omega
theorem Laws.Operands.resyncHoldTimeout (fn : Nat) : Laws.Operands.Statement (.resyncHoldTimeout fn) := by
  intro h; simp [Instr.wf] at h; simp [Instr.fnOf, Instr.mbxOf]; try omega
theorem Laws.Operands.yield (request : Bool) (reason : Nat) (keys : List Nat) : Laws.Operands.Statement (.yield request reason keys) :=
  fun _ => ⟨nofun, nofun⟩
theorem Laws.Operands.holderYield (reason : Nat) : Laws.Operands.Statement (.holderYield reason) :=
  fun _ => ⟨nofun, nofun⟩
theorem Laws.Operands.powerOn (boot : BootIn) : Laws.Operands.Statement (.powerOn boot) :=
  fun _ => ⟨nofun, nofun⟩
theorem Laws.Operands.refclkWindow (bad : Bool) : Laws.Operands.Statement (.refclkWindow bad) :=
  fun _ => ⟨nofun, nofun⟩
theorem Laws.Operands.pllLossOfLock (domain : Nat) : Laws.Operands.Statement (.pllLossOfLock domain) :=
  fun _ => ⟨nofun, nofun⟩
theorem Laws.Operands.pllRelockTimeout (domain : Nat) : Laws.Operands.Statement (.pllRelockTimeout domain) :=
  fun _ => ⟨nofun, nofun⟩
theorem Laws.Operands.ppsInEdge (time : Nat) : Laws.Operands.Statement (.ppsInEdge time) :=
  fun _ => ⟨nofun, nofun⟩
theorem Laws.Operands.timeSync (offset : Int) : Laws.Operands.Statement (.timeSync offset) :=
  fun _ => ⟨nofun, nofun⟩
theorem Laws.Operands.valleyEntryComplete (us : Nat) : Laws.Operands.Statement (.valleyEntryComplete us) :=
  fun _ => ⟨nofun, nofun⟩
theorem Laws.Operands.valleyExitComplete (us : Nat) : Laws.Operands.Statement (.valleyExitComplete us) :=
  fun _ => ⟨nofun, nofun⟩
theorem Laws.Operands.supplyExcursion (mv : Nat) : Laws.Operands.Statement (.supplyExcursion mv) :=
  fun _ => ⟨nofun, nofun⟩
theorem Laws.Operands.holdupBankCheck (percent : Nat) : Laws.Operands.Statement (.holdupBankCheck percent) :=
  fun _ => ⟨nofun, nofun⟩
theorem Laws.Operands.pcieConventionalReset (kind : Nat) : Laws.Operands.Statement (.pcieConventionalReset kind) :=
  fun _ => ⟨nofun, nofun⟩
theorem Laws.Operands.tdispGetVersion (fn : Nat) : Laws.Operands.Statement (.tdispGetVersion fn) := by
  intro h; simp [Instr.wf, isVf] at h; simp [Instr.fnOf, Instr.mbxOf]; try omega
theorem Laws.Operands.tdispGetCapabilities (fn : Nat) : Laws.Operands.Statement (.tdispGetCapabilities fn) := by
  intro h; simp [Instr.wf, isVf] at h; simp [Instr.fnOf, Instr.mbxOf]; try omega
theorem Laws.Operands.lockInterfaceRequest (fn : Nat) : Laws.Operands.Statement (.lockInterfaceRequest fn) := by
  intro h; simp [Instr.wf, isVf] at h; simp [Instr.fnOf, Instr.mbxOf]; try omega
theorem Laws.Operands.getDeviceInterfaceReport (fn : Nat) : Laws.Operands.Statement (.getDeviceInterfaceReport fn) := by
  intro h; simp [Instr.wf, isVf] at h; simp [Instr.fnOf, Instr.mbxOf]; try omega
theorem Laws.Operands.getDeviceInterfaceState (fn : Nat) : Laws.Operands.Statement (.getDeviceInterfaceState fn) := by
  intro h; simp [Instr.wf, isVf] at h; simp [Instr.fnOf, Instr.mbxOf]; try omega
theorem Laws.Operands.startInterfaceRequest (fn : Nat) : Laws.Operands.Statement (.startInterfaceRequest fn) := by
  intro h; simp [Instr.wf, isVf] at h; simp [Instr.fnOf, Instr.mbxOf]; try omega
theorem Laws.Operands.stopInterfaceRequest (fn : Nat) : Laws.Operands.Statement (.stopInterfaceRequest fn) := by
  intro h; simp [Instr.wf, isVf] at h; simp [Instr.fnOf, Instr.mbxOf]; try omega
theorem Laws.Operands.tdispUnsupported (fn code : Nat) : Laws.Operands.Statement (.tdispUnsupported fn code) := by
  intro h; simp [Instr.wf, isVf] at h; simp [Instr.fnOf, Instr.mbxOf]; try omega
theorem Laws.Operands.tdispConfigViolation (fn : Nat) : Laws.Operands.Statement (.tdispConfigViolation fn) := by
  intro h; simp [Instr.wf, isVf] at h; simp [Instr.fnOf, Instr.mbxOf]; try omega
theorem Laws.Operands.ptmDialogue (offset : Int) : Laws.Operands.Statement (.ptmDialogue offset) :=
  fun _ => ⟨nofun, nofun⟩
theorem Laws.Operands.twinTrain (peerMask inverted : Nat) (reversed : Bool) (failed : List Nat) : Laws.Operands.Statement (.twinTrain peerMask inverted reversed failed) :=
  fun _ => ⟨nofun, nofun⟩
theorem Laws.Operands.cablePoll (cable : Nat) (answered : Bool) (hot : Nat) (eyes : List Nat) : Laws.Operands.Statement (.cablePoll cable answered hot eyes) :=
  fun _ => ⟨nofun, nofun⟩
theorem Laws.Operands.spdmGetVersion (doe : Bool) : Laws.Operands.Statement (.spdmGetVersion doe) :=
  fun _ => ⟨nofun, nofun⟩
theorem Laws.Operands.spdmGetCapabilities (doe : Bool) : Laws.Operands.Statement (.spdmGetCapabilities doe) :=
  fun _ => ⟨nofun, nofun⟩
theorem Laws.Operands.negotiateAlgorithms (doe : Bool) (asym hash meas dhe aead sched : Bool) : Laws.Operands.Statement (.negotiateAlgorithms doe asym hash meas dhe aead sched) :=
  fun _ => ⟨nofun, nofun⟩
theorem Laws.Operands.getDigests (doe : Bool) : Laws.Operands.Statement (.getDigests doe) :=
  fun _ => ⟨nofun, nofun⟩
theorem Laws.Operands.getCertificate (doe : Bool) (slot off len : Nat) : Laws.Operands.Statement (.getCertificate doe slot off len) :=
  fun _ => ⟨nofun, nofun⟩
theorem Laws.Operands.challenge (doe : Bool) (slot : Nat) : Laws.Operands.Statement (.challenge doe slot) :=
  fun _ => ⟨nofun, nofun⟩
theorem Laws.Operands.getMeasurements (doe : Bool) (index : Nat) : Laws.Operands.Statement (.getMeasurements doe index) :=
  fun _ => ⟨nofun, nofun⟩
theorem Laws.Operands.keyExchange (doe : Bool) : Laws.Operands.Statement (.keyExchange doe) :=
  fun _ => ⟨nofun, nofun⟩
theorem Laws.Operands.finish (doe : Bool) (session : Nat) (ok : Bool) : Laws.Operands.Statement (.finish doe session ok) :=
  fun _ => ⟨nofun, nofun⟩
theorem Laws.Operands.spdmHeartbeat (doe : Bool) (session : Nat) : Laws.Operands.Statement (.spdmHeartbeat doe session) :=
  fun _ => ⟨nofun, nofun⟩
theorem Laws.Operands.keyUpdate (doe : Bool) (session : Nat) : Laws.Operands.Statement (.keyUpdate doe session) :=
  fun _ => ⟨nofun, nofun⟩
theorem Laws.Operands.endSession (doe : Bool) (session : Nat) : Laws.Operands.Statement (.endSession doe session) :=
  fun _ => ⟨nofun, nofun⟩
theorem Laws.Operands.chunkSend (doe : Bool) (seq : Nat) (last : Bool) : Laws.Operands.Statement (.chunkSend doe seq last) :=
  fun _ => ⟨nofun, nofun⟩
theorem Laws.Operands.chunkGet (doe : Bool) (seq : Nat) : Laws.Operands.Statement (.chunkGet doe seq) :=
  fun _ => ⟨nofun, nofun⟩
theorem Laws.Operands.respondIfReady (doe : Bool) (code : Nat) : Laws.Operands.Statement (.respondIfReady doe code) :=
  fun _ => ⟨nofun, nofun⟩
theorem Laws.Operands.vendorDefinedRequest (doe : Bool) (proto : Nat) : Laws.Operands.Statement (.vendorDefinedRequest doe proto) :=
  fun _ => ⟨nofun, nofun⟩
theorem Laws.Operands.spdmUnsupported (doe : Bool) (code : Nat) : Laws.Operands.Statement (.spdmUnsupported doe code) :=
  fun _ => ⟨nofun, nofun⟩
theorem Laws.Operands.jtagInstruction (code : JtagOp) : Laws.Operands.Statement (.jtagInstruction code) :=
  fun _ => ⟨nofun, nofun⟩
theorem Laws.Operands.trngRetest (ok : Bool) : Laws.Operands.Statement (.trngRetest ok) :=
  fun _ => ⟨nofun, nofun⟩
theorem Laws.Operands.pairLockReading (samples : List Nat) : Laws.Operands.Statement (.pairLockReading samples) :=
  fun _ => ⟨nofun, nofun⟩
theorem Laws.Operands.pairLockProbe (rise : Nat) : Laws.Operands.Statement (.pairLockProbe rise) :=
  fun _ => ⟨nofun, nofun⟩
theorem Laws.Operands.signalLineMonitor (signal code : Nat) : Laws.Operands.Statement (.signalLineMonitor signal code) :=
  fun _ => ⟨nofun, nofun⟩
theorem Laws.Operands.sidebandAddressAssign (addr : Nat) (setdasa : Bool) : Laws.Operands.Statement (.sidebandAddressAssign addr setdasa) :=
  fun _ => ⟨nofun, nofun⟩
theorem Laws.Operands.epochDrawResume : Laws.Operands.Statement (.epochDrawResume) :=
  fun _ => ⟨nofun, nofun⟩
theorem Laws.Operands.firmwareReady : Laws.Operands.Statement (.firmwareReady) :=
  fun _ => ⟨nofun, nofun⟩
theorem Laws.Operands.quiescentPoint : Laws.Operands.Statement (.quiescentPoint) :=
  fun _ => ⟨nofun, nofun⟩
theorem Laws.Operands.quiescentTimeout : Laws.Operands.Statement (.quiescentTimeout) :=
  fun _ => ⟨nofun, nofun⟩
theorem Laws.Operands.handoverAdoptTimeout : Laws.Operands.Statement (.handoverAdoptTimeout) :=
  fun _ => ⟨nofun, nofun⟩
theorem Laws.Operands.fwConfirm : Laws.Operands.Statement (.fwConfirm) :=
  fun _ => ⟨nofun, nofun⟩
theorem Laws.Operands.svnCounterBurn : Laws.Operands.Statement (.svnCounterBurn) :=
  fun _ => ⟨nofun, nofun⟩
theorem Laws.Operands.usbAttach : Laws.Operands.Statement (.usbAttach) :=
  fun _ => ⟨nofun, nofun⟩
theorem Laws.Operands.usbDetach : Laws.Operands.Statement (.usbDetach) :=
  fun _ => ⟨nofun, nofun⟩
theorem Laws.Operands.usbBadFrame : Laws.Operands.Statement (.usbBadFrame) :=
  fun _ => ⟨nofun, nofun⟩
theorem Laws.Operands.twinTrainRetry : Laws.Operands.Statement (.twinTrainRetry) :=
  fun _ => ⟨nofun, nofun⟩
theorem Laws.Operands.heartbeatSend : Laws.Operands.Statement (.heartbeatSend) :=
  fun _ => ⟨nofun, nofun⟩
theorem Laws.Operands.peerSilent : Laws.Operands.Statement (.peerSilent) :=
  fun _ => ⟨nofun, nofun⟩
theorem Laws.Operands.peerSilentLong : Laws.Operands.Statement (.peerSilentLong) :=
  fun _ => ⟨nofun, nofun⟩
theorem Laws.Operands.aliasKeyReady : Laws.Operands.Statement (.aliasKeyReady) :=
  fun _ => ⟨nofun, nofun⟩
theorem Laws.Operands.jtagTlrTimeout : Laws.Operands.Statement (.jtagTlrTimeout) :=
  fun _ => ⟨nofun, nofun⟩
theorem Laws.Operands.jtagTapReset : Laws.Operands.Statement (.jtagTapReset) :=
  fun _ => ⟨nofun, nofun⟩
theorem Laws.Operands.trngHealthFail : Laws.Operands.Statement (.trngHealthFail) :=
  fun _ => ⟨nofun, nofun⟩
theorem Laws.Operands.coolantStale : Laws.Operands.Statement (.coolantStale) :=
  fun _ => ⟨nofun, nofun⟩
theorem Laws.Operands.trayFlagClear : Laws.Operands.Statement (.trayFlagClear) :=
  fun _ => ⟨nofun, nofun⟩
theorem Laws.Operands.leaseExpiry : Laws.Operands.Statement (.leaseExpiry) :=
  fun _ => ⟨nofun, nofun⟩
theorem Laws.Operands.leaseDecayEnd : Laws.Operands.Statement (.leaseDecayEnd) :=
  fun _ => ⟨nofun, nofun⟩
theorem Laws.Operands.limitTick : Laws.Operands.Statement (.limitTick) :=
  fun _ => ⟨nofun, nofun⟩
theorem Laws.Operands.forecastStale : Laws.Operands.Statement (.forecastStale) :=
  fun _ => ⟨nofun, nofun⟩
theorem Laws.Operands.tripHoldTimeout : Laws.Operands.Statement (.tripHoldTimeout) :=
  fun _ => ⟨nofun, nofun⟩
theorem Laws.Operands.pwrWarnAssert : Laws.Operands.Statement (.pwrWarnAssert) :=
  fun _ => ⟨nofun, nofun⟩
theorem Laws.Operands.pwrWarnDeassert : Laws.Operands.Statement (.pwrWarnDeassert) :=
  fun _ => ⟨nofun, nofun⟩
theorem Laws.Operands.warnFloorEnd : Laws.Operands.Statement (.warnFloorEnd) :=
  fun _ => ⟨nofun, nofun⟩
theorem Laws.Operands.mcpWatchdog : Laws.Operands.Statement (.mcpWatchdog) :=
  fun _ => ⟨nofun, nofun⟩
theorem Laws.Operands.powerCycleRerequest : Laws.Operands.Statement (.powerCycleRerequest) :=
  fun _ => ⟨nofun, nofun⟩
theorem Laws.Operands.suspectReplayStart : Laws.Operands.Statement (.suspectReplayStart) :=
  fun _ => ⟨nofun, nofun⟩
theorem Laws.Operands.suspectReplayEnd : Laws.Operands.Statement (.suspectReplayEnd) :=
  fun _ => ⟨nofun, nofun⟩
theorem Laws.Operands.pairLinkLost : Laws.Operands.Statement (.pairLinkLost) :=
  fun _ => ⟨nofun, nofun⟩
theorem Laws.Operands.modeChangeApply : Laws.Operands.Statement (.modeChangeApply) :=
  fun _ => ⟨nofun, nofun⟩
theorem Laws.Operands.digestKeepExpiry : Laws.Operands.Statement (.digestKeepExpiry) :=
  fun _ => ⟨nofun, nofun⟩
theorem Laws.Operands.outputHoldTimeout : Laws.Operands.Statement (.outputHoldTimeout) :=
  fun _ => ⟨nofun, nofun⟩
theorem Laws.Operands.katResultTimeout : Laws.Operands.Statement (.katResultTimeout) :=
  fun _ => ⟨nofun, nofun⟩
theorem Laws.Operands.lineFaultSilent : Laws.Operands.Statement (.lineFaultSilent) :=
  fun _ => ⟨nofun, nofun⟩
theorem Laws.Operands.pairLockClaim : Laws.Operands.Statement (.pairLockClaim) :=
  fun _ => ⟨nofun, nofun⟩
theorem Laws.Operands.claimSettle : Laws.Operands.Statement (.claimSettle) :=
  fun _ => ⟨nofun, nofun⟩
theorem Laws.Operands.claimBackoffEnd : Laws.Operands.Statement (.claimBackoffEnd) :=
  fun _ => ⟨nofun, nofun⟩
theorem Laws.Operands.takebackTimer : Laws.Operands.Statement (.takebackTimer) :=
  fun _ => ⟨nofun, nofun⟩
theorem Laws.Operands.pullWarnAssert : Laws.Operands.Statement (.pullWarnAssert) :=
  fun _ => ⟨nofun, nofun⟩
theorem Laws.Operands.pullWarnArm : Laws.Operands.Statement (.pullWarnArm) :=
  fun _ => ⟨nofun, nofun⟩
theorem Laws.Operands.pullWarnOpen : Laws.Operands.Statement (.pullWarnOpen) :=
  fun _ => ⟨nofun, nofun⟩
theorem Laws.Operands.reversePolarity : Laws.Operands.Statement (.reversePolarity) :=
  fun _ => ⟨nofun, nofun⟩
theorem Laws.Operands.refclkReturn : Laws.Operands.Statement (.refclkReturn) :=
  fun _ => ⟨nofun, nofun⟩
theorem Laws.Operands.ppsTimeout : Laws.Operands.Statement (.ppsTimeout) :=
  fun _ => ⟨nofun, nofun⟩
theorem Laws.Operands.ledIdentifyExpiry : Laws.Operands.Statement (.ledIdentifyExpiry) :=
  fun _ => ⟨nofun, nofun⟩
theorem Laws.Operands.usbInTransfer : Laws.Operands.Statement (.usbInTransfer) :=
  fun _ => ⟨nofun, nofun⟩

end Sys2Proof

end
end

