-- ==== Sys2Proof/Tests/Slice0.lean ====
section
/-! SUPPORT. Our own tests: states that meet the premises of every statement, terms that each check of WellFormed refuses, and steps
whose outcome the spec gives. -/

section

set_option Elab.async false

namespace Sys2Proof.Tests

open Sys2Proof Sys2Proof.Machine

/-- A state in which a command of an opcode waits in a mailbox with these payload words. -/
def posted (fn mbx op : Nat) (ws : List Nat) (s : State) : State := (s.setMbxWs fn mbx 0 ws).setMbxW fn mbx 63 (op + 2 ^ 31)

/-- Thread 0 runs in context 1 of VF1 on island 0, with its PLL locked. -/
def running (t : Thread) : State :=
  { State.reset.wrF .TIM_CLK_LOCK 0 0 1 1 with
    fab := { threads := [(0, t)], ctxs := [(1, { fn := 1, prog := 0, islands := [0], arg := 0, startT := 0, seq := 0 })] } }

/-- A thread that runs at an address of the island store. -/
def thr : Thread := { st := .run, ctx := 1, pc := 0x0100_0000 }

/-- A queued Xyt instruction of thread 0. -/
def entry0 (op : TOp) : TEntry :=
  { gid := 0, acc := 0, op := op, tcfg := 0, scaleA := 0, scaleB := 0, layer := 0xFFFF, tags := [], pc := 0, ord := 0 }

/-- A TEPI descriptor that adds adapters. -/
def adapterDesc : List Byte := List.replicate 17 0 ++ [4] ++ List.replicate 14 0

/-- A descriptor that moves 64 bytes from an address to an address, with its control word. -/
def desc (src dst ctl : Nat) : List Byte :=
  natLe src 8 ++ natLe dst 8 ++ natLe 64 2 ++ natLe 1 2 ++ natLe 1 2 ++ natLe 1 2 ++ List.replicate 24 0 ++ natLe ctl 4 ++ List.replicate 12 0

/-- A move within the island store. -/
def descBytes : List Byte := desc 0x0100_0000 0x0100_0400 0x10

/-- A move from an address that names no memory. -/
def badDesc : List Byte := desc 0x8000_0000_0000 0x0100_0400 0x10

/-- A move from host memory. -/
def hostDesc : List Byte := desc 0 0x0100_0400 0x110

/-- A sort of one key in the island store. -/
def jobBytes : List Byte :=
  natLe 0x0100_0000 8 ++ natLe 0x0100_0100 8 ++ natLe 0x0100_0200 8 ++ natLe 0x0100_0300 8 ++ natLe 0x0100_0400 8 ++ natLe 1 4 ++
  List.replicate 20 0

/-- A started descriptor of thread 0. -/
def dsc (raw : List Byte) : Desc :=
  { seq := 1, raw := raw, param := [], fn := 1, ctx := some 1, gid := 0, island := 0, cmd := none, started := true }

/-- A started job of thread 0. -/
def jb : SJob := { seq := 1, raw := jobBytes, fn := 1, ctx := 1, gid := 0, started := true }

def ferryReady : State := { running thr with fab := { (running thr).fab with lsram := memWrite [] 0 descBytes } }

def sortReady : State := { (running thr).setPrt 1 { islands := 1, srt := 8 } with
  fab := { (running thr).fab with lsram := memWrite [] 0 jobBytes } }

/-- An image with no text. -/
def image0 : ProgImage :=
  { wellFormed := true, text := [], entry := 0, gp := 0, active := 0, stackTops := [], zeroSram := false, replayable := false
    passes := [], digest := 0 }

/-- PART_BIND of one island to VF1. -/
def bindState : State := posted 0 0 0x101 ([1, 1] ++ List.replicate 14 0 ++ [64]) State.reset

/-- PART_REBIND that moves an island of VF1 to the free pool. -/
def rebindState : State := (posted 0 0 0x103 [1, 0, 1] State.reset).setPrt 1 { islands := 3 }

/-- VF1 with one mapped page, and one free page. -/
def pages (s : State) : State :=
  { s.setPrt 1 { npages := 4, pages := [5] } with pln := { s.pln with maps := [(mapKey 1 0, { ppn := 5, write := true })] } }

def pageState : State := pages (posted 1 0 0x106 [0, 1] State.reset)
def mapState : State := pages (posted 1 0 0x107 [1, 1, 1] State.reset)
def replaceState : State := pages (posted 1 0 0x108 [0] State.reset)

/-- A powered module past READY with its alias key. -/
def spdmState : State :=
  { State.reset.wrF .FN_STATUS 0 0 3 fnReady with
    brd := { State.reset.brd with powered := true }, sec := { State.reset.sec with aliasReady := true } }

/-- A SPDM session over DOE, complete or not. -/
def sessionState (done : Bool) : State :=
  { spdmState with sec := { spdmState.sec with sessions := [{ id := 1, doe := true, done := done }] } }

/-- A token that unlocks. -/
def tokenBytes : List Byte := natLe 0x4B434C4F 4 ++ natLe 2 4 ++ natLe (State.reset.rdN .RAS_SB_SERIAL 0) 8 ++ natLe 1 8 ++ List.replicate 872 0

/-- OWNER_UNLOCK of an enrolled owner is posted. -/
def tokenState : State :=
  { posted 0 0 0x703 [0, 0, 896] State.reset with sec := { State.reset.sec with ownerKey := some (tokenKey tokenBytes) } }

theorem tokenWitness :
    tokenState.posted 0 0 0x703 = true ∧ tokenState.arg 0 0 2 = 896 ∧ tokenState.tokenOk tokenBytes true [2, 3] = true := by
  refine ⟨by decide +kernel, by decide +kernel, ?_⟩
  have a : hdr tokenBytes 0 4 = 0x4B434C4F := by decide +kernel
  have b : hdr tokenBytes 8 8 = State.reset.rdN .RAS_SB_SERIAL 0 := by decide +kernel
  have c : hdr tokenBytes 4 4 = 2 := by decide +kernel
  have d : hdr tokenBytes 16 8 = 1 := by decide +kernel
  have e : tokenState.rdN .RAS_SB_SERIAL 0 = State.reset.rdN .RAS_SB_SERIAL 0 := by decide +kernel
  have f : tokenState.sec.ownerSeq = 0 := by decide +kernel
  have g : tokenState.sec.ownerKey = some (tokenKey tokenBytes) := rfl
  simp [State.tokenOk, a, b, c, d, e, f, g]
/-- The header of an image of one block for this part. -/
def hdrBytes : List Byte :=
  natLe 0x4C424659 4 ++ natLe 1 4 ++ natLe 0 4 ++ natLe 64 4 ++ natLe (State.reset.rdF .RAS_SB_IDENT 0 0 32) 4 ++ natLe 2 1 ++
  List.replicate 3 0 ++ natLe 0x10000 4 ++ List.replicate 4068 0
/-- A free page with an uncorrectable finding. -/
def ueState : State := { State.reset.setPage 9 {} with pln := { (State.reset.setPage 9 {}).pln with freeUe := [9] } }
def ueEpoch1 : Nat × State := ueState.drawEpoch.getD (0, ueState)
def ueMarked : State :=
  { ueEpoch1.2 with pln := { ueEpoch1.2.pln with
    freeUe := ueEpoch1.2.pln.freeUe.erase 9
    data := memClear ueEpoch1.2.pln.data (9 * 65536) 65536
    secEpoch := tabSetAll ueEpoch1.2.pln.secEpoch ((List.range 256).map (9 * 256 + ·)) ueEpoch1.1
    secFmt := tabSetAll ueEpoch1.2.pln.secFmt ((List.range 256).map (9 * 256 + ·)) 0 } }
def ueEpoch2 : Nat × State := ueMarked.drawEpoch.getD (0, ueState)
/-- A stream of VF1 on engine 0, with one access unit when it is queued. -/
def vstream (enc : Bool) (q : List AU) : VStream :=
  { fn := 1, eng := if enc then 8 else 0, enc := enc, codec := 0, w := 64, h := 64, depth := 8, cost := 1, params := [], area := 0, ring := 0
    queue := q }

def engState : State :=
  { State.reset with vid := { State.reset.vid with streams := [(0, vstream false [{ addr := 0, len := 16, pts := 0 }])] } }

def logState : State := (posted 17 0 0x600 [0, 1] State.reset).log 4 9 0 0 0x32 0x1F 3 0 0 0
def dumpState : State :=
  { posted 17 0 0x602 [3] State.reset with ras := { State.reset.ras with dumps := [(3, { st := 3 })] } }
/-- A standby of a mirrored pair. -/
def standby : State :=
  { (State.reset.wrF .FN_STATUS 0 3 2 roleStandby).wrF .FN_STATUS 0 0 3 fnReady with
    pair := { State.reset.pair with mirrored := true }, brd := { State.reset.brd with powered := true } }

def claimState : State := { (standby.setLine lineFree) with pair := { standby.pair with mirrored := true } }

/-- A digest of a step of VF1, and an output held for it. -/
def dig1 : Dig := { fn := 1, step := true, k1 := 1, k2 := 1, kind := 0, iou := 0, ents := [], time := 0 }
def held1 : HeldOut := { dig := dig1, since := 0 }

def drainState : State := posted 0 0 0x002 [] standby
def drainNext : State :=
  { (drainState.accept 0 0).wrF .TWN_PAIR_STATUS 0 10 1 1 with
    pair := { ((drainState.accept 0 0).wrF .TWN_PAIR_STATUS 0 10 1 1).pair with drainCmd := some (0, 0), claiming := none } }.allFns
    fun t f => if t.fnState f = fnReady then t.setFnState f fnDraining else t
def resumeState : State := (posted 0 0 0x003 [] State.reset).wrF .TWN_PAIR_STATUS 0 10 1 1
def resumeNext : State :=
  { resumeState.wrF .TWN_PAIR_STATUS 0 10 1 0 with
    pair := { resumeState.pair with
      drained := false, drainCmd := none
      yieldDue := if resumeState.pair.yieldDue = some 3 then none else resumeState.pair.yieldDue } }.allFns
    fun t f => if t.fnState f = fnDraining then t.setFnState f (t.runState f) else t
/-- VF1 with a quota, a plain view and a share. -/
def vf1 (s : State) : State := s.setPrt 1 { islands := 1, npages := 8, qbase := 10, qcount := 2, share := 4, acount := 2, npool := 4, dec := 1, enc := 1 }

/-- The arguments of a SERVE_CONFIG of model 0. -/
def cfgWords : List Nat :=
  [0, 10, 11, 0, 0x100, 0x20000, 0x100, 0x40000, 0x100, 1, 0x50000, 0x100, 1, 64, 0, 64, 100, 64, 16, 1, 1, 1, 0, 0, 1000, 5000]

/-- VF1 serves model 0. -/
def serving (s : State) : State := (vf1 s).setModel 1 0 ((posted 1 0 0x300 cfgWords State.reset).cfgArgs 1 0)

/-- A SERVE_SUBMIT of one token. -/
def submitState : State :=
  serving (posted 1 0 0x301 [7, 0, 0, 0xFFF, 0, 1000, 1000, 0, 0, 1, 1, 0xFFFF, 0, 0, 80, 5, 0, 0, 0x3F80, 0, 0] State.reset)

/-- A request 7 of VF1 lives. -/
def live7 (s : State) : State := (serving s).setReq 1 0 { reqId := 7 }

/-- A stop set of one end token. -/
def stopBytes : List Byte := natLe 1 4 ++ List.replicate 12 0 ++ natLe 2 4 ++ List.replicate 560 0

/-- VID_STREAM_OPEN of an H.264 decode stream, and of an AV1 encode stream's submits. -/
def openState : State := vf1 (posted 1 0 0x400 [0, 0, 0, 0, 0, 128, 128, 1000, 8, 2, 0, 0x100, 0x20000, 0, 0x60000, 0x100] State.reset)
def vids (enc : Bool) (q : List AU) (s : State) : State :=
  { s with vid := { s.vid with streams := [(3, vstream enc q)], jobs := [(256 + 4, { stream := 3, outW := 64, outH := 64, channels := 3, ebytes := 1, params := [], planar := false, drop := false })] } }
def queryState : State := live7 (posted 1 0 0x303 [7] State.reset)

/-- An adapter image of one layer with one channel. -/
def adapterHead : List Byte := natLe 0x50444159 4 ++ natLe 1 2 ++ natLe 0 2 ++ natLe 1 2 ++ natLe 0 2 ++ natLe 84 4
def adapterTail : List Byte := List.replicate 44 0 ++ natLe 0 4 ++ natLe 1 2 ++ natLe 0 2 ++ natLe 0x50 4 ++ natLe 0 4 ++ natLe 0x3F800000 4
def adapterBytes : List Byte := adapterHead ++ natLe (crc32 (adapterHead ++ natLe 0 4 ++ adapterTail)) 4 ++ adapterTail

/-- ADAPTER_LOAD of slot 1 is posted, and VF1's pool has a page. -/
def adapterState : State :=
  let s := posted 1 0 0x305 [1] State.reset
  s.setPrt 1 { acount := 2, npool := 1, pool := [7] }

/-- A step in flight whose DONE_PASS has released. -/
def step1 : Stp := { no := 1, tPost := 0, rows := [], phase := 0 }
def stepCfg : SCfg := { (posted 1 0 0x300 cfgWords State.reset).cfgArgs 1 0 with step := some step1 }
def stepState : State :=
  { (vf1 State.reset).setModel 1 0 stepCfg with pas := { State.reset.pas with recs := [(11, { gen := 1 })] } }

def ctxRestart : Ctx := { fn := 1, prog := 0, islands := [0], arg := 0, startT := 0, seq := 0, serving := some 0, restart := true }

def coded : Coded := { pic := 1, len := 8, qp := 20, flags := 0 }
def codedStream : VStream := { vstream true [] with ringLen := 4096, waiting := [coded] }

def jpeg1 : JImg := { fn := 1, no := 0, addr := 0, len := 5, dst := plainBase, pts := 0 }
def jpegState : State :=
  let s := pages State.reset
  let s := s.setPage 5 { s.page 5 with owner := 1 }
  { s with vid := { s.vid with jpeg := [jpeg1] } }

def job4 : CJob := { stream := 3, outW := 64, outH := 64, channels := 3, ebytes := 1, params := [], planar := false, drop := false }
def frameState : State :=
  let s := vids false [] State.reset
  { s with fry := { s.fry with chans := [(0, { queue := [dsc (desc 4 0x0100_0400 0x18)] })] } }

/-- An epilogue that adds the adapter of slot 0 at layer 5, in a context that holds that slot. -/
def cacheEntry : TEntry := { entry0 (.tepi adapterDesc) with layer := 5, tags := List.replicate 16 0 }
def cacheAdapter : Adapter := { fn := 1, model := 0, size := 64, layers := [{ layer := 5, mul := false, gshift := 0, channels := 16, vals := [] }] }
def cacheState : State :=
  let s := (running thr).setTen 0 { epi := some cacheEntry }
  { s with fab := { s.fab with ctxs := [(1, { fn := 1, prog := 0, islands := [0], arg := 0, startT := 0, seq := 0, slotCount := 1
                                              slots := [(0, cacheAdapter)] })] } }

/- Every statement with premises has states and operands that meet them. -/


theorem witness_IdleStepPassesOneNanosecond :
    (∃ (s : State), s.pending = [] ∧ s.brd.powered = true ∧ s.clk.relock = [] ∧ s.upd.stage ≠ .window ∧ s.lnk.inval = []) ∧
    (∃ (s : State), s.pending = [] ∧ s.brd.powered = false) :=
  ⟨⟨{ State.reset with brd := { State.reset.brd with powered := true } }, by decide +kernel⟩,
   ⟨State.reset, by decide +kernel⟩⟩


theorem witness_EveryStepKeepsSoundness :
    ∃ (s : State) (t : State), s.Inv ∧ step s = .next t :=
  ⟨State.reset, State.reset, ⟨by decide +kernel, by decide +kernel, by decide +kernel, by decide +kernel, by decide +kernel⟩, rfl⟩

theorem witness_CommandsKeepTheQueue :
    ∃ (c : Instr) (s : State) (t : State), exec c s = .next t :=
  ⟨.jtagTapReset, State.reset, { State.reset with brd := { State.reset.brd with jtagTlr := true } }, rfl⟩


theorem witness_UnpostedCommandsChangeNothing :
    ∃ (fn : Nat) (mbx : Nat) (s : State) (e : Instr × Nat), fn ≤ 18 ∧ mbx ≤ 16 ∧
      e ∈ [(.moduleInfo fn mbx, 0x000), (.moduleStatus fn mbx, 0x001), (.moduleDrain fn mbx, 0x002), (.moduleResume fn mbx, 0x003), (.valleyExit fn mbx, 0x005), (.timeGet fn mbx, 0x006), (.ledIdentify fn mbx, 0x008), (.nop fn mbx, 0x009), (.partQuery fn mbx, 0x100), (.partBind fn mbx, 0x101), (.partUnbind fn mbx, 0x102), (.partRebind fn mbx, 0x103), (.partReset fn mbx, 0x104), (.partSetRamp fn mbx, 0x105), (.pageRelease fn mbx, 0x106), (.pageMap fn mbx, 0x107), (.pageReplace fn mbx, 0x108), (.progUnload fn mbx, 0x201), (.ctxStart fn mbx, 0x202), (.ctxStop fn mbx, 0x203), (.ctxQuery fn mbx, 0x204), (.memCopyIn fn mbx, 0x205), (.memCopyOut fn mbx, 0x206), (.serveConfig fn mbx, 0x300), (.serveCancel fn mbx, 0x302), (.serveQuery fn mbx, 0x303), (.adapterFree fn mbx, 0x306), (.serveStats fn mbx, 0x307), (.serveUnconfig fn mbx, 0x308), (.vidStreamOpen fn mbx, 0x400), (.vidStreamClose fn mbx, 0x401), (.vidDecodeSubmit fn mbx, 0x402), (.vidEncodeSubmit fn mbx, 0x403), (.vidEncodeSet fn mbx, 0x404), (.vidConvertJob fn mbx, 0x405), (.vidJobCancel fn mbx, 0x406), (.vidJpegSubmit fn mbx, 0x407), (.vidStreamQuery fn mbx, 0x408), (.vidOutputAck fn mbx, 0x409), (.pwrStatus fn mbx, 0x500), (.pwrSetPhases fn mbx, 0x501), (.pwrSetShare fn mbx, 0x502), (.pwrSetSafe fn mbx, 0x503), (.pwrOperatorCap fn mbx, 0x504), (.pwrThrottleRead fn mbx, 0x505), (.lifeQuery fn mbx, 0x506), (.logRead fn mbx, 0x600), (.logClear fn mbx, 0x601), (.dumpRead fn mbx, 0x602), (.dumpClear fn mbx, 0x603), (.rasSetPolicy fn mbx, 0x604), (.pageStateRead fn mbx, 0x605), (.chipReset fn mbx, 0x607), (.rasQuery fn mbx, 0x608), (.secStatus fn mbx, 0x700), (.debugOpen fn mbx, 0x704), (.debugClose fn mbx, 0x705), (.updateCommit fn mbx, 0x802), (.updateActivate fn mbx, 0x803), (.updateAbort fn mbx, 0x804), (.updateStatus fn mbx, 0x805), (.pairStatus fn mbx, 0x900), (.pairSetMode fn mbx, 0x901), (.pairTakeback fn mbx, 0x902), (.pairResync fn mbx, 0x903)] ∧ s.executes fn mbx e.2 = false :=
  ⟨0, 0, State.reset, (.nop 0 0, 9), by decide +kernel, by decide +kernel, by simp, by decide +kernel⟩

theorem witness_QueryCommandsFrame :
    ∃ (fn : Nat) (mbx : Nat) (s : State) (t : State) (c : Instr), c ∈ [.nop fn mbx, .moduleInfo fn mbx, .timeGet fn mbx, .pwrStatus fn mbx, .lifeQuery fn mbx, .rasQuery fn mbx, .secStatus fn mbx, .pairStatus fn mbx, .serveStats fn mbx, .vidStreamQuery fn mbx, .partQuery fn mbx] ∧ exec c s = .next t :=
  ⟨0, 0, State.reset, State.reset, .nop 0 0, by simp, rfl⟩

theorem witness_LimitRefusals :
    ∃ (fn : Nat) (mbx : Nat) (image : Option ProgImage) (failed : List Nat) (s : State) (e : Instr × Nat), e ∈ [(.pageRelease fn mbx, 0x106), (.pageMap fn mbx, 0x107), (.pageReplace fn mbx, 0x108), (.progLoad fn mbx image, 0x200), (.ctxStart fn mbx, 0x202), (.memCopyIn fn mbx, 0x205), (.memCopyOut fn mbx, 0x206), (.vidStreamOpen fn mbx, 0x400), (.vidDecodeSubmit fn mbx, 0x402), (.vidConvertJob fn mbx, 0x405), (.vidJpegSubmit fn mbx, 0x407), (.selftest fn mbx failed, 0x606)] ∧ (failed.all (fun k => decide (k < 64 * 66)) = true) ∧ s.posted fn mbx e.2 = true ∧ s.badLimit fn mbx e.2 = true :=
  ⟨1, 0, none, [], posted 1 0 0x106 [] State.reset, (.pageRelease 1 0, 0x106), by simp, by decide, by decide +kernel, by decide +kernel⟩

theorem witness_IntegerInstructionFrame :
    ∃ (i : Nat) (sl : Nat) (g : Nat) (len : Nat) (rd : Nat) (a : Nat) (b : Nat) (v : Nat) (imm : Int) (o1 : AluOp) (o2 : AluOp) (w1 : Bool) (w2 : Bool) (c : BrCond) (op : ScalarOp) (s : State), i < 64 ∧ sl < 64 ∧ (len = 2 ∨ len = 4) ∧ rd < 32 ∧ a < 32 ∧ b < 32 ∧ (w1 = false ∨ AluOp.hasW o1 = true) ∧ (w2 = false ∨ AluOp.hasW o2 = true) ∧ hasImm o2 = true ∧ op ∈ [.alu o1 w1 rd a b, .alui o2 w2 rd a imm, .lui rd v, .auipc rd v, .jal rd imm, .jalr rd a imm, .branch c a b imm] ∧ s.pickThread (i * 64 + sl) op = some g ∧ s.canIssue g len (opKeys op) = true :=
  ⟨0, 0, 0, 4, 31, 0, 31, 1, -1, .sub, .add, true, false, .eq, .alu .sub true 31 0 31, running thr, by decide +kernel⟩

theorem witness_PlainWriteFrame :
    ∃ (fn : Nat) (psn : Nat) (first : Nat) (p : Nat) (o : Nat) (data : List Byte) (x : Seen) (y : Seen) (s : State), fn ≤ 16 ∧
      psn < sectors ∧ first + data.length ≤ 256 ∧ seenOk x = true ∧ seenOk y = true ∧ data ≠ [] ∧
      (s.page (psn / 256)).owner = ownerCode fn ∧ (s.page (psn / 256)).migrating = false ∧ s.chanTrains (psnChannel psn) = false ∧
      s.chanFailed (psnChannel psn) = false ∧ (((s.page (psn / 256)).st = .written ∧
      (data.length = 256 ∨ s.readSector psn 0 x y = (s, true))) ∨ ((s.page (psn / 256)).st = .unwritten ∧ ∀ q, q / 256 = psn / 256 →
      tabGet s.pln.secEpoch 0 q ≠ (s.page (psn / 256)).epoch)) ∧
      (p * 65536 + o < psn * 256 + first ∨ psn * 256 + first + data.length ≤ p * 65536 + o) :=
  ⟨1, 0, 255, 0, 254, [7], {}, {}, (State.reset.setPage 0 { owner := ownerCode 1, st := .written }), by decide +kernel, by decide +kernel, by decide, by decide, by decide, by decide, by decide +kernel, by decide +kernel, by decide +kernel, by decide +kernel, Or.inl ⟨by decide +kernel, Or.inr (by decide +kernel)⟩, Or.inl (by decide)⟩

theorem witness_StagingAreaFrame :
    ∃ (off : Nat) (data : List Byte) (s : State), s.Inv ∧ s.mbx.usbAttached = true ∧ off + data.length ≤ stagingBytes :=
  ⟨0, [1, 2], { State.reset with mbx := { State.reset.mbx with usbAttached := true } }, ⟨by decide +kernel, by decide +kernel, by decide +kernel, by decide +kernel, by decide +kernel⟩, by decide +kernel, by decide +kernel⟩

theorem witness_W1cBitsAndEventCounters :
    (∃ (fn : Nat) (off : Nat) (i : Nat) (r : Reg) (s : State), s.Inv ∧ fn ≤ 16 ∧ off < 65536 ∧ s.regAt fn off = some (off, r, i) ∧
      r.info.w1c ≠ 0 ∧ s.fnState fn ≠ fnScrubbing) ∧
    (∃ (r : Reg) (c : Reg), r.counterOf = some c) :=
  ⟨⟨0, 0x8118, 0, .ISL_EVT, State.reset, ⟨by decide +kernel, by decide +kernel, by decide +kernel, by decide +kernel, by decide +kernel⟩, by decide +kernel, by decide +kernel, by decide +kernel, by decide +kernel, by decide +kernel⟩,
   ⟨.ISL_EVT, .ISL_EVT_CNT, by decide +kernel⟩⟩

theorem witness_LogReportsCoalesce :
    ∃ (pre : List LogEnt) (post : List LogEnt) (e : LogEnt) (die : Nat) (unit : Nat) (inst : Nat) (sub : Nat) (cls : Nat) (sev : Nat) (synd : Nat) (s : State), s.ras.log = pre ++ e :: post ∧ post.length < 64 ∧ e.die = die ∧ e.unit = unit ∧ e.inst = inst ∧ e.sub = sub ∧ e.cls = cls ∧ e.sev = sev ∧ e.synd = synd ∧ s.time < e.time + 1000000 ∧ (∀ x ∈ pre.drop (pre.length + 1 + post.length - 64), ¬(x.die = die ∧ x.unit = unit ∧ x.inst = inst ∧ x.sub = sub ∧ x.cls = cls ∧ x.sev = sev ∧ x.synd = synd ∧ s.time < x.time + 1000000)) :=
  ⟨[], [], { time := 0, die := 4, unit := 9, inst := 0, sub := 0, cls := 0x32, count := 1, func := 0x1F, sev := 3, prior := false, addr := 0, synd := 0, ctx := 0 }, 4, 9, 0, 0, 0x32, 3, 0, { State.reset with ras := { State.reset.ras with log := [{ time := 0, die := 4, unit := 9, inst := 0, sub := 0, cls := 0x32, count := 1, func := 0x1F, sev := 3, prior := false, addr := 0, synd := 0, ctx := 0 }] } }, by decide +kernel⟩

theorem witness_MaskedVectorsPendAndGoOnce :
    ∃ (fn : Nat) (vec : Nat) (addr : Nat) (s : State), fn ≤ 16 ∧ vec < vecCount fn ∧
      ((tabGet s.lnk.msix {} (fn * 256 + vec)).masked = true ∨ (tabGet s.lnk.msix {} (fn * 256 + vec)).addr = 0) ∧
      s.cfgLocked fn = false ∧ addr ≠ 0 :=
  ⟨1, 31, 0x1000, State.reset, by decide +kernel⟩

theorem witness_UnsecuredTdiRequestsAreRefused :
    ∃ (fn : Nat) (onStream : Bool) (tBit : Bool) (s : State), 1 ≤ fn ∧ fn ≤ 16 ∧ s.tdi fn = .run ∧ (onStream = false ∨ tBit = false) :=
  ⟨16, false, true, State.reset.setTdi 16 .run, by decide +kernel⟩

theorem witness_CertificateReads :
    (∃ (fn : Nat) (mbx : Nat) (cert : List Byte) (s : State), s.Inv ∧ fn ≤ 16 ∧ s.posted fn mbx 0x701 = true ∧ s.hostOk fn = true ∧
      s.owned fn 16 = false ∧ s.arg fn mbx 0 ≤ 4 ∧ cert.length ≤ s.arg fn mbx 3) ∧
    (∃ (fn : Nat) (mbx : Nat) (cert : List Byte) (s : State), s.posted fn mbx 0x701 = true ∧
      (4 < s.arg fn mbx 0 ∨ s.arg fn mbx 3 < cert.length)) :=
  ⟨⟨0, 0, [1], posted 0 0 0x701 [0, 0, 0, 16] State.reset, ⟨by decide +kernel, by decide +kernel, by decide +kernel, by decide +kernel, by decide +kernel⟩, by decide +kernel⟩,
   ⟨17, 0, [1], posted 17 0 0x701 [5, 0, 0, 16] State.reset, by decide +kernel⟩⟩

theorem witness_UpdateStatusBitmap :
    ∃ (fn : Nat) (mbx : Nat) (l : List Byte) (s : State), fn ≤ 16 ∧ s.posted fn mbx 0x805 = true ∧ s.hostOk fn = true ∧
      s.owned fn 16 = false ∧ l.length = 96 ∧ (∀ b, b < 768 → (l.getD (b / 8) 0).getLsbD (b % 8) = s.upd.blocks.contains b) :=
  ⟨0, 0, List.replicate 96 0, posted 0 0 0x805 [] State.reset, by decide +kernel⟩

theorem witness_RegisterWriteEffects :
    (∃ (fn : Nat) (off : Nat) (width : Nat) (i : Nat) (r : Reg) (s : State), fn ≤ 16 ∧ off < 65536 ∧ s.regAt fn off = some (off, r, i) ∧
      width * 8 = r.info.width) ∧
    (∃ (fn : Nat) (off : Nat) (i : Nat) (r : Reg) (s : State), fn ≤ 16 ∧ off < 65536 ∧ s.regAt fn off = some (off, r, i) ∧
      r.info.width = 64 ∧ s.fnState fn ≠ fnScrubbing) ∧
    (∃ (fn : Nat) (off : Nat) (i : Nat) (l : BitVec 32) (r : Reg) (s : State), fn ≤ 16 ∧ off < 65532 ∧
      s.regAt fn (off + 4) = some (off, r, i) ∧ r.info.width = 64 ∧ tabFind s.mbx.heldLow (halfKey fn off) = some l) ∧
    (∃ (fn : Nat) (off : Nat) (i : Nat) (r : Reg) (s : State), fn ≤ 16 ∧ off < 65532 ∧ s.regAt fn (off + 4) = some (off, r, i) ∧
      r.info.width = 64 ∧ tabFind s.mbx.heldLow (halfKey fn off) = none) ∧
    (∃ (fn : Nat) (off : Nat) (i : Nat) (r : Reg) (s : State), fn ≤ 16 ∧ off < 65536 ∧ s.regAt fn off = some (off, r, i) ∧
      r.info.w1c ≠ 0 ∧ s.fnState fn ≠ fnScrubbing) ∧
    (∃ (fn : Nat) (off : Nat) (i : Nat) (r : Reg) (s : State), fn ≤ 16 ∧ off < 65536 ∧ s.regAt fn off = some (off, r, i) ∧
      s.fnState fn = fnScrubbing) :=
  ⟨⟨0, 0x8118, 4, 0, .ISL_EVT, State.reset, by decide +kernel⟩,
   ⟨0, 0x2000, 0, .FN_EVT_BASE, State.reset, by decide +kernel⟩,
   ⟨0, 0x2000, 0, 7, .FN_EVT_BASE, { State.reset with mbx := { heldLow := tabSet [] (halfKey 0 0x2000) 7 } }, by decide +kernel⟩,
   ⟨0, 0x2000, 0, .FN_EVT_BASE, State.reset, by decide +kernel⟩,
   ⟨0, 0x8118, 0, .ISL_EVT, State.reset, by decide +kernel⟩,
   ⟨1, 0x2000, 1, .FN_EVT_BASE, State.reset.wrF .FN_STATUS 1 0 3 2, by decide +kernel⟩⟩

theorem witness_RegisterReadEffects :
    (∃ (fn : Nat) (off : Nat) (i : Nat) (r : Reg) (s : State), fn ≤ 16 ∧ off < 65536 ∧ s.regAt fn off = some (off, r, i) ∧
      r.info.width = 64) ∧
    (∃ (fn : Nat) (off : Nat) (width : Nat) (s : State), fn ≤ 16 ∧ off < 65536 ∧ s.goodAccess fn off width = false ∧
      (width ≠ 4 ∨ s.regAt fn off = none)) ∧
    (∃ (fn : Nat) (off : Nat) (i : Nat) (r : Reg) (s : State), fn ≤ 16 ∧ off < 65532 ∧ s.regAt fn (off + 4) = some (off, r, i) ∧
      r.info.width = 64) ∧
    (∃ (fn : Nat) (off : Nat) (width : Nat) (s : State), fn ≤ 16 ∧ off < 65536 ∧ s.goodAccess fn off width = false) :=
  ⟨⟨0, 0x2000, 0, .FN_EVT_BASE, State.reset, by decide +kernel⟩,
   ⟨0, 2, 2, State.reset, by decide +kernel⟩,
   ⟨0, 0x2000, 0, .FN_EVT_BASE, State.reset, by decide +kernel⟩,
   ⟨0, 2, 2, State.reset, by decide +kernel⟩⟩

theorem witness_StraitRecovery :
    (∃ (k : Nat) (s : State), k < 9 ∧ s.fab.straitDown.contains k = false ∧ s.fab.straitTrain.contains k = false) ∧
    (∃ (k : Nat) (s : State), k < 9 ∧ s.fab.straitDown.contains k = false ∧ s.fab.straitTrain.contains k = false ∧
      tabGet s.fab.straitFails 0 k < 7) ∧
    (∃ (k : Nat) (s : State), k < 9 ∧ s.fab.straitDown.contains k = false ∧ s.fab.straitTrain.contains k = false ∧
      tabGet s.fab.straitFails 0 k = 7) ∧
    (∃ (k : Nat) (s : State), k < 9 ∧ s.fab.straitTrain.contains k = true) :=
  ⟨⟨8, State.reset, by decide +kernel⟩,
   ⟨8, State.reset, by decide +kernel⟩,
   ⟨0, { State.reset with fab := { straitFails := [(0, 7)] } }, by decide +kernel⟩,
   ⟨8, { State.reset with fab := { straitTrain := [8] } }, by decide +kernel⟩⟩

theorem witness_ScalarIntegerResults :
    (∃ (i : Nat) (sl : Nat) (g : Nat) (len : Nat) (rd : Nat) (a : Nat) (b : Nat) (op : AluOp) (w : Bool) (s : State), i < 64 ∧ sl < 64 ∧
      (len = 2 ∨ len = 4) ∧ rd < 32 ∧ a < 32 ∧ b < 32 ∧ s.pickThread (i * 64 + sl) (.alu op w rd a b) = some g ∧
      s.canIssue g len (opKeys (.alu op w rd a b)) = true ∧ (w = false ∨ AluOp.hasW op = true)) ∧
    (∃ (i : Nat) (sl : Nat) (g : Nat) (len : Nat) (rd : Nat) (a : Nat) (imm : Int) (op : AluOp) (w : Bool) (s : State), i < 64 ∧
      sl < 64 ∧ (len = 2 ∨ len = 4) ∧ rd < 32 ∧ a < 32 ∧ s.pickThread (i * 64 + sl) (.alui op w rd a imm) = some g ∧
      s.canIssue g len (opKeys (.alui op w rd a imm)) = true ∧ hasImm op = true ∧ (w = false ∨ AluOp.hasW op = true)) ∧
    (∃ (i : Nat) (sl : Nat) (g : Nat) (len : Nat) (rd : Nat) (s : State), i < 64 ∧ sl < 64 ∧ (len = 2 ∨ len = 4) ∧ rd < 32 ∧
      s.canIssue g len [] = true) ∧
    (∃ (i : Nat) (sl : Nat) (g : Nat) (len : Nat) (rd : Nat) (a : Nat) (off : Int) (s : State), i < 64 ∧ sl < 64 ∧ (len = 2 ∨ len = 4) ∧
      rd < 32 ∧ a < 32 ∧ s.pickThread (i * 64 + sl) (.jalr rd a off) = some g ∧ s.canIssue g len (opKeys (.jalr rd a off)) = true) ∧
    (∃ (i : Nat) (sl : Nat) (g : Nat) (len : Nat) (rd : Nat) (off : Int) (s : State), i < 64 ∧ sl < 64 ∧ (len = 2 ∨ len = 4) ∧ rd < 32 ∧
      s.pickThread (i * 64 + sl) (.jal rd off) = some g ∧ s.canIssue g len (opKeys (.jal rd off)) = true) ∧
    (∃ (i : Nat) (sl : Nat) (g : Nat) (len : Nat) (a : Nat) (b : Nat) (c : BrCond) (off : Int) (s : State), i < 64 ∧ sl < 64 ∧
      (len = 2 ∨ len = 4) ∧ a < 32 ∧ b < 32 ∧ s.pickThread (i * 64 + sl) (.branch c a b off) = some g ∧
      s.canIssue g len (opKeys (.branch c a b off)) = true) ∧
    (∃ (i : Nat) (sl : Nat) (g : Nat) (len : Nat) (s : State), i < 64 ∧ sl < 64 ∧ (len = 2 ∨ len = 4) ∧ s.canIssue g len [] = true) :=
  ⟨⟨0, 0, 0, 4, 31, 31, 0, .add, false, running thr, by decide +kernel⟩,
   ⟨0, 0, 0, 2, 31, 0, -1, .add, true, running thr, by decide +kernel⟩,
   ⟨0, 0, 0, 4, 0, running thr, by decide +kernel⟩,
   ⟨0, 0, 0, 4, 1, 1, 8, running thr, by decide +kernel⟩,
   ⟨0, 0, 0, 4, 1, 8, running thr, by decide +kernel⟩,
   ⟨0, 0, 0, 4, 1, 1, .eq, 8, running thr, by decide +kernel⟩,
   ⟨0, 0, 0, 4, running thr, by decide +kernel⟩⟩

theorem witness_ScalarMemoryAndFloat :
    (∃ (i : Nat) (sl : Nat) (g : Nat) (len : Nat) (rd : Nat) (a : Nat) (n : Nat) (imm : Int) (sx : Bool) (s : State), i < 64 ∧ sl < 64 ∧
      (len = 2 ∨ len = 4) ∧ rd < 32 ∧ a < 32 ∧ (n = 1 ∨ n = 2 ∨ n = 4 ∨ n = 8) ∧
      s.pickThread (i * 64 + sl) (.load rd a imm n sx) = some g ∧ s.canIssue g len (opKeys (.load rd a imm n sx)) = true) ∧
    (∃ (i : Nat) (sl : Nat) (g : Nat) (len : Nat) (a : Nat) (b : Nat) (n : Nat) (imm : Int) (s : State), i < 64 ∧ sl < 64 ∧
      (len = 2 ∨ len = 4) ∧ a < 32 ∧ b < 32 ∧ (n = 1 ∨ n = 2 ∨ n = 4 ∨ n = 8) ∧ s.pickThread (i * 64 + sl) (.store b a imm n) = some g ∧
      s.canIssue g len (opKeys (.store b a imm n)) = true) ∧
    (∃ (i : Nat) (sl : Nat) (len : Nat) (rd : Nat) (a : Nat), i < 64 ∧ sl < 64 ∧ (len = 2 ∨ len = 4) ∧ rd < 32 ∧ a < 32) ∧
    (∃ (i : Nat) (sl : Nat) (g : Nat) (len : Nat) (rd : Nat) (a : Nat) (b : Nat) (c : Nat) (rm : Nat) (m : Nat) (op : FpOp) (s : State), i < 64 ∧ sl < 64 ∧ (len = 2 ∨ len = 4) ∧ rd < 32 ∧ a < 32 ∧ b < 32 ∧ c < 32 ∧ rm < 8 ∧ s.pickThread (i * 64 + sl) (.fp op rd a b c rm) = some g ∧ s.canIssue g len (opKeys (.fp op rd a b c rm)) = true ∧ FpOp.toX op = false ∧ (if FpOp.rounds op then effRm rm (s.th g).frm else some 0) = some m) ∧
    (∃ (i : Nat) (sl : Nat) (g : Nat) (len : Nat) (rd : Nat) (a : Nat) (b : Nat) (c : Nat) (rm : Nat) (m : Nat) (op : FpOp) (s : State), i < 64 ∧ sl < 64 ∧ (len = 2 ∨ len = 4) ∧ rd < 32 ∧ a < 32 ∧ b < 32 ∧ c < 32 ∧ rm < 8 ∧ s.pickThread (i * 64 + sl) (.fp op rd a b c rm) = some g ∧ s.canIssue g len (opKeys (.fp op rd a b c rm)) = true ∧ FpOp.toX op = true ∧ (if FpOp.rounds op then effRm rm (s.th g).frm else some 0) = some m) ∧
    (∃ (i : Nat) (sl : Nat) (g : Nat) (len : Nat) (rd : Nat) (a : Nat) (b : Nat) (c : Nat) (rm : Nat) (op : FpOp) (s : State), i < 64 ∧
      sl < 64 ∧ (len = 2 ∨ len = 4) ∧ rd < 32 ∧ a < 32 ∧ b < 32 ∧ c < 32 ∧ rm < 8 ∧
      s.pickThread (i * 64 + sl) (.fp op rd a b c rm) = some g ∧ s.canIssue g len (opKeys (.fp op rd a b c rm)) = true ∧
      FpOp.rounds op = true ∧ effRm rm (s.th g).frm = none) :=
  ⟨⟨0, 0, 0, 4, 1, 31, 8, 0, true, running thr, by decide +kernel⟩,
   ⟨0, 0, 0, 4, 1, 31, 1, 0, running thr, by decide +kernel⟩,
   ⟨0, 0, 4, 1, 31, by decide +kernel⟩,
   ⟨0, 0, 0, 4, 31, 0, 0, 0, 0, 0, .add, running thr, by decide +kernel⟩,
   ⟨0, 0, 0, 4, 31, 0, 0, 0, 0, 0, .eq, running thr, by decide +kernel⟩,
   ⟨0, 0, 0, 4, 31, 0, 0, 0, 5, .add, running thr, by decide +kernel⟩⟩

theorem witness_VectorInstructionEffects :
    ∃ (g : Nat) (op : VecOp) (s : State), g < 32768 ∧ VecOp.ok op = true ∧ s.vecFree g = true ∧ s.vTaken g op = true ∧
      s.canIssue g 4 (VecOp.keys op (s.th g)) = true :=
  ⟨0, .vset 1 (.imm 4) (.imm 0), running thr, by decide +kernel⟩

theorem witness_ThreadCompletions :
    (∃ (g : Nat) (n : Nat) (l : PLoad) (s : State), g < 32768 ∧ (s.th g).loads[n]? = some l ∧
      s.addrsTrain (s.thFn g) (thIsl g) (thCore g) l.addrs = false ∧ s.sameBefore g n l = false ∧
      s.plainBad (s.thFn g) l.addrs false = none ∧ l.addrs.find? (s.badWord g) = none) ∧
    (∃ (g : Nat) (p : PStore) (s : State), g < 32768 ∧ (s.th g).store = some p ∧
      s.addrsTrain (s.thFn g) (thIsl g) (thCore g) (p.parts.map (·.1)) = false ∧ s.addrsMove (s.thFn g) (p.parts.map (·.1)) = false ∧
      s.plainBad (s.thFn g) (p.parts.map (·.1)) true = none) :=
  ⟨⟨0, 0, { pc := 0, rd := 1, addr := 8, kind := .int 8 false, ord := 0 }, running { thr with loads := [{ pc := 0, rd := 1, addr := 8, kind := .int 8 false, ord := 0 }] }, by decide +kernel⟩,
   ⟨0, { pc := 0, parts := [], ord := 0 }, running { thr with store := some { pc := 0, parts := [], ord := 0 } }, by decide +kernel⟩⟩

theorem witness_FencesAndSystemInstructions :
    (∃ (g : Nat) (pred : Nat) (s : State), g < 32768 ∧ (pred / 2 % 2 = 1 → (s.th g).loads = []) ∧ (pred % 4 ≠ 0 → s.xytIdle g = true) ∧
      s.canIssue g 4 [] = true) ∧
    (∃ (g : Nat) (s : State), g < 32768 ∧ s.canIssue g 4 [] = true) ∧
    (∃ (g : Nat) (len : Nat) (s : State), g < 32768 ∧ s.canIssue g len [] = true) ∧
    (∃ (g : Nat) (csr : Nat) (rd : Nat) (src : Nat) (op : CsrOp) (old : Word) (s : State), g < 32768 ∧ csr < 4096 ∧ rd < 32 ∧ src < 32 ∧
      s.canIssue g 4 (if csrImm op then [] else [src]) = true ∧ s.csrRead g csr = some old ∧
      csrNew op old (if csrImm op then w64 src else (s.th g).xr src) src = none) ∧
    (∃ (g : Nat) (csr : Nat) (rd : Nat) (src : Nat) (op : CsrOp) (old : Word) (new : Word) (s : State) (t : State), g < 32768 ∧
      csr < 4096 ∧ rd < 32 ∧ src < 32 ∧ s.canIssue g 4 (if csrImm op then [] else [src]) = true ∧ s.csrRead g csr = some old ∧
      csrNew op old (if csrImm op then w64 src else (s.th g).xr src) src = some new ∧ s.csrWrite g csr new = some t) ∧
    (∃ (g : Nat) (csr : Nat) (rd : Nat) (src : Nat) (op : CsrOp) (s : State), g < 32768 ∧ csr < 4096 ∧ rd < 32 ∧ src < 32 ∧
      s.canIssue g 4 (if csrImm op then [] else [src]) = true ∧ s.csrRead g csr = none) ∧
    (∃ (g : Nat) (s : State), g < 32768 ∧ s.ctxRuns g = true) :=
  ⟨⟨0, 15, running thr, by decide +kernel⟩,
   ⟨0, running thr, by decide +kernel⟩,
   ⟨0, 2, running thr, by decide +kernel⟩,
   ⟨0, 0xC01, 1, 0, .rs, 0, running thr, by decide +kernel⟩,
   ⟨0, 0x801, 1, 3, .rwi, 0, 3, running thr, (running thr).updTh 0 fun t => { t with scaleA := 3 }, by decide +kernel⟩,
   ⟨0, 0x300, 1, 0, .rs, running thr, by decide +kernel⟩,
   ⟨0, running thr, by decide +kernel⟩⟩

theorem witness_MonitorCalls :
    (∃ (g : Nat) (s : State), g < 32768 ∧ s.upd.stage ≠ .window ∧ (s.th g).xr 17 = 0 ∧ s.canIssue g 4 [10, 17] = true) ∧
    (∃ (g : Nat) (s : State), g < 32768 ∧ s.upd.stage ≠ .window ∧ (s.th g).xr 17 = 1 ∧ s.canIssue g 4 [10, 11, 17] = true ∧
      1 ≤ ((s.th g).xr 11).toNat ∧ ((s.th g).xr 11).toNat ≤ 256 ∧ ((s.th g).xr 10).toNat + ((s.th g).xr 11).toNat ≤ lsBytes ∧
      tabFind s.fab.traceT g = none) ∧
    (∃ (g : Nat) (s : State), g < 32768 ∧ s.upd.stage ≠ .window ∧ (s.th g).xr 17 = 1 ∧ s.canIssue g 4 [10, 11, 17] = true ∧
      (((s.th g).xr 11).toNat = 0 ∨ 256 < ((s.th g).xr 11).toNat ∨ lsBytes < ((s.th g).xr 10).toNat + ((s.th g).xr 11).toNat)) ∧
    (∃ (g : Nat) (x : Nat) (s : State), g < 32768 ∧ s.upd.stage ≠ .window ∧ (s.th g).xr 17 = 1 ∧ s.canIssue g 4 [10, 11, 17] = true ∧
      1 ≤ ((s.th g).xr 11).toNat ∧ ((s.th g).xr 11).toNat ≤ 256 ∧ ((s.th g).xr 10).toNat + ((s.th g).xr 11).toNat ≤ lsBytes ∧
      tabFind s.fab.traceT g = some x ∧ s.time < x + 100000) ∧
    (∃ (g : Nat) (s : State), g < 32768 ∧ s.upd.stage ≠ .window ∧ (s.th g).xr 17 = 2 ∧ s.canIssue g 4 [10, 17] = true) ∧
    (∃ (g : Nat) (s : State), g < 32768 ∧ s.upd.stage ≠ .window ∧ 3 ≤ ((s.th g).xr 17).toNat ∧ s.canIssue g 4 [10, 17] = true) :=
  ⟨⟨0, running thr, by decide +kernel⟩,
   ⟨0, running { thr with x := [(11, 256), (17, 1)] }, by decide +kernel⟩,
   ⟨0, running { thr with x := [(11, 257), (17, 1)] }, by decide +kernel⟩,
   ⟨0, 0, { running { thr with x := [(11, 256), (17, 1)] } with fab := { (running { thr with x := [(11, 256), (17, 1)] }).fab with traceT := [(0, 0)] } }, by decide +kernel⟩,
   ⟨0, running { thr with x := [(17, 2)] }, by decide +kernel⟩,
   ⟨0, running { thr with x := [(17, 3)] }, by decide +kernel⟩⟩

theorem witness_ContextEnds :
    (∃ (c : Nat) (x : Ctx) (s : State), c < 2 ^ 32 ∧ s.ctx c = some x ∧ x.done = false ∧ x.why = none ∧ x.serving = none ∧
      s.ctxFinished c = true) ∧
    (∃ (c : Nat) (x : Ctx) (why : CtxEnd) (s : State), c < 2 ^ 32 ∧ s.ctx c = some x ∧ x.why = some why ∧ x.done = false ∧
      s.engineAsked x = false) :=
  ⟨⟨1, { fn := 1, prog := 0, islands := [0], arg := 0, startT := 0, seq := 0 }, running { thr with st := .exited }, by decide +kernel⟩,
   ⟨1, { fn := 1, prog := 0, islands := [0], arg := 0, startT := 0, seq := 0, why := some (.abort 0) }, .abort 0, { State.reset with fab := { ctxs := [(1, { fn := 1, prog := 0, islands := [0], arg := 0, startT := 0, seq := 0, why := some (.abort 0) })] } }, by decide +kernel⟩⟩

theorem witness_ClaimCounters :
    ∃ (g : Nat) (n : Nat) (k : Nat) (rd : Nat) (i : Nat) (s : State), g < 32768 ∧ n < 64 ∧ k < 64 ∧ rd < 32 ∧ s.canIssue g 4 [] = true ∧
      s.nthIsland (s.thFn g) n = some i :=
  ⟨0, 0, 63, 31, 0, (running thr).setPrt 1 { islands := 1 }, by decide +kernel⟩

theorem witness_IslandCommands :
    (∃ (i : Nat) (s : State), i < 64 ∧ s.rdF .ISL_STATUS i 24 1 = 1) ∧
    (∃ (i : Nat) (s : State), i < 64 ∧ (s.isl i).remapDue = true) ∧
    (∃ (i : Nat) (fn : Nat) (vpn : Nat) (e : MapEnt) (s : State), i < 64 ∧ fn ≤ 16 ∧ vpn < 2 ^ 21 ∧ s.islOwner i = fn ∧
      tabFind s.pln.maps (mapKey fn vpn) = some e ∧ (((s.isl i).tlb.any fun x => decide (x.fn = fn ∧ x.vpn = vpn)) = false) ∧
      (((s.isl i).tlb.filter fun x => x.vpn % 256 == vpn % 256).length < 8)) ∧
    (∃ (k : Nat) (fn : Nat) (vpn : Nat) (e : MapEnt) (s : State), 64 ≤ k ∧ k < 81 ∧ fn ≤ 16 ∧ vpn < 2 ^ 21 ∧
      tabFind s.pln.maps (mapKey fn vpn) = some e ∧ (((tabGet s.pln.caches [] (k - 64)).any fun x => decide (x.fn = fn ∧
      x.vpn = vpn)) = false)) ∧
    (∃ (i : Nat) (drop : Nat) (s : State), i < 64 ∧ s.droopMv i < drop) ∧
    (∃ (i : Nat) (c : Nat) (s : State), i < 64 ∧ (s.isl i).droopAt = some c ∧ c + 64 ≤ s.islCycle i) ∧
    (∃ (i : Nat) (s : State), i < 64 ∧ s.rdF .ISL_PDM_CTL i 0 1 = 0) ∧
    (∃ (i : Nat) (s : State), i < 64 ∧ s.rdF .ISL_PDM_CTL i 0 1 = 1) :=
  ⟨⟨63, State.reset.wrF .ISL_STATUS 63 24 1 1, by decide +kernel⟩,
   ⟨0, State.reset.updIsl 0 fun x => { x with remapDue := true }, by decide +kernel⟩,
   ⟨0, 0, 5, { ppn := 7, write := true }, { State.reset with pln := { maps := [(mapKey 0 5, { ppn := 7, write := true })] } }, by decide +kernel⟩,
   ⟨80, 16, 5, { ppn := 7, write := true }, { State.reset with pln := { maps := [(mapKey 16 5, { ppn := 7, write := true })] } }, by decide +kernel⟩,
   ⟨0, 1000, State.reset, by decide +kernel⟩,
   ⟨0, 0, { (State.reset.updIsl 0 fun x => { x with droopAt := some 0 }) with fab := { (State.reset.updIsl 0 fun x => { x with droopAt := some 0 }).fab with dieCyc := [(0, 640)] } }, by decide +kernel⟩,
   ⟨0, State.reset, by decide +kernel⟩,
   ⟨0, State.reset.wrF .ISL_PDM_CTL 0 0 1 1, by decide +kernel⟩⟩

theorem witness_XytIssue :
    (∃ (g : Nat) (w : Nat) (s : State), g < 32768 ∧ isXyt w custom0 3 = true ∧ fF7 w = 0 ∧ fRs2 w = 0 ∧ s.canIssue g 4 [fRs1 w] = true ∧
      tcfgValid ((s.th g).xr (fRs1 w)) = true) ∧
    (∃ (g : Nat) (w : Nat) (s : State), g < 32768 ∧ isXyt w custom0 4 = true ∧ fF7 w < 2 ∧ fRs2 w = 0 ∧ fRd w = 0 ∧
      s.canIssue g 4 [fRs1 w] = true ∧ firstFault [(((s.th g).xr (fRs1 w)).toNat, 32, 32, 4, 5)] = none ∧
      s.loadHeld g ((s.th g).xr (fRs1 w)).toNat 32 = false ∧ s.badIn (thCore g) ((s.th g).xr (fRs1 w)).toNat 32 = none ∧ (∀ r, r < 16 →
      s.lsNat (thCore g) (((s.th g).xr (fRs1 w)).toNat + 2 * r) 2 % 4096 = 0xFFF)) ∧
    (∃ (g : Nat) (w : Nat) (s : State), g < 32768 ∧ isXyt w custom0 0 = true ∧ fF7 w < 2 ∧ fRd w = 0 ∧
      s.canIssue g 4 [fRs1 w, fRs2 w] = true ∧ tAfmt (s.th g).tcfg ≠ 6 ∧ tBfmt (s.th g).tcfg ≠ 6 ∧
      firstFault [(((s.th g).xr (fRs1 w)).toNat, blockBytes (s.th g).tcfg, 256, 4, 5), (((s.th g).xr (fRs2 w)).toNat, blockBytes (s.th g).tcfg, 256, 4, 5)] = none ∧ s.queueRoom g = true) ∧
    (∃ (g : Nat) (w : Nat) (s : State), g < 32768 ∧ isXyt w custom0 1 = true ∧ fF7 w < 4 ∧ fRd w = 0 ∧
      s.canIssue g 4 [fRs1 w, fRs2 w] = true ∧ tSmode (s.th g).tcfg = 3 ∧
      firstFault [(((s.th g).xr (fRs1 w)).toNat, blockBytes (s.th g).tcfg, 256, 4, 5), (((s.th g).xr (fRs2 w)).toNat, blockBytes (s.th g).tcfg, 256, 4, 5), ((s.th g).scaleA.toNat, kOf (s.th g).tcfg / 32 * 16, 16, 4, 5), ((s.th g).scaleB.toNat, kOf (s.th g).tcfg / 32 * 16, 16, 4, 5)] = none ∧ s.queueRoom g = true) ∧
    (∃ (g : Nat) (w : Nat) (s : State), g < 32768 ∧ isXyt w custom0 2 = true ∧ fF7 w < 4 ∧ fRs2 w = 0 ∧ fRs1 w = 0 ∧ fRd w = 0 ∧
      s.canIssue g 4 [] = true ∧ s.queueRoom g = true) ∧
    (∃ (g : Nat) (w : Nat) (s : State), g < 32768 ∧ isXyt w custom0 5 = true ∧ fF7 w < 2 ∧ fRs2 w = 0 ∧ fRd w = 0 ∧
      s.canIssue g 4 [fRs1 w] = true ∧ firstFault [(((s.th g).xr (fRs1 w)).toNat, 32, 32, 4, 5)] = none ∧
      s.loadHeld g ((s.th g).xr (fRs1 w)).toNat 32 = false ∧ s.badIn (thCore g) ((s.th g).xr (fRs1 w)).toNat 32 = none ∧
      tepiLegal (s.lsRead (thCore g) ((s.th g).xr (fRs1 w)).toNat 32) = true ∧
      tepiFault (s.lsRead (thCore g) ((s.th g).xr (fRs1 w)).toNat 32) = none ∧ s.queueRoom g = true ∧ (s.th g).loads = []) ∧
    (∃ (g : Nat) (w : Nat) (s : State), g < 32768 ∧ isXyt w custom0 6 = true ∧ fF7 w < 16 ∧ bits w 27 2 ≠ 3 ∧ fRs2 w = 0 ∧ fRs1 w = 0 ∧
      s.canIssue g 4 [64 + fRd w] = true ∧ s.queueRoom g = true) :=
  ⟨⟨0, 0x1308B, running thr, by decide +kernel⟩,
   ⟨0, 0x400B, { running thr with fab := { (running thr).fab with lsram := (List.range 32).map fun a => (a, 0xFF) } }, by decide +kernel⟩,
   ⟨0, 0x000B, running thr, by decide +kernel⟩,
   ⟨0, 0x400100B, running { thr with tcfg := 0x0766 }, by decide +kernel⟩,
   ⟨0, 0x200B, running thr, by decide +kernel⟩,
   ⟨0, 0x500B, { running thr with fab := { (running thr).fab with lsram := [(12, 64)] } }, by decide +kernel⟩,
   ⟨0, 0x608B, running thr, by decide +kernel⟩⟩

theorem witness_PassInstructions :
    (∃ (g : Nat) (w : Nat) (s : State), g < 32768 ∧ isXyt w custom1 0 = true ∧ fF7 w = 0 ∧ fRs2 w = 0 ∧ fRd w = 0 ∧
      s.canIssue g 4 [fRs1 w] = true ∧ ((s.th g).xr (fRs1 w)).toNat < 1024 ∧ s.inQuota (s.thFn g) ((s.th g).xr (fRs1 w)).toNat = true ∧
      (s.pass ((s.th g).xr (fRs1 w)).toNat).target ≠ 0 ∧ (s.th g).loads = [] ∧ s.xytIdle g = true) ∧
    (∃ (g : Nat) (w : Nat) (p : Nat) (k : Nat) (s : State), g < 32768 ∧ isXyt w custom1 1 = true ∧ fF7 w = 0 ∧ fRs2 w = 0 ∧
      s.canIssue g 4 [fRs1 w] = true ∧ ((s.th g).xr (fRs1 w)).toNat = p ∧ p < 1024 ∧ s.inQuota (s.thFn g) p = true ∧
      (s.pass p).target ≠ 0 ∧ (s.th g).latch = some (p, k) ∧ k < (s.pass p).gen) ∧
    (∃ (g : Nat) (w : Nat) (p : Nat) (s : State), g < 32768 ∧ isXyt w custom1 1 = true ∧ fF7 w = 0 ∧ fRs2 w = 0 ∧
      s.canIssue g 4 [fRs1 w] = true ∧ ((s.th g).xr (fRs1 w)).toNat = p ∧ p < 1024 ∧ s.inQuota (s.thFn g) p = true ∧
      (s.pass p).target ≠ 0 ∧ (s.th g).latch = none) ∧
    (∃ (g : Nat) (w : Nat) (s : State), g < 32768 ∧ isXyt w custom1 2 = true ∧ fF7 w < 4 ∧ fF7 w ≠ 0 ∧ fRs2 w = 0 ∧ fRs1 w = 0 ∧
      fRd w = 0 ∧ s.canIssue g 4 [] = true ∧ (bits w 25 1 = 1 → s.xytIdle g = true ∧ (s.th g).loads = [])) ∧
    (∃ (g : Nat) (w : Nat) (p : Nat) (s : State), g < 32768 ∧ fF7 w = 0 ∧ fRs2 w = 0 ∧ fRd w = 0 ∧ s.canIssue g 4 [fRs1 w] = true ∧
      ((s.th g).xr (fRs1 w)).toNat = p) :=
  ⟨⟨0, 0x802B, ((running { thr with x := [(1, 1)] }).setPrt 1 { qcount := 4 }).setPass 1 { target := 1 }, by decide +kernel⟩,
   ⟨0, 0x912B, 1, 0, ((running { thr with x := [(1, 1)], latch := some (1, 0) }).setPrt 1 { qcount := 4 }).setPass 1 { target := 1, gen := 1 }, by decide +kernel⟩,
   ⟨0, 0x912B, 1, ((running { thr with x := [(1, 1)] }).setPrt 1 { qcount := 4 }).setPass 1 { target := 1, gen := 1 }, by decide +kernel⟩,
   ⟨0, 0x600202B, running thr, by decide +kernel⟩,
   ⟨0, 0x902B, 1024, running { thr with x := [(1, 1024)] }, by decide +kernel⟩⟩

theorem witness_TensorUnitEvents :
    (∃ (i : Nat) (sl : Nat) (e : TEntry) (q : List TEntry) (s : State), i < 64 ∧ sl < 64 ∧ (s.ten (i * 64 + sl)).queue = e :: q ∧
      (s.ten (i * 64 + sl)).canDispatch e = true ∧ s.islClkOn (islDie i) = true ∧ s.hasCycle i = true ∧
      (e.op.isMM = false ∨ (s.ten (i * 64 + sl)).issuing = true ∨ (s.ten (i * 64 + sl)).admitted = true)) ∧
    (∃ (i : Nat) (sl : Nat) (e : TEntry) (q : List TEntry) (s : State), i < 64 ∧ sl < 64 ∧ (s.ten (i * 64 + sl)).queue = e :: q ∧
      (s.ten (i * 64 + sl)).canDispatch e = true ∧ s.islClkOn (islDie i) = true ∧ s.hasCycle i = true ∧ e.op.isMM = true ∧
      (s.ten (i * 64 + sl)).issuing = false ∧ (s.ten (i * 64 + sl)).admitted = false) ∧
    (∃ (i : Nat) (sl : Nat) (e : TEntry) (s : State), i < 64 ∧ sl < 64 ∧ (s.ten (i * 64 + sl)).arr = some e ∧
      (s.ten (i * 64 + sl)).reexec = false ∧ (s.ten (i * 64 + sl)).sramHeld e = false ∧ s.badRead e .none = none) ∧
    (∃ (i : Nat) (sl : Nat) (e : TEntry) (s : State), i < 64 ∧ sl < 64 ∧ (s.ten (i * 64 + sl)).arr = some e ∧
      (s.ten (i * 64 + sl)).reexec = false ∧ (s.ten (i * 64 + sl)).sramHeld e = false ∧ s.badRead e .none = none) ∧
    (∃ (i : Nat) (sl : Nat) (e : TEntry) (s : State), i < 64 ∧ sl < 64 ∧ (s.ten (i * 64 + sl)).arr = some e ∧
      (s.ten (i * 64 + sl)).reexec = true) ∧
    (∃ (i : Nat) (sl : Nat) (e : TEntry) (s : State), i < 64 ∧ sl < 64 ∧ (s.ten (i * 64 + sl)).arr = some e ∧
      (s.ten (i * 64 + sl)).reexec = true ∧ s.faultWaits e.gid e.ord = false) ∧
    (∃ (i : Nat) (sl : Nat) (e : TEntry) (d : List Byte) (s : State), i < 64 ∧ sl < 64 ∧ (s.ten (i * 64 + sl)).epi = some e ∧
      e.op = .tepi d ∧ (s.ten (i * 64 + sl)).sramHeld e = false ∧ (s.linesFor e d).all (s.isl i).lines.contains = true ∧
      s.badRead e .none = none) ∧
    (∃ (i : Nat) (sl : Nat) (op : Nat) (vd : Nat) (col : Bool) (e : TEntry) (s : State), i < 64 ∧ sl < 64 ∧
      (s.ten (i * 64 + sl)).epi = some e ∧ e.op = .tred op col vd) ∧
    (∃ (i : Nat) (sl : Nat) (a : Nat) (l : Nat) (k : Nat) (e : TEntry) (d : List Byte) (s : State), i < 64 ∧ sl < 64 ∧
      (s.ten (i * 64 + sl)).epi = some e ∧ e.op = .tepi d ∧ (s.linesFor e d).contains (a, l, k) = true ∧
      (s.isl i).lines.contains (a, l, k) = false ∧ (s.isl i).lines.length < 512) ∧
    (∃ (i : Nat) (sl : Nat), i < 64 ∧ sl < 64) ∧
    (∃ (i : Nat), i < 64) :=
  ⟨⟨0, 0, entry0 (.tzero true), [], (running thr).setTen 0 { queue := [entry0 (.tzero true)] }, by decide +kernel⟩,
   ⟨0, 0, entry0 (.tmma 0 0), [], (running thr).setTen 0 { queue := [entry0 (.tmma 0 0)] }, by decide +kernel⟩,
   ⟨0, 0, entry0 (.tmma 0 0), (running thr).setTen 0 { arr := some (entry0 (.tmma 0 0)) }, by decide +kernel⟩,
   ⟨0, 0, entry0 (.tmma 0 0), (running thr).setTen 0 { arr := some (entry0 (.tmma 0 0)) }, by decide +kernel⟩,
   ⟨0, 0, entry0 (.tmma 0 0), (running thr).setTen 0 { arr := some (entry0 (.tmma 0 0)), reexec := true }, by decide +kernel⟩,
   ⟨0, 0, entry0 (.tmma 0 0), (running thr).setTen 0 { arr := some (entry0 (.tmma 0 0)), reexec := true }, by decide +kernel⟩,
   ⟨0, 0, entry0 (.tepi []), [], (running thr).setTen 0 { epi := some (entry0 (.tepi [])) }, by decide +kernel⟩,
   ⟨0, 0, 0, 1, false, entry0 (.tred 0 false 1), (running thr).setTen 0 { epi := some (entry0 (.tred 0 false 1)) }, by decide +kernel⟩,
   ⟨0, 0, 0, 5, 0, cacheEntry, adapterDesc, cacheState, by decide +kernel⟩,
   ⟨63, 63, by decide +kernel⟩,
   ⟨63, by decide +kernel⟩⟩

theorem witness_FerryPostsAndStarts :
    (∃ (g : Nat) (ch : Nat) (a : Nat) (t : State) (s : State), g < 32768 ∧ isChan ch = true ∧ s.canIssue g 4 [] = true ∧
      s.reaches g ch = true ∧ s.postDesc g ch a = .ok t) ∧
    (∃ (g : Nat) (ch : Nat) (s : State), g < 32768 ∧ isChan ch = true ∧ s.canIssue g 4 [] = true) ∧
    (∃ (g : Nat) (ch : Nat) (a : Nat) (n : Nat) (t : State) (s : State), g < 32768 ∧ (s.th g).stall = .post ch a n ∧ (s.th g).st = .run ∧
      s.ctxRuns g = true ∧ (s.chan ch).queue.length < 16 ∧ s.postDesc g ch a = .ok t) ∧
    (∃ (ch : Nat) (s : State), isChan ch = true ∧ (s.chan ch).halted = false) ∧
    (∃ (g : Nat) (k : Nat) (a : Nat) (t : State) (s : State), g < 32768 ∧ k < 4 ∧ s.canIssue g 4 [] = true ∧
      bitAt (s.prt (s.thFn g)).srt k = true ∧ s.postJob g k a = .ok t) ∧
    (∃ (g : Nat) (k : Nat) (s : State), g < 32768 ∧ k < 4 ∧ s.canIssue g 4 [] = true) ∧
    (∃ (g : Nat) (k : Nat) (a : Nat) (n : Nat) (t : State) (s : State), g < 32768 ∧ (s.th g).stall = .sort k a n ∧ (s.th g).st = .run ∧
      s.ctxRuns g = true ∧ (s.sorter k).queue.length < 8 ∧ s.postJob g k a = .ok t) ∧
    (∃ (k : Nat) (x : SJob) (q : List SJob) (s : State), k < 4 ∧ (s.sorter k).queue = x :: q ∧ (s.sorter k).halted = false) :=
  ⟨⟨0, 0, 0, (ferryReady).setChan 0 { posted := 1, queue := [{ seq := 1, raw := descBytes, param := [], fn := 1, ctx := some 1, gid := 0, island := 0, cmd := none }] }, ferryReady, by refine ⟨by decide, by decide, by decide, by decide, rfl⟩⟩,
   ⟨0, 0x803F, running thr, by decide +kernel⟩,
   ⟨0, 0, 0, 2, (ferryReady.updTh 0 fun t => { t with stall := .post 0 0 2 }).setChan 0 { posted := 1, queue := [{ seq := 1, raw := descBytes, param := [], fn := 1, ctx := some 1, gid := 0, island := 0, cmd := none }] }, ferryReady.updTh 0 fun t => { t with stall := .post 0 0 2 }, by refine ⟨by decide, by decide, by decide, by decide, by decide, rfl⟩⟩,
   ⟨0x803F, State.reset, by decide +kernel⟩,
   ⟨0, 3, 0, sortReady.setSorter 3 { posted := 1, queue := [{ seq := 1, raw := jobBytes, fn := 1, ctx := 1, gid := 0 }] }, sortReady, by refine ⟨by decide, by decide, by decide, by decide, rfl⟩⟩,
   ⟨0, 0, running thr, by decide +kernel⟩,
   ⟨0, 3, 0, 2, (sortReady.updTh 0 fun t => { t with stall := .sort 3 0 2 }).setSorter 3 { posted := 1, queue := [{ seq := 1, raw := jobBytes, fn := 1, ctx := 1, gid := 0 }] }, sortReady.updTh 0 fun t => { t with stall := .sort 3 0 2 }, by refine ⟨by decide, by decide, by decide, by decide, by decide, rfl⟩⟩,
   ⟨0, { seq := 1, raw := [], fn := 1, ctx := 1, gid := 0 }, [], State.reset.setSorter 0 { queue := [{ seq := 1, raw := [], fn := 1, ctx := 1, gid := 0 }] }, by decide +kernel⟩⟩

theorem witness_FerryAndSorterCompletions :
    (∃ (ch : Nat) (x : Desc) (q : List Desc) (s : State), isChan ch = true ∧ (s.chan ch).queue = x :: q ∧ (s.chan ch).halted = false ∧
      x.started = true ∧ s.descWaits ch x = false ∧ s.descFault x = none ∧ (fdesc x.raw).xform ≠ 8) ∧
    (∃ (ch : Nat) (code : Nat) (addr : Nat) (x : Desc) (q : List Desc) (s : State), isChan ch = true ∧ (s.chan ch).queue = x :: q ∧
      (s.chan ch).halted = false ∧ x.started = true ∧ s.descWaits ch x = false ∧ s.descFault x = some (code, addr)) ∧
    (∃ (ch : Nat) (code : Nat) (x : Desc) (q : List Desc) (s : State), isChan ch = true ∧ 1 ≤ code ∧ code ≤ 10 ∧
      (s.chan ch).queue = x :: q ∧ (s.chan ch).halted = false ∧ x.started = true) ∧
    (∃ (ch : Nat) (x : Desc) (q : List Desc) (s : State), isChan ch = true ∧ (s.chan ch).queue = x :: q ∧ (s.chan ch).halted = false ∧
      x.started = true ∧ (fdesc x.raw).sasp = 1) ∧
    (∃ (k : Nat) (x : SJob) (q : List SJob) (s : State), k < 4 ∧ (s.sorter k).queue = x :: q ∧ (s.sorter k).halted = false ∧
      x.started = true ∧ s.jobWaits k x = false ∧ s.jobFault x (jdesc x.raw) = none) ∧
    (∃ (k : Nat) (code : Nat) (x : SJob) (q : List SJob) (s : State), k < 4 ∧ 1 ≤ code ∧ code ≤ 5 ∧ (s.sorter k).queue = x :: q ∧
      (s.sorter k).halted = false ∧ x.started = true) :=
  ⟨⟨0, dsc descBytes, [], ferryReady.setChan 0 { posted := 1, queue := [dsc descBytes] }, by decide +kernel⟩,
   ⟨0, 1, 0x800000000000, dsc badDesc, [], ferryReady.setChan 0 { posted := 1, queue := [dsc badDesc] }, by decide +kernel⟩,
   ⟨0, 10, dsc descBytes, [], ferryReady.setChan 0 { posted := 1, queue := [dsc descBytes] }, by decide +kernel⟩,
   ⟨0x8000, dsc hostDesc, [], ferryReady.setChan 0x8000 { posted := 1, queue := [dsc hostDesc] }, by decide +kernel⟩,
   ⟨3, jb, [], sortReady.setSorter 3 { posted := 1, queue := [jb] }, by decide +kernel⟩,
   ⟨3, 4, jb, [], sortReady.setSorter 3 { posted := 1, queue := [jb] }, by decide +kernel⟩⟩

theorem witness_PassHomePort :
    (∃ (g : Nat) (p : Nat) (s : State), g < 32768 ∧ p < 1024 ∧ s.canIssue g 4 [] = true ∧ s.inQuota (s.thFn g) p = true) ∧
    (∃ (g : Nat) (p : Nat) (s : State), g < 32768 ∧ p < 1024 ∧ s.canIssue g 4 [] = true ∧ s.inQuota (s.thFn g) p = false) ∧
    (∃ (p : Nat) (who : Option Nat) (rest : List (Nat × Option Nat)) (s : State), p < 1024 ∧
      ((s.passOwner p).any (fun v => (s.passHome v p).isSome) = true) ∧ takeArrival p s.pas.inflight = some (who, rest)) ∧
    (∃ (g : Nat) (p : Nat) (gen : Nat) (s : State), g < 32768 ∧ (s.pas.acks.find? (fun e => e.1 == g) = some (g, p, gen)) ∧
      (s.th g).stall = .arrive p) ∧
    (∃ (i : Nat) (p : Nat), i < 64 ∧ p < 1024) :=
  ⟨⟨0, 1, (running thr).setPrt 1 { qcount := 4 }, by decide +kernel⟩,
   ⟨0, 1023, running thr, by decide +kernel⟩,
   ⟨1, none, [], { ((running thr).setPrt 1 { qcount := 4, islands := 1 }).setPass 1 { target := 1 } with pas := { inflight := [(1, none)] } }, by decide +kernel⟩,
   ⟨0, 1, 0, { running { thr with stall := .arrive 1 } with pas := { acks := [(0, 1, 0)] } }, by decide +kernel⟩,
   ⟨63, 1023, by decide +kernel⟩⟩

theorem witness_MailboxAndRingWrites :
    (∃ (fn : Nat) (mbx : Nat) (w : Nat) (s : State), fn ≤ 16 ∧ mbx < 16 ∧ w < 63 ∧ s.owned fn mbx = false ∧ s.fnState fn ≠ fnScrubbing) ∧
    (∃ (fn : Nat) (mbx : Nat) (w : Nat) (s : State), fn ≤ 16 ∧ mbx < 16 ∧ w < 63 ∧ (s.owned fn mbx = true ∨ s.fnState fn = fnScrubbing)) ∧
    (∃ (fn : Nat) (mbx : Nat) (h : Nat) (s : State), fn ≤ 16 ∧ mbx < 16 ∧ (s.owned fn mbx = true ∨ bitAt h 31 = false)) ∧
    (∃ (fn : Nat) (mbx : Nat) (h : Nat) (s : State), fn ≤ 16 ∧ mbx < 16 ∧ s.owned fn mbx = false ∧ bitAt h 31 = true) ∧
    (∃ (fn : Nat) (s : State), fn ≤ 16 ∧ s.fnState fn ≠ fnScrubbing) ∧
    (∃ (fn : Nat) (s : State), fn ≤ 16 ∧ s.fnState fn ≠ fnScrubbing ∧ s.rdF .FN_EVT_CTL fn 0 1 = 0) ∧
    (∃ (fn : Nat) (s : State), fn ≤ 16 ∧ s.fnState fn ≠ fnScrubbing ∧ s.rdF .FN_EVT_CTL fn 0 1 = 1) ∧
    (∃ (fn : Nat) (off : Nat) (b : Nat) (i : Nat) (r : Reg) (s : State), fn ≤ 16 ∧ 0x100 ≤ off ∧ off < 0x120 ∧ off % 4 = 0 ∧
      s.regAt fn off = some (b, r, i) ∧ s.fnState fn ≠ fnScrubbing ∧
      (r = .FN_MBX_VEC0 ∨ r = .FN_MBX_VEC1 ∨ r = .FN_MBX_VEC2 ∨ r = .FN_MBX_VEC3 ∨ r = .FN_EVT_VEC0 ∨ r = .FN_EVT_VEC1 ∨ r = .FN_EVT_VEC2 ∨ r = .FN_EVT_VEC3)) ∧
    (∃ (fn : Nat) (v : Nat) (s : State), fn ≤ 16 ∧ v < vecCount fn ∧ s.rdF .FN_INT_COAL fn 0 16 ≠ 0 ∧
      tabGet s.mbx.coal 0 (fn * 256 + v) ≠ 0) ∧
    (∃ (fn : Nat), 1 ≤ fn ∧ fn ≤ 16) :=
  ⟨⟨16, 15, 62, State.reset, by decide +kernel⟩,
   ⟨16, 15, 62, State.reset.wrF .FN_STATUS 16 0 3 2, by decide +kernel⟩,
   ⟨16, 15, 0, State.reset, by decide +kernel⟩,
   ⟨0, 0, 2 ^ 31, State.reset, by decide +kernel⟩,
   ⟨16, State.reset, by decide +kernel⟩,
   ⟨16, State.reset, by decide +kernel⟩,
   ⟨16, State.reset.wrN .FN_EVT_CTL 16 1, by decide +kernel⟩,
   ⟨16, 0x11C, 0x11C, 16, .FN_EVT_VEC3, State.reset, by decide +kernel⟩,
   ⟨16, 31, { State.reset.wrN .FN_INT_COAL 16 1 with mbx := { coal := [(16 * 256 + 31, 1)] } }, by decide +kernel⟩,
   ⟨16, by decide +kernel⟩⟩

theorem witness_ProgramsContextsCopies :
    (∃ (fn : Nat) (mbx : Nat) (b : Nat) (i : ProgImage) (s : State), s.posted fn mbx 0x200 = true ∧ s.badLimit fn mbx 0x200 = false ∧
      s.progBusy fn (s.arg fn mbx 0) = false ∧ s.imageOk fn i = true ∧ s.textBase fn (s.arg fn mbx 0) i.text.length = some b) ∧
    (∃ (fn : Nat) (mbx : Nat) (s : State), s.posted fn mbx 0x200 = true ∧ s.badLimit fn mbx 0x200 = false ∧
      s.progBusy fn (s.arg fn mbx 0) = false) ∧
    (∃ (fn : Nat) (mbx : Nat) (s : State), s.posted fn mbx 0x201 = true ∧ s.arg fn mbx 0 < 64 ∧
      (s.prog fn (s.arg fn mbx 0)).isSome = true ∧ s.progBusy fn (s.arg fn mbx 0) = false) ∧
    (∃ (fn : Nat) (mbx : Nat) (is : List Nat) (p : Prog) (s : State), s.posted fn mbx 0x202 = true ∧ s.badLimit fn mbx 0x202 = false ∧
      (maskBits (s.arg64 fn mbx 1) 64).filterMap (s.nthIsland fn) = is ∧ s.prog fn (s.arg fn mbx 0) = some p ∧ s.noStarts = false ∧
      (is.any (fun i => (s.islCtx i).isSome || s.rdF .ISL_STATUS i 0 3 != 4) = false) ∧ s.replayHolds is = false) ∧
    (∃ (fn : Nat) (mbx : Nat) (x : Ctx) (s : State), s.posted fn mbx 0x203 = true ∧ s.ownCtx fn (s.arg fn mbx 0) = some x ∧
      x.done = false) ∧
    (∃ (fn : Nat) (mbx : Nat) (x : Ctx) (s : State), s.posted fn mbx 0x204 = true ∧ s.ownCtx fn (s.arg fn mbx 0) = some x) ∧
    (∃ (fn : Nat) (mbx : Nat), fn ≤ 18 ∧ mbx ≤ 16) :=
  ⟨⟨1, 0, 0, image0, posted 1 0 0x200 [0, 0, 0, 64] State.reset, by decide +kernel⟩,
   ⟨1, 0, posted 1 0 0x200 [0, 0, 0, 64] State.reset, by decide +kernel⟩,
   ⟨1, 0, (posted 1 0 0x201 [0] State.reset).placeProg 1 0 0 image0, by decide +kernel⟩,
   ⟨1, 0, [0], { len := 0, base := 0, entry := 0x01000000, gp := 0, text := [], active := 0, stackTops := [], zeroSram := false, replayable := false, passes := [], digest := 0 }, (((posted 1 0 0x202 [0, 1, 0] State.reset).placeProg 1 0 0 image0).setPrt 1 { islands := 1 }).wrF .ISL_STATUS 0 0 3 4, by decide +kernel⟩,
   ⟨1, 0, { fn := 1, prog := 0, islands := [0], arg := 0, startT := 0, seq := 0 }, posted 1 0 0x203 [1] (running thr), by decide +kernel⟩,
   ⟨1, 0, { fn := 1, prog := 0, islands := [0], arg := 0, startT := 0, seq := 0 }, posted 1 0 0x204 [1] (running thr), by decide +kernel⟩,
   ⟨1, 0, by decide +kernel⟩⟩

theorem witness_ModuleCommands :
    (∃ (fn : Nat) (mbx : Nat) (s : State), s.posted fn mbx 0x009 = true) ∧
    (∃ (fn : Nat) (mbx : Nat) (s : State), s.posted fn mbx 0x000 = true) ∧
    (∃ (fn : Nat) (mbx : Nat) (s : State), s.posted fn mbx 0x001 = true) ∧
    (∃ (fn : Nat) (mbx : Nat) (s : State), s.posted fn mbx 0x006 = true) ∧
    (∃ (fn : Nat) (mbx : Nat) (s : State), s.posted fn mbx 0x008 = true ∧ s.arg fn mbx 0 ≤ 3600) ∧
    (∃ (s : State), s.brd.identify ≤ s.time) ∧
    (∃ (fn : Nat) (mbx : Nat) (peerOk : Bool) (s : State), s.posted fn mbx 0x004 = true ∧ s.clk.entering = false ∧
      s.clk.exiting = false ∧ s.valleyBusy = false ∧ (s.pair.mirrored = true → peerOk = true) ∧ s.rdF .TIM_STATUS 0 8 1 = 0) ∧
    (∃ (fn : Nat) (mbx : Nat) (s : State), s.posted fn mbx 0x005 = true ∧ s.clk.entering = false ∧ s.clk.exiting = false ∧
      s.rdF .TIM_STATUS 0 8 1 = 1) ∧
    (∃ (s : State), s.clk.entering = true) ∧
    (∃ (s : State), s.clk.exiting = true) :=
  ⟨⟨0, 0, posted 0 0 0x009 [] State.reset, by decide +kernel⟩,
   ⟨0, 0, posted 0 0 0x000 [] State.reset, by decide +kernel⟩,
   ⟨0, 0, posted 0 0 0x001 [] State.reset, by decide +kernel⟩,
   ⟨0, 0, posted 0 0 0x006 [] State.reset, by decide +kernel⟩,
   ⟨0, 0, posted 0 0 0x008 [3600] State.reset, by decide +kernel⟩,
   ⟨State.reset, by decide +kernel⟩,
   ⟨0, 0, false, posted 0 0 0x004 [] State.reset, by decide +kernel⟩,
   ⟨0, 0, (posted 0 0 0x005 [] State.reset).wrF .TIM_STATUS 0 8 1 1, by decide +kernel⟩,
   ⟨{ State.reset with clk := { entering := true } }, by decide +kernel⟩,
   ⟨{ State.reset with clk := { exiting := true } }, by decide +kernel⟩⟩

theorem witness_PartitionCommands :
    (∃ (fn : Nat) (mbx : Nat) (s : State), s.posted fn mbx 0x100 = true ∧ isVf (s.ownFn fn mbx) = true) ∧
    (∃ (fn : Nat) (mbx : Nat) (q : Nat) (s : State), s.posted fn mbx 0x101 = true ∧ s.inValley = false ∧ isVf (s.arg fn mbx 0) = true ∧
      (s.bindArgs fn mbx 1).inTable = true ∧ rampOk (s.bindArgs fn mbx 1).ramp = true ∧ s.namesFailed (s.bindArgs fn mbx 1) = false ∧
      (s.prt (s.arg fn mbx 0)).bound = false ∧ s.scrubbing (s.arg fn mbx 0) = false ∧
      ((s.others [s.arg fn mbx 0]).any (fun l => l.any (s.bindArgs fn mbx 1).meets) = false) ∧
      lowestQuota (s.bindArgs fn mbx 1).qcount (s.others [s.arg fn mbx 0]).flatten = some q ∧
      (s.bindArgs fn mbx 1).npages + (s.bindArgs fn mbx 1).npool ≤ s.pagesLeft ∧
      s.countsFit [s.arg fn mbx 0] [s.bindArgs fn mbx 1] = true) ∧
    (∃ (fn : Nat) (mbx : Nat) (s : State), s.posted fn mbx 0x102 = true ∧ s.inValley = false ∧ isVf (s.arg fn mbx 0) = true ∧
      s.scrubbing (s.arg fn mbx 0) = false ∧ (s.prt (s.arg fn mbx 0)).bound = true) ∧
    (∃ (fn : Nat) (mbx : Nat) (ab : Nat) (s : State), s.posted fn mbx 0x103 = true ∧ s.inValley = false ∧ 1 ≤ s.arg fn mbx 0 ∧
      s.arg fn mbx 0 ≤ 16 ∧ s.arg fn mbx 1 = 0 ∧ s.runMoves? (s.arg fn mbx 0) 0 (s.bindArgs fn mbx 2) = some ab ∧
      (s.bindArgs fn mbx 2).inTable = true ∧ s.namesFailed (s.bindArgs fn mbx 2) = false ∧ s.scrubbing (s.arg fn mbx 0) = false ∧
      s.scrubbing 0 = false ∧ (s.prt (s.arg fn mbx 0)).has (s.bindArgs fn mbx 2) = true ∧
      (s.prt (s.arg fn mbx 0)).covers (s.bindArgs fn mbx 2) = true ∧
      s.countsFit [s.arg fn mbx 0, 0] [(s.prt (s.arg fn mbx 0)).minus (s.bindArgs fn mbx 2), {}] = true) ∧
    (∃ (fn : Nat) (mbx : Nat) (ab : Nat) (q : Nat) (s : State), s.posted fn mbx 0x103 = true ∧ s.inValley = false ∧ s.arg fn mbx 0 = 0 ∧
      1 ≤ s.arg fn mbx 1 ∧ s.arg fn mbx 1 ≤ 16 ∧ s.runMoves? 0 (s.arg fn mbx 1) (s.bindArgs fn mbx 2) = some ab ∧
      (s.bindArgs fn mbx 2).inTable = true ∧ s.namesFailed (s.bindArgs fn mbx 2) = false ∧ s.scrubbing 0 = false ∧
      s.scrubbing (s.arg fn mbx 1) = false ∧ ((s.others []).any (fun l => l.any (s.bindArgs fn mbx 2).meets) = false) ∧
      (s.bindArgs fn mbx 2).qcount = 0 ∧ q = (s.prt (s.arg fn mbx 1)).qbase ∧
      ((s.prt (s.arg fn mbx 1)).plus (s.bindArgs fn mbx 2) q ab).inTable = true ∧
      (s.bindArgs fn mbx 2).npages + (s.bindArgs fn mbx 2).npool ≤ s.pagesLeft ∧
      s.countsFit [0, s.arg fn mbx 1] [{}, (s.prt (s.arg fn mbx 1)).plus (s.bindArgs fn mbx 2) q ab] = true) ∧
    (∃ (fn : Nat) (mbx : Nat) (s : State), s.posted fn mbx 0x104 = true ∧ s.inValley = false ∧ isVf (s.ownFn fn mbx) = true ∧
      s.scrubbing (s.ownFn fn mbx) = false ∧ (s.prt (s.ownFn fn mbx)).bound = true) ∧
    (∃ (fn : Nat) (mbx : Nat) (s : State), s.posted fn mbx 0x105 = true ∧ isVf (s.arg fn mbx 0) = true ∧ rampOk (s.arg fn mbx 1) = true ∧
      s.scrubbing (s.arg fn mbx 0) = false ∧ (s.prt (s.arg fn mbx 0)).bound = true) :=
  ⟨⟨16, 15, posted 16 15 0x100 [] State.reset, by decide +kernel⟩,
   ⟨0, 0, 0, bindState, by decide +kernel⟩,
   ⟨0, 0, (posted 0 0 0x102 [16] State.reset).setPrt 16 { islands := 1 }, by decide +kernel⟩,
   ⟨0, 0, 0, rebindState, by decide +kernel⟩,
   ⟨0, 0, 0, 0, (posted 0 0 0x103 [0, 2, 1] State.reset), by decide +kernel⟩,
   ⟨0, 0, (posted 0 0 0x104 [16] State.reset).setPrt 16 { islands := 1 }, by decide +kernel⟩,
   ⟨0, 0, (posted 0 0 0x105 [16, 256] State.reset).setPrt 16 { islands := 1 }, by decide +kernel⟩⟩

theorem witness_PageCommandsAndScrubs :
    (∃ (fn : Nat) (mbx : Nat) (v : Nat) (t : State) (s : State), s.posted fn mbx 0x106 = true ∧ s.badLimit fn mbx 0x106 = false ∧
      s.vpnBusy fn ((s.mappedIn fn (s.arg fn mbx 0) (s.arg fn mbx 1)).map (·.1)) = false ∧
      (s.mappedIn fn (s.arg fn mbx 0) (s.arg fn mbx 1)).isEmpty = false ∧
      ((s.mappedIn fn (s.arg fn mbx 0) (s.arg fn mbx 1)).any (fun e => (s.page e.2).migrating) = false) ∧ s.drawEpoch = some (v, t)) ∧
    (∃ (fn : Nat) (mbx : Nat) (v : Nat) (t : State) (s : State), s.posted fn mbx 0x107 = true ∧ s.badLimit fn mbx 0x107 = false ∧
      s.arg fn mbx 1 ≠ 0 ∧ s.mappedIn fn (s.arg fn mbx 0) (s.arg fn mbx 1) = [] ∧ s.arg fn mbx 1 ≤ s.pagesLeft ∧
      s.drawEpoch = some (v, t) ∧
      (((List.range (s.arg fn mbx 1)).map (s.arg fn mbx 0 + ·)).filter (fun w => (tabFind s.pln.maps (mapKey fn w)).isNone) = (List.range (s.arg fn mbx 1)).map (s.arg fn mbx 0 + ·))) ∧
    (∃ (fn : Nat) (mbx : Nat) (v : Nat) (q : Nat) (e : MapEnt) (t : State) (s : State), s.posted fn mbx 0x108 = true ∧
      s.badLimit fn mbx 0x108 = false ∧ tabFind s.pln.maps (mapKey fn (s.arg fn mbx 0)) = some e ∧ (s.page e.ppn).migrating = false ∧
      s.vpnBusy fn [s.arg fn mbx 0] = false ∧ s.pagesLeft ≠ 0 ∧ s.alloc 1 = [q] ∧ s.drawEpoch = some (v, t)) ∧
    (∃ (f : Nat) (m : Nat) (r : List (Nat × Nat)) (s : State), s.pln.drawWait = (f, m) :: r ∧ s.drawEpoch.isSome = true) ∧
    (∃ (fn : Nat) (x : Scrub) (s : State), isVf fn = true ∧ tabFind s.part.scrubs fn = some x ∧ x.started = false ∧
      s.scrubHeld fn = false) ∧
    (∃ (fn : Nat) (x : Scrub) (s : State), isVf fn = true ∧ tabFind s.part.scrubs fn = some x ∧ x.started = true ∧ x.drained = false) ∧
    (∃ (fn : Nat) (x : Scrub) (s : State), isVf fn = true ∧ tabFind s.part.scrubs fn = some x ∧ x.started = true ∧ x.missed = false) ∧
    (∃ (fn : Nat) (s : State), isVf fn = true ∧ tabGet s.lnk.hostReads 0 fn ≠ 0) :=
  ⟨⟨1, 0, (pageState.drawEpoch.getD (0, pageState)).1, (pageState.drawEpoch.getD (0, pageState)).2, pageState, by decide +kernel⟩,
   ⟨1, 0, (mapState.drawEpoch.getD (0, mapState)).1, (mapState.drawEpoch.getD (0, mapState)).2, mapState, by decide +kernel⟩,
   ⟨1, 0, (replaceState.drawEpoch.getD (0, replaceState)).1, (replaceState.alloc 1).headD 0, { ppn := 5, write := true }, (replaceState.drawEpoch.getD (0, replaceState)).2, replaceState, by decide +kernel⟩,
   ⟨1, 0, [], { State.reset with pln := { drawWait := [(1, 0)] } }, by decide +kernel⟩,
   ⟨16, { kind := .flr, issuer := none, next := {} }, { State.reset with part := { scrubs := [(16, { kind := .flr, issuer := none, next := {} })] } }, by decide +kernel⟩,
   ⟨16, { kind := .flr, issuer := none, next := {}, started := true }, { State.reset with part := { scrubs := [(16, { kind := .flr, issuer := none, next := {}, started := true })] } }, by decide +kernel⟩,
   ⟨16, { kind := .flr, issuer := none, next := {}, started := true }, { State.reset with part := { scrubs := [(16, { kind := .flr, issuer := none, next := {}, started := true })] } }, by decide +kernel⟩,
   ⟨1, { State.reset with lnk := { hostReads := [(1, 1)] } }, by decide +kernel⟩⟩

theorem witness_LinkAndBar2Commands :
    (∃ (kind : Nat), kind < 3) ∧
    (∃ (rate : Nat) (good : List Nat) (worn : List Nat) (s : State), 1 ≤ rate ∧ (good.all (fun l => decide (l < 16)) = true) ∧
      (worn.all (fun l => decide (l < 16)) = true) ∧ s.hostCanTrain = true ∧ s.lnk.train = true) ∧
    (∃ (fn : Nat) (off : Nat) (len : Nat) (s : State), isVf fn = true ∧ s.fnState fn ≠ fnScrubbing ∧ s.barOk fn off len = true ∧
      s.barWaits fn off len false = false ∧ s.plainBad fn (barAddrs off len) false = none) ∧
    (∃ (fn : Nat) (s : State), isVf fn = true ∧ s.fnState fn = fnScrubbing) ∧
    (∃ (fn : Nat) (off : Nat) (data : List Byte) (s : State), isVf fn = true ∧ s.fnState fn ≠ fnScrubbing ∧
      (s.pair.mirrored && s.role != roleStandby) = false ∧ s.barOk fn off data.length = true ∧
      s.barWaits fn off data.length true = false ∧ s.plainBad fn (barAddrs off data.length) true = none) ∧
    (∃ (fn : Nat) (s : State), isVf fn = true ∧ s.fnState fn = fnScrubbing) ∧
    (∃ (fn : Nat) (vec : Nat) (addr : Nat) (data : Nat) (s : State), fn ≤ 16 ∧ vec < vecCount fn ∧ s.cfgLocked fn = false ∧
      tabGet s.lnk.msix {} (fn * 256 + vec) ≠ { addr := addr, data := data, masked := false } ∧ addr ≠ 0 ∧
      s.lnk.pba.contains (fn * 256 + vec) = true) ∧
    (∃ (fn : Nat) (addr : Nat) (size : Nat) (s : State), fn ≤ 16 ∧ s.lnk.inval = [] ∧ s.lnk.ats.contains fn = true ∧
      s.hostRuns fn addr size = false) ∧
    (∃ (fn : Nat) (value : Nat) (s : State), fn ≤ 16 ∧ s.hostBusy fn = false ∧ s.cfgLocked fn = false ∧
      tabGet s.lnk.pasid 0 fn ≠ value % 2 ^ 20) ∧
    (∃ (fn : Nat) (size : Nat) (s : State), isVf fn = true ∧ ((List.range 10).any (fun k => size == 2 ^ (28 + k)) = true) ∧
      s.cfgLocked fn = false ∧ s.barSize fn ≠ size) ∧
    (∃ (n : Nat) (s : State), (n = 0 ∨ n = 16) ∧ s.lnk.vfsOn = false) ∧
    (∃ (fn : Nat) (mbx : Nat) (s : State), s.posted fn mbx 0x007 = true ∧ s.arg fn mbx 0 = 1 ∧ tabFind s.lnk.restore 1 = none ∧
      s.twinState ≠ 1) ∧
    (∃ (fn : Nat) (mbx : Nat) (s : State), s.posted fn mbx 0x007 = true ∧ s.arg fn mbx 0 = 0 ∧ tabFind s.lnk.restore 0 = none ∧
      s.lnk.train = false) :=
  ⟨⟨0, by decide +kernel⟩,
   ⟨6, List.range 16, [], { State.reset.wrF .TIM_CLK_LOCK 0 14 1 1 with brd := { State.reset.brd with powered := true }, lnk := { State.reset.lnk with train := true } }, by decide +kernel⟩,
   ⟨1, 0, 4, (pages State.reset).setPage 5 { (pages State.reset).page 5 with owner := 1 }, by decide +kernel⟩,
   ⟨1, State.reset.wrF .FN_STATUS 1 0 3 fnScrubbing, by decide +kernel⟩,
   ⟨1, 0, [7], (pages State.reset).setPage 5 { (pages State.reset).page 5 with owner := 1 }, by decide +kernel⟩,
   ⟨1, State.reset.wrF .FN_STATUS 1 0 3 fnScrubbing, by decide +kernel⟩,
   ⟨1, 2, 0x1000, 5, { State.reset with lnk := { State.reset.lnk with pba := [258] } }, by decide +kernel⟩,
   ⟨1, 0, 4096, { State.reset with lnk := { State.reset.lnk with ats := [1] } }, by decide +kernel⟩,
   ⟨1, 9, State.reset, by decide +kernel⟩,
   ⟨1, 2 ^ 30, State.reset, by decide +kernel⟩,
   ⟨16, State.reset, by decide +kernel⟩,
   ⟨0, 0, posted 0 0 0x007 [1] State.reset, by decide +kernel⟩,
   ⟨0, 0, { posted 0 0 0x007 [0] State.reset with lnk := { State.reset.lnk with train := false } }, by decide +kernel⟩⟩

theorem witness_IdeAndTdispCommands :
    (∃ (k : Nat) (s : State), k < 18 ∧ (s.sec.sessions.any (fun x => x.doe && x.done) = true) ∧ s.sec.trngFailed = false) ∧
    (∃ (k : Nat) (s : State), k < 18 ∧ (s.sec.sessions.any (fun x => x.doe && x.done) = true) ∧ (tabGet s.lnk.ide {} k).prog = true ∧
      (tabGet s.lnk.ide {} k).secure = false) ∧
    (∃ (k : Nat) (s : State), k < 18 ∧ (s.sec.sessions.any (fun x => x.doe && x.done) = true)) ∧
    (∃ (k : Nat) (s : State), k < 18 ∧ (s.sec.sessions.any (fun x => x.doe && x.done) = true) ∧ (tabGet s.lnk.ide {} k).prog = true ∧
      (tabGet s.lnk.ide {} k).secure = true) ∧
    (∃ (k : Nat), k < 18) ∧
    (∃ (fn : Nat), isVf fn = true) ∧
    (∃ (fn : Nat), isVf fn = true) ∧
    (∃ (fn : Nat) (s : State), isVf fn = true ∧ s.tdi fn = .unlocked ∧ (s.prt fn).bound = true ∧ s.fnState fn = fnReady ∧
      (tabGet s.lnk.ide {} (fn + 1)).secure = true) ∧
    (∃ (fn : Nat) (s : State), isVf fn = true ∧
      (s.tdi fn == .unlocked && (s.prt fn).bound && s.fnState fn == fnReady && (tabGet s.lnk.ide {} (fn + 1)).secure) = false) ∧
    (∃ (fn : Nat) (s : State), isVf fn = true ∧ s.cfgLocked fn = true) ∧
    (∃ (fn : Nat), isVf fn = true) ∧
    (∃ (fn : Nat) (s : State), isVf fn = true ∧ s.tdi fn = .locked) ∧
    (∃ (fn : Nat) (s : State), isVf fn = true ∧ s.tdi fn ≠ .locked) ∧
    (∃ (fn : Nat) (s : State), isVf fn = true ∧ tabFind s.part.scrubs fn = none) ∧
    (∃ (fn : Nat), isVf fn = true) ∧
    (∃ (fn : Nat), isVf fn = true) ∧
    (∃ (fn : Nat) (st : Bool) (t : Bool) (s : State), isVf fn = true ∧ s.tdi fn = .run ∧ (!st || !t) = true) :=
  ⟨⟨2, { State.reset with sec := { State.reset.sec with sessions := [{ id := 1, doe := true, done := true }] } }, by decide +kernel⟩,
   ⟨2, { State.reset with sec := { State.reset.sec with sessions := [{ id := 1, doe := true, done := true }] }, lnk := { State.reset.lnk with ide := [(2, { prog := true })] } }, by decide +kernel⟩,
   ⟨2, { State.reset with sec := { State.reset.sec with sessions := [{ id := 1, doe := true, done := true }] } }, by decide +kernel⟩,
   ⟨2, { State.reset with sec := { State.reset.sec with sessions := [{ id := 1, doe := true, done := true }] }, lnk := { State.reset.lnk with ide := [(2, { prog := true, secure := true })] } }, by decide +kernel⟩,
   ⟨2, by decide +kernel⟩,
   ⟨1, by decide +kernel⟩,
   ⟨1, by decide +kernel⟩,
   ⟨1, { (State.reset.setPrt 1 { islands := 1 }).wrF .FN_STATUS 1 0 3 fnReady with lnk := { State.reset.lnk with ide := [(2, { secure := true })] } }, by decide +kernel⟩,
   ⟨1, State.reset, by decide +kernel⟩,
   ⟨1, State.reset.setTdi 1 .run, by decide +kernel⟩,
   ⟨1, by decide +kernel⟩,
   ⟨1, State.reset.setTdi 1 .locked, by decide +kernel⟩,
   ⟨1, State.reset, by decide +kernel⟩,
   ⟨1, State.reset.setTdi 1 .run, by decide +kernel⟩,
   ⟨1, by decide +kernel⟩,
   ⟨1, by decide +kernel⟩,
   ⟨1, false, true, State.reset.setTdi 1 .run, by decide +kernel⟩⟩

theorem witness_TwinLinkCommands :
    (∃ (pm : Nat) (inv : Nat) (failed : List Nat) (s : State), pm < 256 ∧ inv < 256 ∧ (failed.all (fun l => decide (l < 8)) = true) ∧
      s.brd.powered = true ∧ s.twinState ≠ 2 ∧ bitAt (s.rdN .TIM_CLK_LOCK 0) 16 = true ∧ (tabGet s.lnk.cables {} 1).wrong = false) ∧
    (∃ (s : State), s.brd.powered = true ∧ s.twinState = 0) ∧
    (∃ (ack : Nat) (s : State), s.lnk.rxSeq < 4096 ∧ ack < 4096 ∧ s.twinState = 2) ∧
    (∃ (seq : Nat) (ack : Nat) (s : State), seq < 4096 ∧ ack < 4096 ∧ s.twinState = 2) ∧
    (∃ (seq : Nat) (ack : Nat) (s : State), seq < 4096 ∧ ack < 4096 ∧ s.twinState = 2) ∧
    (∃ (seq : Nat) (ack : Nat) (worn : List Nat) (s : State), seq < 4096 ∧ ack < 4096 ∧ (worn.all (fun l => decide (l < 8)) = true) ∧
      s.twinState = 2) ∧
    (∃ (ack : Nat) (s : State), ack < 4096 ∧ s.twinState = 2) ∧
    (∃ (s : State), s.brd.powered = true) ∧
    (∃ (s : State), s.twinState = 2 ∧ s.rdF .TWN_STATUS 0 4 1 = 0 ∧ s.pair.claiming.isSome = true) ∧
    (∃ (s : State), s.rdF .TWN_STATUS 0 4 1 ≠ 1) ∧
    (∃ (s : State), s.rdF .TWN_STATUS 0 4 1 = 1 ∧ s.pair.mirrored = true) ∧
    (∃ (c : Nat) (retimers : Nat), c < 2 ∧ retimers ≤ 2) ∧
    (∃ (c : Nat) (target : Nat), c < 2 ∧ (cableTargets 2).contains target = true) ∧
    (∃ (c : Nat) (hot : Nat) (s : State), c < 2 ∧ (s.cable c).present = true ∧ hot ≤ 110) ∧
    (∃ (c : Nat) (s : State), c < 2 ∧ (s.cable c).present = true ∧ (s.cable c).misses < 2) :=
  ⟨⟨0, 0, [3], { State.reset.wrF .TIM_CLK_LOCK 0 16 1 1 with brd := { State.reset.brd with powered := true } }, by decide +kernel⟩,
   ⟨{ State.reset with brd := { State.reset.brd with powered := true } }, by decide +kernel⟩,
   ⟨5, State.reset.wrF .TWN_STATUS 0 0 2 2, by decide +kernel⟩,
   ⟨5, 5, State.reset.wrF .TWN_STATUS 0 0 2 2, by decide +kernel⟩,
   ⟨5, 5, State.reset.wrF .TWN_STATUS 0 0 2 2, by decide +kernel⟩,
   ⟨5, 5, [7], State.reset.wrF .TWN_STATUS 0 0 2 2, by decide +kernel⟩,
   ⟨5, State.reset.wrF .TWN_STATUS 0 0 2 2, by decide +kernel⟩,
   ⟨{ State.reset with brd := { State.reset.brd with powered := true } }, by decide +kernel⟩,
   ⟨{ State.reset.wrF .TWN_STATUS 0 0 2 2 with pair := { State.reset.pair with claiming := some 1 } }, by decide +kernel⟩,
   ⟨State.reset, by decide +kernel⟩,
   ⟨{ State.reset.wrF .TWN_STATUS 0 4 1 1 with pair := { State.reset.pair with mirrored := true } }, by decide +kernel⟩,
   ⟨1, 2, by decide +kernel⟩,
   ⟨1, 0x50, by decide +kernel⟩,
   ⟨1, 60, { State.reset with lnk := { State.reset.lnk with cables := [(1, { present := true })] } }, by decide +kernel⟩,
   ⟨1, { State.reset with lnk := { State.reset.lnk with cables := [(1, { present := true })] } }, by decide +kernel⟩⟩

theorem witness_UsbAndBoardCommands :
    (∃ (s : State), s.brd.powered = true) ∧
    (∃ (m : Nat) (ws : List Nat) (s : State), m < 16 ∧ s.mbx.usbAttached = true ∧ ws.length = 64 ∧ s.owned 17 m = false) ∧
    (∃ (m : Nat) (ws : List Nat) (s : State), m < 16 ∧ s.mbx.usbAttached = true ∧ ws.length ≠ 64) ∧
    (∃ (off : Nat) (data : List Byte) (s : State), s.mbx.usbAttached = true ∧ off + data.length ≤ stagingBytes) ∧
    (∃ (off : Nat) (len : Nat) (s : State), s.mbx.usbAttached = true ∧ len ≤ 0x10_0000 ∧ off + len ≤ stagingBytes) ∧
    (∃ (s : State), s.mbx.usbAttached = true) ∧
    (∃ (s : State), s.mbx.usbDropped = 0) ∧
    (∃ (n : Nat) (code : Nat), (signalCodes n).contains code = true ∧ n ≠ 2 ∧ n ≠ 3 ∧ n ≠ 4) ∧
    (∃ (code : Nat), (code = 1 ∨ code = 2 ∨ code = 3)) ∧
    (∃ (s : State), s.brd.powered = true ∧ s.brd.pullIgnored = false) ∧
    (∃ (s : State), s.brd.powered = true ∧ s.brd.armed = false ∧ s.brd.pullIgnored = false ∧ 44000 ≤ s.pwr.mv ∧ s.pwr.mv ≤ 58000) ∧
    (∃ (s : State), s.brd.powered = false) ∧
    (∃ (p : Nat) (s : State), p < 80 ∧ s.brd.holdupLow = false) ∧
    (∃ (p : Nat), 80 ≤ p) ∧
    (∃ (a : Nat) (setdasa : Bool) (s : State), a < 128 ∧ (setdasa && s.brd.assigned) = false) :=
  ⟨⟨{ State.reset with brd := { State.reset.brd with powered := true } }, by decide +kernel⟩,
   ⟨0, List.replicate 64 0, { State.reset with mbx := { State.reset.mbx with usbAttached := true } }, by decide +kernel⟩,
   ⟨0, [], { State.reset with mbx := { State.reset.mbx with usbAttached := true } }, by decide +kernel⟩,
   ⟨0, [1], { State.reset with mbx := { State.reset.mbx with usbAttached := true } }, by decide +kernel⟩,
   ⟨0, 8, { State.reset with mbx := { State.reset.mbx with usbAttached := true } }, by decide +kernel⟩,
   ⟨{ State.reset with mbx := { State.reset.mbx with usbAttached := true } }, by decide +kernel⟩,
   ⟨State.reset, by decide +kernel⟩,
   ⟨1, 1, by decide +kernel⟩,
   ⟨3, by decide +kernel⟩,
   ⟨{ State.reset with brd := { State.reset.brd with powered := true } }, by decide +kernel⟩,
   ⟨{ State.reset with brd := { State.reset.brd with powered := true }, pwr := { State.reset.pwr with mv := 54000 } }, by decide +kernel⟩,
   ⟨State.reset, by decide +kernel⟩,
   ⟨79, State.reset, by decide +kernel⟩,
   ⟨80, by decide +kernel⟩,
   ⟨9, true, State.reset, by decide +kernel⟩⟩

theorem witness_BootAndClockCommands :
    (∃ (b : BootIn) (s : State), bootOk b = true ∧ s.brd.powered = false) ∧
    (∃ (b : BootIn) (cause : Nat) (l : List Nat) (s : State), bootOk b = true ∧ s.chipCauses = cause :: l ∧ s.brd.powered = true ∧
      s.chipWaits = false ∧ chipCounted cause = false) ∧
    (∃ (s : State), s.brd.powered = true ∧ s.clk.refLost = false ∧ s.clk.refBad = 1) ∧
    (∃ (s : State), s.brd.powered = true ∧ s.clk.refLost = false) ∧
    (∃ (s : State), s.clk.refLost = true) ∧
    (∃ (d : Nat) (s : State), hasPll d = true ∧ bitAt (s.rdN .TIM_CLK_LOCK 0) d = true) ∧
    (∃ (d : Nat) (s : State), hasPll d = true ∧ (s.clk.relock.any (fun e => e.1 == d) = true)) ∧
    (∃ (s : State), s.lnk.up = true) ∧
    (∃ (s : State), s.twinState = 2) ∧
    (∃ (a : Nat) (b : Nat) (c : Nat) (s : State), c < 2 ^ 64 ∧ s.clk.ppsEdges = [a, b] ∧ ppsApart a b = true ∧ ppsApart b c = true) ∧
    (∃ (s : State), s.rdF .TIM_STATUS 0 6 1 ≠ 0) :=
  ⟨⟨{ slotA := true, slotB := true, layoutOk := true, failed := [], badChans := [], badStraits := [], rates := 0, roleMv := 0, trng := true, eyes := List.replicate 32 30 }, State.reset, by decide +kernel⟩,
   ⟨{ slotA := true, slotB := true, layoutOk := true, failed := [], badChans := [], badStraits := [], rates := 0, roleMv := 0, trng := true, eyes := List.replicate 32 30 }, 5, [], { State.reset.askChip 5 with brd := { State.reset.brd with powered := true } }, by decide +kernel⟩,
   ⟨{ State.reset with brd := { State.reset.brd with powered := true }, clk := { State.reset.clk with refBad := 1 } }, by decide +kernel⟩,
   ⟨{ State.reset with brd := { State.reset.brd with powered := true } }, by decide +kernel⟩,
   ⟨{ State.reset with clk := { State.reset.clk with refLost := true } }, by decide +kernel⟩,
   ⟨3, State.reset.wrF .TIM_CLK_LOCK 0 3 1 1, by decide +kernel⟩,
   ⟨3, { State.reset with clk := { State.reset.clk with relock := [(3, 0)] } }, by decide +kernel⟩,
   ⟨{ State.reset with lnk := { State.reset.lnk with up := true } }, by decide +kernel⟩,
   ⟨State.reset.wrF .TWN_STATUS 0 0 2 2, by decide +kernel⟩,
   ⟨0, 1000000000, 2000000000, { State.reset with clk := { State.reset.clk with ppsEdges := [0, 1000000000] } }, by decide +kernel⟩,
   ⟨State.reset.wrF .TIM_STATUS 0 6 1 1, by decide +kernel⟩⟩

theorem witness_TrustCommands :
    (∃ (s : State), s.brd.powered = true ∧ s.sec.recovery = false ∧ s.fnState 0 = fnBooting) ∧
    (∃ (s : State), s.brd.powered = true ∧ s.sec.aliasReady = false ∧ s.sec.trngFailed = false) ∧
    (∃ (fn : Nat) (mbx : Nat) (s : State), s.posted fn mbx 0x700 = true) ∧
    (∃ (fn : Nat) (mbx : Nat) (cert : List Byte) (s : State) (t : State), s.posted fn mbx 0x701 = true ∧ s.arg fn mbx 0 ≤ 4 ∧
      cert.length ≤ s.arg fn mbx 3 ∧ s.bulkPut fn (s.arg64 fn mbx 1) cert = some t) ∧
    (∃ (fn : Nat) (mbx : Nat) (token : List Byte) (sig : Bool) (s : State), s.posted fn mbx 0x702 = true ∧ s.arg fn mbx 2 = 896 ∧
      s.tokenOk token sig [1] = true) ∧
    (∃ (fn : Nat) (mbx : Nat) (token : List Byte) (sig : Bool) (s : State), s.posted fn mbx 0x703 = true ∧ s.arg fn mbx 2 = 896 ∧
      s.tokenOk token sig [2, 3] = true) ∧
    (∃ (fn : Nat) (mbx : Nat) (token : List Byte) (sig : Bool) (s : State), s.posted fn mbx 0x702 = true ∧ s.arg fn mbx 2 = 896 ∧
      s.tokenOk token sig [1] = false) ∧
    (∃ (fn : Nat) (mbx : Nat) (s : State), s.posted fn mbx 0x704 = true ∧ s.arg fn mbx 0 ≤ 2) ∧
    (∃ (fn : Nat) (mbx : Nat) (s : State), s.posted fn mbx 0x705 = true) ∧
    (∃ (r : DbgRef), dbgOk r = true) ∧
    (∃ (s : State), s.brd.jtagTlr = true) ∧
    (∃ (s : State), s.sec.trngFailed = true) ∧
    (∃ (s : State), s.sec.trngFailed = true) :=
  ⟨⟨{ State.reset.wrF .FN_STATUS 0 0 3 0 with brd := { State.reset.brd with powered := true } }, by decide +kernel⟩,
   ⟨{ State.reset with brd := { State.reset.brd with powered := true } }, by decide +kernel⟩,
   ⟨0, 0, posted 0 0 0x700 [] State.reset, by decide +kernel⟩,
   ⟨17, 0, [1], posted 17 0 0x701 [0, 0, 0, 16] State.reset, ((posted 17 0 0x701 [0, 0, 0, 16] State.reset).bulkPut 17 0 [1]).getD State.reset, by decide +kernel⟩,
   ⟨0, 0, natLe 0x4B434C4F 4 ++ natLe 1 4 ++ natLe (State.reset.rdN .RAS_SB_SERIAL 0) 8 ++ natLe 1 8 ++ List.replicate 872 0, true, posted 0 0 0x702 [0, 0, 896] State.reset, by decide +kernel⟩,
   ⟨0, 0, tokenBytes, true, tokenState, tokenWitness⟩,
   ⟨0, 0, [], false, posted 0 0 0x702 [0, 0, 896] State.reset, by decide +kernel⟩,
   ⟨0, 0, posted 0 0 0x704 [1] State.reset, by decide +kernel⟩,
   ⟨0, 0, posted 0 0 0x705 [] State.reset, by decide +kernel⟩,
   ⟨.sram 0 0 16, by decide +kernel⟩,
   ⟨State.reset, by decide +kernel⟩,
   ⟨{ State.reset with sec := { State.reset.sec with trngFailed := true } }, by decide +kernel⟩,
   ⟨{ State.reset with sec := { State.reset.sec with trngFailed := true } }, by decide +kernel⟩⟩

theorem witness_SpdmRequests :
    (∃ (s : State), s.spdmUp = true) ∧
    (∃ (s : State), s.spdmUp = true) ∧
    (∃ (s : State), s.spdmUp = true) ∧
    (∃ (s : State), s.spdmUp = true ∧ s.sec.aliasReady = true ∧ s.upd.stage ≠ .window) ∧
    (∃ (len : Nat) (s : State), s.spdmUp = true ∧ s.sec.aliasReady = true ∧ s.upd.stage ≠ .window ∧ s.rma = false ∧ len ≤ 4096) ∧
    (∃ (s : State), s.spdmUp = true ∧ s.sec.aliasReady = true ∧ s.upd.stage ≠ .window ∧ s.rma = false) ∧
    (∃ (index : Nat) (l : List (Nat × List Byte)) (s : State), s.spdmUp = true ∧ s.sec.aliasReady = true ∧ s.upd.stage ≠ .window ∧
      s.measureBlocks index = some l) ∧
    (∃ (s : State), s.spdmUp = true ∧ s.sec.aliasReady = true ∧ s.upd.stage ≠ .window ∧ s.sec.trngFailed = false ∧
      s.sec.sessions.length < 4) ∧
    (∃ (doe : Bool) (id : Nat) (x : Session) (s : State), s.spdmUp = true ∧ s.session doe id = some x ∧ x.done = false) ∧
    (∃ (doe : Bool) (id : Nat) (x : Session) (s : State), s.spdmUp = true ∧ s.session doe id = some x ∧ x.done = true) ∧
    (∃ (doe : Bool) (id : Nat) (x : Session) (s : State), s.spdmUp = true ∧ s.session doe id = some x ∧ x.done = true) ∧
    (∃ (doe : Bool) (id : Nat) (x : Session) (s : State), s.spdmUp = true ∧ s.session doe id = some x ∧ x.done = true) ∧
    (∃ (s : State), s.spdmUp = true) ∧
    (∃ (doe : Bool) (slot : Nat) (off : Nat) (len : Nat) (seq : Nat) (s : State), s.spdmUp = true ∧
      tabFind s.sec.large (b2n doe) = some (.certificate slot off len) ∧ seq + 1 < ceilDiv len 4096) ∧
    (∃ (doe : Bool) (code : Nat) (e : Bool × SpdmReq) (s : State), s.spdmUp = true ∧ s.upd.stage ≠ .window ∧
      (s.sec.deferred.find? (fun e => e.1 == doe && e.2.code == code) = some e)) ∧
    (∃ (proto : Nat) (s : State), s.spdmUp = true ∧ proto < 2) ∧
    (∃ (s : State), s.spdmUp = true) ∧
    (∃ (s : State), s.brd.powered = true ∧ s.spdmUp = false) :=
  ⟨⟨spdmState, by decide +kernel⟩,
   ⟨spdmState, by decide +kernel⟩,
   ⟨spdmState, by decide +kernel⟩,
   ⟨spdmState, by decide +kernel⟩,
   ⟨1024, spdmState, by decide +kernel⟩,
   ⟨spdmState, by decide +kernel⟩,
   ⟨5, (spdmState.measureBlocks 5).getD [], spdmState, by decide +kernel⟩,
   ⟨spdmState, by decide +kernel⟩,
   ⟨true, 1, { id := 1, doe := true }, sessionState false, by decide +kernel⟩,
   ⟨true, 1, { id := 1, doe := true, done := true }, sessionState true, by decide +kernel⟩,
   ⟨true, 1, { id := 1, doe := true, done := true }, sessionState true, by decide +kernel⟩,
   ⟨true, 1, { id := 1, doe := true, done := true }, sessionState true, by decide +kernel⟩,
   ⟨spdmState, by decide +kernel⟩,
   ⟨true, 0, 0, 9000, 1, { spdmState with sec := { spdmState.sec with large := [(1, .certificate 0 0 9000)] } }, by decide +kernel⟩,
   ⟨true, 0x81, (true, .digests), { spdmState with sec := { spdmState.sec with deferred := [(true, .digests)] } }, by decide +kernel⟩,
   ⟨1, spdmState, by decide +kernel⟩,
   ⟨spdmState, by decide +kernel⟩,
   ⟨{ State.reset with brd := { State.reset.brd with powered := true } }, by decide +kernel⟩⟩

theorem witness_FirmwareUpdateCommands :
    (∃ (fn : Nat) (mbx : Nat) (l : List Byte) (s : State), s.posted fn mbx 0x800 = true ∧ s.arg fn mbx 3 = 12288 ∧ s.upd.st = .idle ∧
      s.sec.recovery || s.upd.confirmed ∧ s.updBlocked = none ∧ s.hdrOk l (s.arg fn mbx 0) = true ∧ s.revoked (slotOf l).keyIdx = false ∧
      s.svnCounter ≤ (slotOf l).svn) ∧
    (∃ (fn : Nat) (mbx : Nat) (s : State), s.posted fn mbx 0x801 = true ∧ s.notIn .receiving = none ∧
      blockOk (s.arg fn mbx 0) (s.arg fn mbx 1) (s.fwSlot s.target).len = true) ∧
    (∃ (fn : Nat) (mbx : Nat) (s : State), s.posted fn mbx 0x801 = true ∧ s.notIn .receiving = none ∧
      blockOk (s.arg fn mbx 0) (s.arg fn mbx 1) (s.fwSlot s.target).len = true) ∧
    (∃ (fn : Nat) (mbx : Nat) (s : State) (t : State), s.posted fn mbx 0x805 = true ∧
      s.bulkPut fn (s.arg64 fn mbx 0) (natLe (maskOf s.upd.blocks) 96) = some t) ∧
    (∃ (fn : Nat) (mbx : Nat) (s : State), s.posted fn mbx 0x804 = true ∧ (s.upd.st = .receiving ∨ s.upd.st = .committed)) ∧
    (∃ (fn : Nat) (mbx : Nat) (s : State), s.posted fn mbx 0x802 = true ∧ s.notIn .receiving = none ∧
      s.svnCounter ≤ (s.fwSlot s.target).svn) ∧
    (∃ (s : State), s.upd.st = .committing ∧ s.sec.trngFailed = false ∧ s.updBlocked = none ∧ s.complete = true) ∧
    (∃ (s : State), s.upd.st = .committing ∧ s.sec.trngFailed = false ∧ s.updBlocked = none ∧ s.complete = true) ∧
    (∃ (fn : Nat) (mbx : Nat) (s : State), s.posted fn mbx 0x803 = true ∧ s.notIn .committed = none ∧
      (s.rdF .TIM_STATUS 0 8 1 = 1 || s.clk.entering || (s.pair.mirrored && s.role == roleActive)) = false ∧
      fwMajor (s.fwSlot s.target).ver = fwMajor (s.fwSlot s.upd.running).ver) ∧
    (∃ (s : State), s.upd.stage = .preparing ∧ s.quiescent = true) ∧
    (∃ (s : State), s.upd.stage = .preparing) ∧
    (∃ (s : State), s.upd.stage = .window ∧ s.upd.reverse = false) ∧
    (∃ (s : State), s.upd.stage = .watching ∧ s.upd.fatal = false) ∧
    (∃ (s : State), s.upd.stage = .watching ∧ s.upd.viaReset = false) ∧
    (∃ (s : State), s.upd.stage = .watching ∧ s.upd.viaReset = true ∧ s.upd.fatal = false) ∧
    (∃ (s : State), s.upd.confirmed = true ∧ s.upd.slotA.ok = true ∧ s.upd.slotB.ok = true ∧ s.pwr.warn = false ∧
      s.rdF .PWR_STATUS 0 8 1 ≠ 1 ∧ 48000 ≤ s.pwr.mv ∧ s.svnCounter < min s.upd.slotA.svn s.upd.slotB.svn ∧ s.svnCounter < 64) :=
  ⟨⟨17, 0, hdrBytes, posted 17 0 0x800 [0x10000, 0, 0, 12288] State.reset, by decide +kernel⟩,
   ⟨17, 0, { posted 17 0 0x801 [0, 65536] State.reset with upd := { State.reset.upd with st := .receiving, slotB := { len := 70000 } } }, by decide +kernel⟩,
   ⟨17, 0, { posted 17 0 0x801 [0, 65536] State.reset with upd := { State.reset.upd with st := .receiving, slotB := { len := 70000 } } }, by decide +kernel⟩,
   ⟨17, 0, posted 17 0 0x805 [] State.reset, ((posted 17 0 0x805 [] State.reset).bulkPut 17 0 (natLe 0 96)).getD State.reset, by decide +kernel⟩,
   ⟨0, 0, { posted 0 0 0x804 [] State.reset with upd := { State.reset.upd with st := .receiving } }, by decide +kernel⟩,
   ⟨17, 0, { posted 17 0 0x802 [] State.reset with upd := { State.reset.upd with st := .receiving, slotB := { svn := 127 } } }, by decide +kernel⟩,
   ⟨{ State.reset with upd := { State.reset.upd with st := .committing } }, by decide +kernel⟩,
   ⟨{ State.reset with upd := { State.reset.upd with st := .committing } }, by decide +kernel⟩,
   ⟨0, 0, { posted 0 0 0x803 [] State.reset with upd := { State.reset.upd with st := .committed } }, by decide +kernel⟩,
   ⟨{ State.reset with upd := { State.reset.upd with stage := .preparing } }, by decide +kernel⟩,
   ⟨{ State.reset with upd := { State.reset.upd with stage := .preparing } }, by decide +kernel⟩,
   ⟨{ State.reset with upd := { State.reset.upd with stage := .window } }, by decide +kernel⟩,
   ⟨{ State.reset with upd := { State.reset.upd with stage := .watching } }, by decide +kernel⟩,
   ⟨{ State.reset with upd := { State.reset.upd with stage := .watching } }, by decide +kernel⟩,
   ⟨{ State.reset with upd := { State.reset.upd with stage := .watching, viaReset := true } }, by decide +kernel⟩,
   ⟨{ State.reset with upd := { State.reset.upd with slotA := { ok := true, svn := 5 }, slotB := { ok := true, svn := 5 } }, pwr := { State.reset.pwr with mv := 54000 } }, by decide +kernel⟩⟩

theorem witness_PowerCommands :
    (∃ (fn : Nat) (mbx : Nat) (v : Nat) (s : State), s.posted fn mbx 0x500 = true ∧ v = (if isPf0 fn then s.arg fn mbx 0 else fn) ∧
      1 ≤ v ∧ v ≤ 16) ∧
    (∃ (fn : Nat) (mbx : Nat) (s : State), s.posted fn mbx 0x501 = true ∧
      (((List.range 8).map (s.arg fn mbx)).any (fun x => decide (5 < x)) = false)) ∧
    (∃ (fn : Nat) (mbx : Nat) (s : State), s.posted fn mbx 0x502 = true ∧ 1 ≤ s.arg fn mbx 0 ∧ s.arg fn mbx 0 ≤ 16 ∧
      (s.prt (s.arg fn mbx 0)).bound = true ∧
      (((s.boundVfs.filter (· != s.arg fn mbx 0)).map fun x => (s.prt x).budget).sum + s.arg fn mbx 1 ≤ 1250)) ∧
    (∃ (fn : Nat) (mbx : Nat) (s : State), s.posted fn mbx 0x503 = true ∧ 420 ≤ s.arg fn mbx 0 ∧ s.arg fn mbx 0 ≤ 1250) ∧
    (∃ (fn : Nat) (mbx : Nat) (s : State), s.posted fn mbx 0x504 = true ∧ (s.arg fn mbx 0 = 0 ∨ (420 ≤ s.arg fn mbx 0 ∧
      s.arg fn mbx 0 ≤ 1250))) ∧
    (∃ (fn : Nat) (mbx : Nat) (s : State) (t : State), s.posted fn mbx 0x505 = true ∧ isPf0 fn = true ∧ s.arg fn mbx 0 ≤ 16 ∧
      112 ≤ s.arg fn mbx 3 ∧ s.bulkPut fn (s.arg64 fn mbx 1) (s.throttleBytes (s.arg fn mbx 0) (s.arg fn mbx 3)) = some t) ∧
    (∃ (fn : Nat) (mbx : Nat) (s : State), s.posted fn mbx 0x506 = true) ∧
    (∃ (watts : Nat) (dur : Nat) (seq : Nat) (s : State), watts < 65536 ∧ 1 ≤ dur ∧ dur ≤ 10000 ∧ seq < 2 ^ 32 ∧
      s.pwr.lastSeq.all (seqGreater seq) = true ∧ s.pwr.floor = false) ∧
    (∃ (watts : Nat) (dur : Nat) (seq : Nat) (s : State), watts < 65536 ∧ dur < 65536 ∧ seq < 2 ^ 32 ∧
      (dur = 0 ∨ 10000 < dur ∨ s.pwr.lastSeq.all (seqGreater seq) = false)) ∧
    (∃ (s : State), s.pwr.leased = true ∧ s.safeW < s.pwr.leaseW) ∧
    (∃ (s : State), s.pwr.decayT.isNone = false) ∧
    (∃ (s : State), s.pwr.stale = false) ∧
    (∃ (i : Nat) (o : Nat) (f : Nat), i < 65536 ∧ o < 65536 ∧ f < 65536) ∧
    (∃ (d : Nat) (op : Nat), d < 4 ∧ op < 6) :=
  ⟨⟨0, 0, 1, posted 0 0 0x500 [1] State.reset, by decide +kernel⟩,
   ⟨1, 0, posted 1 0 0x501 [1, 5] State.reset, by decide +kernel⟩,
   ⟨0, 0, (posted 0 0 0x502 [1, 300] State.reset).setPrt 1 { islands := 1 }, by decide +kernel⟩,
   ⟨0, 0, posted 0 0 0x503 [420] State.reset, by decide +kernel⟩,
   ⟨0, 0, posted 0 0 0x504 [1250] State.reset, by decide +kernel⟩,
   ⟨17, 0, posted 17 0 0x505 [0, 0, 0, 112] State.reset, ((posted 17 0 0x505 [0, 0, 0, 112] State.reset).bulkPut 17 0 (State.reset.throttleBytes 0 112)).getD State.reset, by decide +kernel⟩,
   ⟨0, 0, posted 0 0 0x506 [] State.reset, by decide +kernel⟩,
   ⟨419, 10000, 7, State.reset, by decide +kernel⟩,
   ⟨419, 10001, 7, State.reset, by decide +kernel⟩,
   ⟨{ State.reset with pwr := { State.reset.pwr with leased := true, leaseW := 1251 } }, by decide +kernel⟩,
   ⟨{ State.reset with pwr := { State.reset.pwr with decayT := some 1 } }, by decide +kernel⟩,
   ⟨{ State.reset with pwr := { State.reset.pwr with stale := false } }, by decide +kernel⟩,
   ⟨640, 700, 900, by decide +kernel⟩,
   ⟨3, 0, by decide +kernel⟩⟩

theorem witness_ActuatorAndTripCommands :
    (∃ (amps : Nat) (ps : List Nat), ps.length = 64 ∧ amps ≤ 3000) ∧
    (∃ (fn : Nat) (r : Nat) (s : State), fn ≤ 16 ∧ 1 ≤ r ∧ r ≤ 12 ∧ (tabFind s.pwr.outSince (thrKey fn r)).isNone = false) ∧
    (∃ (d : Nat) (op : Nat) (x : Nat × Nat) (s : State), d < 4 ∧ op < 6 ∧ s.newSlow d op = some x ∧
      (op = tabGet s.pwr.granted 5 d || s.pdmRuns d || (decide (op < tabGet s.pwr.granted 5 d) && (s.pwr.floor || s.pwr.trip || s.pwr.supply))) = false) ∧
    (∃ (d : Nat), d < 4) ∧
    (∃ (l : List Int), l.length = 64) ∧
    (∃ (failed : List Nat) (s : State), (failed.all (fun k => decide (k < 64 * 66)) = true) ∧ s.pwr.trip = true ∧ 500 ≤ s.limitNow.1) ∧
    (∃ (s : State), s.pwr.supply = false ∧ s.pwr.trip = true) ∧
    (∃ (mv : Nat) (s : State), (mv < 44000 ∨ 60000 < mv) ∧ mv < 65536 ∧ s.pwr.supply = false) ∧
    (∃ (mv : Nat) (failed : List Nat) (s : State), (failed.all (fun k => decide (k < 64 * 66)) = true) ∧ s.pwr.supply = true ∧
      48000 ≤ mv ∧ mv ≤ 58000 ∧ s.pwr.warn = false ∧ s.pwr.trip = false) ∧
    (∃ (mv : Nat), 58000 < mv ∧ mv ≤ 60000) ∧
    (∃ (d : Nat) (taps : List Nat), d < 4 ∧ taps.length = 128 ∧ (taps.all (fun v => decide (v < 4096)) = true)) ∧
    (∃ (l : List Int) (hh : List Nat), l.length = 6 ∧ (hh.all (fun d => decide (d < 6)) = true)) :=
  ⟨⟨3000, List.replicate 64 0, by decide +kernel⟩,
   ⟨1, 12, { State.reset with pwr := { State.reset.pwr with outSince := [(thrKey 1 12, 0)] } }, by decide +kernel⟩,
   ⟨1, 5, (1, 0), { State.reset with pwr := { State.reset.pwr with granted := [(1, 3)], slow := [(1, (1, 0))] } }, by decide +kernel⟩,
   ⟨3, by decide +kernel⟩,
   ⟨List.replicate 64 40, by decide +kernel⟩,
   ⟨[], { State.reset with pwr := { State.reset.pwr with trip := true } }, by decide +kernel⟩,
   ⟨{ State.reset with pwr := { State.reset.pwr with trip := true } }, by decide +kernel⟩,
   ⟨43999, State.reset, by decide +kernel⟩,
   ⟨48000, [], { State.reset with pwr := { State.reset.pwr with supply := true } }, by decide +kernel⟩,
   ⟨58001, by decide +kernel⟩,
   ⟨3, List.replicate 128 4095, by decide +kernel⟩,
   ⟨[40, 40, 40, 40, 40, 40], [5], by decide +kernel⟩⟩

theorem witness_ErrorAndResetCommands :
    (∃ (r : Rep), r.die < 7 ∧ r.unit ≤ 0x1B ∧ r.inst < 256 ∧ r.sub < 256 ∧ (classSevs r.cls).contains r.sev = true ∧ r.cls ≠ 0x39) ∧
    (∃ (r : Rep), r.die < 7 ∧ r.unit ≤ 0x1B ∧ r.inst < 256 ∧ r.sub < 256 ∧ r.sev = 3 ∧ r.cls = 0x39) ∧
    (∃ (g : Nat) (s : State) (u : State), g < 32768 ∧ (s.th g).st = .run ∧ s.ctxHangs (s.th g).ctx = true ∧
      u = s.watchdog.logCore (thIsl g) (thCore g % 64) 0x31 2 0 0 (s.th g).ctx ∧ u.ras.replaying ≠ some (s.th g).ctx) ∧
    (∃ (src : Nat) (s : State), isEngine src = true ∧ (s.fab.ctxs.any (fun e => e.2.why.isSome && s.worksOn src e.1 e.2) = true)) ∧
    (∃ (eng : Nat) (s : State), eng < 12 ∧ (s.vid.streams.any (fun e => e.2.eng == eng && !e.2.queue.isEmpty) = true)) ∧
    (∃ (s : State), s.upd.stage ≠ .window ∧ s.fnState 0 ≠ fnBooting) ∧
    (∃ (src : Nat) (cause : Nat) (failed : List Nat) (s : State), isEngine src = true ∧
      (failed.all (fun k => decide (k < 64 * 66)) = true) ∧ s.ras.resets.contains (.engine src cause) = true ∧
      (engineCounted cause && s.dumpHolds 1) = false) ∧
    (∃ (s : State), s.rdF .RAS_STATUS 0 4 1 ≠ 0) ∧
    (∃ (c : Nat) (l : List Nat) (s : State), s.ras.replaying = none ∧ s.ras.suspects = c :: l) ∧
    (∃ (c : Nat) (s : State), s.ras.replaying = some c ∧ s.ras.replayHung = false) ∧
    (∃ (fn : Nat) (mbx : Nat) (i : Nat) (failed : List Nat) (s : State), (failed.all (fun k => decide (k < 64 * 66)) = true) ∧
      s.posted fn mbx 0x606 = true ∧ s.arg fn mbx 0 = i ∧ i < 64) ∧
    (∃ (fn : Nat) (mbx : Nat) (s : State), s.posted fn mbx 0x607 = true) ∧
    (∃ (fn : Nat) (mbx : Nat) (s : State), s.posted fn mbx 0x608 = true) :=
  ⟨⟨{ die := 6, unit := 0x1B, inst := 255, sub := 0, cls := 0x40, func := 0, sev := 2, addr := 0, synd := 0, ctx := 0 }, by decide +kernel⟩,
   ⟨{ die := 0, unit := 0, inst := 0, sub := 0, cls := 0x39, func := 0, sev := 3, addr := 0, synd := 0, ctx := 0 }, by decide +kernel⟩,
   ⟨0, running thr, (running thr).watchdog.logCore 0 0 0x31 2 0 0 1, by decide +kernel, by decide +kernel, by decide +kernel, rfl, by decide +kernel⟩,
   ⟨srcIsland 0, { running thr with fab := { (running thr).fab with ctxs := [(1, { fn := 1, prog := 0, islands := [0], arg := 0, startT := 0, seq := 0, why := some .watchdog })] } }, by decide +kernel⟩,
   ⟨0, engState, by decide +kernel⟩,
   ⟨spdmState, by decide +kernel⟩,
   ⟨srcIsland 0, 3, [], { State.reset with ras := { State.reset.ras with resets := [.engine (srcIsland 0) 3] } }, by decide +kernel⟩,
   ⟨State.reset.wrF .RAS_STATUS 0 4 1 1, by decide +kernel⟩,
   ⟨1, [], { State.reset with ras := { State.reset.ras with suspects := [1] } }, by decide +kernel⟩,
   ⟨1, { State.reset with ras := { State.reset.ras with suspects := [1], replaying := some 1 } }, by decide +kernel⟩,
   ⟨0, 0, 5, [331], posted 0 0 0x606 [5] State.reset, by decide +kernel⟩,
   ⟨0, 0, posted 0 0 0x607 [] State.reset, by decide +kernel⟩,
   ⟨0, 0, posted 0 0 0x608 [] State.reset, by decide +kernel⟩⟩

theorem witness_LogAndDumpCommands :
    (∃ (fn : Nat) (mbx : Nat) (s : State) (t : State) (u : State), s.posted fn mbx 0x600 = true ∧
      t = s.logRelease (logAhead (s.arg fn mbx 0) (s.rdN .RAS_LOG_ACK 0)) ∧
      t.bulkPut fn (s.arg64 fn mbx 2) ((t.ras.log.take (s.arg fn mbx 1)).flatMap LogEnt.bytes) = some u) ∧
    (∃ (fn : Nat) (mbx : Nat) (s : State), s.posted fn mbx 0x601 = true) ∧
    (∃ (fn : Nat) (mbx : Nat) (s : State), s.posted fn mbx 0x604 = true ∧ [0, 1, 2, 3, 4, 8, 9, 10].contains (s.arg fn mbx 0) = true ∧
      1 ≤ s.arg fn mbx 1 ∧ s.arg fn mbx 1 ≤ 65535 ∧ 1 ≤ s.arg fn mbx 2 ∧ s.arg fn mbx 2 ≤ 604800) ∧
    (∃ (fn : Nat) (mbx : Nat) (s : State) (t : State), s.posted fn mbx 0x605 = true ∧ s.arg fn mbx 0 + s.arg fn mbx 1 ≤ 1835008 ∧
      (s.bulkPut fn (s.arg64 fn mbx 2) ((List.range (s.arg fn mbx 1)).flatMap fun k => (s.page (s.arg fn mbx 0 + k)).bytes) = some t)) ∧
    (∃ (trigger : Nat) (domain : Nat) (s : State), trigger < 2 ^ 32 ∧ 1 ≤ domain ∧ domain ≤ 4 ∧ s.upd.stage ≠ .window ∧
      s.ras.needDump.contains domain = true) ∧
    (∃ (src : Nat) (k : Nat) (s : State), src < 2 ^ 24 ∧ s.ras.collecting = some k) ∧
    (∃ (left : List Nat), (left.all (fun u => decide (u < 2 ^ 24)) = true)) ∧
    (∃ (k : Nat) (s : State), k < 4 ∧ (tabGet s.ras.dumps {} k).st = 2) ∧
    (∃ (fn : Nat) (mbx : Nat) (s : State) (t : State) (u : State), s.posted fn mbx 0x602 = true ∧ s.arg fn mbx 0 < 4 ∧
      (tabGet s.ras.dumps {} (s.arg fn mbx 0)).st = 3 ∧ t = s.accept fn mbx ∧
      t.bulkPut fn (s.arg64 fn mbx 1) ((List.range (min (s.arg fn mbx 3) (tabGet s.ras.dumps {} (s.arg fn mbx 0)).len)).map (tabGet s.ras.dumps {} (s.arg fn mbx 0)).byte) = some u) ∧
    (∃ (fn : Nat) (mbx : Nat) (s : State), s.posted fn mbx 0x603 = true ∧ s.arg fn mbx 0 < 4 ∧
      (tabGet s.ras.dumps {} (s.arg fn mbx 0)).st = 3) :=
  ⟨⟨17, 0, logState, logState.logRelease (logAhead (logState.arg 17 0 0) (logState.rdN .RAS_LOG_ACK 0)), ((logState.logRelease 0).bulkPut 17 0 (((logState.logRelease 0).ras.log.take 1).flatMap LogEnt.bytes)).getD logState, by decide +kernel, rfl, by decide +kernel⟩,
   ⟨0, 0, posted 0 0 0x601 [] State.reset, by decide +kernel⟩,
   ⟨0, 0, posted 0 0 0x604 [3, 4, 604800] State.reset, by decide +kernel⟩,
   ⟨17, 0, posted 17 0 0x605 [0, 1] State.reset, ((posted 17 0 0x605 [0, 1] State.reset).bulkPut 17 0 (State.reset.page 0).bytes).getD State.reset, by decide +kernel⟩,
   ⟨0, 3, { State.reset with ras := { State.reset.ras with needDump := [3] } }, by decide +kernel⟩,
   ⟨9, 0, { State.reset with ras := { State.reset.ras with collecting := some 0 } }, by decide +kernel⟩,
   ⟨[3], by decide +kernel⟩,
   ⟨3, { State.reset with ras := { State.reset.ras with dumps := [(3, { st := 2 })] } }, by decide +kernel⟩,
   ⟨17, 0, dumpState, dumpState.accept 17 0, ((dumpState.accept 17 0).bulkPut 17 0 []).getD dumpState, by decide +kernel, by decide +kernel, by decide +kernel, rfl, by decide +kernel⟩,
   ⟨0, 0, { posted 0 0 0x603 [3] State.reset with ras := { State.reset.ras with dumps := [(3, { st := 3 })] } }, by decide +kernel⟩⟩

theorem witness_PlainCommands :
    (∃ (psn : Nat) (x : Seen) (s : State), psn < sectors ∧ seenOk x = true ∧ (s.page (psn / 256)).st = .written ∧
      s.chanTrains (psnChannel psn) = false ∧ s.sectorBad psn x = false) ∧
    (∃ (psn : Nat) (x : Seen) (s : State), psn < sectors ∧ seenOk x = true ∧ (s.page (psn / 256)).st = .written ∧
      s.chanTrains (psnChannel psn) = false ∧ s.sectorBad psn x = true) ∧
    (∃ (psn : Nat) (x : Seen) (e : Nat × Consumer) (s : State), psn < sectors ∧ seenOk x = true ∧
      (s.pln.rereads.find? (fun e => e.1 == psn) = some e) ∧ s.chanTrains (psnChannel psn) = false ∧ (s.page (psn / 256)).st = .written) ∧
    (∃ (fn : Nat) (psn : Nat) (first : Nat) (data : List Byte) (x : Seen) (y : Seen) (s : State), fn ≤ 16 ∧ psn < sectors ∧
      first + data.length ≤ 256 ∧ seenOk x = true ∧ seenOk y = true ∧ (s.page (psn / 256)).owner = ownerCode fn ∧
      (s.page (psn / 256)).migrating = false ∧ ((s.page (psn / 256)).st = .unwritten ∨ (s.page (psn / 256)).st = .written ∧
      (data.length = 256 ∨ (s.readSector psn 0 x y).2 = true)) ∧ s.chanTrains (psnChannel psn) = false ∧
      s.chanFailed (psnChannel psn) = false ∧ data ≠ []) ∧
    (∃ (c : Nat) (s : State), c < 32 ∧ s.rdF .PLN_CH_STATUS c 16 2 = 0) ∧
    (∃ (c : Nat) (s : State), c < 32 ∧ s.rdF .PLN_CH_STATUS c 16 2 = 0 ∧ tabGet s.pln.edcTries 0 c = 3) ∧
    (∃ (c : Nat) (s : State), c < 32 ∧ s.rdF .PLN_CH_STATUS c 17 1 ≠ 0) ∧
    (∃ (l : List (Nat × Nat × Nat × Nat)) (s : State), chansOk l = true ∧ (l.map (·.1)).foldl max 0 ≤ 88 ∧
      15 ≤ (l.map (·.2.1)).foldl min 255 ∧ 15 ≤ (l.map (·.2.2.1)).foldl min 255 ∧ s.pln.rateOk = 7 ∧ s.pln.rate = 0) ∧
    (∃ (hot : Nat), hot < 256) ∧
    (∃ (p : Nat) (reads : List (Nat × Seen × Seen)) (s : State), p < 1802240 ∧
      (reads.all (fun e => decide (e.1 < 256) && seenOk e.2.1 && seenOk e.2.2) = true) ∧ tabFind s.pln.migr p = none ∧
      s.ceThresh < (s.page p).ce ∧ ((s.page p).st = .written ∨ (s.page p).st = .unwritten) ∧ (s.page p).owner ≠ 0 ∧
      (s.page p).owner ≠ 0x1F) ∧
    (∃ (p : Nat) (q : Nat) (reads : List (Nat × Seen × Seen)) (s : State), p < 1835008 ∧
      (reads.all (fun e => decide (e.1 < 256) && seenOk e.2.1 && seenOk e.2.2) = true) ∧ tabFind s.pln.migr p = some q ∧
      ((List.range 256).any (fun k => s.chanTrains (plainChannel p k)) = false)) ∧
    (∃ (p : Nat) (v : Nat) (w : Nat) (s : State) (t : State) (u : State), p < 1835008 ∧ (s.page p).owner = 0 ∧
      (s.page p).st = .unwritten ∧ s.pln.noTest.contains p = false ∧ s.pln.freeUe.contains p = true ∧ s.drawEpoch = some (w, t) ∧
      ({ t with pln := { t.pln with freeUe := t.pln.freeUe.erase p, data := memClear t.pln.data (p * 65536) 65536, secEpoch := tabSetAll t.pln.secEpoch ((List.range 256).map (p * 256 + ·)) w, secFmt := tabSetAll t.pln.secFmt ((List.range 256).map (p * 256 + ·)) 0 } } : State).drawEpoch = some (v, u)) ∧
    (∃ (k : Nat) (x : Seen) (y : Seen) (s : State), k < 256 ∧ seenOk x = true ∧ seenOk y = true ∧ s.rdF .PLN_STATUS 0 3 1 ≠ 1 ∧
      (s.page (s.rdN .PLN_PATROL_POS 0)).st ≠ .retired ∧ (s.page (s.rdN .PLN_PATROL_POS 0)).st ≠ .quarantined ∧
      s.chanTrains (psnChannel (s.rdN .PLN_PATROL_POS 0 * 256 + k)) = false) ∧
    (∃ (k : Nat) (x : Seen) (y : Seen) (s : State), k < 256 ∧ seenOk x = true ∧ seenOk y = true ∧ s.rdF .PLN_STATUS 0 3 1 ≠ 1 ∧
      (s.page (s.rdN .PLN_PATROL_POS 0)).st = .retired) ∧
    (∃ (i : Nat) (c : Nat) (a : Nat) (s : State), i < 64 ∧ c < 64 ∧ a < lsBytes ∧ s.rdF .TIM_STATUS 0 8 1 ≠ 1) ∧
    (∃ (i : Nat) (a : Nat) (s : State), i < 64 ∧ a < isBytes ∧ s.rdF .TIM_STATUS 0 8 1 ≠ 1) :=
  ⟨⟨0, {}, State.reset.setPage 0 { st := .written }, by decide +kernel⟩,
   ⟨0, { flips := [(0, 1), (1, 1), (2, 1), (3, 1), (4, 1), (5, 1), (6, 1), (7, 1), (8, 1), (9, 1)] }, State.reset.setPage 0 { st := .written }, by decide +kernel⟩,
   ⟨0, {}, (0, .patrol), { State.reset.setPage 0 { st := .written } with pln := { (State.reset.setPage 0 { st := .written }).pln with rereads := [(0, .patrol)] } }, by decide +kernel⟩,
   ⟨1, 0, 255, [7], {}, {}, State.reset.setPage 0 { owner := ownerCode 1 }, by decide +kernel⟩,
   ⟨31, State.reset, by decide +kernel⟩,
   ⟨31, { State.reset with pln := { State.reset.pln with edcTries := [(31, 3)] } }, by decide +kernel⟩,
   ⟨31, State.reset.wrF .PLN_CH_STATUS 31 17 1 1, by decide +kernel⟩,
   ⟨List.replicate 32 (60, 15, 15, 15), { State.reset with pln := { State.reset.pln with rateOk := 7 } }, by decide +kernel⟩,
   ⟨86, by decide +kernel⟩,
   ⟨9, [], State.reset.setPage 9 { owner := 1, ce := 65535 }, by decide +kernel⟩,
   ⟨9, 10, [], { State.reset.setPage 9 { owner := 1, migrating := true } with pln := { (State.reset.setPage 9 { owner := 1, migrating := true }).pln with migr := [(9, 10)] } }, by decide +kernel⟩,
   ⟨9, ueEpoch2.1, ueEpoch1.1, ueState, ueEpoch1.2, ueEpoch2.2, by decide +kernel⟩,
   ⟨254, {}, {}, State.reset.setPage 0 { st := .written }, by decide +kernel⟩,
   ⟨254, {}, {}, State.reset.setPage 0 { st := .retired }, by decide +kernel⟩,
   ⟨63, 63, 0, State.reset, by decide +kernel⟩,
   ⟨63, 0, State.reset, by decide +kernel⟩⟩

theorem witness_PairMirrorCommands :
    (∃ (fn : Nat) (mbx : Nat) (s : State), s.posted fn mbx 0x900 = true) ∧
    (∃ (fn : Nat) (mbx : Nat) (s : State), s.posted fn mbx 0x901 = true ∧ s.arg fn mbx 0 ≤ 1 ∧ s.paired = true ∧
      fwMajor s.pair.peerFw = fwMajor (s.fwSlot s.upd.running).ver ∧ s.changing = false) ∧
    (∃ (m : Bool) (s : State), s.pair.modeNext = some m ∧ s.pair.modeCmd = none ∧ s.atBoundary = true) ∧
    (∃ (fn : Nat) (mbx : Nat) (s : State), s.posted fn mbx 0x902 = true ∧ (s.arg fn mbx 0 = 0 ∨ (s.arg fn mbx 0 = 1 ∧
      s.degraded = false))) ∧
    (∃ (fn : Nat) (mbx : Nat) (s : State), s.posted fn mbx 0x903 = true ∧ s.paired = true) ∧
    (∃ (fw : Nat) (s : State), s.rdF .TWN_STATUS 0 0 2 = 2 ∧ fwMajor fw = fwMajor (s.fwSlot s.upd.running).ver) ∧
    (∃ (s : State), s.paired = true) ∧
    (∃ (fn : Nat) (ws : List Nat) (s : State), fn ≤ 16 ∧ ws.length ≤ 63 ∧ s.pair.mirrored = true ∧ s.role = roleStandby) ∧
    (∃ (fn : Nat), 1 ≤ fn ∧ fn ≤ 16) ∧
    (∃ (d : Dig) (s : State), 1 ≤ d.fn ∧ d.fn ≤ 16 ∧ s.pair.mirrored = true ∧
      (s.pair.local_.find? (fun x => digKey x == digKey d) = none) ∧
      (s.pair.held.find? (fun h => digKey h.dig == digKey d && !h.diverged) = none)) ∧
    (∃ (d : Dig) (h : HeldOut) (s : State), 1 ≤ d.fn ∧ d.fn ≤ 16 ∧ s.pair.mirrored = true ∧
      (s.pair.local_.find? (fun x => digKey x == digKey d) = none) ∧
      (s.pair.held.find? (fun h => digKey h.dig == digKey d && !h.diverged) = some h) ∧ s.role ≠ roleStandby) ∧
    (∃ (h : HeldOut) (s : State), s.role ≠ roleStandby ∧ (s.pair.held.find? (fun h => !s.katHolds h.dig.fn) = some h)) ∧
    (∃ (failed : List Nat) (s : State), (failed.all (fun k => decide (k < 64 * 66)) = true) ∧ s.rdF .TWN_PAIR_STATUS 0 13 1 ≠ 0 ∧
      s.pair.katLocal = none) ∧
    (∃ (b : Bool) (s : State), s.rdF .TWN_PAIR_STATUS 0 13 1 ≠ 0 ∧ s.pair.katLocal = some b) ∧
    (∃ (fn : Nat) (ps : List (Nat × Bool × List Byte)) (s : State) (t : State), 1 ≤ fn ∧ fn ≤ 16 ∧ s.pair.mirrored = true ∧
      s.role = roleStandby ∧ (t = s.count .TWN_RESYNC_BYTES 0 ((ps.map fun e => e.2.2.length).sum)) ∧ t.role = roleStandby) ∧
    (∃ (fn : Nat) (s : State), 1 ≤ fn ∧ fn ≤ 16 ∧ s.pair.stepHold.contains fn = true ∧ s.resyncPages fn ≤ 1024) :=
  ⟨⟨0, 0, posted 0 0 0x900 [] State.reset, by decide +kernel⟩,
   ⟨0, 0, (posted 0 0 0x901 [1] State.reset).wrF .TWN_PAIR_STATUS 0 5 1 1, by decide +kernel⟩,
   ⟨true, { State.reset with pair := { State.reset.pair with modeNext := some true } }, by decide +kernel⟩,
   ⟨0, 0, posted 0 0 0x902 [1] State.reset, by decide +kernel⟩,
   ⟨0, 0, (posted 0 0 0x903 [] State.reset).wrF .TWN_PAIR_STATUS 0 5 1 1, by decide +kernel⟩,
   ⟨0, State.reset.wrF .TWN_STATUS 0 0 2 2, by decide +kernel⟩,
   ⟨State.reset.wrF .TWN_PAIR_STATUS 0 5 1 1, by decide +kernel⟩,
   ⟨1, [1, 2], standby, by decide +kernel⟩,
   ⟨16, by decide +kernel⟩,
   ⟨dig1, standby, by decide +kernel⟩,
   ⟨dig1, held1, { State.reset.wrF .FN_STATUS 0 3 2 roleActive with pair := { State.reset.pair with mirrored := true, held := [held1] } }, by decide +kernel⟩,
   ⟨held1, { State.reset.wrF .FN_STATUS 0 3 2 roleActive with pair := { State.reset.pair with mirrored := true, held := [held1] } }, by decide +kernel⟩,
   ⟨[], State.reset.wrF .TWN_PAIR_STATUS 0 13 1 1, by decide +kernel⟩,
   ⟨true, { State.reset.wrF .TWN_PAIR_STATUS 0 13 1 1 with pair := { State.reset.pair with katLocal := some true } }, by decide +kernel⟩,
   ⟨1, [], standby, standby.count .TWN_RESYNC_BYTES 0 0, by decide +kernel, by decide +kernel, by decide +kernel, by decide +kernel, rfl, by decide +kernel⟩,
   ⟨16, { State.reset with pair := { State.reset.pair with stepHold := [16] } }, by decide +kernel⟩⟩

theorem witness_PairHolderCommands :
    (∃ (r : Nat) (s : State), r ≤ 8 ∧ s.pair.holder = true) ∧
    (∃ (r : Nat) (keys : List Nat) (s : State) (t : State), r ≤ 8 ∧
      t = { s with pair := { s.pair with partnerYielded := true, peerKeys := keys, reason := r, failover := true } }.flushHeld.updGuard ∧
      t.pair.fault = false) ∧
    (∃ (r : Nat) (s : State), r ≤ 8 ∧ s.pair.holder = true ∧ s.pair.yieldDue = some r ∧ s.atBoundary = true) ∧
    (∃ (l : List Nat) (r : Nat), l ≠ [] ∧ (l.all (fun v => decide (v < 4096)) = true) ∧ readingOf l = some r) ∧
    (∃ (rise : Nat) (s : State) (t : State), rise < 4096 ∧ t = s.wrF .TWN_LOCK_MV 0 12 12 rise ∧ t.pair.holder = true ∧
      t.line ≠ lineContended) ∧
    (∃ (s : State), s.mayClaim = true) ∧
    (∃ (s : State), s.pair.claiming.isNone = false ∧ s.line = lineSelf) ∧
    (∃ (s : State), s.pair.primary = true ∧ s.role = roleStandby ∧ s.pair.mirrored = true ∧ s.allSynced = true ∧
      s.rdF .TWN_PAIR_STATUS 0 11 1 = 1 ∧ s.degraded = false ∧ s.paired = true ∧ s.pwr.trip = false ∧ s.pwr.supply = false ∧
      s.draining = false ∧ s.fnState 0 ≠ fnOos) ∧
    (∃ (s : State), s.pair.fault = true ∧ s.rdF .TWN_STATUS 0 4 1 ≠ 0) ∧
    (∃ (fn : Nat) (mbx : Nat) (s : State), s.posted fn mbx 0x002 = true ∧ s.pair.drainCmd = none ∧ s.pair.drained = true) ∧
    (∃ (fn : Nat) (mbx : Nat) (s : State) (t : State), s.posted fn mbx 0x002 = true ∧ s.pair.drainCmd = none ∧ s.pair.drained = false ∧
      (t = { (s.accept fn mbx).wrF .TWN_PAIR_STATUS 0 10 1 1 with pair := { ((s.accept fn mbx).wrF .TWN_PAIR_STATUS 0 10 1 1).pair with drainCmd := some (fn, mbx), claiming := none } }.allFns fun t f => if t.fnState f = fnReady then t.setFnState f fnDraining else t) ∧ t.soloDrain = false) ∧
    (∃ (fn : Nat) (mbx : Nat) (s : State), s.posted fn mbx 0x003 = true ∧ s.draining = false) ∧
    (∃ (fn : Nat) (mbx : Nat) (s : State) (t : State), s.posted fn mbx 0x003 = true ∧ s.draining = true ∧ s.pair.drainCmd = none ∧
      (t = { s.wrF .TWN_PAIR_STATUS 0 10 1 0 with pair := { s.pair with drained := false, drainCmd := none, yieldDue := if s.pair.yieldDue = some 3 then none else s.pair.yieldDue } }.allFns fun t f => if t.fnState f = fnDraining then t.setFnState f (t.runState f) else t)) ∧
    (∃ (s : State), s.brd.armed = true ∧ s.brd.pullIgnored = false) ∧
    (∃ (mv : Nat) (s : State), mv < 40000 ∧ s.brd.powered = true) :=
  ⟨⟨2, { State.reset with pair := { State.reset.pair with holder := true } }, by decide +kernel⟩,
   ⟨2, [], State.reset, { State.reset with pair := { State.reset.pair with partnerYielded := true, peerKeys := [], reason := 2, failover := true } }.flushHeld.updGuard, by decide +kernel, rfl, by decide +kernel⟩,
   ⟨2, { State.reset with pair := { State.reset.pair with holder := true, yieldDue := some 2 } }, by decide +kernel⟩,
   ⟨[1600, 1600, 1600], 0, by decide +kernel⟩,
   ⟨100, { State.reset with pair := { State.reset.pair with holder := true } }, { State.reset with pair := { State.reset.pair with holder := true } }.wrF .TWN_LOCK_MV 0 12 12 100, by decide +kernel, rfl, by decide +kernel⟩,
   ⟨claimState, by decide +kernel⟩,
   ⟨{ State.reset.setLine lineSelf with pair := { State.reset.pair with claiming := some 0 } }, by decide +kernel⟩,
   ⟨{ (standby.wrF .TWN_PAIR_STATUS 0 11 1 1).wrF .TWN_PAIR_STATUS 0 5 1 1 with pair := { standby.pair with primary := true } }, by decide +kernel⟩,
   ⟨{ State.reset.wrF .TWN_STATUS 0 4 1 1 with pair := { State.reset.pair with fault := true } }, by decide +kernel⟩,
   ⟨0, 0, { posted 0 0 0x002 [] State.reset with pair := { State.reset.pair with drained := true } }, by decide +kernel⟩,
   ⟨0, 0, drainState, drainNext, by decide +kernel, by decide +kernel, by decide +kernel, rfl, by decide +kernel⟩,
   ⟨0, 0, posted 0 0 0x003 [] State.reset, by decide +kernel⟩,
   ⟨0, 0, resumeState, resumeNext, by decide +kernel, by decide +kernel, by decide +kernel, rfl⟩,
   ⟨{ State.reset with brd := { State.reset.brd with armed := true } }, by decide +kernel⟩,
   ⟨39999, { State.reset with brd := { State.reset.brd with powered := true } }, by decide +kernel⟩⟩

theorem witness_ServingCommands :
    (∃ (fn : Nat) (mbx : Nat) (s : State), s.posted fn mbx 0x300 = true ∧ s.cfgOk fn (s.arg fn mbx 0) (s.cfgArgs fn mbx) = true ∧
      ((s.model fn (s.arg fn mbx 0)).isNone && decide (16 ≤ s.modelCount fn)) = false ∧ s.liveOf fn (s.arg fn mbx 0) = []) ∧
    (∃ (fn : Nat) (mbx : Nat) (c : SCfg) (s : State), s.posted fn mbx 0x301 = true ∧ mbx ≠ 16 ∧
      s.submitCode fn mbx (s.submitReq fn mbx) = rOk ∧ s.model fn (s.submitReq fn mbx).model = some c ∧
      (s.submitReq fn mbx).strict = false) ∧
    (∃ (fn : Nat) (mbx : Nat) (code : Nat) (s : State), s.posted fn mbx 0x301 = true ∧ mbx ≠ 16 ∧
      s.submitCode fn mbx (s.submitReq fn mbx) = code ∧ code ≠ rOk) ∧
    (∃ (fn : Nat) (mbx : Nat) (l : Nat) (r : Req) (c : SCfg) (s : State), s.posted fn mbx 0x302 = true ∧
      s.findReq fn (s.arg64 fn mbx 0) = some (l, r) ∧ s.model fn r.model = some c ∧ r.st ≠ .ending) ∧
    (∃ (fn : Nat) (mbx : Nat) (l : Nat) (r : Req) (s : State) (t : State), s.posted fn mbx 0x303 = true ∧
      s.findReq fn (s.arg64 fn mbx 0) = some (l, r) ∧ s.bulkPut fn (s.arg64 fn mbx 2) (reqEntry fn l r) = some t) ∧
    (∃ (fn : Nat) (mbx : Nat) (b : List Byte) (x : StopSet) (s : State), s.posted fn mbx 0x304 = true ∧ s.arg fn mbx 0 ≤ 255 ∧
      ((s.live fn).any (fun e => e.2.stopset == s.arg fn mbx 0) = false) ∧ parseStops b = some x) ∧
    (∃ (fn : Nat) (mbx : Nat) (b : List Byte) (x : Adapter) (ps : List Nat) (s : State), s.posted fn mbx 0x305 = true ∧
      s.arg fn mbx 0 ≠ 4095 ∧ s.adapterBound fn (s.arg fn mbx 0) = true ∧ s.adapterHeld fn (s.arg fn mbx 0) = false ∧
      parseAdapter fn b = some x ∧ ps = (s.adapterPages fn (s.arg fn mbx 0)).take (ceilDiv x.size 65536) ∧
      ceilDiv x.size 65536 ≤ ps.length) ∧
    (∃ (fn : Nat) (mbx : Nat) (s : State), s.posted fn mbx 0x306 = true ∧ s.arg fn mbx 0 ≠ 4095 ∧
      s.adapterBound fn (s.arg fn mbx 0) = true ∧ s.adapterHeld fn (s.arg fn mbx 0) = false) ∧
    (∃ (fn : Nat) (mbx : Nat) (c : SCfg) (s : State), s.posted fn mbx 0x307 = true ∧ s.model fn (s.arg fn mbx 0) = some c) ∧
    (∃ (fn : Nat) (mbx : Nat) (s : State), s.posted fn mbx 0x308 = true ∧ (s.model fn (s.arg fn mbx 0)).isNone = false ∧
      s.liveOf fn (s.arg fn mbx 0) = []) ∧
    (∃ (fn : Nat) (m : Nat), 1 ≤ fn ∧ fn ≤ 16 ∧ m < 65536) ∧
    (∃ (fn : Nat) (m : Nat) (c : SCfg) (st : Stp) (s : State), 1 ≤ fn ∧ fn ≤ 16 ∧ m < 65536 ∧ s.model fn m = some c ∧ c.step = some st ∧
      st.done = false ∧ s.upd.stage ≠ .window ∧ c.doneGen < (s.pass c.donePass).gen) ∧
    (∃ (n : Nat) (x : Ctx) (s : State), s.ctx n = some x ∧ x.restart = true ∧ x.serving.isSome = true ∧
      s.ras.suspects.contains n = false ∧ s.pwr.trip = false ∧ s.pwr.supply = false) :=
  ⟨⟨1, 0, vf1 (posted 1 0 0x300 cfgWords State.reset), by decide +kernel⟩,
   ⟨1, 0, (posted 1 0 0x300 cfgWords State.reset).cfgArgs 1 0, submitState, by decide +kernel⟩,
   ⟨1, 0, rNotServing, posted 1 0 0x301 [] State.reset, by decide +kernel⟩,
   ⟨1, 0, 0, { reqId := 7 }, (posted 1 0 0x300 cfgWords State.reset).cfgArgs 1 0, live7 (posted 1 0 0x302 [7] State.reset), by decide +kernel⟩,
   ⟨1, 0, 0, { reqId := 7 }, queryState, (queryState.bulkPut 1 0 (reqEntry 1 0 { reqId := 7 })).getD queryState, by decide +kernel⟩,
   ⟨1, 0, stopBytes, ⟨[2], []⟩, posted 1 0 0x304 [255] State.reset, by decide +kernel⟩,
   ⟨1, 0, adapterBytes, (parseAdapter 1 adapterBytes).getD { fn := 0, model := 0, size := 0, layers := [] }, [7], adapterState, by decide +kernel⟩,
   ⟨1, 0, vf1 (posted 1 0 0x306 [1] State.reset), by decide +kernel⟩,
   ⟨1, 0, (posted 1 0 0x300 cfgWords State.reset).cfgArgs 1 0, serving (posted 1 0 0x307 [0] State.reset), by decide +kernel⟩,
   ⟨1, 0, serving (posted 1 0 0x308 [0] State.reset), by decide +kernel⟩,
   ⟨16, 65535, by decide +kernel⟩,
   ⟨1, 0, stepCfg, step1, stepState, by decide +kernel⟩,
   ⟨1, ctxRestart, { State.reset with fab := { State.reset.fab with ctxs := [(1, ctxRestart)] } }, by decide +kernel⟩⟩

theorem witness_VideoStreamCommands :
    (∃ (fn : Nat) (mbx : Nat) (s : State), s.posted fn mbx 0x400 = true ∧ s.mediaDown = false ∧ s.badLimit fn mbx 0x400 = false ∧
      s.vid.streams = [] ∧ (if (s.openArgs fn mbx).enc then 61200 else 122400) ≥ (s.openArgs fn mbx).cost ∧
      (s.openArgs fn mbx).slots.length ≤ s.poolFree) ∧
    (∃ (fn : Nat) (mbx : Nat) (v : VStream) (s : State), s.posted fn mbx 0x401 = true ∧ s.mediaDown = false ∧
      s.ownStream fn (s.arg fn mbx 0) = some v) ∧
    (∃ (fn : Nat) (mbx : Nat) (v : VStream) (s : State), s.posted fn mbx 0x402 = true ∧ s.mediaDown = false ∧
      s.badLimit fn mbx 0x402 = false ∧ s.ownStream fn (s.arg fn mbx 0) = some v ∧ v.enc = false ∧ v.queue.length < 16) ∧
    (∃ (fn : Nat) (mbx : Nat) (v : VStream) (s : State), s.posted fn mbx 0x403 = true ∧ s.mediaDown = false ∧
      s.ownStream fn (s.arg fn mbx 0) = some v ∧ v.enc = true ∧
      prepOk (s.arg fn mbx 3) (s.arg fn mbx 4) (s.arg fn mbx 5) (s.arg fn mbx 6) (s.sarg fn mbx 7) (s.arg fn mbx 8) v.w v.h = true ∧
      v.queue.length < 16) ∧
    (∃ (fn : Nat) (mbx : Nat) (v : VStream) (s : State), s.posted fn mbx 0x404 = true ∧ s.mediaDown = false ∧
      s.ownStream fn (s.arg fn mbx 0) = some v ∧ v.enc = true ∧
      encSetOk v.codec (s.arg fn mbx 1) (s.arg fn mbx 2) (s.arg fn mbx 3) (s.arg fn mbx 4) = true) ∧
    (∃ (fn : Nat) (mbx : Nat) (s : State), s.posted fn mbx 0x405 = true ∧ s.mediaDown = false ∧ s.badLimit fn mbx 0x405 = false ∧
      s.arg fn mbx 1 = 0xFFFF) ∧
    (∃ (fn : Nat) (mbx : Nat) (s : State), s.posted fn mbx 0x406 = true ∧ s.mediaDown = false ∧
      (s.job fn (s.arg fn mbx 0)).isNone = false ∧ s.arg fn mbx 0 < 256) ∧
    (∃ (fn : Nat) (mbx : Nat) (s : State), s.posted fn mbx 0x407 = true ∧ s.mediaDown = false ∧ s.badLimit fn mbx 0x407 = false ∧
      ((s.vid.jpeg.filter fun x => x.fn == fn).length < 32)) ∧
    (∃ (fn : Nat) (mbx : Nat) (v : VStream) (s : State), s.posted fn mbx 0x408 = true ∧ s.mediaDown = false ∧
      s.ownStream fn (s.arg fn mbx 0) = some v) ∧
    (∃ (fn : Nat) (mbx : Nat) (v : VStream) (s : State), s.posted fn mbx 0x409 = true ∧ s.mediaDown = false ∧
      s.ownStream fn (s.arg fn mbx 0) = some v ∧ v.enc = true ∧ v.rp ≤ s.arg64 fn mbx 1 ∧ s.arg64 fn mbx 1 ≤ v.wp) :=
  ⟨⟨1, 0, openState, by decide +kernel⟩,
   ⟨1, 0, vstream false [], vids false [] (posted 1 0 0x401 [3] State.reset), by decide +kernel⟩,
   ⟨1, 0, vstream false [], vids false [] (posted 1 0 0x402 [3, 0, 0, 100] State.reset), by decide +kernel⟩,
   ⟨1, 0, vstream true [], vids true [] (posted 1 0 0x403 [3, 0, 0, 0, 0, 64, 64, 0, 3] State.reset), by decide +kernel⟩,
   ⟨1, 0, vstream true [], vids true [] (posted 1 0 0x404 [3, 255, 100, 10000, 65535] State.reset), by decide +kernel⟩,
   ⟨1, 0, posted 1 0 0x405 [9, 0xFFFF, 0, 0, 64, 64, 0, 0, 64, 64] State.reset, by decide +kernel⟩,
   ⟨1, 0, vids false [] (posted 1 0 0x406 [4] State.reset), by decide +kernel⟩,
   ⟨1, 0, posted 1 0 0x407 [0, 0, 5] State.reset, by decide +kernel⟩,
   ⟨1, 0, vstream true [], vids true [] (posted 1 0 0x408 [3] State.reset), by decide +kernel⟩,
   ⟨1, 0, vstream true [], vids true [] (posted 1 0 0x409 [3] State.reset), by decide +kernel⟩⟩

theorem witness_VideoEngineCommands :
    (∃ (eng : Nat) (k : Nat) (s : State), eng < 8 ∧ s.engUp eng = true ∧ s.upd.stage ≠ .window ∧ s.nextStream eng = some k) ∧
    (∃ (k : Nat) (v : VStream) (s : State), k < 65536 ∧ s.stream k = some v ∧ s.mediaDown = false ∧ s.blocked v.fn k = false) ∧
    (∃ (eng : Nat) (k : Nat) (s : State), 8 ≤ eng ∧ eng < 12 ∧ s.engUp eng = true ∧ s.nextStream eng = some k) ∧
    (∃ (k : Nat) (v : VStream) (u : Coded) (rest : List Coded) (s : State), k < 65536 ∧ s.stream k = some v ∧ v.waiting = u :: rest ∧
      s.mediaDown = false ∧ v.fits u.len = true) ∧
    (∃ (w : Nat) (h : Nat) (x : JImg) (s : State) (t : State), s.mediaDown = false ∧ s.nextJpeg = some x ∧ 1 ≤ w ∧ w ≤ 16384 ∧ 1 ≤ h ∧
      h ≤ 16384 ∧ t = { s with vid := { s.vid with jpegLast := x.fn } } ∧ t.jpegFits x w h = true ∧ ctusOf h ≤ x.strips + 1) ∧
    (∃ (fn : Nat) (j : Nat) (c : CJob) (s : State), 1 ≤ fn ∧ fn ≤ 16 ∧ j < 256 ∧ s.job fn j = some c ∧ s.mediaDown = false ∧
      s.frameWaits fn j = true) ∧
    (∃ (eng : Nat), eng < 12) :=
  ⟨⟨0, 0, engState, by decide +kernel⟩,
   ⟨3, vstream false [], vids false [] State.reset, by decide +kernel⟩,
   ⟨8, 3, vids true [{ addr := 0, len := 0, pts := 0 }] State.reset, by decide +kernel⟩,
   ⟨3, codedStream, coded, [], { State.reset with vid := { State.reset.vid with streams := [(3, codedStream)] } }, by decide +kernel⟩,
   ⟨16, 16, jpeg1, jpegState, { jpegState with vid := { jpegState.vid with jpegLast := 1 } }, by decide +kernel, by decide +kernel, by decide +kernel, by decide +kernel, by decide +kernel, by decide +kernel, rfl, by decide +kernel⟩,
   ⟨1, 4, job4, frameState, by decide +kernel⟩,
   ⟨11, by decide +kernel⟩⟩

/- Each check of WellFormed refuses a term that breaks it alone. -/

theorem test_wf_refuses_registers :
    ([.registerWrite 17 0 4 0, .registerWrite 0 65536 4 0, .mailboxPost 17 0 0, .mailboxPost 0 16 0, .mailboxPayloadWrite 17 0 0 0,
      .mailboxPayloadWrite 0 16 0 0, .mailboxPayloadWrite 0 0 63 0, .serveConfig 19 0, .serveConfig 0 17, .evtRingEnable 17 1,
      .evtRingConfigWrite 17 0x2000 0, .evtRingConfigWrite 0 0x2004 0, .vectorMapWrite 17 0x100 0, .vectorMapWrite 0 0xFC 0,
      .vectorMapWrite 0 0x120 0, .vectorMapWrite 0 0x102 0, .interruptCoalesceTimeout 17 0, .interruptCoalesceTimeout 1 32] :
      List Instr).all (fun i => !i.wf) = true := by decide +kernel

theorem test_wf_refuses_threads :
    ([.threadIssue 64 0 .nop 4, .threadIssue 0 64 .nop 4, .threadIssue 0 0 .nop 3, .threadIssue 0 0 (.lui 32 0) 4,
      .threadIssue 0 0 (.alu .add false 0 32 0) 4, .threadIssue 0 0 (.alui .add false 0 32 0) 4, .threadIssue 0 0 (.load 1 2 0 3 true) 4,
      .threadIssue 0 0 (.store 1 2 0 16) 4, .threadIssue 0 0 (.fsw 32 2 0) 4, .threadIssue 0 0 (.branch .eq 0 32 0) 4,
      .threadIssue 0 0 (.fp .add 0 0 0 0 8) 4, .vectorInstruction 32768 (.mvXS 1 0), .vectorInstruction 0 (.vset 32 (.reg 0) (.imm 0)),
      .vectorInstruction 0 (.load 0 0 24 .unit 1 true), .vectorInstruction 0 (.load 0 0 8 (.strided 32) 1 true), .vectorInstruction 0 (.mvFS 32 0),
      .vectorInstruction 0 (.bin .add 0 32 (.v 0) true), .threadLoadReturn 32768 0 .none, .csrAccess 32768 0 .rw 0 0,
      .csrAccess 0 4096 .rw 0 0, .csrAccess 0 0 .rw 32 0, .csrAccess 0 0 .rw 0 32, .contextReset (2 ^ 32), .claimFetchInc 32768 0 0 0,
      .claimFetchInc 0 64 0 0, .claimFetchInc 0 0 64 0, .claimFetchInc 0 0 0 32, .straitFlitFail 9 true] : List Instr).all (fun i => !i.wf) = true := by
  decide +kernel

theorem test_wf_refuses_islands :
    ([.tensorReexecDone 64 0 false, .tensorReexecDone 0 64 false, .remapDeadline 64, .tlbFill 81 0 0, .tlbFill 0 17 0, .tlbFill 0 0 (2 ^ 21), .fryPost 32768 0 0,
      .fryPost 0 512 0, .fryPost 0 0x8040 0, .ferryDescriptorStart 512, .ferryErrorCompletion 512 1 0 [], .ferryErrorCompletion 0 0 0 [],
      .ferryErrorCompletion 0 11 0 [], .hostTimeout 512 0 [], .pasTargetStore 32768 0 0, .pasTargetStore 0 1024 0,
      .passArrivalCount 1024, .passWaiterResume 64 0, .passWaiterResume 0 1024, .islSrtPost 32768 0 0, .islSrtPost 0 4 0, .sorterJobStart 4,
      .sorterJobError 4 1 0, .sorterJobError 0 0 0, .sorterJobError 0 6 0] : List Instr).all (fun i => !i.wf) = true := by decide +kernel

/-- A read that finds its sector as it was written, and one with a bad byte past the metadata block. -/
def okSeen : Seen := {}
def badSeen : Seen := { flips := [(288, 1)] }

theorem test_wf_refuses_plain :
    ([.plainSectorWrite 17 0 0 [] false okSeen okSeen, .plainSectorWrite 0 sectors 0 [] false okSeen okSeen,
      .plainSectorWrite 0 0 256 [0] false okSeen okSeen, .plainSectorWrite 0 0 0 [] false badSeen okSeen, .sectorReread sectors okSeen,
      .sectorReread 0 badSeen, .plainSectorRead sectors .patrol okSeen, .plainSectorRead 0 .patrol badSeen, .edcRetry 32 true, .dataRateChoice [], .dataRateChoice (List.replicate 32 (256, 0, 0, 0)), .refreshRateChange 256, .pageMigrate 1835008 [],
      .pageMigrate 0 [(256, okSeen, okSeen)], .pageTest 1835008 false, .patrolVisit 256 okSeen okSeen, .patrolVisit 0 badSeen okSeen,
      .patrolVisit 0 okSeen badSeen, .sramScrubVisit 64 none 0 .none, .sramScrubVisit 0 (some 64) 0 .none, .sramScrubVisit 0 (some 0) lsBytes .none,
      .sramScrubVisit 0 none isBytes .none] : List Instr).all (fun i => !i.wf) = true := by decide +kernel

theorem test_wf_refuses_serving_and_video :
    ([.slackRecompute 0 0, .slackRecompute 17 0, .slackRecompute 1 65536, .pictureOutput 65536 0, .encodePictureDone 7 0 [], .encodePictureDone 12 0 [],
      .decodePicture 8 ⟨true, false, false, [], [], [], [], []⟩, .converterStrip 0 0, .converterStrip 17 0, .converterStrip 1 256, .videoEngineReset 12] : List Instr).all (fun i => !i.wf) = true := by decide +kernel

theorem test_wf_refuses_links :
    ([.scrubStart 0, .scrubStart 17, .pcieConventionalReset 3, .pcieLinkTrain 0 [] true [], .pcieLinkTrain 1 [16] true [],
      .pcieLinkTrain 1 [] true [16], .ideKm 18 .program, .usbPost 16 [], .twinTrain 256 0 false [], .twinTrain 0 256 false [], .twinTrain 0 0 false [8],
      .twinFlitReceive 4096 0 true 0 true true true [], .twinFlitReceive 0 4096 true 0 true true true [],
      .twinFlitReceive 0 0 true 0 true true true [8], .twinNak 4096, .cableAttach 2 true true 0, .cableAttach 0 true true 3,
      .cableHotJoin 2 0x50, .cableHotJoin 0 0, .cablePoll 2 true 0 []] : List Instr).all (fun i => !i.wf) = true := by decide +kernel

theorem test_wf_refuses_power :
    ([.leaseWrite 0 65536 0 0, .leaseWrite 0 0 65536 0, .leaseWrite 0 0 0 (2 ^ 32), .coolantWrite 0 65536 0 0 false false,
      .coolantWrite 0 0 65536 0 false false, .coolantWrite 0 0 0 65536 false false, .dutyTick 0 0 [] 0,
      .dutyTick 0 0 (List.replicate 64 0) 65536, .throttleEndTimeout 17 1, .throttleEndTimeout 0 0, .throttleEndTimeout 0 13,
      .opGrantChange 4 0, .opGrantChange 0 6, .railPresetExpiry 4, .powerForecast (some (4, 0)), .powerForecast (some (0, 6)),
      .junctionScan [] 0 0, .tripExit [64 * 66], .inputOutOfRange (2 ^ 16), .powerLoss 40000, .marginMeasure 4 (List.replicate 128 0),
      .marginMeasure 0 [], .marginMeasure 0 (List.replicate 128 4096), .rainflowSample [] [], .rainflowSample (List.replicate 6 0) [6]] :
      List Instr).all (fun i => !i.wf) = true := by decide +kernel

/-- A boot that meets no failure. -/
def okBoot : BootIn := ⟨List.replicate 32 0, true, true, [], [], 0, true, 0, true, []⟩

theorem test_wf_refuses_recovery :
    ([.errorReport ⟨7, 0, 0, 0, 0x10, 0, 1, 0, 0, 0⟩, .errorReport ⟨0, 0x1C, 0, 0, 0x10, 0, 1, 0, 0, 0⟩, .errorReport ⟨0, 0, 256, 0, 0x10, 0, 1, 0, 0, 0⟩,
      .errorReport ⟨0, 0, 0, 256, 0x10, 0, 1, 0, 0, 0⟩, .errorReport ⟨0, 0, 0, 0, 0x10, 0, 2, 0, 0, 0⟩, .unitStopWatchdog 6, .engineReset 6 0 [],
      .engineReset 0 0 [64 * 66], .crashDumpStart (2 ^ 32) 1, .crashDumpStart 0 0, .crashDumpStart 0 6, .dumpUnitTimeout (2 ^ 24),
      .dumpDeadline [2 ^ 24], .dumpWriteDone 4, .selftest 0 0 [64 * 66], .selftest 19 0 [],
      .chipResetSequence { okBoot with failed := [64 * 66] }, .chipResetSequence { okBoot with badChans := [32] },
      .chipResetSequence { okBoot with badStraits := [9] }, .powerOn { okBoot with eyes := [] },
      .powerOn { okBoot with eyes := List.replicate 32 256 }] : List Instr).all (fun i => !i.wf) = true := by decide +kernel

theorem test_wf_refuses_pair_and_board :
    ([.mirrorInput 17 0 [], .mirrorInput 0 0 (List.replicate 64 0), .mirrorCtl (.rebind 0), .mirrorCtl (.doneAt 17 0 0 0), .resyncBulk 0 [] true,
      .resyncBulk 17 [] true, .digest { dig1 with fn := 0 }, .yield true 9 [], .pairLockReading [], .pairLockReading [4096], .pairLockProbe 4096,
      .pllLossOfLock 18, .pllLossOfLock 21, .pllLossOfLock 25, .ppsInEdge (2 ^ 64), .signalLineMonitor 7 0, .signalLineMonitor 2 1,
      .sidebandAddressAssign 128 true] : List Instr).all (fun i => !i.wf) = true := by decide +kernel

/- Steps whose outcome the spec gives. -/

/-- What a command's next state answers to a question; false where it answers none. -/
def after (c : Instr) (s : State) (f : State → Bool) : Bool := match exec c s with | .next t => f t | _ => false

/- Section 4, the weak cell: sector 69 of page 700,019 lies on channel 22. -/
theorem test_plain_channel_of_the_worked_example : plainChannel 700019 69 = 22 := by decide

/- Section 5, loading weight tiles: the descriptor of slot 9. -/
theorem test_ferry_descriptor_of_the_worked_example :
    (let d := fdesc (natLe 0x0000010000424000 8 ++ natLe 0x4000 8 ++ natLe 0x0001000100014000 8 ++ List.replicate 24 0 ++ natLe 0x00240010 4 ++
      natLe 0x00090461 4 ++ natLe 0 8)
     d.src = 0x10000424000 ∧ d.dst = 0x4000 ∧ d.n = [16384, 1, 1, 1] ∧ d.xform = 0 ∧ d.ebits = 8 ∧ d.sasp = 0 ∧ d.dasp = 0 ∧ d.dcore = 9 ∧
     d.action = 1 ∧ d.target = 70 ∧ d.tag = 9) := by decide

/-- The context layer of section 6: 34 rows of 60 pixels, 3 by 3 taps, padding equal to the dilation. -/
def contextLayer (dil y0 rows : Nat) : SParam :=
  { imgH := 34, imgW := 60, cin := 128, outW := 60, y0 := y0, rows := rows, kh := 3, kw := 3, dil := dil, stride := 1, pad := 0, prune := true
    res := false, padT := dil, padL := dil, padC := 0, corrOut := 0, wAddr := 0, cout := 128, wfmt := 0, wstride := 0, maskOut := 0 }

/- Section 6, the worked cases of pruning. -/
theorem test_pruned_taps_of_the_worked_cases :
    (contextLayer 64 0 34).kept = [4] ∧ maskOf (contextLayer 16 0 8).kept = 0x1F8 ∧ maskOf (contextLayer 16 8 8).kept = 0x1F8 ∧
    maskOf (contextLayer 16 16 8).kept = 0x1FF ∧ maskOf (contextLayer 16 24 8).kept = 0x03F ∧ maskOf (contextLayer 16 32 2).kept = 0x03F := by
  decide +kernel

/- Section 3: tmma acc0, a0, a1 is 0x00B5000B. -/
theorem test_tmma_word_of_the_manual :
    after (.tmma 0 0x00B5000B) (running { thr with x := [(10, 0x200), (11, 0x4000)] })
      (fun t => (t.ten 0).queue.map (fun e => (e.acc, e.op)) == [(0, .tmma 0x200 0x4000)]) = true := by decide +kernel

/- Section 3: tmmas acc1, a0, a1, si is 0x06B5100B; it advances both scale addresses by 32. -/
theorem test_tmmas_word_of_the_manual :
    after (.tmmas 0 0x06B5100B) (running { thr with x := [(10, 0), (11, 0x4000)], tcfg := 0x766, scaleA := 0x20000, scaleB := 0x20400 })
      (fun t => (t.ten 0).queue.map (fun e => (e.acc, e.op)) == [(1, .tmmas 0 0x4000)] && (t.th 0).scaleA == 0x20020 &&
        (t.th 0).scaleB == 0x20420) = true := by decide +kernel

/- Section 3: tred v8, acc0, col, max is 0x0400640B. -/
theorem test_tred_word_of_the_manual :
    after (.tred 0 0x0400640B) (running thr) (fun t => (t.ten 0).queue.map (fun e => (e.acc, e.op)) == [(0, .tred 0 true 8)]) = true := by
  decide +kernel

/-- The block of section 3: 1.5 in block 0 of A and 3.0 in block 0 of B, with scales 2^-3 and 2^1. -/
def mxBlock (sa1 : Byte) : MMIn :=
  { a := List.replicate 16 0x33 ++ List.replicate 496 0, b := List.replicate 16 0x55 ++ List.replicate 496 0
    sa := [0x7C, sa1] ++ List.replicate 30 0x7F, sb := [0x80] ++ List.replicate 31 0x7F }

/- Section 3, one block worked through: 36.0, and NaN with a NaN scale. -/
theorem test_mxfp4_block_of_the_manual :
    mmElem { entry0 (.tmmas 0 0) with tcfg := 0x766 } (mxBlock 0x7F) 0 0 0 0 = 0x42100000 ∧
    mmElem { entry0 (.tmmas 0 0) with tcfg := 0x766 } (mxBlock 0xFF) 0 0 0 0 = 0x7FC00000 := by decide +kernel

/-- The epilogue of section 3: channel 5 has scale 0.002 and bias 1.5. -/
def linearLayer (acc : Word32) : State :=
  { running { thr with acc := [(5, acc)] } with
    fab := { (running { thr with acc := [(5, acc)] }).fab with
      lsram := memWrite (memWrite [] 0x27F14 (natLe 0x3B03126F 4)) 0x27F54 (natLe 0x3FC00000 4) } }

/-- The epilogue descriptor of section 3. -/
def linearDesc : List Byte :=
  natLe 0x28000 4 ++ natLe 0x27F00 4 ++ natLe 0x27F40 4 ++ natLe 0x00500010 4 ++ natLe 0x310 4 ++ List.replicate 12 0

/- Section 3, two elements worked through: 3,000 gives 8, and 80,000 saturates to 127. -/
theorem test_epilogue_of_the_manual :
    (linearLayer 3000).epiElem (entry0 (.tepi linearDesc)) linearDesc 0 5 = 8 ∧
    (linearLayer 80000).epiElem (entry0 (.tepi linearDesc)) linearDesc 0 5 = 127 := by decide +kernel

/- R41: addw sign-extends its 32-bit sum. -/
theorem test_addw_sign_extends :
    after (.threadIssue 0 0 (.alu .add true 3 1 2) 4) (running { thr with x := [(1, 0x7FFFFFFF), (2, 1)] })
      (fun t => (t.th 0).xr 3 == 0xFFFFFFFF80000000 && (t.th 0).pc == 0x01000004 && (t.th 0).xr 1 == 0x7FFFFFFF) = true := by decide +kernel

/- R547: two settings count 2; a clearing write in the cycle of a third leaves the bit set and the counter at 1. -/
theorem test_event_counter_restarts :
    ((State.reset.hwSet .PLN_EVT 0 8).hwSet .PLN_EVT 0 8).rdN .PLN_EVT_CNT 0 = 2 ∧
    (((State.reset.hwSet .PLN_EVT 0 8).hwSet .PLN_EVT 0 8).w1cWrite .PLN_EVT 0 8 8).rdN .PLN_EVT_CNT 0 = 1 ∧
    (((State.reset.hwSet .PLN_EVT 0 8).hwSet .PLN_EVT 0 8).w1cWrite .PLN_EVT 0 8 8).rdN .PLN_EVT 0 = 8 := by decide +kernel

/- R164: after the first write of a page every other byte of it reads as zero. -/
theorem test_first_write_leaves_zeros :
    after (.plainSectorWrite 1 256 3 [7] false {} {}) (State.reset.setPage 1 { owner := 1 })
      (fun t => t.plainByte 1 3 == 7 && t.plainByte 1 2 == 0 && t.plainByte 1 300 == 0 && (t.page 1).st == .written) = true := by decide +kernel

end Sys2Proof.Tests

end
end

/-! SUPPORT. The statements of 00 (scope): every command answers, keeps the queue and a sound state; reset is sound; the accesses to the
registers of BAR0. -/

namespace Sys2Proof.Machine

open Sys2Proof

section Commands

/-- SELFTEST checks the cores that it is told of behind the check of its mailbox, where wf has both checks in one. -/
theorem execSelftest_eq_onUnit (fn mbx : Nat) (failed : List Nat) (s : State) :
    ∃ t, execSelftest fn mbx failed s = onUnit s (Instr.selftest fn mbx failed).wf t := by
  by_cases hall : (failed.all fun k => decide (k < 64 * 66)) = true
  · have hwf : (Instr.selftest fn mbx failed).wf = decide (fn ≤ 18 ∧ mbx ≤ 16) := by rw [Instr.wf, hall, Bool.true_and]
    rw [hwf]
    exact ⟨_, rfl⟩
  · exact ⟨s, by simp [execSelftest, State.cmd, onUnit, hall]⟩

/-- Every meaning runs behind the check of its own operands (R3, log entry 20): the guard that it opens with is the one of wf, and a
command without operands to check is well formed. -/
theorem exec_eq_onUnit (c : Instr) (s : State) : ∃ t, exec c s = onUnit s c.wf t := by
  cases c with
  | selftest fn mbx failed => exact execSelftest_eq_onUnit fn mbx failed s
  | _ => exact ⟨_, rfl⟩

/-- No command faults or refuses. -/
theorem exec_next (c : Instr) (s : State) : ∃ t, exec c s = .next t := by
  obtain ⟨t, ht⟩ := exec_eq_onUnit c s
  exact ⟨_, ht⟩

/-- A command with an operand that names no unit of the module changes nothing. -/
theorem exec_of_not_wf {c : Instr} (s : State) (hc : c.wf = false) : exec c s = .next s := by
  obtain ⟨t, ht⟩ := exec_eq_onUnit c s
  rw [ht, hc, onUnit_false]

/-- Every command keeps the queue and soundness: the frame of each meaning, in the order of exec. -/
theorem exec_keeps (c : Instr) {b s : State} (hk : Keeps b s) : KeepsOut b (exec c s) := by
  cases c with
  | registerWrite fn off width value => exact execRegisterWrite_keeps hk fn off width value
  | bar0BadAccess fn off width write value => exact execBar0BadAccess_keeps hk fn off width write value
  | splitLowRead fn off => exact execSplitLowRead_keeps hk fn off
  | splitLowWrite fn off value => exact execSplitLowWrite_keeps hk fn off value
  | splitHighWrite fn off value => exact execSplitHighWrite_keeps hk fn off value
  | w1cClearWrite fn off value hw => exact execW1cClearWrite_keeps hk fn off value hw
  | straitFlitFail strait ok => exact execStraitFlitFail_keeps hk strait ok
  | straitRetrainDone strait ok => exact execStraitRetrainDone_keeps hk strait ok
  | threadIssue island slot op len => exact execThreadIssue_keeps hk island slot op len
  | vectorInstruction gid op => exact execVectorInstruction_keeps hk gid op
  | threadLoadReturn gid n err => exact execThreadLoadReturn_keeps hk gid n err
  | threadStoreComplete gid => exact execThreadStoreComplete_keeps hk gid
  | fence gid pred succ => exact execFence_keeps hk gid pred succ
  | fenceI gid => exact execFenceI_keeps hk gid
  | ebreak gid len => exact execEbreak_keeps hk gid len
  | csrAccess gid csr op rd src => exact execCsrAccess_keeps hk gid csr op rd src
  | yphaseWrite gid value => exact execYphaseWrite_keeps hk gid value
  | pwrPhPhaseStore gid value => exact execPwrPhPhaseStore_keeps hk gid value
  | exit gid => exact execExit_keeps hk gid
  | trace gid => exact execTrace_keeps hk gid
  | abort gid => exact execAbort_keeps hk gid
  | ecallUnknown gid => exact execEcallUnknown_keeps hk gid
  | contextReset ctx => exact execContextReset_keeps hk ctx
  | contextDone ctx => exact execContextDone_keeps hk ctx
  | claimFetchInc gid n k rd => exact execClaimFetchInc_keeps hk gid n k rd
  | claimFetchAdd gid n k rd => exact execClaimFetchAdd_keeps hk gid n k rd
  | claimBoundedInc gid n k rd => exact execClaimBoundedInc_keeps hk gid n k rd
  | tensorReexecDone island slot mismatch => exact execTensorReexecDone_keeps hk island slot mismatch
  | remapDeadline island => exact execRemapDeadline_keeps hk island
  | remapForceMidstep island => exact execRemapForceMidstep_keeps hk island
  | tlbFill cache fn vpn => exact execTlbFill_keeps hk cache fn vpn
  | droopCrossing island drop => exact execDroopCrossing_keeps hk island drop
  | droopBubbleEnd island => exact execDroopBubbleEnd_keeps hk island
  | islWinSelWrite value => exact execIslWinSelWrite_keeps hk value
  | pdmStart island => exact execPdmStart_keeps hk island
  | pdmDone island margins => exact execPdmDone_keeps hk island margins
  | tcfg gid word => exact execTcfg_keeps hk gid word
  | trowtag gid word => exact execTrowtag_keeps hk gid word
  | tmma gid word => exact execTmma_keeps hk gid word
  | tmmas gid word => exact execTmmas_keeps hk gid word
  | tzero gid word => exact execTzero_keeps hk gid word
  | tepi gid word => exact execTepi_keeps hk gid word
  | tred gid word => exact execTred_keeps hk gid word
  | passArrive gid word => exact execPassArrive_keeps hk gid word
  | passWait gid word => exact execPassWait_keeps hk gid word
  | fenceF gid word => exact execFenceF_keeps hk gid word
  | tensorDispatch island slot => exact execTensorDispatch_keeps hk island slot
  | tmmaComplete island slot mismatch err => exact execTmmaComplete_keeps hk island slot mismatch err
  | tepiComplete island slot err bad => exact execTepiComplete_keeps hk island slot err bad
  | tredComplete island slot parity => exact execTredComplete_keeps hk island slot parity
  | adapterCacheFill island slot adapter layer group ue => exact execAdapterCacheFill_keeps hk island slot adapter layer group ue
  | tensorIdleTimeout island slot => exact execTensorIdleTimeout_keeps hk island slot
  | rampWindow island => exact execRampWindow_keeps hk island
  | plainSectorRead psn who seen => exact execPlainSectorRead_keeps hk psn who seen
  | sectorReread psn seen => exact execSectorReread_keeps hk psn seen
  | plainSectorWrite fn psn first data kv seen again => exact execPlainSectorWrite_keeps hk fn psn first data kv seen again
  | edcRetry channel ok => exact execEdcRetry_keeps hk channel ok
  | channelRetrainDone channel ok => exact execChannelRetrainDone_keeps hk channel ok
  | dataRateChoice chans => exact execDataRateChoice_keeps hk chans
  | refreshRateChange hot => exact execRefreshRateChange_keeps hk hot
  | pageMigrate ppn reads => exact execPageMigrate_keeps hk ppn reads
  | pageTest ppn bad => exact execPageTest_keeps hk ppn bad
  | patrolVisit sector seen again => exact execPatrolVisit_keeps hk sector seen again
  | sramScrubVisit island core addr err => exact execSramScrubVisit_keeps hk island core addr err
  | fryPost gid ch addr => exact execFryPost_keeps hk gid ch addr
  | ferryPostResume gid => exact execFerryPostResume_keeps hk gid
  | ferryDescriptorStart ch => exact execFerryDescriptorStart_keeps hk ch
  | ferryDescriptorComplete ch host => exact execFerryDescriptorComplete_keeps hk ch host
  | ferryErrorCompletion ch code addr host => exact execFerryErrorCompletion_keeps hk ch code addr host
  | hostTimeout ch addr host => exact execHostTimeout_keeps hk ch addr host
  | pasTargetStore gid pass value => exact execPasTargetStore_keeps hk gid pass value
  | passArrivalCount pass => exact execPassArrivalCount_keeps hk pass
  | passArriveAck gid => exact execPassArriveAck_keeps hk gid
  | passWaiterResume island pass => exact execPassWaiterResume_keeps hk island pass
  | islSrtPost gid k addr => exact execIslSrtPost_keeps hk gid k addr
  | sorterPostResume gid => exact execSorterPostResume_keeps hk gid
  | sorterJobStart k => exact execSorterJobStart_keeps hk k
  | sorterJobComplete k => exact execSorterJobComplete_keeps hk k
  | sorterJobError k code addr => exact execSorterJobError_keeps hk k code addr
  | serveConfig fn mbx => exact execServeConfig_keeps hk fn mbx
  | serveSubmit fn mbx prompt => exact execServeSubmit_keeps hk fn mbx prompt
  | serveCancel fn mbx => exact execServeCancel_keeps hk fn mbx
  | serveQuery fn mbx => exact execServeQuery_keeps hk fn mbx
  | stopsetSet fn mbx fetched => exact execStopsetSet_keeps hk fn mbx fetched
  | adapterLoad fn mbx fetched => exact execAdapterLoad_keeps hk fn mbx fetched
  | adapterFree fn mbx => exact execAdapterFree_keeps hk fn mbx
  | serveStats fn mbx => exact execServeStats_keeps hk fn mbx
  | serveUnconfig fn mbx => exact execServeUnconfig_keeps hk fn mbx
  | slackRecompute fn model => exact execSlackRecompute_keeps hk fn model
  | stepResultProcess fn model => exact execStepResultProcess_keeps hk fn model
  | servingContextRestart ctx => exact execServingContextRestart_keeps hk ctx
  | vidStreamOpen fn mbx => exact execVidStreamOpen_keeps hk fn mbx
  | vidStreamClose fn mbx => exact execVidStreamClose_keeps hk fn mbx
  | vidDecodeSubmit fn mbx => exact execVidDecodeSubmit_keeps hk fn mbx
  | vidEncodeSubmit fn mbx => exact execVidEncodeSubmit_keeps hk fn mbx
  | vidEncodeSet fn mbx => exact execVidEncodeSet_keeps hk fn mbx
  | vidConvertJob fn mbx => exact execVidConvertJob_keeps hk fn mbx
  | vidJobCancel fn mbx => exact execVidJobCancel_keeps hk fn mbx
  | vidJpegSubmit fn mbx => exact execVidJpegSubmit_keeps hk fn mbx
  | vidStreamQuery fn mbx => exact execVidStreamQuery_keeps hk fn mbx
  | vidOutputAck fn mbx => exact execVidOutputAck_keeps hk fn mbx
  | decodePicture eng pic => exact execDecodePicture_keeps hk eng pic
  | pictureOutput stream which => exact execPictureOutput_keeps hk stream which
  | encodePictureDone eng bits blocks => exact execEncodePictureDone_keeps hk eng bits blocks
  | auRingWrite stream => exact execAuRingWrite_keeps hk stream
  | jpegStrip w h samples err => exact execJpegStrip_keeps hk w h samples err
  | converterStrip fn job => exact execConverterStrip_keeps hk fn job
  | videoEngineReset eng => exact execVideoEngineReset_keeps hk eng
  | mailboxPost fn mbx header => exact execMailboxPost_keeps hk fn mbx header
  | mailboxPayloadWrite fn mbx word value => exact execMailboxPayloadWrite_keeps hk fn mbx word value
  | evtRingEnable fn value => exact execEvtRingEnable_keeps hk fn value
  | evtRingConfigWrite fn off value => exact execEvtRingConfigWrite_keeps hk fn off value
  | fnEvtAckWrite fn value => exact execFnEvtAckWrite_keeps hk fn value
  | vectorMapWrite fn off value => exact execVectorMapWrite_keeps hk fn off value
  | interruptCoalesceTimeout fn vec => exact execInterruptCoalesceTimeout_keeps hk fn vec
  | functionLevelReset fn => exact execFunctionLevelReset_keeps hk fn
  | moduleInfo fn mbx => exact execModuleInfo_keeps hk fn mbx
  | moduleStatus fn mbx => exact execModuleStatus_keeps hk fn mbx
  | moduleDrain fn mbx => exact execModuleDrain_keeps hk fn mbx
  | moduleResume fn mbx => exact execModuleResume_keeps hk fn mbx
  | valleyEnter fn mbx peerOk => exact execValleyEnter_keeps hk fn mbx peerOk
  | valleyExit fn mbx => exact execValleyExit_keeps hk fn mbx
  | timeGet fn mbx => exact execTimeGet_keeps hk fn mbx
  | linkRestore fn mbx upconfig => exact execLinkRestore_keeps hk fn mbx upconfig
  | ledIdentify fn mbx => exact execLedIdentify_keeps hk fn mbx
  | nop fn mbx => exact execNop_keeps hk fn mbx
  | partQuery fn mbx => exact execPartQuery_keeps hk fn mbx
  | partBind fn mbx => exact execPartBind_keeps hk fn mbx
  | partUnbind fn mbx => exact execPartUnbind_keeps hk fn mbx
  | partRebind fn mbx => exact execPartRebind_keeps hk fn mbx
  | partReset fn mbx => exact execPartReset_keeps hk fn mbx
  | partSetRamp fn mbx => exact execPartSetRamp_keeps hk fn mbx
  | pageRelease fn mbx => exact execPageRelease_keeps hk fn mbx
  | pageMap fn mbx => exact execPageMap_keeps hk fn mbx
  | pageReplace fn mbx => exact execPageReplace_keeps hk fn mbx
  | progLoad fn mbx image => exact execProgLoad_keeps hk fn mbx image
  | progUnload fn mbx => exact execProgUnload_keeps hk fn mbx
  | ctxStart fn mbx => exact execCtxStart_keeps hk fn mbx
  | ctxStop fn mbx => exact execCtxStop_keeps hk fn mbx
  | ctxQuery fn mbx => exact execCtxQuery_keeps hk fn mbx
  | memCopyIn fn mbx => exact execMemCopyIn_keeps hk fn mbx
  | memCopyOut fn mbx => exact execMemCopyOut_keeps hk fn mbx
  | pwrStatus fn mbx => exact execPwrStatus_keeps hk fn mbx
  | pwrSetPhases fn mbx => exact execPwrSetPhases_keeps hk fn mbx
  | pwrSetShare fn mbx => exact execPwrSetShare_keeps hk fn mbx
  | pwrSetSafe fn mbx => exact execPwrSetSafe_keeps hk fn mbx
  | pwrOperatorCap fn mbx => exact execPwrOperatorCap_keeps hk fn mbx
  | pwrThrottleRead fn mbx => exact execPwrThrottleRead_keeps hk fn mbx
  | lifeQuery fn mbx => exact execLifeQuery_keeps hk fn mbx
  | logRead fn mbx => exact execLogRead_keeps hk fn mbx
  | logClear fn mbx => exact execLogClear_keeps hk fn mbx
  | dumpRead fn mbx => exact execDumpRead_keeps hk fn mbx
  | dumpClear fn mbx => exact execDumpClear_keeps hk fn mbx
  | rasSetPolicy fn mbx => exact execRasSetPolicy_keeps hk fn mbx
  | pageStateRead fn mbx => exact execPageStateRead_keeps hk fn mbx
  | selftest fn mbx failed => exact execSelftest_keeps hk fn mbx failed
  | chipReset fn mbx => exact execChipReset_keeps hk fn mbx
  | rasQuery fn mbx => exact execRasQuery_keeps hk fn mbx
  | secStatus fn mbx => exact execSecStatus_keeps hk fn mbx
  | secCertGet fn mbx cert => exact execSecCertGet_keeps hk fn mbx cert
  | ownerLock fn mbx token sigOk => exact execOwnerLock_keeps hk fn mbx token sigOk
  | ownerUnlock fn mbx token sigOk => exact execOwnerUnlock_keeps hk fn mbx token sigOk
  | debugOpen fn mbx => exact execDebugOpen_keeps hk fn mbx
  | debugClose fn mbx => exact execDebugClose_keeps hk fn mbx
  | updateBegin fn mbx fetched sigOk keyOk => exact execUpdateBegin_keeps hk fn mbx fetched sigOk keyOk
  | updateBlock fn mbx fetched tagOk => exact execUpdateBlock_keeps hk fn mbx fetched tagOk
  | updateCommit fn mbx => exact execUpdateCommit_keeps hk fn mbx
  | commitComplete tagsOk rulesOk digests => exact execCommitComplete_keeps hk tagsOk rulesOk digests
  | updateActivate fn mbx => exact execUpdateActivate_keeps hk fn mbx
  | updateAbort fn mbx => exact execUpdateAbort_keeps hk fn mbx
  | updateStatus fn mbx => exact execUpdateStatus_keeps hk fn mbx
  | rollbackTimer recordOk => exact execRollbackTimer_keeps hk recordOk
  | pairStatus fn mbx => exact execPairStatus_keeps hk fn mbx
  | pairSetMode fn mbx => exact execPairSetMode_keeps hk fn mbx
  | pairTakeback fn mbx => exact execPairTakeback_keeps hk fn mbx
  | pairResync fn mbx => exact execPairResync_keeps hk fn mbx
  | scrubStart fn => exact execScrubStart_keeps hk fn
  | scrubDrainEnd fn timedOut => exact execScrubDrainEnd_keeps hk fn timedOut
  | scrubBoundExpiry fn => exact execScrubBoundExpiry_keeps hk fn
  | unexpectedCompletion fn => exact execUnexpectedCompletion_keeps hk fn
  | pcieLinkTrain hostRate good revOk worn => exact execPcieLinkTrain_keeps hk hostRate good revOk worn
  | bar2Read fn off len => exact execBar2Read_keeps hk fn off len
  | bar2Write fn off data => exact execBar2Write_keeps hk fn off data
  | msixUnmask fn vec addr data => exact execMsixUnmask_keeps hk fn vec addr data
  | atsInvalidate fn addr size => exact execAtsInvalidate_keeps hk fn addr size
  | pasidWrite fn value => exact execPasidWrite_keeps hk fn value
  | vfBarResize fn size mse => exact execVfBarResize_keeps hk fn size mse
  | numvfsWrite numVfs vfEnable => exact execNumvfsWrite_keeps hk numVfs vfEnable
  | ideKm stream op => exact execIdeKm_keeps hk stream op
  | ideStreamFail stream => exact execIdeStreamFail_keeps hk stream
  | tdiUnsecuredRequest fn onStream tBit => exact execTdiUnsecuredRequest_keeps hk fn onStream tBit
  | usbPost mbx words => exact execUsbPost_keeps hk mbx words
  | usbStageWrite off data => exact execUsbStageWrite_keeps hk off data
  | usbStageRead off len => exact execUsbStageRead_keeps hk off len
  | twinFlitReceive seq ack ackv symbols fecOk crcOk aligned worn =>
    exact execTwinFlitReceive_keeps hk seq ack ackv symbols fecOk crcOk aligned worn
  | twinNak ack => exact execTwinNak_keeps hk ack
  | heartbeat time count mode role health lockMv lanes => exact execHeartbeat_keeps hk time count mode role health lockMv lanes
  | cableAttach cable checksumOk typeOk retimers => exact execCableAttach_keeps hk cable checksumOk typeOk retimers
  | cableHotJoin cable target => exact execCableHotJoin_keeps hk cable target
  | sessionHeartbeatTimeout session => exact execSessionHeartbeatTimeout_keeps hk session
  | leaseWrite bytes watts dur seq => exact execLeaseWrite_keeps hk bytes watts dur seq
  | coolantWrite bytes inlet outlet flow motion holdup => exact execCoolantWrite_keeps hk bytes inlet outlet flow motion holdup
  | dutyTick draw islandDraw powers amps => exact execDutyTick_keeps hk draw islandDraw powers amps
  | throttleEndTimeout fn reason => exact execThrottleEndTimeout_keeps hk fn reason
  | opGrantChange die op => exact execOpGrantChange_keeps hk die op
  | railPresetExpiry die => exact execRailPresetExpiry_keeps hk die
  | powerForecast next => exact execPowerForecast_keeps hk next
  | junctionScan islands hub media => exact execJunctionScan_keeps hk islands hub media
  | tripExit failed => exact execTripExit_keeps hk failed
  | inputOutOfRange mv => exact execInputOutOfRange_keeps hk mv
  | supplyStopExit mv failed => exact execSupplyStopExit_keeps hk mv failed
  | powerLoss mv => exact execPowerLoss_keeps hk mv
  | marginMeasure die taps => exact execMarginMeasure_keeps hk die taps
  | weeklyCheck eye24 eye20 eye16 => exact execWeeklyCheck_keeps hk eye24 eye20 eye16
  | rainflowSample temps hourHot => exact execRainflowSample_keeps hk temps hourHot
  | errorReport rep => exact execErrorReport_keeps hk rep
  | hangScan moved => exact execHangScan_keeps hk moved
  | coreProgressWatchdog gid => exact execCoreProgressWatchdog_keeps hk gid
  | unitStopWatchdog src => exact execUnitStopWatchdog_keeps hk src
  | videoEngineWatchdog eng => exact execVideoEngineWatchdog_keeps hk eng
  | engineReset src cause failed => exact execEngineReset_keeps hk src cause failed
  | chipResetSequence boot => exact execChipResetSequence_keeps hk boot
  | crashDumpStart trigger domain => exact execCrashDumpStart_keeps hk trigger domain
  | dumpUnitTimeout src => exact execDumpUnitTimeout_keeps hk src
  | dumpDeadline left => exact execDumpDeadline_keeps hk left
  | dumpWriteDone slot => exact execDumpWriteDone_keeps hk slot
  | pairHello chainOk sigOk fwVer serial certHash secondary => exact execPairHello_keeps hk chainOk sigOk fwVer serial certHash secondary
  | mirrorInput fn opcode words => exact execMirrorInput_keeps hk fn opcode words
  | mirrorCtl msg => exact execMirrorCtl_keeps hk msg
  | digest dig => exact execDigest_keeps hk dig
  | knownAnswerTestDone passed failed => exact execKnownAnswerTestDone_keeps hk passed failed
  | resyncBulk fn pages last => exact execResyncBulk_keeps hk fn pages last
  | resyncHoldTimeout fn => exact execResyncHoldTimeout_keeps hk fn
  | yield request reason keys => exact execYield_keeps hk request reason keys
  | holderYield reason => exact execHolderYield_keeps hk reason
  | powerOn boot => exact execPowerOn_keeps hk boot
  | refclkWindow bad => exact execRefclkWindow_keeps hk bad
  | pllLossOfLock domain => exact execPllLossOfLock_keeps hk domain
  | pllRelockTimeout domain => exact execPllRelockTimeout_keeps hk domain
  | ppsInEdge time => exact execPpsInEdge_keeps hk time
  | timeSync offset => exact execTimeSync_keeps hk offset
  | valleyEntryComplete us => exact execValleyEntryComplete_keeps hk us
  | valleyExitComplete us => exact execValleyExitComplete_keeps hk us
  | supplyExcursion mv => exact execSupplyExcursion_keeps hk mv
  | holdupBankCheck percent => exact execHoldupBankCheck_keeps hk percent
  | pcieConventionalReset kind => exact execPcieConventionalReset_keeps hk kind
  | tdispGetVersion fn => exact execTdispGetVersion_keeps hk fn
  | tdispGetCapabilities fn => exact execTdispGetCapabilities_keeps hk fn
  | lockInterfaceRequest fn => exact execLockInterfaceRequest_keeps hk fn
  | getDeviceInterfaceReport fn => exact execGetDeviceInterfaceReport_keeps hk fn
  | getDeviceInterfaceState fn => exact execGetDeviceInterfaceState_keeps hk fn
  | startInterfaceRequest fn => exact execStartInterfaceRequest_keeps hk fn
  | stopInterfaceRequest fn => exact execStopInterfaceRequest_keeps hk fn
  | tdispUnsupported fn code => exact execTdispUnsupported_keeps hk fn code
  | tdispConfigViolation fn => exact execTdispConfigViolation_keeps hk fn
  | ptmDialogue offset => exact execPtmDialogue_keeps hk offset
  | twinTrain peerMask inverted reversed failed => exact execTwinTrain_keeps hk peerMask inverted reversed failed
  | cablePoll cable answered hot eyes => exact execCablePoll_keeps hk cable answered hot eyes
  | spdmGetVersion doe => exact execSpdmGetVersion_keeps hk doe
  | spdmGetCapabilities doe => exact execSpdmGetCapabilities_keeps hk doe
  | negotiateAlgorithms doe asym hash meas dhe aead sched => exact execNegotiateAlgorithms_keeps hk doe asym hash meas dhe aead sched
  | getDigests doe => exact execGetDigests_keeps hk doe
  | getCertificate doe slot off len => exact execGetCertificate_keeps hk doe slot off len
  | challenge doe slot => exact execChallenge_keeps hk doe slot
  | getMeasurements doe index => exact execGetMeasurements_keeps hk doe index
  | keyExchange doe => exact execKeyExchange_keeps hk doe
  | finish doe session ok => exact execFinish_keeps hk doe session ok
  | spdmHeartbeat doe session => exact execSpdmHeartbeat_keeps hk doe session
  | keyUpdate doe session => exact execKeyUpdate_keeps hk doe session
  | endSession doe session => exact execEndSession_keeps hk doe session
  | chunkSend doe seq last => exact execChunkSend_keeps hk doe seq last
  | chunkGet doe seq => exact execChunkGet_keeps hk doe seq
  | respondIfReady doe code => exact execRespondIfReady_keeps hk doe code
  | vendorDefinedRequest doe proto => exact execVendorDefinedRequest_keeps hk doe proto
  | spdmUnsupported doe code => exact execSpdmUnsupported_keeps hk doe code
  | jtagInstruction code => exact execJtagInstruction_keeps hk code
  | trngRetest ok => exact execTrngRetest_keeps hk ok
  | pairLockReading samples => exact execPairLockReading_keeps hk samples
  | pairLockProbe rise => exact execPairLockProbe_keeps hk rise
  | signalLineMonitor signal code => exact execSignalLineMonitor_keeps hk signal code
  | sidebandAddressAssign addr setdasa => exact execSidebandAddressAssign_keeps hk addr setdasa
  | epochDrawResume => exact execEpochDrawResume_keeps hk
  | firmwareReady => exact execFirmwareReady_keeps hk
  | quiescentPoint => exact execQuiescentPoint_keeps hk
  | quiescentTimeout => exact execQuiescentTimeout_keeps hk
  | handoverAdoptTimeout => exact execHandoverAdoptTimeout_keeps hk
  | fwConfirm => exact execFwConfirm_keeps hk
  | svnCounterBurn => exact execSvnCounterBurn_keeps hk
  | usbAttach => exact execUsbAttach_keeps hk
  | usbDetach => exact execUsbDetach_keeps hk
  | usbBadFrame => exact execUsbBadFrame_keeps hk
  | twinTrainRetry => exact execTwinTrainRetry_keeps hk
  | heartbeatSend => exact execHeartbeatSend_keeps hk
  | peerSilent => exact execPeerSilent_keeps hk
  | peerSilentLong => exact execPeerSilentLong_keeps hk
  | aliasKeyReady => exact execAliasKeyReady_keeps hk
  | jtagTlrTimeout => exact execJtagTlrTimeout_keeps hk
  | jtagTapReset => exact execJtagTapReset_keeps hk
  | trngHealthFail => exact execTrngHealthFail_keeps hk
  | coolantStale => exact execCoolantStale_keeps hk
  | trayFlagClear => exact execTrayFlagClear_keeps hk
  | leaseExpiry => exact execLeaseExpiry_keeps hk
  | leaseDecayEnd => exact execLeaseDecayEnd_keeps hk
  | limitTick => exact execLimitTick_keeps hk
  | forecastStale => exact execForecastStale_keeps hk
  | tripHoldTimeout => exact execTripHoldTimeout_keeps hk
  | pwrWarnAssert => exact execPwrWarnAssert_keeps hk
  | pwrWarnDeassert => exact execPwrWarnDeassert_keeps hk
  | warnFloorEnd => exact execWarnFloorEnd_keeps hk
  | mcpWatchdog => exact execMcpWatchdog_keeps hk
  | powerCycleRerequest => exact execPowerCycleRerequest_keeps hk
  | suspectReplayStart => exact execSuspectReplayStart_keeps hk
  | suspectReplayEnd => exact execSuspectReplayEnd_keeps hk
  | pairLinkLost => exact execPairLinkLost_keeps hk
  | modeChangeApply => exact execModeChangeApply_keeps hk
  | digestKeepExpiry => exact execDigestKeepExpiry_keeps hk
  | outputHoldTimeout => exact execOutputHoldTimeout_keeps hk
  | katResultTimeout => exact execKatResultTimeout_keeps hk
  | lineFaultSilent => exact execLineFaultSilent_keeps hk
  | pairLockClaim => exact execPairLockClaim_keeps hk
  | claimSettle => exact execClaimSettle_keeps hk
  | claimBackoffEnd => exact execClaimBackoffEnd_keeps hk
  | takebackTimer => exact execTakebackTimer_keeps hk
  | pullWarnAssert => exact execPullWarnAssert_keeps hk
  | pullWarnArm => exact execPullWarnArm_keeps hk
  | pullWarnOpen => exact execPullWarnOpen_keeps hk
  | reversePolarity => exact execReversePolarity_keeps hk
  | refclkReturn => exact execRefclkReturn_keeps hk
  | ppsTimeout => exact execPpsTimeout_keeps hk
  | ledIdentifyExpiry => exact execLedIdentifyExpiry_keeps hk
  | usbInTransfer => exact execUsbInTransfer_keeps hk

/-- The invariant does not speak of the queue. -/
theorem State.Inv.withPending {s : State} (hs : s.Inv) (q : List Instr) : State.Inv { s with pending := q } :=
  ⟨hs.mem, hs.regs, hs.time, hs.fatal, hs.retired⟩

/-- A step keeps soundness, whether it runs the front command or lets a nanosecond pass. -/
theorem step_keeps_inv {s t : State} (hs : s.Inv) (h : step s = .next t) : t.Inv := by
  unfold step at h
  split at h
  · cases h
    exact (tick_keeps (Keeps.refl s)).inv hs
  · next c r _ => exact (exec_keeps c (Keeps.refl { s with pending := r }) t h).inv (hs.withPending r)

/-- Settles O4: the queue is outside the invariant, and a tick and every command keep it. -/
theorem everyStepKeepsSoundness : Obligations.EveryStepKeepsSoundness :=
  fun _ _ hs h => step_keeps_inv hs h

/-- Settles O6: each meaning is guarded by the check of its operands and answers a next state, which its frame lemma describes. -/
theorem everyCommandAnswers : Obligations.EveryCommandAnswers := by
  intro c s
  obtain ⟨t, ht⟩ := exec_next c s
  have hkeeps : Keeps s t := exec_keeps c (Keeps.refl s) t ht
  refine ⟨t, ht, hkeeps.pending, hkeeps.inv, fun hc => ?_⟩
  rw [exec_of_not_wf s hc] at ht
  cases ht
  rfl

end Commands

section Reset

/-- The state after reset is sound: its memories, its register file, its FATAL ring and its retirement list are empty. -/
theorem State.reset_inv : State.reset.Inv :=
  ⟨rfl, rfl, Nat.two_pow_pos 64, Nat.zero_le 256, Nat.zero_le 16384⟩

/-- The register file is empty after reset, so every register reads its reset value. -/
theorem State.rd_reset (r : Reg) (i : Nat) : State.reset.rd r i = r.resetVal i := rfl

/-- Settles O3: reset holds nothing but default values; the safe budget is the low field of the reset value of PWR_SAFE. -/
theorem resetIsSound : Obligations.ResetIsSound := by
  have hsafe : State.reset.rdF .PWR_SAFE 0 0 16 = 700 := by
    rw [State.rdF, State.rd_reset]
    decide
  exact ⟨State.reset_inv, rfl, rfl, rfl, rfl, State.rd_reset, hsafe⟩

end Reset

section Bar0

variable {s : State} {fn off i : Nat} {r : Reg}

/-- An access to BAR0 of a function that the module has reaches it. -/
theorem onUnit_bar0 (t : State) (hfn : fn ≤ 16) (hoff : off < 65536) :
    onUnit s (decide (fn ≤ 16 ∧ off < 65536)) t = .next t := by
  rw [decide_eq_true ⟨hfn, hoff⟩, onUnit_true]

/- Writes. -/

/-- A write of a register's own width at its offset is a software write, which drops a held low half (R15, R16). -/
theorem execRegisterWrite_own (width value : Nat) (hfn : fn ≤ 16) (hoff : off < 65536) (hr : s.regAt fn off = some (off, r, i))
    (hw : width * 8 = r.info.width) : execRegisterWrite fn off width value s = .next ((s.swWrite fn r i value).unhold fn off) := by
  rw [execRegisterWrite, onUnit_bar0 _ hfn hoff]
  simp [hr, hw]

/-- The low half of a 64-bit register is held and changes no register (R14). -/
theorem execSplitLowWrite_holds (value : Nat) (hfn : fn ≤ 16) (hoff : off < 65536) (hr : s.regAt fn off = some (off, r, i))
    (h64 : r.info.width = 64) (hrun : s.fnState fn ≠ fnScrubbing) : execSplitLowWrite fn off value s =
    .next { s with mbx := { s.mbx with heldLow := tabSet s.mbx.heldLow (halfKey fn off) (w32 value) } } := by
  rw [execSplitLowWrite, onUnit_bar0 _ hfn hoff]
  simp [hr, h64, hrun]

/-- A scrubbing VF drops the low half (R385). -/
theorem execSplitLowWrite_scrubbing (value : Nat) (hfn : fn ≤ 16) (hoff : off < 65536) (hr : s.regAt fn off = some (off, r, i))
    (h64 : r.info.width = 64) (hscrub : s.fnState fn = fnScrubbing) : execSplitLowWrite fn off value s = .next (s.dropWr fn) := by
  rw [execSplitLowWrite, onUnit_bar0 _ hfn hoff]
  simp [hr, h64, hscrub]

/-- The low half below which a high-half write of a 64-bit register writes: the held one, or the present one (R14). -/
def State.lowBelow (s : State) (fn off : Nat) (r : Reg) (i : Nat) : Nat :=
  ((tabFind s.mbx.heldLow (halfKey fn off)).map BitVec.toNat).getD ((s.view r i).toNat % 2 ^ 32)

/-- The high half writes the register above its low half and drops the held one (R14). -/
theorem execSplitHighWrite_above (value : Nat) (hfn : fn ≤ 16) (hoff : off + 4 < 65536)
    (hr : s.regAt fn (off + 4) = some (off, r, i)) (h64 : r.info.width = 64) : execSplitHighWrite fn (off + 4) value s =
    .next ((s.swWrite fn r i (s.lowBelow fn off r i + value % 2 ^ 32 * 2 ^ 32)).unhold fn off) := by
  rw [execSplitHighWrite, onUnit_bar0 _ hfn hoff, State.lowBelow]
  cases hl : tabFind s.mbx.heldLow (halfKey fn off) <;> simp [hr, h64, hl]

/-- A write-1-to-clear write clears the bits written, keeps those that hardware sets, and drops a held low half (R547). -/
theorem execW1cClearWrite_clears (value hw : Nat) (hfn : fn ≤ 16) (hoff : off < 65536) (hr : s.regAt fn off = some (off, r, i))
    (h1c : r.info.w1c ≠ 0) (hrun : s.fnState fn ≠ fnScrubbing) :
    execW1cClearWrite fn off value hw s = .next ((s.w1cWrite r i (w64 value) (w64 hw)).unhold fn off) := by
  rw [execW1cClearWrite, onUnit_bar0 _ hfn hoff]
  simp only [hr]
  rw [if_pos ⟨trivial, h1c⟩, if_neg hrun]

/-- A scrubbing VF drops the write, and hardware still sets its bits (R385, R547). -/
theorem execW1cClearWrite_scrubbing (value hw : Nat) (hfn : fn ≤ 16) (hoff : off < 65536) (hr : s.regAt fn off = some (off, r, i))
    (h1c : r.info.w1c ≠ 0) (hscrub : s.fnState fn = fnScrubbing) :
    execW1cClearWrite fn off value hw s = .next ((s.dropWr fn).w1cWrite r i 0 (w64 hw)) := by
  rw [execW1cClearWrite, onUnit_bar0 _ hfn hoff]
  simp only [hr]
  rw [if_pos ⟨trivial, h1c⟩, if_pos hscrub]

/- Reads. -/

/-- A read of the low half answers it and latches the high half (R14). -/
theorem State.lowRead_latches (hr : s.regAt fn off = some (off, r, i)) (h64 : r.info.width = 64) : s.lowRead fn off =
    { s with mbx := { s.mbx with latch := tabSet s.mbx.latch (halfKey fn off) (w32 ((s.view r i).toNat / 2 ^ 32)) }
             reply := .word ((s.view r i).toNat % 2 ^ 32) } := by
  simp [State.lowRead, hr, h64]

/-- The high half of a 64-bit register reads as the latch, and without one as it stands (R14). -/
theorem State.highHalf_eq (hr : s.regAt fn (off + 4) = some (off, r, i)) (h64 : r.info.width = 64) : s.highHalf fn (off + 4) =
    some (((tabFind s.mbx.latch (halfKey fn off)).map BitVec.toNat).getD ((s.view r i).toNat / 2 ^ 32)) := by
  unfold State.highHalf
  cases hl : tabFind s.mbx.latch (halfKey fn off) <;> simp [hr, h64, hl]

/-- A 32-bit read above a register's offset is no read of a low half: it answers what the high half reads as. -/
theorem State.bar0Read_high (hr : s.regAt fn (off + 4) = some (off, r, i)) {v : Nat} (hv : s.highHalf fn (off + 4) = some v) :
    s.bar0Read fn (off + 4) 4 = { s with reply := .word v } := by
  simp [State.bar0Read, hr, hv]

/-- A read that meets no half of a register answers the addressed bytes (R13). -/
theorem State.bar0Read_bytes {width : Nat} (h : width ≠ 4 ∨ s.regAt fn off = none) : s.bar0Read fn off width =
    { s with reply := .bytes ((List.range width).map fun k => s.bar0Byte fn (off + k)) } := by
  obtain hw | hnone := h
  · simp [State.bar0Read, hw]
  · simp [State.bar0Read, State.highHalf, hnone]

/-- A read that comes as a bad access is answered as BAR0 is read (R13, log entry 82). -/
theorem execBar0BadAccess_read (width value : Nat) (hfn : fn ≤ 16) (hoff : off < 65536) :
    execBar0BadAccess fn off width false value s = .next (s.bar0Read fn off width) :=
  onUnit_bar0 _ hfn hoff

/-- A write of a width or alignment that no register takes is dropped and counted (R13). -/
theorem execBar0BadAccess_write (width value : Nat) (hfn : fn ≤ 16) (hoff : off < 65536) (hbad : s.goodAccess fn off width = false) :
    execBar0BadAccess fn off width true value s = .next (s.dropWr fn) := by
  rw [execBar0BadAccess, onUnit_bar0 _ hfn hoff]
  simp [hbad]

end Bar0

/-- Settles O19: each write by its lemma; the low half of a split write is the held one or the present one as the table has it. -/
theorem registerWriteEffects : Obligations.RegisterWriteEffects := by
  refine ⟨?own, ?low, ?highHeld, ?highPresent, ?w1c, ?scrubbing⟩
  case own => exact fun fn off width value i r s hfn hoff hr hw => execRegisterWrite_own width value hfn hoff hr hw
  case low => exact fun fn off value i r s hfn hoff hr h64 hrun => execSplitLowWrite_holds value hfn hoff hr h64 hrun
  case highHeld =>
    intro fn off value i l r s hfn hoff hr h64 hl
    have hlow : s.lowBelow fn off r i = l.toNat := by rw [State.lowBelow, hl]; rfl
    rw [← hlow]
    exact execSplitHighWrite_above value hfn (by omega) hr h64
  case highPresent =>
    intro fn off value i r s hfn hoff hr h64 hl
    have hlow : s.lowBelow fn off r i = (s.view r i).toNat % 2 ^ 32 := by rw [State.lowBelow, hl]; rfl
    rw [← hlow]
    exact execSplitHighWrite_above value hfn (by omega) hr h64
  case w1c => exact fun fn off value hw i r s hfn hoff hr h1c hrun => execW1cClearWrite_clears value hw hfn hoff hr h1c hrun
  case scrubbing =>
    exact fun fn off value hw i r s hfn hoff hr hscrub =>
      ⟨fun h64 => execSplitLowWrite_scrubbing value hfn hoff hr h64 hscrub,
       fun h1c => execW1cClearWrite_scrubbing value hw hfn hoff hr h1c hscrub⟩

/-- Settles O20: each read by what BAR0 answers at its place; a bad write is dropped. -/
theorem registerReadEffects : Obligations.RegisterReadEffects := by
  refine ⟨?low, ?bytes, ?high, ?write⟩
  case low =>
    intro fn off i r s hfn hoff hr h64
    rw [← State.lowRead_latches hr h64]
    exact onUnit_bar0 _ hfn hoff
  case bytes =>
    intro fn off width value s hfn hoff _ h
    rw [← State.bar0Read_bytes h]
    exact execBar0BadAccess_read width value hfn hoff
  case high =>
    intro fn off value i r s hfn hoff hr h64
    have hread := execBar0BadAccess_read (s := s) 4 value hfn (show off + 4 < 65536 by omega)
    rw [State.bar0Read_high hr (State.highHalf_eq hr h64)] at hread
    cases hl : tabFind s.mbx.latch (halfKey fn off) <;> rw [hl] at hread <;> exact hread
  case write =>
    exact fun fn off width value s hfn hoff hbad => execBar0BadAccess_write width value hfn hoff hbad

end Sys2Proof.Machine

/-! SUPPORT. The statements of 01 (architecture): the recovery of a strait, and the events of the tensor unit and its ramp governor. -/

namespace Sys2Proof.Machine

open Sys2Proof

section Straits

variable {s : State} {k : Nat}

/-- A command that names a strait of the module reaches it. -/
theorem onUnit_strait (t : State) (hk : k < 9) : onUnit s (decide (k < 9)) t = .next t := by
  rw [decide_eq_true hk, onUnit_true]

/-- A strait's tables after a replayed flit that leaves n failures in a row: the flit counts as corrected (R26). -/
def State.flitReplayed (s : State) (k n : Nat) : State :=
  { s with fab := { s.fab with straitCorr := tabUpd s.fab.straitCorr 0 k (· + 1), straitFails := tabSet s.fab.straitFails k n } }

/-- A strait begins to retrain, which is logged as a correctable error (R26). -/
def State.beginRetrain (s : State) (k : Nat) : State :=
  { s with fab := { s.fab with straitTrain := k :: s.fab.straitTrain } }.log (straitDie k) 7 k 0 0x20 0x1F 1 0 0 0

theorem execStraitFlitFail_succeeds (hk : k < 9) (hup : s.fab.straitDown.contains k = false)
    (hrun : s.fab.straitTrain.contains k = false) : execStraitFlitFail k true s = .next (s.flitReplayed k 0) := by
  rw [execStraitFlitFail, onUnit_strait _ hk, hup, hrun]
  rfl

theorem execStraitFlitFail_counts (hk : k < 9) (hup : s.fab.straitDown.contains k = false)
    (hrun : s.fab.straitTrain.contains k = false) (hfew : tabGet s.fab.straitFails 0 k < 7) :
    execStraitFlitFail k false s = .next (s.flitReplayed k (tabGet s.fab.straitFails 0 k + 1)) := by
  have hbelow : tabGet s.fab.straitFails 0 k + 1 < 8 := by omega
  rw [execStraitFlitFail, onUnit_strait _ hk, hup, hrun]
  simp [hbelow, hbelow.ne, State.flitReplayed]

theorem execStraitFlitFail_retrains (hk : k < 9) (hup : s.fab.straitDown.contains k = false)
    (hrun : s.fab.straitTrain.contains k = false) (heighth : tabGet s.fab.straitFails 0 k = 7) :
    execStraitFlitFail k false s = .next ((s.flitReplayed k 0).beginRetrain k) := by
  rw [execStraitFlitFail, onUnit_strait _ hk, hup, hrun, heighth]
  rfl

/-- The strait is no longer retraining and has no failure in a row (R27). -/
def State.retrained (s : State) (k : Nat) : State :=
  { s with fab := { s.fab with straitTrain := s.fab.straitTrain.erase k, straitFails := tabSet s.fab.straitFails k 0 } }

theorem execStraitRetrainDone_ends (ok : Bool) (hk : k < 9) (htrain : s.fab.straitTrain.contains k = true) :
    execStraitRetrainDone k ok s = .next (if ok then s.retrained k else (s.retrained k).straitFail k) := by
  rw [execStraitRetrainDone, onUnit_strait _ hk, htrain]
  rfl

end Straits

/-- Settles O21: a replayed flit by the failures in a row that it leaves, and the end of a retraining. -/
theorem straitRecovery : Obligations.StraitRecovery := by
  refine ⟨?succeeds, ?counts, ?retrains, ?done⟩
  case succeeds => exact fun k s hk hup hrun => execStraitFlitFail_succeeds hk hup hrun
  case counts => exact fun k s hk hup hrun hfew => execStraitFlitFail_counts hk hup hrun hfew
  case retrains => exact fun k s hk hup hrun heighth => execStraitFlitFail_retrains hk hup hrun heighth
  case done => exact fun k ok s hk htrain => execStraitRetrainDone_ends ok hk htrain

section TensorUnit

variable {s : State} {i sl : Nat} {e : TEntry}

/-- A command that names a tensor unit of the module reaches it. -/
theorem onUnit_tensorUnit (t : State) (hi : i < 64) (hsl : sl < 64) : onUnit s (decide (i < 64 ∧ sl < 64)) t = .next t := by
  rw [decide_eq_true ⟨hi, hsl⟩, onUnit_true]

/- Dispatch. -/

/-- Unit c dispatches entry e and keeps q queued: to the array, at once (TZERO), or to the epilogue stage (R142). -/
def State.dispatchHead (s : State) (c : Nat) (e : TEntry) (q : List TEntry) : State :=
  match e.op with
  | .tmma _ _ | .tmmas _ _ =>
    s.setTen c { s.ten c with queue := q, arr := some e, reexec := false, issuing := true, admitted := false, waiting := false }
  | .tzero all =>
    ((s.setTen c { s.ten c with queue := q }).updTh e.gid fun x => if all then (x.clearAcc 0).clearAcc 1 else x.clearAcc e.acc).afterXyt e
  | _ => s.setTen c { s.ten c with queue := q, epi := some e }

/-- A TMMA or TMMAS takes the array and makes its unit an issuing one (R142, R235). -/
theorem State.dispatchHead_mm (c : Nat) (q : List TEntry) (hmm : e.op.isMM = true) : s.dispatchHead c e q =
    s.setTen c { s.ten c with queue := q, arr := some e, reexec := false, issuing := true, admitted := false, waiting := false } := by
  unfold State.dispatchHead
  cases hop : e.op with
  | tmma | tmmas => rfl
  | tzero | tepi | tred => simp [hop, TOp.isMM] at hmm

/-- Entry e, with q behind it, heads the queue of a unit of the module and could dispatch: its stage is free for it, and the island has a
clock and a cycle that is no bubble (R142). -/
structure State.HeadReady (s : State) (i sl : Nat) (e : TEntry) (q : List TEntry) : Prop where
  island : i < 64
  slot : sl < 64
  head : (s.ten (i * 64 + sl)).queue = e :: q
  stage : (s.ten (i * 64 + sl)).canDispatch e = true
  clock : s.islClkOn (islDie i) = true
  cycle : s.hasCycle i = true

/-- The unit has to ask the ramp governor before it dispatches e (R235). -/
def Tensor.asks (u : Tensor) (e : TEntry) : Bool := e.op.isMM && !u.issuing && !u.admitted

/-- Unit sl of island i waits for admission, and the governor admits what it may (R236). -/
def State.askAdmission (s : State) (i sl : Nat) : State :=
  (s.setTen (i * 64 + sl) { s.ten (i * 64 + sl) with waiting := true }).admitUnits i

/-- Unit sl of island i takes its head entry e: it asks the governor first where it has to, and waits where it gets no admission
(R142, R235). -/
def State.takeHead (s : State) (i sl : Nat) (e : TEntry) (q : List TEntry) : State :=
  let ask := (s.ten (i * 64 + sl)).asks e
  let t := if ask then s.askAdmission i sl else s
  if ask && !(t.ten (i * 64 + sl)).admitted then t.syncRamp i else t.dispatchHead (i * 64 + sl) e q

theorem execTensorDispatch_head {q : List TEntry} (h : s.HeadReady i sl e q) :
    execTensorDispatch i sl s = .next (s.takeHead i sl e q) := by
  have hgo : (!(s.ten (i * 64 + sl)).canDispatch e || !s.islClkOn (islDie i) || !s.hasCycle i) = false := by
    simp [h.stage, h.clock, h.cycle]
  rw [execTensorDispatch, onUnit_tensorUnit _ h.island h.slot]
  dsimp only
  split
  next hnil => simp [h.head] at hnil
  next e' q' hcons =>
    obtain ⟨rfl, rfl⟩ : e = e' ∧ q = q' := by simpa [h.head] using hcons
    rw [hgo]
    rfl

/-- An entry that needs no admission, or whose unit has it, dispatches (R142, R235). -/
theorem execTensorDispatch_dispatches {q : List TEntry} (h : s.HeadReady i sl e q)
    (hadm : e.op.isMM = false ∨ (s.ten (i * 64 + sl)).issuing = true ∨ (s.ten (i * 64 + sl)).admitted = true) :
    execTensorDispatch i sl s = .next (s.dispatchHead (i * 64 + sl) e q) := by
  have hask : (s.ten (i * 64 + sl)).asks e = false := by
    obtain hfree | hset | hset := hadm <;> simp [Tensor.asks, *]
  simp [execTensorDispatch_head h, State.takeHead, hask]

/-- A TMMA or TMMAS of a unit that does not issue asks for admission first, and waits where it gets none (R235, R236). -/
theorem execTensorDispatch_asks {q : List TEntry} (h : s.HeadReady i sl e q) (hmm : e.op.isMM = true)
    (hidle : (s.ten (i * 64 + sl)).issuing = false) (hnone : (s.ten (i * 64 + sl)).admitted = false) :
    execTensorDispatch i sl s = .next (if ((s.askAdmission i sl).ten (i * 64 + sl)).admitted
    then (s.askAdmission i sl).dispatchHead (i * 64 + sl) e q else (s.askAdmission i sl).syncRamp i) := by
  have hask : (s.ten (i * 64 + sl)).asks e = true := by simp [Tensor.asks, hmm, hidle, hnone]
  rw [execTensorDispatch_head h, State.takeHead, hask]
  cases hadm : ((s.askAdmission i sl).ten (i * 64 + sl)).admitted <;> simp [hadm]

/- Completions. -/

/-- The TMMA on the array writes its accumulator and leaves the unit (R112, R116). -/
def State.completeMM (s : State) (c : Nat) (e : TEntry) : State := ((s.finishMM e).freeArr c).afterXyt e

/-- The first mismatch of a TMMA's check marks it for re-execution; it is counted, logged and held against the core (R75, R76). -/
def State.markReexec (s : State) (i sl : Nat) (e : TEntry) : State :=
  let t := s.setTen (i * 64 + sl) { s.ten (i * 64 + sl) with reexec := true }
  let t := ((t.count .ISL_RES_CORR i 1).hwSet .ISL_EVT i 1).logCore i sl 1 1 0 0 (s.th e.gid).ctx
  (t.spareEvent 9 i (t.physOf i sl)).remapFree [i]

/-- With no error in its operands, a TMMA completes or is marked for re-execution as its check says (R75). -/
theorem execTmmaComplete_checks (mismatch : Bool) (hi : i < 64) (hsl : sl < 64) (harr : (s.ten (i * 64 + sl)).arr = some e)
    (hfirst : (s.ten (i * 64 + sl)).reexec = false) (hfree : (s.ten (i * 64 + sl)).sramHeld e = false)
    (hgood : s.badRead e .none = none) :
    execTmmaComplete i sl mismatch .none s = .next (if mismatch then s.markReexec i sl e else s.completeMM (i * 64 + sl) e) := by
  rw [execTmmaComplete, onUnit_tensorUnit _ hi hsl]
  simp only [harr, hfirst, hfree, hgood]
  rfl

/-- A re-executed TMMA whose check passes completes (R77). -/
theorem execTensorReexecDone_completes (hi : i < 64) (hsl : sl < 64) (harr : (s.ten (i * 64 + sl)).arr = some e)
    (hagain : (s.ten (i * 64 + sl)).reexec = true) :
    execTensorReexecDone i sl false s = .next (s.completeMM (i * 64 + sl) e) := by
  rw [execTensorReexecDone, onUnit_tensorUnit _ hi hsl]
  simp only [harr, hagain]
  rfl

/-- The second mismatch frees the array, is counted and logged, makes the core suspect, and raises cause 24 (R77, R79). -/
def State.arithFault (s : State) (i sl : Nat) (e : TEntry) : State :=
  let t := ((s.freeArr (i * 64 + sl)).count .ISL_ARITH_FLT i 1).hwSet .ISL_EVT i 2
  let t := t.logFault i sl 2 0 (t.th e.gid).ctx
  let t := { t with fab := { t.fab with cores := tabUpd t.fab.cores {} (i * 66 + s.physOf i sl) fun h => { h with suspect := true } } }
  ((t.spareEvent 8 i (s.physOf i sl)).remapFree [i]).xytFault e 24

theorem execTensorReexecDone_faults (hi : i < 64) (hsl : sl < 64) (harr : (s.ten (i * 64 + sl)).arr = some e)
    (hagain : (s.ten (i * 64 + sl)).reexec = true) (hturn : s.faultWaits e.gid e.ord = false) :
    execTensorReexecDone i sl true s = .next (s.arithFault i sl e) := by
  rw [execTensorReexecDone, onUnit_tensorUnit _ hi hsl]
  simp only [harr, hagain, hturn]
  rfl

/-- With its adapter lines there and no error in its operands, a TEPI writes its tile and leaves the unit (R127, R130). -/
theorem execTepiComplete_writes {d : List Byte} (hi : i < 64) (hsl : sl < 64) (hepi : (s.ten (i * 64 + sl)).epi = some e)
    (hop : e.op = .tepi d) (hfree : (s.ten (i * 64 + sl)).sramHeld e = false)
    (hlines : (s.linesFor e d).all (s.isl i).lines.contains = true) (hgood : s.badRead e .none = none) :
    execTepiComplete i sl .none [] s = .next (((s.finishEpi e d).freeEpi (i * 64 + sl)).afterXyt e) := by
  have hlost : ((s.linesFor e d).filter fun l => ([] : List Nat).contains l.1).isEmpty = true := by simp
  rw [execTepiComplete, onUnit_tensorUnit _ hi hsl]
  simp only [hepi, hop, hfree, hlines, hlost, hgood]
  rfl

/-- A TRED writes its sixteen results and leaves the unit (R132). -/
theorem execTredComplete_writes {op vd : Nat} {col : Bool} (hi : i < 64) (hsl : sl < 64)
    (hepi : (s.ten (i * 64 + sl)).epi = some e) (hop : e.op = .tred op col vd) :
    execTredComplete i sl false s = .next (((s.finishRed e op col vd).freeEpi (i * 64 + sl)).afterXyt e) := by
  rw [execTredComplete, onUnit_tensorUnit _ hi hsl]
  simp only [hepi, hop]
  rfl

/- Adapter lines and the ramp governor. -/

/-- A line that the TEPI lacks joins an adapter cache with room (R127). -/
theorem execAdapterCacheFill_appends {a l k : Nat} {d : List Byte} (hi : i < 64) (hsl : sl < 64)
    (hepi : (s.ten (i * 64 + sl)).epi = some e) (hop : e.op = .tepi d) (hneed : (s.linesFor e d).contains (a, l, k) = true)
    (hlack : (s.isl i).lines.contains (a, l, k) = false) (hroom : (s.isl i).lines.length < 512) :
    execAdapterCacheFill i sl a l k false s = .next (s.updIsl i fun x => { x with lines := x.lines ++ [(a, l, k)] }) := by
  rw [execAdapterCacheFill, onUnit_tensorUnit _ hi hsl]
  simp only [hepi, hop, hneed, hlack, hroom]
  rfl

theorem execRampWindow_admits (hi : i < 64) : execRampWindow i s = .next ((s.admitUnits i).syncRamp i) := by
  rw [execRampWindow, decide_eq_true hi, onUnit_true]

end TensorUnit

/-- Settles O33: each event of the unit by its lemma; a dispatched TMMA that asked for admission is one for the array. -/
theorem tensorUnitEvents : Obligations.TensorUnitEvents := by
  refine ⟨?dispatches, ?asks, ?completes, ?mismatch, ?again, ?faults, ?tepi, ?tred, ?fill, ?idle, ?ramp⟩
  case dispatches =>
    exact fun i sl e q s hi hsl hq hst hclk hcyc hadm => execTensorDispatch_dispatches ⟨hi, hsl, hq, hst, hclk, hcyc⟩ hadm
  case asks =>
    intro i sl e q s hi hsl hq hst hclk hcyc hmm hidle hnone t
    rw [← State.dispatchHead_mm (i * 64 + sl) q hmm]
    exact execTensorDispatch_asks ⟨hi, hsl, hq, hst, hclk, hcyc⟩ hmm hidle hnone
  case completes => exact fun i sl e s hi hsl harr hfirst hfree hgood => execTmmaComplete_checks false hi hsl harr hfirst hfree hgood
  case mismatch => exact fun i sl e s hi hsl harr hfirst hfree hgood => execTmmaComplete_checks true hi hsl harr hfirst hfree hgood
  case again => exact fun i sl e s hi hsl harr hagain => execTensorReexecDone_completes hi hsl harr hagain
  case faults => exact fun i sl e s hi hsl harr hagain hturn => execTensorReexecDone_faults hi hsl harr hagain hturn
  case tepi =>
    exact fun i sl e d s hi hsl hepi hop hfree hlines hgood => execTepiComplete_writes hi hsl hepi hop hfree hlines hgood
  case tred => exact fun i sl op vd col e s hi hsl hepi hop => execTredComplete_writes hi hsl hepi hop
  case fill =>
    exact fun i sl a l k e d s hi hsl hepi hop hneed hlack hroom => execAdapterCacheFill_appends hi hsl hepi hop hneed hlack hroom
  case idle => exact fun i sl s hi hsl => onUnit_tensorUnit _ hi hsl
  case ramp => exact fun i s hi => execRampWindow_admits hi

end Sys2Proof.Machine

/-! SUPPORT. The statements of 02 (islands): instructions at issue and their frame, completions of loads and stores, the ends of contexts,
claim counters, island commands, programs, contexts and copies by command, and the pages and scrubs of a partition. -/

namespace Sys2Proof.Machine

open Sys2Proof

/-- A command whose operands name units of the module has its effect. -/
theorem onUnit_holds {s : State} {p : Prop} [Decidable p] (t : State) (h : p) : onUnit s (decide p) t = .next t := by
  rw [decide_eq_true h, onUnit_true]

section Issue

variable {s : State} {i sl g len : Nat} {op : ScalarOp}

/-- An instruction of a thread that can issue, and whose fetch does not fault, has its effect (R45, R48). -/
theorem State.issue_eq {ks : List Nat} (f : State → State) (h : s.canIssue g len ks = true) : s.issue g len ks f = f s := by
  simp only [State.canIssue, Bool.and_eq_true] at h
  obtain ⟨⟨hready, hfirst⟩, hlast⟩ := h
  simp [State.issue, hready, hfirst, hlast]

/-- Core sl of island i issues op, an encoded instruction of len bytes, from thread g (R47, R48). -/
structure State.Issues (s : State) (i sl g len : Nat) (op : ScalarOp) : Prop where
  island : i < 64
  slot : sl < 64
  bytes : len = 2 ∨ len = 4
  encoded : opOk op = true
  pick : s.pickThread (i * 64 + sl) op = some g
  ready : s.canIssue g len (opKeys op) = true

theorem exec_threadIssue (h : s.Issues i sl g len op) : exec (.threadIssue i sl op len) s = .next (s.scalar g len op) := by
  have hunit : (decide (i < 64 ∧ sl < 64) && (len == 2 || len == 4) && opOk op) = true := by
    simp [h.island, h.slot, h.bytes, h.encoded]
  change execThreadIssue i sl op len s = _
  rw [execThreadIssue, hunit, onUnit_true, h.pick]
  exact congrArg _ (State.issue_eq _ h.ready)

/- What each form of a scalar instruction does, where its checks pass (R41). -/

theorem State.scalar_alu {o : AluOp} {w : Bool} (rd a b : Nat) (hw : w = false ∨ AluOp.hasW o = true) :
    s.scalar g len (.alu o w rd a b) = s.retireX g len rd ((if w then alu32 else alu64) o ((s.th g).xr a) ((s.th g).xr b)) := by
  have hform : (w && !AluOp.hasW o) = false := by obtain rfl | h := hw <;> simp [*]
  simp only [State.scalar, hform]
  rfl

theorem State.scalar_alui {o : AluOp} {w : Bool} (rd a : Nat) (imm : Int) (himm : hasImm o = true)
    (hw : w = false ∨ AluOp.hasW o = true) : s.scalar g len (.alui o w rd a imm) =
    s.retireX g len rd ((if w then alu32 else alu64) o ((s.th g).xr a) (w64 (unsignedOf 64 imm))) := by
  have hform : (!hasImm o || (w && !AluOp.hasW o)) = false := by obtain rfl | h := hw <;> simp [*]
  simp only [State.scalar, hform]
  rfl

/-- The rounding mode that a floating-point instruction runs under: 0 for one without a rounding mode field, none where the mode is
reserved (R41). -/
def FpOp.mode (op : FpOp) (rm frm : Nat) : Option Nat := if FpOp.rounds op then effRm rm frm else some 0

theorem FpOp.mode_reserved {o : FpOp} {rm frm : Nat} (hround : FpOp.rounds o = true) (hrm : effRm rm frm = none) :
    FpOp.mode o rm frm = none := by
  rw [FpOp.mode, if_pos hround, hrm]

theorem State.scalar_fp_toF {o : FpOp} {rd a b c rm m : Nat} (hx : FpOp.toX o = false) (hm : FpOp.mode o rm (s.th g).frm = some m) :
    s.scalar g len (.fp o rd a b c rm) = (s.updTh g fun x =>
      { x.putF rd (fpResult o m ((s.th g).fr a) ((s.th g).fr b) ((s.th g).fr c) ((s.th g).xr a)).1 with
        fflags := Nat.lor x.fflags (fpResult o m ((s.th g).fr a) ((s.th g).fr b) ((s.th g).fr c) ((s.th g).xr a)).2 }).retired g len := by
  rw [FpOp.mode] at hm
  simp only [State.scalar, hm, hx]
  rfl

theorem State.scalar_fp_toX {o : FpOp} {rd a b c rm m : Nat} (hx : FpOp.toX o = true) (hm : FpOp.mode o rm (s.th g).frm = some m) :
    s.scalar g len (.fp o rd a b c rm) = (s.updTh g fun x =>
      { x.putX rd (fpToInt o m ((s.th g).fr a) ((s.th g).fr b)).1 with
        fflags := Nat.lor x.fflags (fpToInt o m ((s.th g).fr a) ((s.th g).fr b)).2 }).retired g len := by
  rw [FpOp.mode] at hm
  simp only [State.scalar, hm, hx]
  rfl

theorem State.scalar_fp_reserved {o : FpOp} {rd a b c rm : Nat} (hm : FpOp.mode o rm (s.th g).frm = none) :
    s.scalar g len (.fp o rd a b c rm) = s.exceptFree g 2 := by
  rw [FpOp.mode] at hm
  simp only [State.scalar, hm]

end Issue

/-- Settles O22: the chosen thread issues, and each form does what it does as a scalar instruction. -/
theorem scalarIntegerResults : Obligations.ScalarIntegerResults := by
  refine ⟨?alu, ?alui, ?upper, ?jalr, ?jal, ?branch, ?system⟩
  case alu =>
    intro i sl g len rd a b op w s hi hsl hlen hrd ha hb hpick hready hw
    rw [← State.scalar_alu rd a b hw]
    exact exec_threadIssue ⟨hi, hsl, hlen, decide_eq_true ⟨hrd, ha, hb⟩, hpick, hready⟩
  case alui =>
    intro i sl g len rd a imm op w s hi hsl hlen hrd ha hpick hready himm hw
    rw [← State.scalar_alui rd a imm himm hw]
    exact exec_threadIssue ⟨hi, hsl, hlen, decide_eq_true ⟨hrd, ha⟩, hpick, hready⟩
  case upper =>
    intro i sl g len rd v s hi hsl hlen hrd hready
    exact ⟨fun hpick => exec_threadIssue ⟨hi, hsl, hlen, decide_eq_true hrd, hpick, hready⟩,
      fun hpick => exec_threadIssue ⟨hi, hsl, hlen, decide_eq_true hrd, hpick, hready⟩⟩
  case jalr =>
    exact fun i sl g len rd a off s hi hsl hlen hrd ha hpick hready =>
      exec_threadIssue ⟨hi, hsl, hlen, decide_eq_true ⟨hrd, ha⟩, hpick, hready⟩
  case jal =>
    exact fun i sl g len rd off s hi hsl hlen hrd hpick hready =>
      exec_threadIssue ⟨hi, hsl, hlen, decide_eq_true hrd, hpick, hready⟩
  case branch =>
    exact fun i sl g len a b c off s hi hsl hlen ha hb hpick hready =>
      exec_threadIssue ⟨hi, hsl, hlen, decide_eq_true ⟨ha, hb⟩, hpick, hready⟩
  case system =>
    exact fun i sl g len word s hi hsl hlen hready =>
      ⟨fun hpick => exec_threadIssue ⟨hi, hsl, hlen, rfl, hpick, hready⟩,
        fun hpick => exec_threadIssue ⟨hi, hsl, hlen, rfl, hpick, hready⟩,
        fun hpick => exec_threadIssue ⟨hi, hsl, hlen, rfl, hpick, hready⟩⟩

/-- Settles O23: the chosen thread issues; a load or store takes the path of its address, and a floating-point instruction runs under its
rounding mode or is illegal under a reserved one. -/
theorem scalarMemoryAndFloat : Obligations.ScalarMemoryAndFloat := by
  refine ⟨?load, ?store, ?single, ?toF, ?toX, ?reserved⟩
  case load =>
    exact fun i sl g len rd a n imm sx s hi hsl hlen hrd ha hn hpick hready =>
      exec_threadIssue ⟨hi, hsl, hlen, by simp [opOk, *], hpick, hready⟩
  case store =>
    exact fun i sl g len a b n imm s hi hsl hlen ha hb hn hpick hready =>
      exec_threadIssue ⟨hi, hsl, hlen, by simp [opOk, *], hpick, hready⟩
  case single =>
    exact fun i sl g len rd a imm s hi hsl hlen hrd ha =>
      ⟨fun hpick hready => exec_threadIssue ⟨hi, hsl, hlen, decide_eq_true ⟨hrd, ha⟩, hpick, hready⟩,
        fun hpick hready => exec_threadIssue ⟨hi, hsl, hlen, decide_eq_true ⟨hrd, ha⟩, hpick, hready⟩⟩
  case toF =>
    intro i sl g len rd a b c rm m op s hi hsl hlen hops hpick hready hx hm
    rw [← State.scalar_fp_toF hx hm]
    exact exec_threadIssue ⟨hi, hsl, hlen, decide_eq_true hops, hpick, hready⟩
  case toX =>
    intro i sl g len rd a b c rm m op s hi hsl hlen hops hpick hready hx hm
    rw [← State.scalar_fp_toX hx hm]
    exact exec_threadIssue ⟨hi, hsl, hlen, decide_eq_true hops, hpick, hready⟩
  case reserved =>
    intro i sl g len rd a b c rm op s hi hsl hlen hops hpick hready hround hrm
    rw [← State.scalar_fp_reserved (FpOp.mode_reserved hround hrm)]
    exact exec_threadIssue ⟨hi, hsl, hlen, decide_eq_true hops, hpick, hready⟩

section IntegerFrame

variable {s t : State} {g rd len : Nat}

/-- A load in flight without the mark that its destination has been written since. -/
def PLoad.unmarked (l : PLoad) : PLoad := { l with dead := false }

/-- Thread g changed as by an integer instruction with destination rd: rd, its pc and issue slot, and the marks of loads in
flight to rd; instret counts; no other thread and nothing outside the islands' threads changed (R41, R47, R71). -/
structure State.IntegerStep (s : State) (g rd : Nat) (t : State) : Prop where
  outside : t = { s with fab := { s.fab with threads := t.fab.threads, rr := t.fab.rr, used := t.fab.used } }
  others : ∀ h, h ≠ g → t.th h = s.th h
  regs : ∀ r, r ≠ rd → (t.th g).xr r = (s.th g).xr r
  loads : (t.th g).loads.map PLoad.unmarked = (s.th g).loads.map PLoad.unmarked
  self : t.th g = { s.th g with
    x := (t.th g).x, loads := (t.th g).loads, pc := (t.th g).pc, instret := (s.th g).instret + 1, lastIssue := (t.th g).lastIssue
    stall := .none }

theorem Thread.xr_zero (t : Thread) : t.xr 0 = 0 := rfl

theorem Thread.xr_congr {t u : Thread} (h : t.x = u.x) (r : Nat) : t.xr r = u.xr r := by
  rw [Thread.xr, Thread.xr, h]

theorem Thread.xr_setX_other (t : Thread) {r n : Nat} (v : Word) (h : r ≠ n) : (t.setX n v).xr r = t.xr r := by
  unfold Thread.setX
  split
  · rfl
  · simp only [Thread.xr, tabGet_set_other _ _ _ _ _ h]

/-- A mark on a load in flight changes nothing else of it. -/
theorem Thread.killLoads_loads (t : Thread) (p : PLoad → Bool) :
    (t.killLoads p).loads.map PLoad.unmarked = t.loads.map PLoad.unmarked := by
  unfold Thread.killLoads
  split
  · simp only [List.map_map]
    refine List.map_congr_left fun l _ => ?_
    by_cases h : p l <;> simp [h, PLoad.unmarked]
  · rfl

theorem Thread.setX_loads (t : Thread) (n : Nat) (v : Word) : (t.setX n v).loads = t.loads := by
  unfold Thread.setX
  split <;> rfl

theorem Thread.putX_loads (t : Thread) (n : Nat) (v : Word) :
    (t.putX n v).loads.map PLoad.unmarked = t.loads.map PLoad.unmarked := by
  rw [Thread.putX, Thread.setX_loads, Thread.killLoads_loads]

theorem Thread.xr_putX_other (t : Thread) {r n : Nat} (v : Word) (h : r ≠ n) : (t.putX n v).xr r = t.xr r := by
  rw [Thread.putX_eq]
  exact (Thread.xr_congr rfl r).trans (t.xr_setX_other v h)

/-- Retiring writes no register, whatever rd is. -/
theorem State.retired_integerStep (s : State) (g len rd : Nat) : s.IntegerStep g rd (s.retired g len) where
  outside := rfl
  others h hne := by rw [State.retired_th, if_neg hne]
  regs r _ := by rw [State.retired_th, if_pos rfl]; exact Thread.xr_congr rfl r
  loads := by rw [State.retired_th, if_pos rfl]
  self := by rw [State.retired_th, if_pos rfl]

theorem State.retireX_integerStep (s : State) (g len rd : Nat) (v : Word) : s.IntegerStep g rd (s.retireX g len rd v) where
  outside := rfl
  others h hne := by rw [State.retireX_th, if_neg hne]
  regs r hr := by
    rw [State.retireX_th, if_pos rfl]
    exact (Thread.xr_congr rfl r).trans ((s.th g).xr_putX_other v hr)
  loads := by rw [State.retireX_th, if_pos rfl]; exact (s.th g).putX_loads rd v
  self := by rw [State.retireX_th, if_pos rfl, Thread.putX_eq]

/-- A jump or a taken branch sets the pc of its thread besides. -/
theorem State.IntegerStep.setPc (h : s.IntegerStep g rd t) (pc : Word) :
    s.IntegerStep g rd (t.updTh g fun x => { x with pc := pc }) where
  outside := by rw [h.outside]; rfl
  others k hne := by rw [State.updTh_th, if_neg hne, h.others k hne]
  regs r hr := by rw [State.updTh_th, if_pos rfl, ← h.regs r hr]; exact Thread.xr_congr rfl r
  loads := by rw [State.updTh_th, if_pos rfl]; exact h.loads
  self := by rw [State.updTh_th, if_pos rfl, h.self]

/-- A branch writes no register, taken or not. -/
theorem State.branch_integerStep (s : State) (g len rd : Nat) (c : BrCond) (a b : Nat) (off : Int) :
    s.IntegerStep g rd (s.scalar g len (.branch c a b off)) := by
  have hretired : s.IntegerStep g rd (s.retired g len) := s.retired_integerStep g len rd
  rw [State.scalar]
  split
  · exact hretired.setPc _
  · exact hretired

end IntegerFrame

/-- Settles O10: every form retires with at most one register written, and a jump or a taken branch sets the pc besides. -/
theorem integerInstructionFrame : Obligations.IntegerInstructionFrame := by
  intro i sl g len rd a b v imm o1 o2 w1 w2 c op s hi hsl hlen hrd ha hb hw1 hw2 himm hop hpick hready
  have hform : opOk op = true ∧ s.IntegerStep g rd (s.scalar g len op) := by
    simp only [List.mem_cons, List.not_mem_nil, or_false] at hop
    obtain rfl | rfl | rfl | rfl | rfl | rfl | rfl := hop
    · rw [State.scalar_alu rd a b hw1]
      exact ⟨decide_eq_true ⟨hrd, ha, hb⟩, s.retireX_integerStep g len rd _⟩
    · rw [State.scalar_alui rd a imm himm hw2]
      exact ⟨decide_eq_true ⟨hrd, ha⟩, s.retireX_integerStep g len rd _⟩
    · exact ⟨decide_eq_true hrd, s.retireX_integerStep g len rd _⟩
    · exact ⟨decide_eq_true hrd, s.retireX_integerStep g len rd _⟩
    · exact ⟨decide_eq_true hrd, (s.retireX_integerStep g len rd _).setPc _⟩
    · exact ⟨decide_eq_true ⟨hrd, ha⟩, (s.retireX_integerStep g len rd _).setPc _⟩
    · exact ⟨decide_eq_true ⟨ha, hb⟩, s.branch_integerStep g len rd c a b imm⟩
  obtain ⟨henc, hstep⟩ := hform
  exact ⟨_, exec_threadIssue ⟨hi, hsl, hlen, henc, hpick, hready⟩, hstep.outside, hstep.others, hstep.regs, Thread.xr_zero _,
    hstep.loads, hstep.self⟩

section Threads

variable {s : State} {g : Nat}

theorem exec_vectorInstruction {op : VecOp} (hg : g < 32768) (hop : VecOp.ok op = true) (hfree : s.vecFree g = true)
    (htaken : s.vTaken g op = true) (hready : s.canIssue g 4 (VecOp.keys op (s.th g)) = true) :
    exec (.vectorInstruction g op) s = .next (s.vector g op) := by
  have hunit : (decide (g < 32768) && VecOp.ok op) = true := by rw [decide_eq_true hg, hop]; rfl
  change execVectorInstruction g op s = _
  rw [execVectorInstruction, hunit, onUnit_true, hfree, htaken]
  exact congrArg _ ((if_pos rfl).trans (State.issue_eq _ hready))

/-- A load whose plain sectors and SRAM words are good, and whose check found no error, finds its data (R56, R71, R180). -/
theorem State.found_data {l : PLoad} (hplain : s.plainBad (s.thFn g) l.addrs false = none)
    (hsram : l.addrs.find? (s.badWord g) = none) : s.found g l .none = .data none := by
  simp only [State.found, hplain, hsram]

/-- The load returns: its data goes to its register, and it is no longer in flight (R71, R230). -/
theorem execThreadLoadReturn_delivers {n : Nat} {l : PLoad} (hg : g < 32768) (hl : (s.th g).loads[n]? = some l)
    (hchan : s.addrsTrain (s.thFn g) (thIsl g) (thCore g) l.addrs = false) (hfirst : s.sameBefore g n l = false)
    (hfound : s.found g l .none = .data none) : execThreadLoadReturn g n .none s =
    .next ((s.updTh g fun t => { t with loads := t.loads.eraseIdx n }).updTh g fun t =>
      t.deliver l (l.addrs.map fun a => s.readBytes (s.thFn g) (thIsl g) (thCore g) a l.kind.bytes)) := by
  rw [execThreadLoadReturn, onUnit_holds _ hg]
  simp only [hl, hchan, hfirst, hfound]
  rfl

/-- The store completes: its bytes land, and the thread holds no store (R148, R167). -/
theorem execThreadStoreComplete_lands {p : PStore} (hg : g < 32768) (hp : (s.th g).store = some p)
    (hchan : s.addrsTrain (s.thFn g) (thIsl g) (thCore g) (p.parts.map (·.1)) = false)
    (hmove : s.addrsMove (s.thFn g) (p.parts.map (·.1)) = false)
    (hplain : s.plainBad (s.thFn g) (p.parts.map (·.1)) true = none) : execThreadStoreComplete g s =
    .next ((s.landParts (s.thFn g) (thIsl g) (thCore g) p.parts).updTh g fun t => { t with store := none }) := by
  rw [execThreadStoreComplete, onUnit_holds _ hg]
  simp only [hp, hchan, hmove, hplain]
  rfl

end Threads

/-- Settles O24: the operation of the instruction is the one that its form names. -/
theorem vectorInstructionEffects : Obligations.VectorInstructionEffects := by
  intro g op s hg hop hfree htaken hready
  rw [exec_vectorInstruction hg hop hfree htaken hready]
  cases op <;> rfl

/-- Settles O25: a load that finds its data delivers it, and a store that nothing holds lands. -/
theorem threadCompletions : Obligations.ThreadCompletions := by
  refine ⟨?load, ?store⟩
  case load =>
    exact fun g n l s hg hl hchan hfirst hplain hsram =>
      execThreadLoadReturn_delivers hg hl hchan hfirst (State.found_data hplain hsram)
  case store => exact fun g p s hg hp hchan hmove hplain => execThreadStoreComplete_lands hg hp hchan hmove hplain

section Contexts

variable {s : State} {c : Nat} {x : Ctx}

/-- A context of the islands that finished ends with CTX_DONE and status EXIT, and lets its islands go (R53, R649). -/
theorem execContextDone_exit (hc : c < 2 ^ 32) (hx : s.ctx c = some x) (hlive : x.done = false) (hwhy : x.why = none)
    (hserving : x.serving = none) (hfin : s.ctxFinished c = true) : execContextDone c s =
    .next ((((({ s with fab := { s.fab with threads := s.fab.threads.filter fun e => e.2.ctx != c } }.setCtx c
      { x with done := true }).syncCtx x.islands).post x.fn 0x0201 [c, 0, 0]).remapFree x.islands)) := by
  rw [execContextDone, onUnit_holds _ hc]
  simp only [hx, hlive, hwhy, hserving, hfin]
  rfl

/-- The fault event of a context that stopped for a reason, after which it has been reported (R72). -/
def State.reportFault (s : State) (c : Nat) (x : Ctx) (why : CtxEnd) : State := (s.faultEvent c x why).setCtx c { x with reported := true }

/-- A stopped context is reported and counted on the ladder, which may put an engine reset in place of its reset (R72, R554, R649). -/
theorem execContextReset_reports {why : CtxEnd} (hc : c < 2 ^ 32) (hx : s.ctx c = some x) (hwhy : x.why = some why)
    (hlive : x.done = false) (hasked : s.engineAsked x = false) : execContextReset c s =
    .next (if ((s.reportFault c x why).countCtx c).2 then ((s.reportFault c x why).countCtx c).1
      else (((s.reportFault c x why).countCtx c).1.finishCtx c why false).remapFree x.islands) := by
  rw [execContextReset, onUnit_holds _ hc]
  simp only [State.reportFault, hx, hwhy, hlive, hasked]
  rfl

end Contexts

/-- Settles O28: the end by EXIT, and the reset of a context that stopped for a reason. -/
theorem contextEnds : Obligations.ContextEnds := by
  refine ⟨?exit, ?fault⟩
  case exit => exact fun c x s hc hx hlive hwhy hserving hfin => execContextDone_exit hc hx hlive hwhy hserving hfin
  case fault => exact fun c x why s hc hx hwhy hlive hasked => execContextReset_reports hc hx hwhy hlive hasked

section ClaimCounters

variable {s t : State} {g n k rd reg i v : Nat}

/-- The offset in the unit windows of register reg of claim counter k of the partition's island n (R60, R62). -/
def claimOff (n k reg : Nat) : Nat := 0x100000 + n * 0x1000 + k * 0x40 + reg

/-- The counter's window lies in the unit windows, and its registers are 8 bytes apart. -/
theorem State.locate_claimOff (fn isl core : Nat) (hn : n < 64) (hk : k < 64) (hreg : reg < 64) :
    s.locate fn isl core (winBase + claimOff n k reg) = .window (claimOff n k reg) := by
  have hhi : claimOff n k reg < 0x140000 := by unfold claimOff; omega
  unfold State.locate lsBytes plainBase winBase
  rw [if_neg (by omega), if_neg (by omega), if_neg (by omega), if_neg (by omega), if_pos (by omega), Nat.add_sub_cancel_left]

/-- The offset names the counter of that island of the partition (R60, R62). -/
theorem State.winRef_claimOff {fn : Nat} (isl : Nat) (hn : n < 64) (hk : k < 64) (hreg : reg < 64) (hi : s.nthIsland fn n = some i) :
    s.winRef fn isl (claimOff n k reg) = .claim i k reg := by
  have hisl : (claimOff n k reg - 0x100000) / 0x1000 = n := by unfold claimOff; omega
  have hctr : claimOff n k reg % 0x1000 / 0x40 = k := by unfold claimOff; omega
  have hoff : claimOff n k reg % 0x40 = reg := by unfold claimOff; omega
  have hlo : 0x100000 ≤ claimOff n k reg := by unfold claimOff; omega
  have hhi : claimOff n k reg < 0x140000 := by unfold claimOff; omega
  unfold State.winRef
  dsimp only
  rw [if_neg (by omega), if_neg (by omega), if_neg (by omega), if_neg (by omega), if_pos ⟨hlo, hhi⟩, hisl, hi, hctr, hoff]

/-- Only the phase mirror waits for a strait (R26, R60). -/
theorem State.phaseWaits_claimOff (isl : Nat) : s.phaseWaits isl (claimOff n k reg) = false := by
  have hout : ¬ (0x20000 ≤ claimOff n k reg ∧ claimOff n k reg < 0x21000) := by unfold claimOff; omega
  rw [State.phaseWaits, decide_eq_false hout, Bool.false_and]

/-- A ready thread's load of a register of a bound island's claim counter retires with what the counter answers (R62). -/
theorem State.claimOp_retires (rd : Nat) (hn : n < 64) (hk : k < 64) (hreg : reg % 8 = 0 ∧ reg < 64)
    (hready : s.canIssue g 4 [] = true) (hi : s.nthIsland (s.thFn g) n = some i) (hload : s.claimLoad i k reg = some (v, t)) :
    s.claimOp g n k rd reg = t.retireX g 4 rd (w64 v) := by
  have haddr : winBase + 0x100000 + n * 0x1000 + k * 0x40 + reg = winBase + claimOff n k reg := by
    unfold claimOff; omega
  have haligned : (winBase + claimOff n k reg) % 8 = 0 := by unfold winBase claimOff; omega
  rw [State.claimOp, State.issue_eq _ hready, haddr, State.load, State.locate_claimOff _ _ _ hn hk hreg.2]
  simp [LdKind.bytes, haligned, State.phaseWaits_claimOff, State.winRef_claimOff _ hn hk hreg.2 hi, State.winLoad, hload]

end ClaimCounters

/-- Settles O29: each fetch operation is a load of its register of the counter. -/
theorem claimCounters : Obligations.ClaimCounters := by
  intro g n k rd i s hg hn hk hrd hready hi
  have hload {reg v : Nat} {t : State} (hreg : reg % 8 = 0 ∧ reg < 64) (hv : s.claimLoad i k reg = some (v, t)) :
      onUnit s (decide (g < 32768 ∧ n < 64 ∧ k < 64 ∧ rd < 32)) (s.claimOp g n k rd reg) = .next (t.retireX g 4 rd (w64 v)) := by
    rw [onUnit_holds _ ⟨hg, hn, hk, hrd⟩, State.claimOp_retires rd hn hk hreg hready hi hv]
  exact ⟨hload (reg := 0x08) (by decide) rfl, hload (reg := 0x18) (by decide) rfl, hload (reg := 0x20) (by decide) rfl⟩

section Islands

variable {s : State} {i fn vpn : Nat} {e : MapEnt}

theorem execRemapDeadline_marked (hi : i < 64) (hmark : s.rdF .ISL_STATUS i 24 1 = 1) : execRemapDeadline i s =
    .next (if s.midStep i then s.updIsl i fun x => { x with remapDue := true } else s.askRemap i) := by
  rw [execRemapDeadline, onUnit_holds _ hi, hmark]
  rfl

theorem execRemapForceMidstep_noted (hi : i < 64) (hdue : (s.isl i).remapDue = true) :
    execRemapForceMidstep i s = .next (s.askRemap i) := by
  rw [execRemapForceMidstep, onUnit_holds _ hi, if_pos hdue]

/-- A miss of an island's TLB whose set has room adds the translation (R85, R169). -/
theorem execTlbFill_island (hi : i < 64) (hfn : fn ≤ 16) (hvpn : vpn < 2 ^ 21) (howner : s.islOwner i = fn)
    (hmap : tabFind s.pln.maps (mapKey fn vpn) = some e)
    (hmiss : ((s.isl i).tlb.any fun x => decide (x.fn = fn ∧ x.vpn = vpn)) = false)
    (hroom : ((s.isl i).tlb.filter fun x => x.vpn % 256 == vpn % 256).length < 8) :
    execTlbFill i fn vpn s = .next (s.updIsl i fun x => { x with tlb := x.tlb ++ [s.tlbEntry fn vpn e] }) := by
  have hfill : s.fillIsland i (s.tlbEntry fn vpn e) = s.updIsl i fun x => { x with tlb := x.tlb ++ [s.tlbEntry fn vpn e] } :=
    if_pos hroom
  have hgo : (decide (s.islOwner i ≠ fn) || (s.isl i).tlb.any fun x => decide (x.fn = fn ∧ x.vpn = vpn)) = false := by
    rw [hmiss, howner]
    simp
  rw [execTlbFill, onUnit_holds _ ⟨by omega, hfn, hvpn⟩]
  simp only [hmap, if_pos hi, hgo, hfill]
  rfl

/-- A miss of another translation cache adds the translation (R169, R172). -/
theorem execTlbFill_cache {k : Nat} (hlo : 64 ≤ k) (hhi : k < 81) (hfn : fn ≤ 16) (hvpn : vpn < 2 ^ 21)
    (hmap : tabFind s.pln.maps (mapKey fn vpn) = some e)
    (hmiss : ((tabGet s.pln.caches [] (k - 64)).any fun x => decide (x.fn = fn ∧ x.vpn = vpn)) = false) :
    execTlbFill k fn vpn s = .next { s with pln := { s.pln with
      caches := tabSet s.pln.caches (k - 64) (tabGet s.pln.caches [] (k - 64) ++ [s.tlbEntry fn vpn e]) } } := by
  rw [execTlbFill, onUnit_holds _ ⟨hhi, hfn, hvpn⟩]
  simp only [hmap, if_neg (Nat.not_lt.mpr hlo), hmiss]
  rfl

/-- The supply fell beyond the threshold: droop bubbles begin, or begin again (R87, R88). -/
theorem execDroopCrossing_beyond {drop : Nat} (hi : i < 64) (hdrop : s.droopMv i < drop) : execDroopCrossing i drop s =
    .next ((((((s.accrueSteps.updIsl i fun x => { x with droopAt := some (s.islCycle i), droopUs := true }).wrF .ISL_BUBBLE i 7 1 1).count
      .ISL_DROOP_FIRES i 1).hwSet .ISL_EVT i 32).setReason i thrCurrent true)) := by
  rw [execDroopCrossing, onUnit_holds _ hi, if_neg (Nat.not_le.mpr hdrop)]

/-- The droop bubbles end 64 cycles after the last crossing (R87). -/
theorem execDroopBubbleEnd_ends {c : Nat} (hi : i < 64) (hat : (s.isl i).droopAt = some c) (hpast : c + 64 ≤ s.islCycle i) :
    execDroopBubbleEnd i s = .next ((s.accrueSteps.updIsl i fun x => { x with droopAt := none }).wrF .ISL_BUBBLE i 7 1 0) := by
  rw [execDroopBubbleEnd, onUnit_holds _ hi]
  simp only [hat, if_neg (Nat.not_lt.mpr hpast)]

theorem execPdmStart_idle (hi : i < 64) (hidle : s.rdF .ISL_PDM_CTL i 0 1 = 0) :
    execPdmStart i s = .next ((s.pdmClear i).wrF .ISL_PDM_CTL i 0 1 1) := by
  rw [execPdmStart, onUnit_holds _ hi, State.pdmStart, hidle]
  rfl

/-- A measurement that runs ends with the margin of each of the eight monitors (R89, R94). -/
theorem execPdmDone_busy (m : List Nat) (hi : i < 64) (hbusy : s.rdF .ISL_PDM_CTL i 0 1 = 1) : execPdmDone i m s =
    .next (((List.range 8).foldl
      (fun t k => t.wrN (pdmReg k) i ((m[k]?).getD 0 % 4096 + 4096 * (tabGet s.pwr.granted 5 (islDie i) % 8) + 32768))
      (s.wrF .ISL_PDM_CTL i 0 1 0)).hwSet .ISL_EVT i 64) := by
  rw [execPdmDone, onUnit_holds _ hi, hbusy]
  rfl

end Islands

/-- Settles O30: each command by its lemma; the selector's write is a software write. -/
theorem islandCommands : Obligations.IslandCommands := by
  refine ⟨?deadline, ?force, ?island, ?cache, ?crossing, ?bubbleEnd, ?select, ?start, ?done⟩
  case deadline => exact fun i s hi hmark => execRemapDeadline_marked hi hmark
  case force => exact fun i s hi hdue => execRemapForceMidstep_noted hi hdue
  case island =>
    exact fun i fn vpn e s hi hfn hvpn howner hmap hmiss hroom => execTlbFill_island hi hfn hvpn howner hmap hmiss hroom
  case cache => exact fun k fn vpn e s hlo hhi hfn hvpn hmap hmiss => execTlbFill_cache hlo hhi hfn hvpn hmap hmiss
  case crossing => exact fun i drop s hi hdrop => execDroopCrossing_beyond hi hdrop
  case bubbleEnd => exact fun i c s hi hat hpast => execDroopBubbleEnd_ends hi hat hpast
  case select => exact fun v s => rfl
  case start => exact fun i s hi hidle => execPdmStart_idle hi hidle
  case done => exact fun i m s hi hbusy => execPdmDone_busy m hi hbusy

section Posted

variable {s : State} {fn mbx : Nat}

/-- A posted command runs its effect. -/
theorem State.cmd_posted {op : Nat} (f : State → State) (h : s.posted fn mbx op = true) : s.cmd fn mbx op f = .next (f s) := by
  simp only [State.posted, Bool.and_eq_true, decide_eq_true_eq] at h
  obtain ⟨⟨hfn, hmbx⟩, hexec⟩ := h
  exact State.cmd_next s fn mbx op f hfn hmbx hexec

/- Programs (R363, R647). -/

/-- A well-formed image with room in the island stores is placed (R647). -/
theorem execProgLoad_places {b : Nat} {i : ProgImage} (hp : s.posted fn mbx 0x200 = true) (hlim : s.badLimit fn mbx 0x200 = false)
    (hidle : s.progBusy fn (s.arg fn mbx 0) = false) (hok : s.imageOk fn i = true)
    (hroom : s.textBase fn (s.arg fn mbx 0) i.text.length = some b) : execProgLoad fn mbx (some i) s =
    .next (((s.accept fn mbx).placeProg fn (s.arg fn mbx 0) b i).cmdDone fn mbx 0x200 rOk
      [i.text.length, 0x0100_0000 + b, 0x0100_0000 + b + i.entry]) := by
  rw [execProgLoad, State.cmd_posted _ hp]
  simp only [hlim, hidle, hok, hroom]
  rfl

/-- A transfer that failed leaves nothing to place (R363). -/
theorem execProgLoad_fails (hp : s.posted fn mbx 0x200 = true) (hlim : s.badLimit fn mbx 0x200 = false)
    (hidle : s.progBusy fn (s.arg fn mbx 0) = false) : execProgLoad fn mbx none s =
    .next (((s.accept fn mbx).bulkFail fn).cmdDone fn mbx 0x200 rHostAccess []) := by
  rw [execProgLoad, State.cmd_posted _ hp]
  simp only [hlim, hidle]
  rfl

/-- A slot that holds a program which no active context runs forgets it (R364). -/
theorem execProgUnload_forgets (hp : s.posted fn mbx 0x201 = true) (hslot : s.arg fn mbx 0 < 64)
    (hprog : (s.prog fn (s.arg fn mbx 0)).isSome = true) (hidle : s.progBusy fn (s.arg fn mbx 0) = false) :
    execProgUnload fn mbx s =
    .next ({ s with part := { s.part with progs := tabDel s.part.progs (fn * 64 + s.arg fn mbx 0) } }.respond fn mbx rOk []) := by
  have hsome : (s.prog fn (s.arg fn mbx 0)).isNone = false := by rw [← Option.not_isSome, hprog]; rfl
  have hlim : ¬ 63 < s.arg fn mbx 0 := by omega
  rw [execProgUnload, State.cmd_posted _ hp]
  simp only [if_neg hlim, hsome, hidle]
  rfl

/- Contexts (R52, R364, R646). -/

/-- The record of the next context, which runs program p of a posted CTX_START on the islands is (R646). -/
def State.startRecord (s : State) (fn mbx : Nat) (is : List Nat) (p : Prog) : Ctx :=
  { fn := fn, prog := s.arg fn mbx 0, islands := is, arg := s.arg64 fn mbx 3, startT := s.time, seq := s.fab.starts
    replayable := p.replayable, slotBase := (s.prt fn).abase, slotCount := (s.prt fn).acount }

/-- A loaded program starts as the next context on bound islands that are free (R52, R646). -/
theorem execCtxStart_launches {is : List Nat} {p : Prog} (hp : s.posted fn mbx 0x202 = true) (hlim : s.badLimit fn mbx 0x202 = false)
    (his : (maskBits (s.arg64 fn mbx 1) 64).filterMap (s.nthIsland fn) = is) (hprog : s.prog fn (s.arg fn mbx 0) = some p)
    (hgo : s.noStarts = false) (hfree : (is.any fun i => (s.islCtx i).isSome || s.rdF .ISL_STATUS i 0 3 != 4) = false)
    (hreplay : s.replayHolds is = false) : execCtxStart fn mbx s =
    .next ((({ s with fab := { s.fab with nextCtx := s.fab.nextCtx + 1, starts := s.fab.starts + 1 } }.setCtx s.fab.nextCtx
      (s.startRecord fn mbx is p)).launch s.fab.nextCtx).respond fn mbx rOk [s.fab.nextCtx]) := by
  rw [execCtxStart, State.cmd_posted _ hp]
  simp only [hlim, hgo, his, hprog, hfree, hreplay]
  rfl

/-- A context of the function that runs ends with status STOPPED (R364, R371). -/
theorem execCtxStop_stops {x : Ctx} (hp : s.posted fn mbx 0x203 = true) (hx : s.ownCtx fn (s.arg fn mbx 0) = some x)
    (hlive : x.done = false) : execCtxStop fn mbx s =
    .next ((s.stopCtx (s.arg fn mbx 0) .stopped none).respond fn mbx rOk []) := by
  have hactive : (!x.active) = false := by rw [Ctx.active, hlive]; rfl
  rw [execCtxStop, State.cmd_posted _ hp]
  simp only [hx, hactive, hlive]
  rfl

/-- How many threads of a context are in a state (R364). -/
def State.threadsIn (s : State) (c : Nat) (st : ThState) : Nat :=
  (s.fab.threads.filter fun (e : Nat × Thread) => e.2.ctx == c && e.2.st == st).length

/-- The state word of CTX_QUERY is a free value of 32 bits, and the counts follow it (R364). -/
theorem execCtxQuery_counts {x : Ctx} (hp : s.posted fn mbx 0x204 = true) (hx : s.ownCtx fn (s.arg fn mbx 0) = some x) :
    execCtxQuery fn mbx s = .next ({ s with fresh := s.fresh + 1 }.respond fn mbx rOk ([s.free.1.toNat % 2 ^ 32,
      s.threadsIn (s.arg fn mbx 0) .run, s.threadsIn (s.arg fn mbx 0) .passWait, s.threadsIn (s.arg fn mbx 0) .exited] ++
      lohi x.startT)) := by
  rw [execCtxQuery, State.cmd_posted _ hp]
  simp only [hx]
  rfl

/- Memory copies (R363). -/

/-- A copy whose range lies within the view is posted on its channel (R57, R363). -/
theorem State.memCopy_posts {into : Bool} (hlim : s.badLimit fn mbx (if into then 0x205 else 0x206) = false) :
    s.memCopy fn mbx into =
    (s.accept fn mbx).postCopy fn mbx (s.arg64 fn mbx 0) (s.arg64 fn mbx 2) (s.arg64 fn mbx 4) into := by
  simp only [State.memCopy, hlim]
  rfl

end Posted

/-- Settles O38: each posted command by its lemma. -/
theorem programsContextsCopies : Obligations.ProgramsContextsCopies := by
  refine ⟨?load, ?fails, ?unload, ?start, ?stop, ?query, ?copies⟩
  case load => exact fun fn mbx b i s hp hlim hidle hok hroom => execProgLoad_places (i := i) (b := b) hp hlim hidle hok hroom
  case fails => exact fun fn mbx s hp hlim hidle => execProgLoad_fails hp hlim hidle
  case unload => exact fun fn mbx s hp hslot hprog hidle => execProgUnload_forgets hp hslot hprog hidle
  case start =>
    exact fun fn mbx is p s hp hlim his hprog hgo hfree hreplay => execCtxStart_launches hp hlim his hprog hgo hfree hreplay
  case stop => exact fun fn mbx x s hp hx hlive => execCtxStop_stops hp hx hlive
  case query =>
    intro fn mbx x s hp hx
    have hword : s.free.1.toNat % 2 ^ 32 < 2 ^ 32 := Nat.mod_lt _ (Nat.two_pow_pos 32)
    exact ⟨_, hword, execCtxQuery_counts hp hx⟩
  case copies =>
    intro fn mbx s hfn hmbx
    constructor
    · intro hexec hlim
      rw [← State.memCopy_posts hlim]
      exact State.cmd_next s fn mbx 0x205 (·.memCopy fn mbx true) hfn hmbx hexec
    · intro hexec hlim
      rw [← State.memCopy_posts hlim]
      exact State.cmd_next s fn mbx 0x206 (·.memCopy fn mbx false) hfn hmbx hexec

section Pages

variable {s t : State} {fn mbx v : Nat}

/-- The mapped pages of a range, none of which is accessed or migrates, are released under one drawn value (R377, R160). -/
theorem State.pageRelease_releases (hlim : s.badLimit fn mbx 0x106 = false)
    (hbusy : s.vpnBusy fn ((s.mappedIn fn (s.arg fn mbx 0) (s.arg fn mbx 1)).map (·.1)) = false)
    (hsome : (s.mappedIn fn (s.arg fn mbx 0) (s.arg fn mbx 1)).isEmpty = false)
    (hstill : ((s.mappedIn fn (s.arg fn mbx 0) (s.arg fn mbx 1)).any fun e => (s.page e.2).migrating) = false)
    (hdraw : s.drawEpoch = some (v, t)) : s.pageRelease fn mbx =
    ((((s.mappedIn fn (s.arg fn mbx 0) (s.arg fn mbx 1)).foldl (fun t e => t.unmap fn e.1 e.2) t).freshPages 0 v
      ((s.mappedIn fn (s.arg fn mbx 0) (s.arg fn mbx 1)).map (·.2))).syncBindable.respond fn mbx rOk []) := by
  simp only [State.pageRelease, hlim, hbusy, hsome, hstill, hdraw]
  rfl

/-- No access is outstanding to no page. -/
theorem State.vpnBusy_nil (s : State) (fn : Nat) : s.vpnBusy fn [] = false := by
  simp [State.vpnBusy]

/-- The VPNs of a range. -/
def vpnRange (first n : Nat) : List Nat := (List.range n).map (first + ·)

/-- A VF takes pages under a drawn value and maps them at VPNs (R377). -/
def State.mapPages (s : State) (fn v : Nat) (w : Bool) (vpns ps : List Nat) : State :=
  ((s.freshPages fn v ps).setPrt fn { s.prt fn with pages := (s.prt fn).pages ++ ps }).setWrites fn w (vpns.zip ps)

/-- A range of which nothing is mapped, and for which there are pages, is mapped under one drawn value (R377, R160). -/
theorem State.pageMap_maps (hlim : s.badLimit fn mbx 0x107 = false) (hn : s.arg fn mbx 1 ≠ 0)
    (hnone : s.mappedIn fn (s.arg fn mbx 0) (s.arg fn mbx 1) = []) (hpages : s.arg fn mbx 1 ≤ s.pagesLeft)
    (hdraw : s.drawEpoch = some (v, t))
    (hnew : ((vpnRange (s.arg fn mbx 0) (s.arg fn mbx 1)).filter fun w => (tabFind s.pln.maps (mapKey fn w)).isNone) =
      vpnRange (s.arg fn mbx 0) (s.arg fn mbx 1)) :
    s.pageMap fn mbx = (t.mapPages fn v (s.arg fn mbx 2 == 1) (vpnRange (s.arg fn mbx 0) (s.arg fn mbx 1))
      (s.alloc (s.arg fn mbx 1))).respond fn mbx rOk [] := by
  rw [vpnRange] at hnew ⊢
  have hlen : ((List.range (s.arg fn mbx 1)).map (s.arg fn mbx 0 + ·)).length = s.arg fn mbx 1 := by simp
  have hsome : ((List.range (s.arg fn mbx 1)).map (s.arg fn mbx 0 + ·)).isEmpty = false := by simpa using hn
  simp only [State.pageMap, hlim, hnone, hnew, hlen, List.map_nil, State.vpnBusy_nil, if_neg (Nat.not_lt.mpr hpages), hsome, hdraw]
  rfl

/-- A mapped page gets a new physical page, and one drawn value serves it and the released one (R175, R377). -/
def State.replacePage (s : State) (fn vpn v q : Nat) (e : MapEnt) : State :=
  let u := (s.freshPages fn v [q]).freshPages 0 v [e.ppn]
  let u := { u with pln := { u.pln with maps := tabSet u.pln.maps (mapKey fn vpn) { e with ppn := q } } }
  ((u.setPrt fn { u.prt fn with pages := swapPage e.ppn q (u.prt fn).pages }).tlbDrop fn vpn).syncBindable

/-- A mapped page that neither migrates nor is accessed is replaced where a page is free (R175). -/
theorem State.pageReplace_replaces {q : Nat} {e : MapEnt} (hlim : s.badLimit fn mbx 0x108 = false)
    (hmap : tabFind s.pln.maps (mapKey fn (s.arg fn mbx 0)) = some e) (hstill : (s.page e.ppn).migrating = false)
    (hbusy : s.vpnBusy fn [s.arg fn mbx 0] = false) (hpages : s.pagesLeft ≠ 0) (halloc : s.alloc 1 = [q])
    (hdraw : s.drawEpoch = some (v, t)) :
    s.pageReplace fn mbx = (t.replacePage fn (s.arg fn mbx 0) v q e).respond fn mbx rOk [q] := by
  simp only [State.pageReplace, hlim, hmap, hstill, hbusy, if_neg hpages, halloc, hdraw]
  rfl

/-- What waited for an epoch value goes on: the scrub of function f (mailbox 16), or the page command of its mailbox m, where the MCP still
owns it (R160). -/
def State.resumeDraw (s : State) (f m : Nat) : State :=
  if m = 16 then s.scrubGo f
  else match bits (s.mbxW f m 63) 0 12 with
  | 0x106 => if s.owned f m then s.pageRelease f m else s
  | 0x107 => if s.owned f m then s.pageMap f m else s
  | 0x108 => if s.owned f m then s.pageReplace f m else s
  | _ => s

/-- The first draw that waits goes on once there is a value, and waits no longer (R160). -/
theorem execEpochDrawResume_resumes {f m : Nat} {r : List (Nat × Nat)} (hwait : s.pln.drawWait = (f, m) :: r)
    (hdraw : s.drawEpoch.isSome = true) :
    execEpochDrawResume s = .next (({ s with pln := { s.pln with drawWait := r } } : State).resumeDraw f m) := by
  have hsome : s.drawEpoch.isNone = false := by rw [← Option.not_isSome, hdraw]; rfl
  rw [execEpochDrawResume]
  simp only [hwait, hsome]
  rfl

end Pages

section Scrubs

variable {s : State} {fn : Nat} {x : Scrub}

/-- A due scrub that nothing holds begins (R381, R388). -/
theorem execScrubStart_begins (hvf : isVf fn = true) (hx : tabFind s.part.scrubs fn = some x) (hdue : x.started = false)
    (hheld : s.scrubHeld fn = false) : execScrubStart fn s = .next (s.scrubBegin fn x) := by
  rw [execScrubStart, hvf, onUnit_true]
  simp only [hx, hdue, hheld]
  rfl

/-- The drain of a scrub that began ends, and the scrub goes on; host reads that it abandons are counted (R381, R382). -/
theorem execScrubDrainEnd_goesOn (late : Bool) (hvf : isVf fn = true) (hx : tabFind s.part.scrubs fn = some x)
    (hbegun : x.started = true) (hdraining : x.drained = false) : execScrubDrainEnd fn late s =
    .next ({ s with
      part := { s.part with scrubs := tabSet s.part.scrubs fn { x with drained := true } }
      lnk := if late then { s.lnk with hostReads := tabUpd s.lnk.hostReads 0 fn (· + x.reads) } else s.lnk }.scrubGo fn) := by
  have hgo : (!x.started || x.drained) = false := by rw [hbegun, hdraining]; rfl
  rw [execScrubDrainEnd, hvf, onUnit_true]
  simp only [hx, hgo]
  rfl

/-- A scrub that misses its bound is a fatal error of its partition, and asks for a chip reset with a crash dump (R383, R553). -/
theorem execScrubBoundExpiry_asks (hvf : isVf fn = true) (hx : tabFind s.part.scrubs fn = some x) (hbegun : x.started = true)
    (hfirst : x.missed = false) : execScrubBoundExpiry fn s =
    .next ((((({ s with part := { s.part with scrubs := tabSet s.part.scrubs fn { x with missed := true } } }.count .RAS_WDOG 0 1).hwSet
      .RAS_EVT 0 16).log 4 0x1B 0 0 0x74 fn 3 0 0 0).askChipDump 11)) := by
  have hgo : (!x.started || x.missed) = false := by rw [hbegun, hfirst]; rfl
  rw [execScrubBoundExpiry, hvf, onUnit_true]
  simp only [hx, hgo]
  rfl

/-- A completion for an abandoned host read is discarded and logged (R382). -/
theorem execUnexpectedCompletion_logs (hvf : isVf fn = true) (habandoned : tabGet s.lnk.hostReads 0 fn ≠ 0) :
    execUnexpectedCompletion fn s =
    .next ({ s with lnk := { s.lnk with hostReads := tabUpd s.lnk.hostReads 0 fn (· - 1) } }.log 4 0x0C fn 0 0x42 fn 1 0 0 0) := by
  rw [execUnexpectedCompletion, hvf, onUnit_true, if_neg habandoned]

end Scrubs

/-- Settles O41: each page command is posted and takes effect, and each event of a scrub by its lemma. -/
theorem pageCommandsAndScrubs : Obligations.PageCommandsAndScrubs := by
  refine ⟨?release, ?map, ?replace, ?resume, ?start, ?drained, ?bound, ?completion⟩
  case release =>
    intro fn mbx v t s hp hlim hbusy hsome hstill hdraw
    rw [← State.pageRelease_releases hlim hbusy hsome hstill hdraw]
    exact State.cmd_posted (·.pageRelease fn mbx) hp
  case map =>
    intro fn mbx v t s hp hlim hn hnone hpages hdraw hnew
    exact (State.cmd_posted (·.pageMap fn mbx) hp).trans (congrArg _ (State.pageMap_maps hlim hn hnone hpages hdraw hnew))
  case replace =>
    intro fn mbx v q e t s hp hlim hmap hstill hbusy hpages halloc hdraw
    exact (State.cmd_posted (·.pageReplace fn mbx) hp).trans
      (congrArg _ (State.pageReplace_replaces hlim hmap hstill hbusy hpages halloc hdraw))
  case resume => exact fun f m r s hwait hdraw => execEpochDrawResume_resumes hwait hdraw
  case start => exact fun fn x s hvf hx hdue hheld => execScrubStart_begins hvf hx hdue hheld
  case drained => exact fun fn x late s hvf hx hbegun hdraining => execScrubDrainEnd_goesOn late hvf hx hbegun hdraining
  case bound => exact fun fn x s hvf hx hbegun hfirst => execScrubBoundExpiry_asks hvf hx hbegun hfirst
  case completion => exact fun fn s hvf habandoned => execUnexpectedCompletion_logs hvf habandoned

end Sys2Proof.Machine

/-! SUPPORT. The statements of 04 (the plain): the frame of a write of the plain, and the commands on the plain and the SRAM scrub. -/

namespace Sys2Proof.Machine

open Sys2Proof

section PlainFrame

variable {s t u : State}

/-- The state s with what a write of the plain may change taken from t: the plain, the islands' copies of page states (R165), and the pages
that a resynchronisation still sends (R591). -/
def State.takePlain (s t : State) : State :=
  { s with pln := t.pln, fab := { s.fab with islands := t.fab.islands }, pair := { s.pair with resyncLeft := t.pair.resyncLeft } }

/-- From s to t only the plain, the translations that the islands hold, and the pages that a resynchronisation still sends changed. -/
def PlainFrame (s t : State) : Prop :=
  t = s.takePlain t ∧ ∀ i, t.isl i = { s.isl i with tlb := (t.isl i).tlb }

theorem PlainFrame.refl (s : State) : PlainFrame s s := ⟨rfl, fun _ => rfl⟩

theorem PlainFrame.trans (hst : PlainFrame s t) (htu : PlainFrame t u) : PlainFrame s u := by
  obtain ⟨hstate, hisl⟩ := hst
  obtain ⟨hstate', hisl'⟩ := htu
  constructor
  · calc u = t.takePlain u := hstate'
      _ = (s.takePlain t).takePlain u := by rw [← hstate]
      _ = s.takePlain u := rfl
  · intro i
    rw [hisl' i, hisl i]

/-- What leaves the islands alone keeps the frame where it changes no more than the plain and the pages to send again. -/
theorem PlainFrame.of_islands (hstate : t = s.takePlain t) (hisl : t.fab.islands = s.fab.islands) : PlainFrame s t :=
  ⟨hstate, fun i => by rw [State.isl, hisl]; rfl⟩

theorem tabGet_tabMap {α : Type} (f : α → α) (l : Tab α) (d : α) (k : Nat) (hd : f d = d) :
    tabGet (tabMap f l) d k = f (tabGet l d k) := by
  induction l with
  | nil => exact hd.symm
  | cons e r ih =>
    by_cases hk : e.1 = k
    · simp [tabMap, tabGet, hk]
    · simpa [tabMap, tabGet, hk] using ih

/-- The copies of a page's state in the translation caches change, and nothing else of an island (R165). -/
theorem State.showPage_plainFrame (s : State) (p : Nat) (v : Page) : PlainFrame s (s.showPage p v) := by
  refine ⟨rfl, fun i => ?_⟩
  rw [State.isl, State.showPage, tabGet_tabMap _ _ _ _ rfl]
  rfl

theorem State.setPage_plainFrame (s : State) (p : Nat) (v : Page) : PlainFrame s (s.setPage p v) := by
  have hpages : PlainFrame s { s with pln := { s.pln with pages := tabSet s.pln.pages p v } } := .of_islands rfl rfl
  unfold State.setPage
  dsimp only
  split
  · exact hpages
  · exact hpages.trans (State.showPage_plainFrame _ p v)

theorem State.touch_plainFrame (s : State) (psn : Nat) (kv : Bool) : PlainFrame s (s.touch psn kv) :=
  (State.setPage_plainFrame s _ _).trans (.of_islands rfl rfl)

theorem State.resend_plainFrame (s : State) (p : Nat) : PlainFrame s (s.resend p) := by
  unfold State.resend
  dsimp only
  split
  · split
    · exact PlainFrame.refl s
    · exact .of_islands rfl rfl
  · exact PlainFrame.refl s

/-- The state in which a sector takes bytes of a format: it is current, and its format is this one (R154, R165). -/
def State.madeCurrent (s : State) (psn : Nat) (kv : Bool) : State :=
  if s.fresh? psn && s.plainFmt psn == b2n kv then s else s.touch psn kv

theorem State.madeCurrent_plainFrame (s : State) (psn : Nat) (kv : Bool) : PlainFrame s (s.madeCurrent psn kv) := by
  unfold State.madeCurrent
  split
  · exact PlainFrame.refl s
  · exact State.touch_plainFrame s psn kv

/-- A write of bytes of a page is, byte after byte, a touch of the sector and a store into the plain (R165, R166). -/
theorem State.plainPut_plainFrame (l : List Byte) (s : State) (ppn off : Nat) (kv : Bool) : PlainFrame s (s.plainPut ppn off kv l) := by
  induction l generalizing s off with
  | nil => exact State.resend_plainFrame s ppn
  | cons b r ih =>
    have hsector := State.madeCurrent_plainFrame s (ppn * 256 + off / 256) kv
    exact (hsector.trans (.of_islands rfl rfl)).trans (ih _ (off + 1))

end PlainFrame

section Plain

variable {s : State} {fn psn first k p q : Nat} {data : List Byte} {x y : Seen} {who : Consumer}

/- Sectors (R155, R164, R173). -/

/-- A command that names a sector of the plain with well-formed findings reaches it. -/
theorem onUnit_sector (t : State) (hpsn : psn < sectors) (hx : seenOk x = true) :
    onUnit s (decide (psn < sectors) && seenOk x) t = .next t := by
  rw [decide_eq_true hpsn, hx, Bool.true_and, onUnit_true]

theorem execPlainSectorRead_good (hpsn : psn < sectors) (hx : seenOk x = true) (hst : (s.page (psn / 256)).st = .written)
    (htrain : s.chanTrains (psnChannel psn) = false) (hgood : s.sectorBad psn x = false) : execPlainSectorRead psn who x s =
    .next (s.readGood psn (s.consumerCtx who) (decide (badBytes x 0 + badBytes x 1 ≠ 0)) x).1 := by
  rw [execPlainSectorRead, onUnit_sector _ hpsn hx, hst, htrain, hgood]
  rfl

/-- A sector that a read cannot correct gets one reread (R173). -/
theorem execPlainSectorRead_rereads (hpsn : psn < sectors) (hx : seenOk x = true) (hst : (s.page (psn / 256)).st = .written)
    (htrain : s.chanTrains (psnChannel psn) = false) (hbad : s.sectorBad psn x = true) : execPlainSectorRead psn who x s =
    .next { s with pln := { s.pln with rereads := s.pln.rereads ++ [(psn, who)] } } := by
  rw [execPlainSectorRead, onUnit_sector _ hpsn hx, hst, htrain, hbad]
  rfl

/-- The first reread of a sector no longer waits. -/
def State.dropReread (s : State) (e : Nat × Consumer) : State :=
  { s with pln := { s.pln with rereads := s.pln.rereads.erase e } }

/-- The reread of a sector decides between an uncorrectable and a correctable event (R173). -/
theorem execSectorReread_decides {e : Nat × Consumer} (hpsn : psn < sectors) (hx : seenOk x = true)
    (he : (s.pln.rereads.find? fun e => e.1 == psn) = some e) (htrain : s.chanTrains (psnChannel psn) = false)
    (hst : (s.page (psn / 256)).st = .written) : execSectorReread psn x s =
    .next (if (s.dropReread e).sectorBad psn x then (s.dropReread e).sectorUe psn x (s.consumerCtx e.2)
      else ((s.dropReread e).readGood psn (s.consumerCtx e.2) true x).1) := by
  have hst' : ((s.dropReread e).page (psn / 256)).st = .written := hst
  rw [execSectorReread, onUnit_sector _ hpsn hx]
  simp only [he, htrain]
  rw [← State.dropReread, hst']
  rfl

/-- What the read of a read-modify-write leaves, and whether its data may be used: a whole sector, and a sector of a page without data, is
not read (R166). -/
def State.readForWrite (s : State) (psn : Nat) (data : List Byte) (x y : Seen) : State × Bool :=
  if (s.page (psn / 256)).st == .unwritten || data.length = 256 then (s, true) else s.readSector psn 0 x y

/-- A write by the page's owner, of a page that is served, on a channel in service puts its bytes where its read succeeds (R164, R166). -/
theorem execPlainSectorWrite_puts (kv : Bool) (hfn : fn ≤ 16) (hpsn : psn < sectors) (hlen : first + data.length ≤ 256)
    (hx : seenOk x = true) (hy : seenOk y = true) (hdata : data ≠ []) (howner : (s.page (psn / 256)).owner = ownerCode fn)
    (hstill : (s.page (psn / 256)).migrating = false) (htrain : s.chanTrains (psnChannel psn) = false)
    (hup : s.chanFailed (psnChannel psn) = false)
    (hst : (s.page (psn / 256)).st = .unwritten ∨ (s.page (psn / 256)).st = .written)
    (hread : (s.readForWrite psn data x y).2 = true) : execPlainSectorWrite fn psn first data kv x y s =
    .next ((s.readForWrite psn data x y).1.plainPut (psn / 256) (psn % 256 * 256 + first) kv data) := by
  have hserved : ((s.page (psn / 256)).st == .unwritten || (s.page (psn / 256)).st == .written) = true := by simpa using hst
  rw [execPlainSectorWrite, decide_eq_true ⟨hfn, hpsn, hlen⟩, hx, hy]
  simp only [howner, hstill, hserved, List.isEmpty_eq_false_iff.mpr hdata, htrain, hup, bne_self_eq_false]
  rw [← State.readForWrite]
  simp only [hread]
  rfl

theorem State.readForWrite_unwritten (data : List Byte) (x y : Seen) (hst : (s.page (psn / 256)).st = .unwritten) :
    s.readForWrite psn data x y = (s, true) := by
  rw [State.readForWrite, hst]
  rfl

theorem State.readForWrite_whole (x y : Seen) (hdata : data.length = 256) : s.readForWrite psn data x y = (s, true) := by
  rw [State.readForWrite, decide_eq_true hdata, Bool.or_true, if_pos rfl]

/- Channels (R148, R150, R153). -/

/-- A retry of a burst counts, and leaves n failures in a row of its channel (R148). -/
def State.edcCounted (s : State) (c n : Nat) : State :=
  let t := (s.count .PLN_EDC_RETRY 0 1).count .PLN_CH_EDC c 1
  { t with pln := { t.pln with edcTries := tabSet t.pln.edcTries c n } }

theorem execEdcRetry_passes {c : Nat} (hc : c < 32) (hup : s.rdF .PLN_CH_STATUS c 16 2 = 0) :
    execEdcRetry c true s = .next (s.edcCounted c 0) := by
  rw [execEdcRetry, onUnit_holds _ hc, hup]
  rfl

/-- The fourth failure in a row begins a retraining, which is logged (R148). -/
theorem execEdcRetry_fourth {c : Nat} (hc : c < 32) (hup : s.rdF .PLN_CH_STATUS c 16 2 = 0) (hthree : tabGet s.pln.edcTries 0 c = 3) :
    execEdcRetry c false s = .next (((s.edcCounted c 0).trainChan c).log (c / 8) 6 c 0xFF 0x16 0x1F 1 0 0 0) := by
  rw [execEdcRetry, onUnit_holds _ hc, hup]
  simp only [State.count_pln, hthree]
  rfl

/-- A channel retrains no longer, which is counted, and PLN_STATUS shows whether another one does (R148). -/
def State.chanTrained (s : State) (c : Nat) : State :=
  let t := (s.wrF .PLN_CH_STATUS c 17 1 0).count .PLN_CH_RETRAIN c 1
  if (List.range 32).any fun c => t.rdF .PLN_CH_STATUS c 17 1 == 1 then t else t.wrF .PLN_STATUS 0 4 1 0

theorem execChannelRetrainDone_succeeds {c : Nat} (hc : c < 32) (htrain : s.rdF .PLN_CH_STATUS c 17 1 ≠ 0) :
    execChannelRetrainDone c true s = .next ((s.chanTrained c).hwSet .PLN_EVT 0 8) := by
  rw [execChannelRetrainDone, onUnit_holds _ hc, if_neg htrain]
  rfl

/-- What the firmware keeps while every channel is cool and the rate is the highest (R150, R151). -/
def State.coolRate (s : State) : State :=
  { s with pln := { s.pln with
    hotSince := none, warmSince := none, coolSince := some (s.pln.coolSince.getD s.time), rate := 0, tempRate := false } }

/-- PLN_CH_STATUS shows the temperature and eye margin of every channel (R186). -/
def State.showChans (s : State) (l : List (Nat × Nat × Nat × Nat)) : State := l.zipIdx.foldl (fun t e => t.showChan e.2 e.1) s

/-- Cool channels with eyes that are open at 24 and 20 Gb/s keep the highest rate, without a throttle reason (R150, R151). -/
theorem execDataRateChoice_cool {l : List (Nat × Nat × Nat × Nat)} (hl : chansOk l = true) (hcool : (l.map (·.1)).foldl max 0 ≤ 88)
    (h24 : 15 ≤ (l.map (·.2.1)).foldl min 255) (h20 : 15 ≤ (l.map (·.2.2.1)).foldl min 255) (hok : s.pln.rateOk = 7)
    (hrate : s.pln.rate = 0) : execDataRateChoice l s =
    .next ((((s.coolRate.wrF .PLN_STATUS 0 8 8 ((l.map (·.1)).foldl max 0)).putRate.showChans l).setReasons
      ((s.coolRate.wrF .PLN_STATUS 0 8 8 ((l.map (·.1)).foldl max 0)).putRate.showChans l).boundIslands thrMemTemp false).syncMargin) := by
  have hnotHot : decide (100 < (l.map (·.1)).foldl max 0) = false := decide_eq_false (by omega)
  have hnotWarm : decide (95 < (l.map (·.1)).foldl max 0) = false := decide_eq_false (by omega)
  have hopen24 : decide ((l.map (·.2.1)).foldl min 255 < 15) = false := decide_eq_false (Nat.not_lt.mpr h24)
  have hopen20 : decide ((l.map (·.2.2.1)).foldl min 255 < 15) = false := decide_eq_false (Nat.not_lt.mpr h20)
  have hrated24 : bitAt s.pln.rateOk 0 = true := by rw [hok]; rfl
  have hrated20 : bitAt s.pln.rateOk 1 = true := by rw [hok]; rfl
  rw [execDataRateChoice, hl, onUnit_true]
  simp only [hnotHot, hnotWarm, decide_eq_true hcool, hopen24, hopen20, hrated24, hrated20, hrate]
  rfl

/-- Refresh doubles above 85 °C and is plain again at 80 °C (R153). -/
theorem execRefreshRateChange_eq {hot : Nat} (hhot : hot < 256) : execRefreshRateChange hot s =
    .next (if 85 < hot then s.wrF .PLN_STATUS 0 2 1 1 else if hot ≤ 80 then s.wrF .PLN_STATUS 0 2 1 0 else s) := by
  rw [execRefreshRateChange, onUnit_holds _ hhot]

/- Pages (R176, R178). -/

/-- The reads of a migration's copy name sectors of a page, with well-formed findings. -/
def readsOk (reads : List (Nat × Seen × Seen)) : Bool :=
  reads.all fun e => decide (e.1 < 256) && seenOk e.2.1 && seenOk e.2.2

/-- A bound page with more correctable errors than CE_THRESH begins to migrate (R176). -/
theorem execPageMigrate_begins {reads : List (Nat × Seen × Seen)} (hp : p < 1802240) (hreads : readsOk reads = true)
    (hnone : tabFind s.pln.migr p = none) (hce : s.ceThresh < (s.page p).ce)
    (hst : (s.page p).st = .written ∨ (s.page p).st = .unwritten) (howned : (s.page p).owner ≠ 0)
    (hbindable : (s.page p).owner ≠ 0x1F) : execPageMigrate p reads s = .next (s.migrateStart p) := by
  have hserved : ((s.page p).st == .written || (s.page p).st == .unwritten) = true := by simpa using hst
  have hmany : ¬ (s.page p).ce ≤ s.ceThresh := Nat.not_le.mpr hce
  have hplain : ¬ 1802240 ≤ p := Nat.not_le.mpr hp
  rw [execPageMigrate, ← readsOk, hreads, decide_eq_true (show p < 1835008 by omega)]
  simp only [hnone, hserved, hmany, howned, hbindable, hplain]
  rfl

/-- The second command performs a migration whose channels are all in service (R176). -/
theorem execPageMigrate_ends {reads : List (Nat × Seen × Seen)} (hp : p < 1835008) (hreads : readsOk reads = true)
    (hsome : tabFind s.pln.migr p = some q) (htrain : ((List.range 256).any fun k => s.chanTrains (plainChannel p k)) = false) :
    execPageMigrate p reads s = .next (s.migrateEnd p q reads) := by
  rw [execPageMigrate, ← readsOk, hreads, decide_eq_true hp]
  simp only [hsome, htrain]
  rfl

/-- A page test leaves its patterns in every sector under an epoch value of its own (R178). -/
def State.testPatterns (s : State) (p w : Nat) : State :=
  let psns := (List.range 256).map (p * 256 + ·)
  { s with pln := { s.pln with
    freeUe := s.pln.freeUe.erase p
    data := memClear s.pln.data (p * 65536) 65536
    secEpoch := tabSetAll s.pln.secEpoch psns w
    secFmt := tabSetAll s.pln.secFmt psns 0 } }

/-- A free page with an uncorrectable finding that passes its test is bindable under a second drawn value (R178). -/
theorem execPageTest_passes {v w : Nat} {t u : State} (hp : p < 1835008) (hfree : (s.page p).owner = 0)
    (hst : (s.page p).st = .unwritten) (htest : s.pln.noTest.contains p = false) (hue : s.pln.freeUe.contains p = true)
    (hdraw : s.drawEpoch = some (w, t)) (hagain : (t.testPatterns p w).drawEpoch = some (v, u)) :
    execPageTest p false s = .next ((u.setPage p { epoch := v }).syncBindable) := by
  rw [execPageTest, onUnit_holds _ hp]
  simp only [hfree, hst, htest, hue, hdraw]
  rw [State.testPatterns] at hagain
  simp [hagain]

/- The patrol and the SRAM scrub (R179, R180). -/

/-- A visit of a sector is noted, and the page's last one ends the page (R179). -/
def State.patrolNote (s : State) (k : Nat) : State :=
  let l := if s.pln.patrolDone.contains k then s.pln.patrolDone else k :: s.pln.patrolDone
  if l.length = 256 then s.patrolNext else { s with pln := { s.pln with patrolDone := l } }

/-- A command of the patrol with well-formed findings reaches its sector. -/
theorem onUnit_patrol (t : State) (hk : k < 256) (hx : seenOk x = true) (hy : seenOk y = true) :
    onUnit s (decide (k < 256) && seenOk x && seenOk y) t = .next t := by
  rw [decide_eq_true hk, hx, hy, Bool.true_and, Bool.true_and, onUnit_true]

theorem execPatrolVisit_checks (hk : k < 256) (hx : seenOk x = true) (hy : seenOk y = true) (hrun : s.rdF .PLN_STATUS 0 3 1 ≠ 1)
    (hkept : (s.page (s.rdN .PLN_PATROL_POS 0)).st ≠ .retired) (hserved : (s.page (s.rdN .PLN_PATROL_POS 0)).st ≠ .quarantined)
    (htrain : s.chanTrains (psnChannel (s.rdN .PLN_PATROL_POS 0 * 256 + k)) = false) : execPatrolVisit k x y s =
    .next ((s.patrolSector (s.rdN .PLN_PATROL_POS 0 * 256 + k) x y).patrolNote k) := by
  have hvisited : ((s.page (s.rdN .PLN_PATROL_POS 0)).st == .retired || (s.page (s.rdN .PLN_PATROL_POS 0)).st == .quarantined) = false := by
    simp [hkept, hserved]
  rw [execPatrolVisit, onUnit_patrol _ hk hx hy]
  simp only [if_neg hrun, hvisited, htrain]
  rfl

theorem execPatrolVisit_skips (hk : k < 256) (hx : seenOk x = true) (hy : seenOk y = true) (hrun : s.rdF .PLN_STATUS 0 3 1 ≠ 1)
    (hretired : (s.page (s.rdN .PLN_PATROL_POS 0)).st = .retired) : execPatrolVisit k x y s = .next s.patrolNext := by
  rw [execPatrolVisit, onUnit_patrol _ hk hx hy]
  simp only [if_neg hrun, hretired]
  rfl

theorem execSramScrubVisit_corrects {i c a : Nat} (n : Nat) (hi : i < 64) (hc : c < 64) (ha : a < lsBytes)
    (hrun : s.rdF .TIM_STATUS 0 8 1 ≠ 1) :
    execSramScrubVisit i (some c) a (.correctable n) s = .next (s.sramCorrected i c a 0 false) := by
  simp only [execSramScrubVisit, decide_eq_true hi, decide_eq_true (And.intro hc ha), if_neg hrun]
  rfl

theorem execSramScrubVisit_clean {i a : Nat} (hi : i < 64) (ha : a < isBytes) (hrun : s.rdF .TIM_STATUS 0 8 1 ≠ 1) :
    execSramScrubVisit i none a .none s = .next s := by
  simp only [execSramScrubVisit, decide_eq_true hi, decide_eq_true ha, if_neg hrun]
  rfl

end Plain

/-- The first byte of a sector, by its page and the sector's index in it. -/
theorem sector_place (psn : Nat) : psn / 256 * 65536 + psn % 256 * 256 = psn * 256 := by omega

/-- Settles O11: the write puts its bytes in the state itself, whether it reads the old sector or not, and a put of bytes leaves the others
as they read and has its frame. -/
theorem plainWriteFrame : Obligations.PlainWriteFrame := by
  intro fn psn first p o data kv x y s hfn hpsn hlen hx hy hdata howner hstill htrain hup hcase hother
  have hst : (s.page (psn / 256)).st = .unwritten ∨ (s.page (psn / 256)).st = .written := hcase.symm.imp And.left And.left
  have hwritable : Writable s (psn / 256) := hcase.imp And.left id
  have hread : s.readForWrite psn data x y = (s, true) := by
    obtain ⟨-, hwhole | hgood⟩ | ⟨hunwritten, -⟩ := hcase
    · exact State.readForWrite_whole x y hwhole
    · rw [State.readForWrite, hgood, ite_self]
    · exact State.readForWrite_unwritten data x y hunwritten
  have hput := execPlainSectorWrite_puts kv hfn hpsn hlen hx hy hdata howner hstill htrain hup hst (by rw [hread])
  rw [hread] at hput
  have hin : psn % 256 * 256 + first + data.length ≤ 65536 := by omega
  have hout : p * 65536 + o < psn / 256 * 65536 + (psn % 256 * 256 + first) ∨
      psn / 256 * 65536 + (psn % 256 * 256 + first) + data.length ≤ p * 65536 + o := by
    rwa [← Nat.add_assoc, sector_place]
  have hframe := State.plainPut_plainFrame data s (psn / 256) (psn % 256 * 256 + first) kv
  exact ⟨_, hput, plainPut_plainByte_other data s _ _ kv p o hwritable hin hout, hframe⟩

/-- Settles O54: each command by its lemma. -/
theorem plainCommands : Obligations.PlainCommands := by
  refine ⟨?good, ?rereads, ?reread, ?write, ?edcPass, ?edcFourth, ?retrained, ?rate, ?refresh, ?migrate, ?migrated, ?test, ?patrol, ?skip,
    ?scrub, ?scrubClean⟩
  case good => exact fun psn x who s hpsn hx hst htrain hgood => execPlainSectorRead_good hpsn hx hst htrain hgood
  case rereads => exact fun psn x who s hpsn hx hst htrain hbad => execPlainSectorRead_rereads hpsn hx hst htrain hbad
  case reread => exact fun psn x e s hpsn hx he htrain hst => execSectorReread_decides hpsn hx he htrain hst
  case write =>
    intro fn psn first data kv x y s hfn hpsn hlen hx hy howner hstill hcase htrain hup hdata
    have hst : (s.page (psn / 256)).st = .unwritten ∨ (s.page (psn / 256)).st = .written := hcase.imp id And.left
    have hread : (s.readForWrite psn data x y).2 = true := by
      obtain hunwritten | ⟨-, hwhole | hgood⟩ := hcase
      · rw [State.readForWrite_unwritten data x y hunwritten]
      · rw [State.readForWrite_whole x y hwhole]
      · rw [State.readForWrite, apply_ite Prod.snd, hgood, ite_self]
    rw [← apply_ite Prod.fst _ (s, true)]
    exact execPlainSectorWrite_puts kv hfn hpsn hlen hx hy hdata howner hstill htrain hup hst hread
  case edcPass => exact fun c s hc hup => execEdcRetry_passes hc hup
  case edcFourth => exact fun c s hc hup hthree => execEdcRetry_fourth hc hup hthree
  case retrained => exact fun c s hc htrain => execChannelRetrainDone_succeeds hc htrain
  case rate => exact fun l s hl hcool h24 h20 hok hrate => execDataRateChoice_cool hl hcool h24 h20 hok hrate
  case refresh => exact fun hot s hhot => execRefreshRateChange_eq hhot
  case migrate =>
    exact fun p reads s hp hreads hnone hce hst howned hbindable => execPageMigrate_begins hp hreads hnone hce hst howned hbindable
  case migrated => exact fun p q reads s hp hreads hsome htrain => execPageMigrate_ends hp hreads hsome htrain
  case test => exact fun p v w s t u hp hfree hst htest hue hdraw hagain => execPageTest_passes hp hfree hst htest hue hdraw hagain
  case patrol =>
    exact fun k x y s hk hx hy hrun hkept hserved htrain => execPatrolVisit_checks hk hx hy hrun hkept hserved htrain
  case skip => exact fun k x y s hk hx hy hrun hretired => execPatrolVisit_skips hk hx hy hrun hretired
  case scrub => exact fun i c a k s hi hc ha hrun => execSramScrubVisit_corrects k hi hc ha hrun
  case scrubClean => exact fun i a s hi ha hrun => execSramScrubVisit_clean hi ha hrun

end Sys2Proof.Machine

/-! SUPPORT. The statements of 05 (ferries and passes), with the sorters of 06: posts and starts, completions and errors, and the passes at
their home port. -/

namespace Sys2Proof.Machine

open Sys2Proof

section FerryPosts

variable {s : State} {g ch a n : Nat} {r : Posted}

/-- A ready thread's post on a channel is checked where the thread reaches the channel, and faults elsewhere (R60, R194). -/
theorem execFryPost_eq (a : Nat) (hg : g < 32768) (hch : isChan ch = true) (hready : s.canIssue g 4 [] = true) : execFryPost g ch a s =
    .next (if s.reaches g ch then s.postBy g 4 (s.chanWin g ch) (s.postDesc g ch a) (.post ch a 4) else s.except g 28 (s.chanWin g ch)) := by
  rw [execFryPost, hch, Bool.and_true, onUnit_holds _ hg, State.issue_eq _ hready]

theorem execFryPost_reached (hg : g < 32768) (hch : isChan ch = true) (hready : s.canIssue g 4 [] = true)
    (hreach : s.reaches g ch = true) (hpost : s.postDesc g ch a = r) :
    execFryPost g ch a s = .next (s.postBy g 4 (s.chanWin g ch) r (.post ch a 4)) := by
  rw [execFryPost_eq a hg hch hready, if_pos hreach, hpost]

theorem execFryPost_unreached (a : Nat) (hg : g < 32768) (hch : isChan ch = true) (hready : s.canIssue g 4 [] = true)
    (hreach : s.reaches g ch = false) : execFryPost g ch a s = .next (s.except g 28 (s.chanWin g ch)) := by
  rw [execFryPost_eq a hg hch hready, hreach, if_neg Bool.false_ne_true]

/-- A running thread's waiting post is checked anew once its channel has room (R192). -/
theorem execFerryPostResume_room (hg : g < 32768) (hstall : (s.th g).stall = .post ch a n) (hrun : (s.th g).st = .run)
    (hctx : s.ctxRuns g = true) (hroom : (s.chan ch).queue.length < 16) (hpost : s.postDesc g ch a = r) :
    execFerryPostResume g s = .next (s.postBy g n (s.chanWin g ch) r (.post ch a n)) := by
  rw [execFerryPostResume, onUnit_holds _ hg]
  simp only [hstall, hrun, hctx, decide_eq_true hroom, hpost]
  rfl

theorem execFerryDescriptorStart_marks (hch : isChan ch = true) (hlive : (s.chan ch).halted = false) : execFerryDescriptorStart ch s =
    .next (s.setChan ch { s.chan ch with queue := startDesc (s.chan ch).queue true }) := by
  rw [execFerryDescriptorStart, hch, onUnit_true]
  simp only [hlive]
  rfl

end FerryPosts

section SorterPosts

variable {s : State} {g k a n : Nat} {r : Posted}

/-- A ready thread's post on a sorter is checked where the sorter is bound to the thread's partition, and faults elsewhere (R259, R261). -/
theorem execIslSrtPost_eq (a : Nat) (hg : g < 32768) (hk : k < 4) (hready : s.canIssue g 4 [] = true) : execIslSrtPost g k a s =
    .next (if bitAt (s.prt (s.thFn g)).srt k then s.postBy g 4 (s.sortWin g k) (s.postJob g k a) (.sort k a 4)
      else s.except g 28 (s.sortWin g k)) := by
  rw [execIslSrtPost, onUnit_holds _ ⟨hg, hk⟩, State.issue_eq _ hready]

theorem execIslSrtPost_bound (hg : g < 32768) (hk : k < 4) (hready : s.canIssue g 4 [] = true)
    (hbound : bitAt (s.prt (s.thFn g)).srt k = true) (hpost : s.postJob g k a = r) :
    execIslSrtPost g k a s = .next (s.postBy g 4 (s.sortWin g k) r (.sort k a 4)) := by
  rw [execIslSrtPost_eq a hg hk hready, if_pos hbound, hpost]

theorem execIslSrtPost_unbound (a : Nat) (hg : g < 32768) (hk : k < 4) (hready : s.canIssue g 4 [] = true)
    (hbound : bitAt (s.prt (s.thFn g)).srt k = false) : execIslSrtPost g k a s = .next (s.except g 28 (s.sortWin g k)) := by
  rw [execIslSrtPost_eq a hg hk hready, hbound, if_neg Bool.false_ne_true]

/-- A running thread's waiting post is checked anew once its sorter has room (R192, R261). -/
theorem execSorterPostResume_room (hg : g < 32768) (hstall : (s.th g).stall = .sort k a n) (hrun : (s.th g).st = .run)
    (hctx : s.ctxRuns g = true) (hroom : (s.sorter k).queue.length < 8) (hpost : s.postJob g k a = r) :
    execSorterPostResume g s = .next (s.postBy g n (s.sortWin g k) r (.sort k a n)) := by
  rw [execSorterPostResume, onUnit_holds _ hg]
  simp only [hstall, hrun, hctx, decide_eq_true hroom, hpost]
  rfl

theorem execSorterJobStart_marks {x : SJob} {q : List SJob} (hk : k < 4) (hhead : (s.sorter k).queue = x :: q)
    (hlive : (s.sorter k).halted = false) : execSorterJobStart k s =
    .next (s.setSorter k { s.sorter k with queue := { x with started := true } :: q }) := by
  rw [execSorterJobStart, onUnit_holds _ hk]
  simp only [hhead, hlive]
  rfl

end SorterPosts

/-- Settles O34: a post, at issue or resumed, has the effect of what its check comes to; a start marks an entry of the queue. -/
theorem ferryPostsAndStarts : Obligations.FerryPostsAndStarts := by
  refine ⟨?post, ?refused, ?resume, ?start, ?sort, ?sortRefused, ?sortResume, ?sortStart⟩
  case post => exact fun g ch a t s hg hch hready hreach hpost => execFryPost_reached hg hch hready hreach hpost
  case refused =>
    exact fun g ch a s hg hch hready => ⟨fun hreach => execFryPost_unreached a hg hch hready hreach,
      fun hreach hpost => execFryPost_reached hg hch hready hreach hpost,
      fun hreach hpost => execFryPost_reached hg hch hready hreach hpost⟩
  case resume =>
    exact fun g ch a n t s hg hstall hrun hctx hroom hpost => execFerryPostResume_room hg hstall hrun hctx hroom hpost
  case start => exact fun ch s hch hlive => execFerryDescriptorStart_marks hch hlive
  case sort => exact fun g k a t s hg hk hready hbound hpost => execIslSrtPost_bound hg hk hready hbound hpost
  case sortRefused =>
    exact fun g k a s hg hk hready => ⟨fun hbound => execIslSrtPost_unbound a hg hk hready hbound,
      fun hbound hpost => execIslSrtPost_bound hg hk hready hbound hpost,
      fun hbound hpost => execIslSrtPost_bound hg hk hready hbound hpost⟩
  case sortResume =>
    exact fun g k a n t s hg hstall hrun hctx hroom hpost => execSorterPostResume_room hg hstall hrun hctx hroom hpost
  case sortStart => exact fun k x q s hk hhead hlive => execSorterJobStart_marks hk hhead hlive

/-- Descriptor x, started, heads the queue of a channel of the module that is not halted (R214, R218). -/
structure State.DescRuns (s : State) (ch : Nat) (x : Desc) : Prop where
  unit : isChan ch = true
  head : ∃ q, (s.chan ch).queue = x :: q
  live : (s.chan ch).halted = false
  started : x.started = true

section FerryCompletions

variable {s : State} {ch code addr : Nat} {x : Desc}

/-- A descriptor that fails its address checks ends with an error completion at its first bad byte (R171, R217). -/
theorem execFerryDescriptorComplete_fails (host : List Byte) (h : s.DescRuns ch x) (hgo : s.descWaits ch x = false)
    (hfault : s.descFault x = some (code, addr)) : execFerryDescriptorComplete ch host s =
    .next (s.descError ch x (s.runSome x host (s.convByte x.fn (fdesc x.raw).src)) code addr) := by
  obtain ⟨q, hhead⟩ := h.head
  rw [execFerryDescriptorComplete, h.unit, onUnit_true]
  simp only [hhead, h.started, h.live, hgo, hfault]
  rfl

/-- A descriptor of another transform than FRAME that passes its address checks is done (R215). -/
theorem execFerryDescriptorComplete_done (host : List Byte) (h : s.DescRuns ch x) (hgo : s.descWaits ch x = false)
    (hgood : s.descFault x = none) (hform : (fdesc x.raw).xform ≠ 8) :
    execFerryDescriptorComplete ch host s = .next (s.descDone ch x host) := by
  obtain ⟨q, hhead⟩ := h.head
  rw [execFerryDescriptorComplete, h.unit, onUnit_true]
  simp only [hhead, h.started, h.live, hgo, hgood, if_pos hform]
  rfl

/-- An error ends the head where its kind of error can meet it (R217). -/
theorem State.failHead_runs {ok : Desc → Bool} (host : List Byte) (h : s.DescRuns ch x) (hok : ok x = true) :
    s.failHead ch code addr host ok = s.descError ch x (s.runSome x host (s.convByte x.fn (fdesc x.raw).src)) code addr := by
  obtain ⟨q, hhead⟩ := h.head
  simp only [State.failHead, hhead, h.started, h.live, hok]
  rfl

theorem execFerryErrorCompletion_ends (addr : Nat) (host : List Byte) (h : s.DescRuns ch x) (hcode : 1 ≤ code ∧ code ≤ 10) :
    execFerryErrorCompletion ch code addr host s =
    .next (s.descError ch x (s.runSome x host (s.convByte x.fn (fdesc x.raw).src)) code addr) := by
  rw [execFerryErrorCompletion, h.unit, Bool.true_and, onUnit_holds _ hcode, State.failHead_runs host h rfl]

/-- A host read that times out ends its descriptor with HOST_TIMEOUT (R217, R401). -/
theorem execHostTimeout_ends (addr : Nat) (host : List Byte) (h : s.DescRuns ch x) (hhost : (fdesc x.raw).sasp = 1) :
    execHostTimeout ch addr host s =
    .next (s.descError ch x (s.runSome x host (s.convByte x.fn (fdesc x.raw).src)) 8 addr) := by
  rw [execHostTimeout, h.unit, onUnit_true, State.failHead_runs host h]
  exact beq_iff_eq.mpr hhost

end FerryCompletions

/-- Job x, started, heads the queue of a sorter of the module that is not halted (R264, R266). -/
structure State.JobRuns (s : State) (k : Nat) (x : SJob) : Prop where
  unit : k < 4
  head : ∃ q, (s.sorter k).queue = x :: q
  live : (s.sorter k).halted = false
  started : x.started = true

section SorterCompletions

variable {s : State} {k code : Nat} {x : SJob}

theorem execSorterJobComplete_done (h : s.JobRuns k x) (hgo : s.jobWaits k x = false) (hgood : s.jobFault x (jdesc x.raw) = none) :
    execSorterJobComplete k s = .next (s.jobDone k x) := by
  obtain ⟨q, hhead⟩ := h.head
  rw [execSorterJobComplete, onUnit_holds _ h.unit]
  simp only [hhead, h.started, h.live, hgo, hgood]
  rfl

theorem execSorterJobError_fails (addr : Nat) (h : s.JobRuns k x) (hcode : 1 ≤ code ∧ code ≤ 5) :
    execSorterJobError k code addr s = .next (s.jobFail k x code addr) := by
  obtain ⟨q, hhead⟩ := h.head
  rw [execSorterJobError, decide_eq_true h.unit, Bool.true_and, onUnit_holds _ hcode]
  simp only [hhead, h.started, h.live]
  rfl

end SorterCompletions

/-- Settles O35: the head that runs on a channel or sorter is done, or ends with its error. -/
theorem ferryAndSorterCompletions : Obligations.FerryAndSorterCompletions := by
  refine ⟨?done, ?fault, ?error, ?timeout, ?sorted, ?sortError⟩
  case done =>
    exact fun ch host x q s hch hhead hlive hstart hgo hgood hform =>
      execFerryDescriptorComplete_done host ⟨hch, ⟨q, hhead⟩, hlive, hstart⟩ hgo hgood hform
  case fault =>
    exact fun ch code addr host x q s hch hhead hlive hstart hgo hfault =>
      execFerryDescriptorComplete_fails host ⟨hch, ⟨q, hhead⟩, hlive, hstart⟩ hgo hfault
  case error =>
    exact fun ch code addr host x q s hch hlo hhi hhead hlive hstart =>
      execFerryErrorCompletion_ends addr host ⟨hch, ⟨q, hhead⟩, hlive, hstart⟩ ⟨hlo, hhi⟩
  case timeout =>
    exact fun ch addr host x q s hch hhead hlive hstart hhost =>
      execHostTimeout_ends addr host ⟨hch, ⟨q, hhead⟩, hlive, hstart⟩ hhost
  case sorted =>
    exact fun k x q s hk hhead hlive hstart hgo hgood => execSorterJobComplete_done ⟨hk, ⟨q, hhead⟩, hlive, hstart⟩ hgo hgood
  case sortError =>
    exact fun k code addr x q s hk hlo hhi hhead hlive hstart =>
      execSorterJobError_fails addr ⟨hk, ⟨q, hhead⟩, hlive, hstart⟩ ⟨hlo, hhi⟩

section Passes

variable {s : State} {g p gen : Nat}

/-- A ready thread's store of a target is applied to a pass of its function's quota, and faults elsewhere (R220, R225). -/
theorem execPasTargetStore_eq (v : Nat) (hg : g < 32768) (hp : p < 1024) (hready : s.canIssue g 4 [] = true) :
    execPasTargetStore g p v s =
    .next (if s.inQuota (s.thFn g) p then (s.movePass p fun x => x.setTarget v s.time).retired g 4
      else s.except g 28 (winBase + 0x10000 + 0x20 * p)) := by
  rw [execPasTargetStore, onUnit_holds _ ⟨hg, hp⟩, State.issue_eq _ hready]

theorem execPasTargetStore_installs (v : Nat) (hg : g < 32768) (hp : p < 1024) (hready : s.canIssue g 4 [] = true)
    (hquota : s.inQuota (s.thFn g) p = true) :
    execPasTargetStore g p v s = .next ((s.movePass p fun x => x.setTarget v s.time).retired g 4) := by
  rw [execPasTargetStore_eq v hg hp hready, if_pos hquota]

theorem execPasTargetStore_faults (v : Nat) (hg : g < 32768) (hp : p < 1024) (hready : s.canIssue g 4 [] = true)
    (hquota : s.inQuota (s.thFn g) p = false) :
    execPasTargetStore g p v s = .next (s.except g 28 (winBase + 0x10000 + 0x20 * p)) := by
  rw [execPasTargetStore_eq v hg hp hready, hquota, if_neg Bool.false_ne_true]

/-- An arrival has reached the home port of its pass, where it counts; the others are still in flight (R222). -/
def State.arrivalCounted (s : State) (p : Nat) (rest : List (Nat × Option Nat)) : State :=
  { s with pas := { s.pas with inflight := rest } }.movePass p fun x => x.arrival s.time

/-- An acknowledgement sets out for the thread, with the generation that its arrival counted in (R223). -/
def State.sendAck (s : State) (p g gen : Nat) : State :=
  { s with pas := { s.pas with acks := s.pas.acks ++ [(g, p, gen)] } }.markServing p g

/-- The first arrival in flight at a pass with a home port counts there; one of a completion action is not acknowledged (R215, R222). -/
theorem execPassArrivalCount_counts {who : Option Nat} {rest : List (Nat × Option Nat)} (hp : p < 1024)
    (hhome : ((s.passOwner p).any fun v => (s.passHome v p).isSome) = true)
    (harrival : takeArrival p s.pas.inflight = some (who, rest)) : execPassArrivalCount p s =
    .next (who.elim (s.arrivalCounted p rest) fun g => (s.arrivalCounted p rest).sendAck p g (s.pass p).gen) := by
  rw [execPassArrivalCount, onUnit_holds _ hp]
  simp only [hhome, harrival]
  cases who <;> rfl

/-- The acknowledgement has reached its thread (R223). -/
def State.ackTaken (s : State) (e : Nat × Nat × Nat) : State := { s with pas := { s.pas with acks := s.pas.acks.erase e } }

/-- The acknowledgement of the arrival that its thread waits for latches the pass and retires PASS.ARRIVE (R223). -/
theorem execPassArriveAck_latches (hg : g < 32768) (hack : (s.pas.acks.find? fun e => e.1 == g) = some (g, p, gen))
    (hstall : (s.th g).stall = .arrive p) : execPassArriveAck g s = .next ((s.ackTaken (g, p, gen)).updTh g fun x =>
      { x with latch := some (p, gen), stall := .none, pc := x.pc + 4, instret := x.instret + 1 }) := by
  have hwaits : (((s.ackTaken (g, p, gen)).th g).stall != .arrive p) = false := bne_eq_false_iff_eq.mpr hstall
  rw [execPassArriveAck, onUnit_holds _ hg]
  simp only [hack]
  rw [← State.ackTaken, hwaits, if_neg Bool.false_ne_true]

theorem execPassWaiterResume_resumes {i : Nat} (hi : i < 64) (hp : p < 1024) : execPassWaiterResume i p s =
    .next (((s.waiters p).filter fun g => thIsl g == i && s.ctxRuns g).foldl (fun t g => t.resumeWaiter p g) s) :=
  onUnit_holds _ ⟨hi, hp⟩

end Passes

/-- Settles O36: each command by its lemma; an arrival is acknowledged where a thread sent it. -/
theorem passHomePort : Obligations.PassHomePort := by
  refine ⟨?installs, ?faults, ?arrival, ?ack, ?resume⟩
  case installs => exact fun g p v s hg hp hready hquota => execPasTargetStore_installs v hg hp hready hquota
  case faults => exact fun g p v s hg hp hready hquota => execPasTargetStore_faults v hg hp hready hquota
  case arrival =>
    intro p who rest s hp hhome harrival t
    refine (execPassArrivalCount_counts hp hhome harrival).trans ?_
    cases who with
    | none => rfl
    | some g => rfl
  case ack => exact fun g p gen s hg hack hstall => execPassArriveAck_latches hg hack hstall
  case resume => exact fun i p s hi hp => execPassWaiterResume_resumes hi hp

end Sys2Proof.Machine

/-! SUPPORT. The statements of 07 (serving): the serving commands by mailbox, and the serving engine's own steps. -/

namespace Sys2Proof.Machine

open Sys2Proof

section Serving

variable {s : State} {fn mbx : Nat}

/- Configurations (R270, R271). -/

/-- A configuration within its limits, of a model without live requests, is stored where the function has it or has room (R270). -/
theorem execServeConfig_stores (hp : s.posted fn mbx 0x300 = true) (hok : s.cfgOk fn (s.arg fn mbx 0) (s.cfgArgs fn mbx) = true)
    (hroom : ((s.model fn (s.arg fn mbx 0)).isNone && decide (16 ≤ s.modelCount fn)) = false)
    (hidle : s.liveOf fn (s.arg fn mbx 0) = []) : execServeConfig fn mbx s =
    .next ((s.setModel fn (s.arg fn mbx 0) (s.cfgArgs fn mbx)).respond fn mbx rOk []) := by
  rw [execServeConfig, State.cmd_posted _ hp]
  simp only [hok, hroom, hidle]
  rfl

/-- A configured model without live requests is forgotten (R271). -/
theorem execServeUnconfig_forgets (hp : s.posted fn mbx 0x308 = true) (hmodel : (s.model fn (s.arg fn mbx 0)).isNone = false)
    (hidle : s.liveOf fn (s.arg fn mbx 0) = []) : execServeUnconfig fn mbx s =
    .next ({ s with srv := { s.srv with models := tabDel s.srv.models (reqKey fn (s.arg fn mbx 0)) } }.respond fn mbx rOk []) := by
  rw [execServeUnconfig, State.cmd_posted _ hp]
  simp only [hmodel, hidle]
  rfl

/-- The counters of a function in the order of SERVE_STATS (R313, R315; log entry 72). -/
def servingCounters : List Reg :=
  [.SRV_FN_ADMIT, .SRV_FN_REJECT, .SRV_FN_TTFT_MISS, .SRV_FN_TBT_MISS, .SRV_FN_ATRISK, .SRV_FN_UNCOMP, .SRV_FN_TOKENS, .SRV_FN_STEPS,
    .SRV_FN_PREEMPT]

/-- The counters of the function are answered with A, B and the last predicted step time of a configured model (R315). -/
theorem execServeStats_answers {c : SCfg} (hp : s.posted fn mbx 0x307 = true) (hmodel : s.model fn (s.arg fn mbx 0) = some c) :
    execServeStats fn mbx s = .next (s.respond fn mbx rOk
      ((servingCounters.flatMap fun r => lohi (s.rdN r fn)) ++ [c.aUs, sat32 c.bNs, sat32 (c.lastTpred / 1000)])) := by
  rw [execServeStats, State.cmd_posted _ hp]
  simp only [hmodel]
  rfl

/- Requests (R268, R272, R273, R312). -/

/-- A submit that passes every check, whose prompt arrived, enters the request; only a strict one can still be refused (R273). -/
theorem execServeSubmit_enters {l : List Nat} {c : SCfg} (hp : s.posted fn mbx 0x301 = true) (hmbx : mbx ≠ 16)
    (hok : s.submitCode fn mbx (s.submitReq fn mbx) = rOk) (hmodel : s.model fn (s.submitReq fn mbx).model = some c)
    (hstrict : (s.submitReq fn mbx).strict = false) : execServeSubmit fn mbx (some l) s =
    .next (s.enterReq fn mbx c (s.submitReq fn mbx) l (s.predictTtft fn c (s.submitReq fn mbx))) := by
  rw [execServeSubmit, State.cmd_posted _ hp]
  simp only [if_neg hmbx, hok, hmodel, hstrict]
  rfl

/-- A submit that fails a check is refused with the code of the first one (R273). -/
theorem execServeSubmit_refuses {code : Nat} (l : Option (List Nat)) (hp : s.posted fn mbx 0x301 = true) (hmbx : mbx ≠ 16)
    (hcode : s.submitCode fn mbx (s.submitReq fn mbx) = code) (hbad : code ≠ rOk) : execServeSubmit fn mbx l s =
    .next (s.refuseSubmit fn mbx code []) := by
  rw [execServeSubmit, State.cmd_posted _ hp]
  simp only [if_neg hmbx, hcode, if_pos hbad]

/-- A live request is marked to end at the step boundary where the step in flight has a row of it, and ends at once otherwise (R312; log
entry 43). -/
theorem execServeCancel_ends {l : Nat} {r : Req} {c : SCfg} (hp : s.posted fn mbx 0x302 = true)
    (hreq : s.findReq fn (s.arg64 fn mbx 0) = some (l, r)) (hmodel : s.model fn r.model = some c) (hst : r.st ≠ .ending) :
    execServeCancel fn mbx s =
    .next ((if c.pendRows.any fun x => x.lslot == l then s.setReq fn l { r with cancel := true } else s.endReq fn l 2 0 0).respond
      fn mbx rOk []) := by
  have hundecided : (r.st == .ending) = false := beq_eq_false_iff_ne.mpr hst
  rw [execServeCancel, State.cmd_posted _ hp]
  simp only [hreq, hundecided, hmodel]
  rfl

/-- The entry of a live request is written to the host buffer (R268). -/
theorem execServeQuery_writes {l : Nat} {r : Req} {t : State} (hp : s.posted fn mbx 0x303 = true)
    (hreq : s.findReq fn (s.arg64 fn mbx 0) = some (l, r)) (hput : s.bulkPut fn (s.arg64 fn mbx 2) (reqEntry fn l r) = some t) :
    execServeQuery fn mbx s = .next (t.respond fn mbx rOk []) := by
  rw [execServeQuery, State.cmd_posted _ hp]
  simp only [hreq, hput]

/- Stop sets and adapters (R294, R295, R299, R300). -/

/-- A stop set that parses, and that no live request names, is stored (R299, R300). -/
theorem execStopsetSet_stores {b : List Byte} {x : StopSet} (hp : s.posted fn mbx 0x304 = true) (hn : s.arg fn mbx 0 ≤ 255)
    (hfree : ((s.live fn).any fun e => e.2.stopset == s.arg fn mbx 0) = false) (hparse : parseStops b = some x) :
    execStopsetSet fn mbx (some b) s =
    .next ({ s with srv := { s.srv with stops := tabSet s.srv.stops (fn * 256 + s.arg fn mbx 0) x } }.respond fn mbx rOk []) := by
  rw [execStopsetSet, State.cmd_posted _ hp]
  simp only [if_neg (Nat.not_lt.mpr hn), hfree, hparse]
  rfl

/-- What ADAPTER_LOAD and ADAPTER_FREE check of slot a: it is not the slot of no adapter, and it is bound to the function (R294). -/
theorem State.adapterSlot_passes {a : Nat} (ha : a ≠ 4095) (hbound : s.adapterBound fn a = true) :
    (decide (a = 4095) || !s.adapterBound fn a) = false := by
  rw [decide_eq_false ha, hbound]
  rfl

/-- The image b of an adapter, parsed as x, lies in the pages and is the slot's content; no cache holds lines of the slot (R294, R295). -/
def State.placeAdapter (s : State) (fn a : Nat) (b : List Byte) (x : Adapter) (pages : List Nat) : State :=
  let t := s.putImage b pages
  { t with srv := { t.srv with adapters := tabSet t.srv.adapters a { x with pages := pages } } }.dropLines fn a

/-- An image that parses is placed in a bound slot that no live request holds, where the pool has pages for it (R294). -/
theorem execAdapterLoad_places {b : List Byte} {x : Adapter} {ps : List Nat} (hp : s.posted fn mbx 0x305 = true)
    (ha : s.arg fn mbx 0 ≠ 4095) (hbound : s.adapterBound fn (s.arg fn mbx 0) = true)
    (hheld : s.adapterHeld fn (s.arg fn mbx 0) = false) (hparse : parseAdapter fn b = some x)
    (hps : ps = (s.adapterPages fn (s.arg fn mbx 0)).take (ceilDiv x.size 65536)) (hroom : ceilDiv x.size 65536 ≤ ps.length) :
    execAdapterLoad fn mbx (some b) s = .next ((s.placeAdapter fn (s.arg fn mbx 0) b x ps).respond fn mbx rOk []) := by
  rw [execAdapterLoad, State.cmd_posted _ hp]
  simp only [State.adapterSlot_passes ha hbound, hheld, hparse, ← hps, if_neg (Nat.not_lt.mpr hroom)]
  rfl

/-- A bound slot that no live request holds is emptied (R294, R295). -/
theorem execAdapterFree_empties (hp : s.posted fn mbx 0x306 = true) (ha : s.arg fn mbx 0 ≠ 4095)
    (hbound : s.adapterBound fn (s.arg fn mbx 0) = true) (hheld : s.adapterHeld fn (s.arg fn mbx 0) = false) :
    execAdapterFree fn mbx s =
    .next (({ s with srv := { s.srv with adapters := tabDel s.srv.adapters (s.arg fn mbx 0) } }.dropLines fn (s.arg fn mbx 0)).respond
      fn mbx rOk []) := by
  rw [execAdapterFree, State.cmd_posted _ hp]
  simp only [State.adapterSlot_passes ha hbound, hheld]
  rfl

/- The serving engine's own steps (R276, R290, R291, R650). -/

/-- The step in flight is done with the release of DONE_PASS: its duration goes into the time model and its power is learnt, and the islands
on which a remap is due ask for it (R81, R276, R290). -/
def State.stepMeasured (s : State) (fn m : Nat) (c : SCfg) (st : Stp) : State :=
  let t := (s.setModel fn m { c with
    step := some { st with done := true }
    bNs := s.newB fn c st (st.rows.map (·.ntok)).sum (s.pass c.donePass).last }).learnPower fn c st
  (s.islandsOf fn).foldl (fun t i => if (t.isl i).remapDue then t.askRemap i else t) t

/-- The result record of a step, which its program wrote to slot STEP_NO mod 2 of the result ring (R290). -/
def State.stepResult (s : State) (fn : Nat) (c : SCfg) (st : Stp) : List Byte :=
  s.mcpRead fn (c.resultRing + 16384 * (st.no % 2)) (resultBytes st.rows.length)

/-- The result of a step whose DONE_PASS has released is taken once, outside a handover window: a sound one puts out the sampled tokens, and
an unsound one fails the rows (R290, R291). -/
theorem execStepResultProcess_takes {m : Nat} {c : SCfg} {st : Stp} (hlo : 1 ≤ fn) (hhi : fn ≤ 16) (hm : m < 65536)
    (hmodel : s.model fn m = some c) (hstep : c.step = some st) (hdone : st.done = false) (hstage : s.upd.stage ≠ .window)
    (hreleased : c.doneGen < (s.pass c.donePass).gen) : execStepResultProcess fn m s =
    .next (if resultOk st (s.stepResult fn c st) then
        (s.stepMeasured fn m c st).stepOutput fn m st.no (sampledRows st (s.stepResult fn c st))
      else (s.stepMeasured fn m c st).failRows fn m rProgram) := by
  have hopen : (s.upd.stage == .window) = false := beq_eq_false_iff_ne.mpr hstage
  have hgo : (st.done || s.upd.stage == .window || !decide (c.doneGen < (s.pass c.donePass).gen)) = false := by
    rw [hdone, hopen, decide_eq_true hreleased]
    rfl
  rw [execStepResultProcess, onUnit_holds _ ⟨hlo, hhi, hm⟩]
  simp only [hmodel, hstep, hgo]
  rfl

/-- A serving context that waits for its restart starts again where it is no suspect and power allows it (R650). -/
theorem execServingContextRestart_relaunches {n : Nat} {x : Ctx} (hx : s.ctx n = some x) (hrestart : x.restart = true)
    (hserving : x.serving.isSome = true) (hsuspect : s.ras.suspects.contains n = false) (htrip : s.pwr.trip = false)
    (hsupply : s.pwr.supply = false) : execServingContextRestart n s = .next (s.relaunch n) := by
  rw [execServingContextRestart]
  simp only [hx, hrestart, hserving, hsuspect, htrip, hsupply]
  rfl

end Serving

/-- Settles O57: each posted command by its lemma, and each step of the engine by its own. -/
theorem servingCommands : Obligations.ServingCommands := by
  refine ⟨?config, ?submit, ?refuse, ?cancel, ?query, ?stops, ?load, ?free, ?stats, ?unconfig, ?slack, ?result, ?restart⟩
  case config => exact fun fn mbx s hp hok hroom hidle => execServeConfig_stores hp hok hroom hidle
  case submit => exact fun fn mbx l c s hp hmbx hok hmodel hstrict => execServeSubmit_enters hp hmbx hok hmodel hstrict
  case refuse => exact fun fn mbx code l s hp hmbx hcode hbad => execServeSubmit_refuses l hp hmbx hcode hbad
  case cancel => exact fun fn mbx l r c s hp hreq hmodel hst => execServeCancel_ends hp hreq hmodel hst
  case query => exact fun fn mbx l r s t hp hreq hput => execServeQuery_writes hp hreq hput
  case stops => exact fun fn mbx b x s hp hn hfree hparse => execStopsetSet_stores hp hn hfree hparse
  case load =>
    exact fun fn mbx b x ps s hp ha hbound hheld hparse hps hroom => execAdapterLoad_places hp ha hbound hheld hparse hps hroom
  case free => exact fun fn mbx s hp ha hbound hheld => execAdapterFree_empties hp ha hbound hheld
  case stats => exact fun fn mbx c s hp hmodel => execServeStats_answers hp hmodel
  case unconfig => exact fun fn mbx s hp hmodel hidle => execServeUnconfig_forgets hp hmodel hidle
  case slack => exact fun fn m s hlo hhi hm => onUnit_holds _ ⟨hlo, hhi, hm⟩
  case result =>
    exact fun fn m c st s hlo hhi hm hmodel hstep hdone hstage hreleased =>
      execStepResultProcess_takes hlo hhi hm hmodel hstep hdone hstage hreleased
  case restart =>
    exact fun n x s hx hrestart hserving hsuspect htrip hsupply =>
      execServingContextRestart_relaunches hx hrestart hserving hsuspect htrip hsupply

end Sys2Proof.Machine

/-! SUPPORT. The statements of 09 (mailboxes): what every command and every mailbox command keeps, mailbox and ring writes, and the
commands of the module, trust, power and pair groups. -/

namespace Sys2Proof.Machine

open Sys2Proof

/-- Settles O1: the queue of the state that step reads is the command and the queue's rest. -/
theorem stepRunsFrontCommand : Obligations.StepRunsFrontCommand := fun _ _ => rfl

/-- Settles O5: the queue's half of the frame of every meaning. -/
theorem commandsKeepTheQueue : Obligations.CommandsKeepTheQueue :=
  fun c s t h => (exec_keeps c (Keeps.refl s) t h).pending

/-- A guard that stops a command where b fails lets it pass where b holds. -/
theorem not_eq_true_of {b : Bool} (h : b = true) : ¬ (!b) = true := by
  rw [h]
  exact Bool.false_ne_true

section MailboxCommands

variable {s t u : State} {fn mbx op : Nat} {c : Instr}

/-- Command c is that of opcode op in a mailbox, and executing it there leads from s to t: what State.cmd says of its effect. -/
def State.MailRuns (s : State) (fn mbx op : Nat) (c : Instr) (t : State) : Prop :=
  exec c s = onUnit s (decide (fn ≤ 18 ∧ mbx ≤ 16)) (if s.executes fn mbx op then t else s)

theorem State.MailRuns.cmd (h : s.MailRuns fn mbx op c t) : exec c s = s.cmd fn mbx op fun _ => t := h

theorem State.MailRuns.idle (h : s.MailRuns fn mbx op c t) (hfn : fn ≤ 18) (hmbx : mbx ≤ 16) (hidle : s.executes fn mbx op = false) :
    exec c s = .next s :=
  h.cmd.trans (State.cmd_idle s fn mbx op _ hfn hmbx hidle)

theorem State.MailRuns.posted (h : s.MailRuns fn mbx op c t) (hp : s.posted fn mbx op = true) : exec c s = .next t :=
  h.cmd.trans (State.cmd_posted _ hp)

/-- A posted command whose effect its case split decides. -/
theorem State.MailRuns.posted_eq (h : s.MailRuns fn mbx op c t) (hp : s.posted fn mbx op = true) (ht : t = u) : exec c s = .next u :=
  ht ▸ h.posted hp

/-- Whether or not it executes, the command keeps what its effect keeps. -/
theorem State.MailRuns.sameButMail (h : s.MailRuns fn mbx op c t) (ht : SameButMail s t) (hu : exec c s = .next u) : SameButMail s u := by
  rw [h, onUnit_next_iff] at hu
  split at hu
  · split at hu
    · exact hu ▸ ht
    · exact hu ▸ sameButMail_refl s
  · exact hu ▸ sameButMail_refl s

/-- Settles O7: each of the commands is run by its mailbox, which runs nothing where no such command may execute. -/
theorem unpostedCommandsChangeNothing : Obligations.UnpostedCommandsChangeNothing := by
  intro fn mbx s e hfn hmbx he hidle
  suffices hrun : ∃ t, s.MailRuns fn mbx e.2 e.1 t by
    obtain ⟨t, ht⟩ := hrun
    exact ht.idle hfn hmbx hidle
  clear hidle
  revert e
  dsimp only
  repeat
    refine List.forall_mem_cons.mpr ⟨?_, ?_⟩
    · exact ⟨_, rfl⟩
  exact List.forall_mem_nil _

/- Queries (R364). -/

/-- The state t is s with a response. -/
def State.Answered (s : State) (fn mbx : Nat) (t : State) : Prop := ∃ r ws, t = s.respond fn mbx r ws

theorem State.Answered.sameButMail (h : s.Answered fn mbx t) : SameButMail s t := by
  obtain ⟨r, ws, rfl⟩ := h
  exact respond_sameButMail s fn mbx r ws

theorem State.answered (s : State) (fn mbx r : Nat) (ws : List Nat) : s.Answered fn mbx (s.respond fn mbx r ws) := ⟨r, ws, rfl⟩

theorem State.Answered.ite {p : Prop} [Decidable p] (ht : s.Answered fn mbx t) (hu : s.Answered fn mbx u) :
    s.Answered fn mbx (if p then t else u) := by
  split <;> assumption

/-- A query only answers. -/
def State.OnlyAnswers (s : State) (fn mbx : Nat) (c : Instr) : Prop := ∃ op t, s.MailRuns fn mbx op c t ∧ s.Answered fn mbx t

/-- PWR_STATUS answers LIMIT for a partition that does not exist, and its words otherwise (R364). -/
theorem pwrStatus_onlyAnswers : s.OnlyAnswers fn mbx (.pwrStatus fn mbx) := by
  refine ⟨_, _, rfl, ?_⟩
  exact .ite (s.answered ..) (s.answered ..)

/-- PART_QUERY answers LIMIT for a VF that does not exist, and its words otherwise (R364). -/
theorem partQuery_onlyAnswers : s.OnlyAnswers fn mbx (.partQuery fn mbx) := by
  refine ⟨_, _, rfl, ?_⟩
  exact .ite (s.answered ..) (s.answered ..)

/-- SERVE_STATS answers for a model that the function has configured, and NOT_SERVING otherwise (R315). -/
theorem serveStats_onlyAnswers : s.OnlyAnswers fn mbx (.serveStats fn mbx) := by
  refine ⟨_, _, rfl, ?_⟩
  dsimp only
  cases s.model fn (s.arg fn mbx 0) with
  | none => exact s.answered ..
  | some c => exact s.answered ..

/-- VID_STREAM_QUERY answers MEDIA_DOWN, NOT_FOUND or the words of a stream of the function's own (R324). -/
theorem vidStreamQuery_onlyAnswers : s.OnlyAnswers fn mbx (.vidStreamQuery fn mbx) := by
  refine ⟨_, _, rfl, .ite (s.answered ..) ?_⟩
  dsimp only
  cases s.ownStream fn (s.arg fn mbx 0) with
  | none => exact s.answered ..
  | some v => exact s.answered ..

/-- Settles O8: each query only answers; those without a lemma of their own have one answer for every state. -/
theorem queryCommandsFrame : Obligations.QueryCommandsFrame := by
  intro fn mbx s t c hc h
  suffices hanswers : s.OnlyAnswers fn mbx c by
    obtain ⟨op, u, hrun, hu⟩ := hanswers
    exact hrun.sameButMail hu.sameButMail h
  simp only [List.mem_cons, List.not_mem_nil, or_false] at hc
  obtain rfl | rfl | rfl | rfl | rfl | rfl | rfl | rfl | rfl | rfl | rfl := hc
  iterate 3 exact ⟨_, _, rfl, s.answered ..⟩
  · exact pwrStatus_onlyAnswers
  iterate 4 exact ⟨_, _, rfl, s.answered ..⟩
  · exact serveStats_onlyAnswers
  · exact vidStreamQuery_onlyAnswers
  · exact partQuery_onlyAnswers

/- Limits (R363, R364, R365). -/

/-- A command whose arguments decide LIMIT: its mailbox runs it, and bad arguments answer LIMIT before anything else. -/
def State.ChecksLimits (s : State) (fn mbx : Nat) (e : Instr × Nat) : Prop :=
  ∃ t, s.MailRuns fn mbx e.2 e.1 t ∧ (s.badLimit fn mbx e.2 = true → t = s.respond fn mbx rLimit [])

/-- A video command checks its limits before the strait (R365). -/
theorem State.ChecksLimits.vid (h : s.MailRuns fn mbx op c (if (s.mediaDown && !s.badLimit fn mbx op) = true then t else u))
    (hu : s.badLimit fn mbx op = true → u = s.respond fn mbx rLimit []) : s.ChecksLimits fn mbx (c, op) := by
  refine ⟨_, h, fun hbad => ?_⟩
  rw [hbad, Bool.not_true, Bool.and_false, if_neg Bool.false_ne_true]
  exact hu hbad

/-- SELFTEST checks the cores that it is told of, and then its limits (R558). -/
theorem selftest_checksLimits {failed : List Nat} (hall : (failed.all fun k => decide (k < 64 * 66)) = true) :
    s.ChecksLimits fn mbx (.selftest fn mbx failed, 0x606) := by
  refine ⟨_, rfl, fun hbad => ?_⟩
  exact (if_neg (not_eq_true_of hall)).trans (if_pos hbad)

/-- Settles O9: the commands of programs, contexts, copies and pages check their limits first, those of video before the strait, and
SELFTEST after its cores. -/
theorem limitRefusals : Obligations.LimitRefusals := by
  intro fn mbx image failed s e he hall hp hbad
  suffices hlimits : s.ChecksLimits fn mbx e by
    obtain ⟨t, hrun, ht⟩ := hlimits
    exact ht hbad ▸ hrun.posted hp
  simp only [List.mem_cons, List.not_mem_nil, or_false] at he
  obtain rfl | rfl | rfl | rfl | rfl | rfl | rfl | rfl | rfl | rfl | rfl | rfl := he
  iterate 7
    refine ⟨_, rfl, fun h => ?_⟩
    exact if_pos h
  iterate 4
    refine State.ChecksLimits.vid rfl fun h => ?_
    exact if_pos h
  exact selftest_checksLimits hall

end MailboxCommands

section MailboxRegisters

variable {s : State} {fn mbx : Nat}

/- Mailbox words and posts (R353 to R356). -/

/-- A payload word of a mailbox that exists. -/
theorem execMailboxPayloadWrite_eq {w : Nat} (v : Nat) (hfn : fn ≤ 16) (hmbx : mbx < 16) (hw : w < 63) :
    execMailboxPayloadWrite fn mbx w v s =
    .next (if s.owned fn mbx || s.fnState fn == fnScrubbing then s.dropWr fn else s.setMbxW fn mbx w v) :=
  onUnit_holds _ ⟨hfn, hmbx, hw⟩

theorem execMailboxPayloadWrite_stores {w : Nat} (v : Nat) (hfn : fn ≤ 16) (hmbx : mbx < 16) (hw : w < 63)
    (hfree : s.owned fn mbx = false) (hst : s.fnState fn ≠ fnScrubbing) :
    execMailboxPayloadWrite fn mbx w v s = .next (s.setMbxW fn mbx w v) := by
  rw [execMailboxPayloadWrite_eq v hfn hmbx hw, hfree, beq_eq_false_iff_ne.mpr hst]
  rfl

theorem execMailboxPayloadWrite_drops {w : Nat} (v : Nat) (hfn : fn ≤ 16) (hmbx : mbx < 16) (hw : w < 63)
    (h : s.owned fn mbx = true ∨ s.fnState fn = fnScrubbing) :
    execMailboxPayloadWrite fn mbx w v s = .next (s.dropWr fn) := by
  have hdrop : (s.owned fn mbx || s.fnState fn == fnScrubbing) = true := by rw [Bool.or_eq_true, beq_iff_eq]; exact h
  rw [execMailboxPayloadWrite_eq v hfn hmbx hw, if_pos hdrop]

theorem State.postHeader_drops {header : Nat} (h : s.owned fn mbx = true ∨ bitAt header 31 = false) :
    s.postHeader fn mbx header = s.dropWr fn := by
  have hdrop : (s.owned fn mbx || !bitAt header 31) = true := by rw [Bool.or_eq_true, Bool.not_eq_true']; exact h
  rw [State.postHeader, if_pos hdrop]

/-- The post of a VF or of PF0 is answered by the hardware, waits for a handover window, or is taken (R355, R356, R358). -/
theorem State.postHeader_posts {header : Nat} (hfn : fn ≤ 16) (hfree : s.owned fn mbx = false) (hown : bitAt header 31 = true) :
    let t := s.setMbxW fn mbx 63 (bits header 0 27 + 2 ^ 31)
    let u := { t with mbx := { t.mbx with postT := tabSet t.mbx.postT (fn * 32 + mbx) t.time } }
    s.postHeader fn mbx header = match u.refusal fn (bits header 0 12) with
      | some code => ((u.count .FN_POST_REFUSED fn 1).hwSet .FN_EVT fn 1).respond fn mbx code []
      | none => if u.fnState fn = fnHandover then { u with mbx := { u.mbx with deferred := u.mbx.deferred ++ [(fn, mbx)] } }
        else u.take fn mbx := by
  have hport : ¬ fn = 17 := by omega
  simp only [State.postHeader, hfree, hown, if_neg hport]
  rfl

/- Ring and vector registers (R368, R370). -/

theorem State.swWrite_ringCfg {r : Reg} (v : Nat) (hr : r = .FN_EVT_BASE ∨ r = .FN_EVT_PROD_ADDR ∨ r = .FN_EVT_SIZE)
    (hst : s.fnState fn ≠ fnScrubbing) : s.swWrite fn r fn v = s.ringCfg fn r v := by
  obtain rfl | rfl | rfl := hr <;> exact if_neg hst

theorem State.swWrite_vecWrite {r : Reg} {i : Nat} (v : Nat) (hst : s.fnState fn ≠ fnScrubbing)
    (hr : r = .FN_MBX_VEC0 ∨ r = .FN_MBX_VEC1 ∨ r = .FN_MBX_VEC2 ∨ r = .FN_MBX_VEC3 ∨ r = .FN_EVT_VEC0 ∨ r = .FN_EVT_VEC1 ∨
      r = .FN_EVT_VEC2 ∨ r = .FN_EVT_VEC3) : s.swWrite fn r i v = s.vecWrite fn r v := by
  obtain rfl | rfl | rfl | rfl | rfl | rfl | rfl | rfl := hr <;> exact if_neg hst

/-- The configuration register of the ring at an offset (R368). -/
def ringReg (off : Nat) : Reg := if off = 0x2000 then .FN_EVT_BASE else if off = 0x2008 then .FN_EVT_PROD_ADDR else .FN_EVT_SIZE

/-- A function that is not scrubbed takes the write of a ring's configuration (R368). -/
theorem execEvtRingConfigWrite_configures {off v : Nat} {t : State} (hfn : fn ≤ 16) (hst : s.fnState fn ≠ fnScrubbing)
    (hoff : off = 0x2000 ∨ off = 0x2008 ∨ off = 0x2010) (ht : s.ringCfg fn (ringReg off) v = t) :
    execEvtRingConfigWrite fn off v s = .next (t.unhold fn off) := by
  have hunit : (decide (fn ≤ 16) && [0x2000, 0x2008, 0x2010].contains off) = true := by
    rw [decide_eq_true hfn]
    obtain rfl | rfl | rfl := hoff <;> rfl
  have hreg : ringReg off = .FN_EVT_BASE ∨ ringReg off = .FN_EVT_PROD_ADDR ∨ ringReg off = .FN_EVT_SIZE := by
    obtain rfl | rfl | rfl := hoff <;> decide
  rw [execEvtRingConfigWrite, hunit, onUnit_true, ← ringReg, State.swWrite_ringCfg v hreg hst, ht]

theorem execFnEvtAckWrite_acks (v : Nat) (hfn : fn ≤ 16) (hst : s.fnState fn ≠ fnScrubbing) :
    execFnEvtAckWrite fn v s = .next ((s.ringAck fn v).unhold fn 0x2020) := by
  have hack : s.swWrite fn .FN_EVT_ACK fn v = s.ringAck fn v := if_neg hst
  rw [execFnEvtAckWrite, onUnit_holds _ hfn, hack]

theorem execVectorMapWrite_maps {off b i : Nat} {r : Reg} (v : Nat) (hfn : fn ≤ 16) (hlo : 0x100 ≤ off) (hhi : off < 0x120)
    (halign : off % 4 = 0) (hreg : s.regAt fn off = some (b, r, i)) :
    execVectorMapWrite fn off v s = .next (s.swWrite fn r i v) := by
  rw [execVectorMapWrite, decide_eq_true ⟨hfn, hlo, hhi⟩, beq_iff_eq.mpr halign, Bool.and_true, onUnit_true]
  simp only [hreg]

/-- A moderated vector with an event that waits is raised (R370). -/
theorem execInterruptCoalesceTimeout_raises {v : Nat} (hfn : fn ≤ 16) (hv : v < vecCount fn) (hcoal : s.rdF .FN_INT_COAL fn 0 16 ≠ 0)
    (hwait : tabGet s.mbx.coal 0 (fn * 256 + v) ≠ 0) : execInterruptCoalesceTimeout fn v s =
    .next ({ s with mbx := { s.mbx with coal := tabSet s.mbx.coal (fn * 256 + v) 0 } }.raiseVec fn v) := by
  have hdue : ¬ (decide (s.rdF .FN_INT_COAL fn 0 16 = 0) || decide (tabGet s.mbx.coal 0 (fn * 256 + v) = 0)) = true := by
    rw [decide_eq_false hcoal, decide_eq_false hwait]
    exact Bool.false_ne_true
  rw [execInterruptCoalesceTimeout, decide_eq_true hfn, decide_eq_true hv, Bool.and_true, onUnit_true]
  exact congrArg _ (if_neg hdue)

/-- A VF's reset is also one of its partition (R360, R387). -/
theorem execFunctionLevelReset_vf (hlo : 1 ≤ fn) (hhi : fn ≤ 16) :
    let t := (s.resetFnRegs fn).tdiError fn
    let u := { t with mbx := { t.mbx with async := t.mbx.async.filter fun a => a.fn != fn } }
    execFunctionLevelReset fn s =
    .next (if (u.prt fn).bound then (if u.inValley then u.beginExit else u).startScrub fn .flr none 0 (u.prt fn) else u) := by
  have hvf : ¬ fn = 0 := by omega
  rw [execFunctionLevelReset, onUnit_holds _ hhi]
  exact congrArg _ (if_neg hvf)

end MailboxRegisters

/-- Settles O37: each write by its lemma; the three ring registers share one. -/
theorem mailboxAndRingWrites : Obligations.MailboxAndRingWrites := by
  refine ⟨?stores, ?drops, ?ignored, ?posts, ?ring, ?disabled, ?enabled, ?vectors, ?coalesce, fun s => rfl, ?flr⟩
  case stores => exact fun fn mbx w v s hfn hmbx hw hfree hst => execMailboxPayloadWrite_stores v hfn hmbx hw hfree hst
  case drops => exact fun fn mbx w v s hfn hmbx hw h => execMailboxPayloadWrite_drops v hfn hmbx hw h
  case ignored =>
    exact fun fn mbx h s hfn hmbx hdrop => (onUnit_holds _ ⟨hfn, hmbx⟩).trans (congrArg _ (State.postHeader_drops hdrop))
  case posts =>
    exact fun fn mbx h s hfn hmbx hfree hown =>
      (onUnit_holds _ ⟨hfn, hmbx⟩).trans (congrArg _ (State.postHeader_posts hfn hfree hown))
  case ring =>
    intro fn v s hfn hst
    exact ⟨(onUnit_holds _ hfn).trans (congrArg _ (if_neg hst)), execFnEvtAckWrite_acks v hfn hst⟩
  case disabled =>
    intro fn v s hfn hst hdis
    have hoff : ¬ s.rdF .FN_EVT_CTL fn 0 1 = 1 := by omega
    exact ⟨execEvtRingConfigWrite_configures hfn hst (.inl rfl) (if_neg hoff),
      execEvtRingConfigWrite_configures hfn hst (.inr (.inl rfl)) (if_neg hoff),
      execEvtRingConfigWrite_configures hfn hst (.inr (.inr rfl)) (if_neg hoff)⟩
  case enabled =>
    intro fn v s hfn hst hon
    exact ⟨execEvtRingConfigWrite_configures hfn hst (.inl rfl) (if_pos hon),
      execEvtRingConfigWrite_configures hfn hst (.inr (.inl rfl)) (if_pos hon),
      execEvtRingConfigWrite_configures hfn hst (.inr (.inr rfl)) (if_pos hon)⟩
  case vectors =>
    intro fn off b v i r s hfn hlo hhi halign hreg hst hr
    exact (execVectorMapWrite_maps v hfn hlo hhi halign hreg).trans (congrArg _ (State.swWrite_vecWrite v hst hr))
  case coalesce => exact fun fn v s hfn hv hcoal hwait => execInterruptCoalesceTimeout_raises hfn hv hcoal hwait
  case flr => exact fun fn s hlo hhi => execFunctionLevelReset_vf hlo hhi

section ModuleGroup

variable {s : State} {fn mbx : Nat}

/-- Nothing forbids the entry into the valley state, which begins (R620, R621). -/
theorem execValleyEnter_begins {peerOk : Bool} (hp : s.posted fn mbx 0x004 = true) (hin : s.clk.entering = false)
    (hout : s.clk.exiting = false) (hidle : s.valleyBusy = false) (hpeer : s.pair.mirrored = true → peerOk = true)
    (hrun : s.rdF .TIM_STATUS 0 8 1 = 0) :
    let t := (if s.pair.mirrored then s.twinSend 4 else s).accept fn mbx
    execValleyEnter fn mbx peerOk s = .next { t with clk := { t.clk with valleyCmd := some (fn, mbx) } }.beginEntry := by
  have hpair : (s.pair.mirrored && !peerOk) = false := by
    cases hm : s.pair.mirrored with
    | false => rfl
    | true => rw [hpeer hm]; rfl
  have hnot : ¬ s.rdF .TIM_STATUS 0 8 1 = 1 := by omega
  rw [execValleyEnter, State.cmd_posted _ hp]
  simp only [hin, hout, hidle, hpair, if_neg hnot]
  rfl

/-- The exit from the valley state begins where no transition runs (R623). -/
theorem execValleyExit_begins (hp : s.posted fn mbx 0x005 = true) (hin : s.clk.entering = false) (hout : s.clk.exiting = false)
    (hvalley : s.rdF .TIM_STATUS 0 8 1 = 1) :
    let t := (if s.pair.mirrored then s.twinSend 4 else s).accept fn mbx
    execValleyExit fn mbx s = .next { t with clk := { t.clk with valleyCmd := some (fn, mbx) } }.beginExit := by
  have hnot : ¬ s.rdF .TIM_STATUS 0 8 1 = 0 := by omega
  rw [execValleyExit, State.cmd_posted _ hp]
  simp only [hin, hout, if_neg hnot]
  rfl

end ModuleGroup

/-- Settles O39: the queries have one answer for every state; the health word of MODULE_STATUS is a free value of 32 bits. -/
theorem moduleCommands : Obligations.ModuleCommands := by
  refine ⟨?nop, ?info, ?status, ?time, ?led, ?ledExpiry, ?enter, ?exit, ?entered, ?exited⟩
  case nop => exact fun fn mbx s hp => State.MailRuns.posted rfl hp
  case info => exact fun fn mbx s hp => State.MailRuns.posted rfl hp
  case status =>
    exact fun fn mbx s hp => ⟨s.free.1.toNat % 2 ^ 32, Nat.mod_lt _ (Nat.two_pow_pos 32), State.MailRuns.posted rfl hp⟩
  case time => exact fun fn mbx s hp => State.MailRuns.posted rfl hp
  case led => exact fun fn mbx s hp hsecs => State.MailRuns.posted_eq rfl hp (if_neg (Nat.not_lt.mpr hsecs))
  case ledExpiry => exact fun s hend => congrArg _ (if_neg (Nat.not_lt.mpr hend))
  case enter =>
    exact fun fn mbx peerOk s hp hin hout hidle hpeer hrun => execValleyEnter_begins hp hin hout hidle hpeer hrun
  case exit => exact fun fn mbx s hp hin hout hvalley => execValleyExit_begins hp hin hout hvalley
  case entered => exact fun us s hin => congrArg _ (if_neg (not_eq_true_of hin))
  case exited => exact fun us s hout => congrArg _ (if_neg (not_eq_true_of hout))

section TrustGroup

variable {s t : State} {fn mbx : Nat} {sig : Bool} {token : List Byte}

/-- The firmware's start moves a powered module on from BOOTING (R372). -/
theorem execFirmwareReady_starts (hpow : s.brd.powered = true) (hrec : s.sec.recovery = false) (hboot : s.fnState 0 = fnBooting) :
    execFirmwareReady s = .next s.firmwareReady.spdmGo := by
  have hgo : (s.brd.powered && !s.sec.recovery && s.fnState 0 == fnBooting) = true := by rw [hpow, hrec, hboot]; rfl
  exact congrArg _ (if_pos hgo)

/-- The key that attestation signs with is made once, in a powered module whose TRNG is healthy (R439). -/
theorem execAliasKeyReady_makes (hpow : s.brd.powered = true) (hnew : s.sec.aliasReady = false) (htrng : s.sec.trngFailed = false) :
    execAliasKeyReady s = .next s.aliasMade.spdmGo := by
  have hgo : ¬ (!s.brd.powered || s.sec.aliasReady || s.sec.trngFailed) = true := by
    rw [hpow, hnew, htrng]
    exact Bool.false_ne_true
  exact congrArg _ (if_neg hgo)

/-- A certificate that fits its buffer is written there (R444). -/
theorem execSecCertGet_writes {cert : List Byte} (hp : s.posted fn mbx 0x701 = true) (hindex : s.arg fn mbx 0 ≤ 4)
    (hfits : cert.length ≤ s.arg fn mbx 3) (hput : s.bulkPut fn (s.arg64 fn mbx 1) cert = some t) :
    execSecCertGet fn mbx cert s = .next (t.respond fn mbx rOk [cert.length]) := by
  have hlim : ¬ (4 < s.arg fn mbx 0 ∨ s.arg fn mbx 3 < cert.length) := by omega
  rw [execSecCertGet, State.cmd_posted _ hp]
  simp only [if_neg hlim, hput]

/- The owner lock (R465, R466). -/

/-- A token of the right length is checked as R465 says. -/
theorem State.tokenCode_fetched (s : State) (token : List Byte) (sig : Bool) (actions : List Nat) :
    s.tokenCode 896 (some token) sig actions = if s.tokenOk token sig actions then none else some rBadToken :=
  if_neg (not_not_intro rfl)

theorem execOwnerLock_locks (hp : s.posted fn mbx 0x702 = true) (hlen : s.arg fn mbx 2 = 896) (hok : s.tokenOk token sig [1] = true) :
    let t := s.setOwner true (some (tokenKey token))
    execOwnerLock fn mbx (some token) sig s =
    .next (({ t with sec := { t.sec with ownerSeq := hdr token 0x10 8 } }.respond fn mbx rOk []).updGuard) := by
  rw [execOwnerLock, State.cmd_posted _ hp]
  simp only [hlen, State.tokenCode_fetched, hok]
  rfl

theorem execOwnerLock_refuses (hp : s.posted fn mbx 0x702 = true) (hlen : s.arg fn mbx 2 = 896)
    (hbad : s.tokenOk token sig [1] = false) : execOwnerLock fn mbx (some token) sig s =
    .next ((s.hwSet .SEC_EVT 0 4).respond fn mbx rBadToken []) := by
  rw [execOwnerLock, State.cmd_posted _ hp]
  simp only [hlen, State.tokenCode_fetched, hbad]
  rfl

theorem execOwnerUnlock_unlocks (hp : s.posted fn mbx 0x703 = true) (hlen : s.arg fn mbx 2 = 896)
    (hok : s.tokenOk token sig [2, 3] = true) :
    let t := s.setOwner false (if hdr token 4 4 = 3 then none else s.sec.ownerKey)
    execOwnerUnlock fn mbx (some token) sig s =
    .next ({ t with sec := { t.sec with ownerSeq := hdr token 0x10 8 } }.respond fn mbx rOk []) := by
  rw [execOwnerUnlock, State.cmd_posted _ hp]
  simp only [hlen, State.tokenCode_fetched, hok]
  rfl

/- JTAG (R462, R463). -/

/-- An instruction that reads or writes an existing place opens a session, and reaches the place there (log entry 105). -/
theorem execJtagInstruction_reaches {r : DbgRef} (l : List Byte) (hr : dbgOk r = true) :
    let t := { s with brd := { s.brd with jtagTlr := false } }.openDebug 0
    execJtagInstruction (.read r) s = .next { t with reply := .bytes (t.dbgRead r) } ∧
    execJtagInstruction (.write r l) s = .next (t.dbgWrite r l) := by
  have hread : jtagOk (.read r) = true := hr
  have hwrite : jtagOk (.write r l) = true := hr
  rw [execJtagInstruction, hread, execJtagInstruction, hwrite]
  exact ⟨rfl, rfl⟩

end TrustGroup

/-- Settles O47: each command by its lemma; what has no condition is its own definition. -/
theorem trustCommands : Obligations.TrustCommands := by
  refine ⟨?ready, ?aliasKey, ?status, ?cert, ?lock, ?unlock, ?badToken, ?openDebug, ?closeDebug, fun s => ⟨rfl, rfl, rfl⟩, ?reach,
    ?tlr, fun s => rfl, fun s => rfl, ?retestFails, ?retestPasses⟩
  case ready => exact fun s hpow hrec hboot => execFirmwareReady_starts hpow hrec hboot
  case aliasKey => exact fun s hpow hnew htrng => execAliasKeyReady_makes hpow hnew htrng
  case status => exact fun fn mbx s hp => State.MailRuns.posted rfl hp
  case cert => exact fun fn mbx cert s t hp hindex hfits hput => execSecCertGet_writes hp hindex hfits hput
  case lock => exact fun fn mbx token sig s hp hlen hok => execOwnerLock_locks hp hlen hok
  case unlock => exact fun fn mbx token sig s hp hlen hok => execOwnerUnlock_unlocks hp hlen hok
  case badToken => exact fun fn mbx token sig s hp hlen hbad => execOwnerLock_refuses hp hlen hbad
  case openDebug => exact fun fn mbx s hp hkind => State.MailRuns.posted_eq rfl hp (if_neg (Nat.not_lt.mpr hkind))
  case closeDebug => exact fun fn mbx s hp => State.MailRuns.posted rfl hp
  case reach => exact fun r l s hr => execJtagInstruction_reaches l hr
  case tlr => exact fun s htlr => congrArg _ (if_pos htlr)
  case retestFails =>
    exact fun s hfailed => congrArg _ ((if_neg (not_eq_true_of hfailed)).trans (if_pos rfl))
  case retestPasses =>
    exact fun s hfailed => congrArg _ ((if_neg (not_eq_true_of hfailed)).trans (if_neg (not_eq_true_of rfl)))

section PowerGroup

variable {s t : State} {fn mbx : Nat}

/- Commands (R364, R492, R499, R525). -/

/-- The share of a bound VF is stored where the shares of the bound VFs then fit 1,250 W (R499). -/
theorem execPwrSetShare_stores (hp : s.posted fn mbx 0x502 = true) (hlo : 1 ≤ s.arg fn mbx 0) (hhi : s.arg fn mbx 0 ≤ 16)
    (hbound : (s.prt (s.arg fn mbx 0)).bound = true)
    (hfits : ((s.boundVfs.filter (· != s.arg fn mbx 0)).map fun x => (s.prt x).budget).sum + s.arg fn mbx 1 ≤ 1250) :
    let v := s.arg fn mbx 0
    let t := s.setPrt v { s.prt v with budget := s.arg fn mbx 1 }
    execPwrSetShare fn mbx s =
    .next ({ t with part := { t.part with stored := tabSet t.part.stored v (t.prt v) } }.respond fn mbx rOk []) := by
  have hvf : ¬ (s.arg fn mbx 0 = 0 ∨ 16 < s.arg fn mbx 0) := by omega
  rw [execPwrSetShare, State.cmd_posted _ hp]
  simp only [if_neg hvf, hbound, if_neg (Nat.not_lt.mpr hfits)]
  rfl

/-- The throttle record of a function that PF0 names is written where it fits its buffer (R525). -/
theorem execPwrThrottleRead_writes (hp : s.posted fn mbx 0x505 = true) (hpf : isPf0 fn = true) (hfn : s.arg fn mbx 0 ≤ 16)
    (hlen : 112 ≤ s.arg fn mbx 3)
    (hput : s.bulkPut fn (s.arg64 fn mbx 1) (s.throttleBytes (s.arg fn mbx 0) (s.arg fn mbx 3)) = some t) :
    execPwrThrottleRead fn mbx s =
    .next (t.respond fn mbx rOk [(s.throttleBytes (s.arg fn mbx 0) (s.arg fn mbx 3)).length]) := by
  have hlim : ¬ (16 < s.arg fn mbx 0 ∨ s.arg fn mbx 3 < 112) := by omega
  rw [execPwrThrottleRead, State.cmd_posted _ hp]
  simp only [hpf, if_true, Nat.reduceAdd, if_neg hlim, hput]

/- Leases (R494, R495, R496). -/

/-- The module takes note of a lease write that covers its register (R494). -/
def State.leaseWritten (s : State) (watts dur seq : Nat) : State := s.wrN .PWR_SB_LEASE 0 (watts + dur * 65536 + seq * 2 ^ 32)

/-- A lease of w watts up to the time e is in force (R495). -/
def State.leaseInForce (s : State) (seq w e : Nat) : State :=
  { s with pwr := { s.pwr with
    leaseW := w, leaseEnd := e, leased := true, lastSeq := some seq, decayT := none, holdW := none, lateLease := none } }

/-- The registers show the accepted write of a lease (R494, R495). -/
def State.showLease (s : State) (watts seq : Nat) : State :=
  ((((s.wrN .PWR_LEASE_SEQ 0 seq).wrF .PWR_STATUS 0 0 2 1).hwSet .PWR_EVT 0 1).wrF .PWR_SB_LSTAT 0 0 32 seq).wrF .PWR_SB_LSTAT 0 48 4
    (1 + 8 * b2n (decide (watts < 420)))

@[simp] theorem State.showLease_pwr (s : State) (watts seq : Nat) : (s.showLease watts seq).pwr = s.pwr := by
  rw [State.showLease, State.wrF_pwr, State.wrF_pwr, State.hwSet_pwr, State.wrF_pwr, State.wrN_pwr]

/-- The tray and PF0 are told of a lease of w watts up to the time e (R494, R496). -/
def State.tellLease (s : State) (seq w e : Nat) : State := s.inBand.post 0 0x0502 ([w, seq] ++ lohi e)

/-- A lease for 1 ms to 10 s under a greater SEQ is accepted, and its power clamped (R494, R495). -/
theorem execLeaseWrite_accepts {watts dur seq : Nat} (hw : watts < 65536) (hlo : 1 ≤ dur) (hhi : dur ≤ 10000) (hseq : seq < 2 ^ 32)
    (hnewer : s.pwr.lastSeq.all (seqGreater seq) = true) (hfloor : s.pwr.floor = false) :
    let w := max 420 (min 1250 watts)
    let e := s.time + dur * 1000000
    execLeaseWrite 8 watts dur seq s =
    .next ((((s.leaseWritten watts dur seq).leaseInForce seq w e).showLease watts seq).tellLease seq w e) := by
  intro w e
  have hgood : ¬ (decide (dur = 0) || decide (10000 < dur) ||
      !(s.leaseWritten watts dur seq).pwr.lastSeq.all (seqGreater seq)) = true := by
    rw [State.leaseWritten, State.wrN_pwr, hnewer, decide_eq_false (by omega), decide_eq_false (by omega)]
    exact Bool.false_ne_true
  have hontime : ¬ (s.leaseWritten watts dur seq).pwr.floor = true := by
    rw [State.leaseWritten, State.wrN_pwr, hfloor]
    exact Bool.false_ne_true
  have hend : (((s.leaseWritten watts dur seq).leaseInForce seq w e).showLease watts seq).pwr.leaseEnd = e := by
    rw [State.showLease_pwr]
    rfl
  rw [execLeaseWrite, onUnit_holds _ ⟨hw, by omega, hseq⟩, if_neg (not_not_intro rfl), ← State.leaseWritten]
  dsimp only
  rw [if_neg hgood, if_neg hontime]
  exact congrArg (fun x => Host.Outcome.next
    ((((s.leaseWritten watts dur seq).leaseInForce seq w e).showLease watts seq).tellLease seq w x)) hend

/-- A lease outside 1 ms to 10 s, or whose SEQ is not greater, is refused and counted (R494, R495). -/
theorem execLeaseWrite_refuses {watts dur seq : Nat} (hw : watts < 65536) (hdur : dur < 65536) (hseq : seq < 2 ^ 32)
    (hbad : dur = 0 ∨ 10000 < dur ∨ s.pwr.lastSeq.all (seqGreater seq) = false) : execLeaseWrite 8 watts dur seq s =
    .next (((((s.leaseWritten watts dur seq).count .PWR_LEASE_REFUSED 0 1).hwSet .PWR_EVT 0 4).wrF .PWR_SB_LSTAT 0 50 1 1).inBand) := by
  have hrefused : (decide (dur = 0) || decide (10000 < dur) || !s.pwr.lastSeq.all (seqGreater seq)) = true := by
    simp only [Bool.or_eq_true, decide_eq_true_eq, Bool.not_eq_true', or_assoc]
    exact hbad
  rw [execLeaseWrite, onUnit_holds _ ⟨hw, hdur, hseq⟩]
  simp only [State.wrN_pwr, hrefused]
  rfl

/-- A lease above the safe level that expires begins its decay (R496). -/
theorem execLeaseExpiry_decays (hleased : s.pwr.leased = true) (hfalls : s.safeW < s.pwr.leaseW) :
    let t := { s with pwr := { s.pwr with leased := false, decayW := s.pwr.leaseW, decayT := some s.time, holdW := none } }
    let t := (t.wrF .PWR_STATUS 0 0 2 2).hwSet .PWR_EVT 0 2
    execLeaseExpiry s =
    .next ((t.wrF .PWR_SB_LSTAT 0 48 2 2).post 0 0x0502 ([s.pwr.leaseW, s.rdN .PWR_LEASE_SEQ 0] ++ lohi s.pwr.leaseEnd)) := by
  have hhold : ¬ s.pwr.leaseW < s.safeW := by omega
  rw [execLeaseExpiry]
  simp only [hleased, decide_eq_true hfalls, if_neg hhold]
  rfl

/-- While the MCP refreshes its forecasts, a limit tick sets L and its reason alone (R490, R491). -/
theorem execLimitTick_limits (hfresh : s.pwr.stale = false) :
    let t := { s with pwr := { s.pwr with limit := s.limitNow.1, bind := s.limitNow.2 } }.wrN .PWR_LIMIT 0
      (s.limitNow.1 + s.limitNow.2 * 65536)
    execLimitTick s = .next (t.wrF .PWR_SB_DEMAND 0 48 16 s.limitNow.1) := by
  have hkeep : ¬ s.pwr.stale = true := by rw [hfresh]; exact Bool.false_ne_true
  exact congrArg _ (if_neg hkeep)

end PowerGroup

/-- Settles O50: each command by its lemma; what has no condition is its own definition. -/
theorem powerCommands : Obligations.PowerCommands := by
  refine ⟨?status, ?phases, ?share, ?safe, ?cap, ?throttle, ?life, ?lease, ?leaseRefused, ?expiry, ?decayEnd, ?limit, ?coolant,
    fun s => rfl, fun s => rfl, fun s => rfl, ?preset, fun s => rfl⟩
  case status =>
    intro fn mbx v s hp hv hlo hhi
    subst hv
    have hvf : ¬ ((if isPf0 fn then s.arg fn mbx 0 else fn) = 0 ∨ 16 < if isPf0 fn then s.arg fn mbx 0 else fn) := by omega
    exact State.MailRuns.posted_eq rfl hp (if_neg hvf)
  case phases =>
    intro fn mbx s hp hpoints
    exact State.MailRuns.posted_eq rfl hp (if_neg (Bool.eq_false_iff.mp hpoints))
  case share => exact fun fn mbx s hp hlo hhi hbound hfits => execPwrSetShare_stores hp hlo hhi hbound hfits
  case safe =>
    intro fn mbx s hp hlo hhi
    have hrange : ¬ (s.arg fn mbx 0 < 420 ∨ 1250 < s.arg fn mbx 0) := by omega
    exact State.MailRuns.posted_eq rfl hp (if_neg hrange)
  case cap =>
    intro fn mbx s hp hcap
    have hrange : ¬ (s.arg fn mbx 0 ≠ 0 ∧ (s.arg fn mbx 0 < 420 ∨ 1250 < s.arg fn mbx 0)) := by omega
    exact State.MailRuns.posted_eq rfl hp (if_neg hrange)
  case throttle => exact fun fn mbx s t hp hpf hfn hlen hput => execPwrThrottleRead_writes hp hpf hfn hlen hput
  case life => exact fun fn mbx s hp => State.MailRuns.posted rfl hp
  case lease => exact fun watts dur seq s hw hlo hhi hseq hnewer hfloor => execLeaseWrite_accepts hw hlo hhi hseq hnewer hfloor
  case leaseRefused => exact fun watts dur seq s hw hdur hseq hbad => execLeaseWrite_refuses hw hdur hseq hbad
  case expiry => exact fun s hleased hfalls => execLeaseExpiry_decays hleased hfalls
  case decayEnd => exact fun s hdecay => congrArg _ (if_neg (Bool.eq_false_iff.mp hdecay))
  case limit => exact fun s hfresh => execLimitTick_limits hfresh
  case coolant => exact fun i o f m h s hi ho hf => onUnit_holds _ ⟨hi, ho, hf⟩
  case preset => exact fun d op s hd hop => onUnit_holds _ ⟨hd, hop⟩

section PairGroup

variable {s t : State} {fn mbx : Nat}

/- Commands (R577, R590, R591, R599). -/

/-- A new mode is accepted in a formed pair of one firmware generation where no change of holder is under way (R577). -/
theorem execPairSetMode_accepts (hp : s.posted fn mbx 0x901 = true) (hmode : s.arg fn mbx 0 ≤ 1) (hpaired : s.paired = true)
    (hfw : fwMajor s.pair.peerFw = fwMajor (s.fwSlot s.upd.running).ver) (hstill : s.changing = false) :
    let t := (s.accept fn mbx).twinSend 4
    execPairSetMode fn mbx s =
    .next { t with pair := { t.pair with modeNext := some (s.arg fn mbx 0 == 1), modeCmd := some (fn, mbx) } } := by
  rw [execPairSetMode, State.cmd_posted _ hp]
  simp only [if_neg (Nat.not_lt.mpr hmode), hpaired, if_neg (not_not_intro hfw), hstill]
  rfl

/-- A mode that the partner announced applies at a step boundary (R577). -/
theorem execModeChangeApply_applies {m : Bool} (hnext : s.pair.modeNext = some m) (hcmd : s.pair.modeCmd = none)
    (hbound : s.atBoundary = true) : execModeChangeApply s =
    .next (({ s with pair := { s.pair with modeNext := none, modeCmd := none } }.setMode m).resumeSteps) := by
  rw [execModeChangeApply]
  simp only [hnext, hcmd, hbound]
  rfl

/-- The take-back bit is stored, but set only in a pair that is not degraded (R590, R599). -/
theorem execPairTakeback_stores (hp : s.posted fn mbx 0x902 = true)
    (h : s.arg fn mbx 0 = 0 ∨ (s.arg fn mbx 0 = 1 ∧ s.degraded = false)) : execPairTakeback fn mbx s =
    .next (((s.wrF .TWN_PAIR_STATUS 0 11 1 (s.arg fn mbx 0)).twinSend 4).respond fn mbx rOk []) := by
  have hbit : ¬ 1 < s.arg fn mbx 0 := by omega
  have hmay : ¬ (decide (s.arg fn mbx 0 = 1) && s.degraded) = true := by
    obtain h0 | ⟨h1, hdeg⟩ := h
    · simp [h0]
    · simp [hdeg]
  rw [execPairTakeback, State.cmd_posted _ hp]
  simp only [if_neg hbit, if_neg hmay]

/- Mirroring (R578, R585 to R588). -/

/-- The standby of a mirrored pair queues a forwarded post and loads the next one (R578). -/
theorem execMirrorInput_queues {op : Nat} {ws : List Nat} (hfn : fn ≤ 16) (hlen : ws.length ≤ 63) (hmirror : s.pair.mirrored = true)
    (hrole : s.role = roleStandby) : execMirrorInput fn op ws s =
    .next ({ s with pair := { s.pair with inputs := s.pair.inputs ++ [(fn, op, ws)] } }.loadMirror) := by
  have htakes : ¬ (!s.pair.mirrored || decide (s.role ≠ roleStandby)) = true := by simp [hmirror, hrole]
  rw [execMirrorInput, onUnit_holds _ ⟨hfn, hlen⟩, if_neg htakes]

/-- What a mirrored module does with a digest of a VF (R585 to R587). -/
theorem execDigest_mirrored (d : Dig) (hlo : 1 ≤ d.fn) (hhi : d.fn ≤ 16) (hmirror : s.pair.mirrored = true)
    (hlocal : s.pair.local_.find? (fun x => digKey x == digKey d) = none) : execDigest d s =
    .next (((s.pair.held.find? fun h => digKey h.dig == digKey d && !h.diverged).elim
      { s with pair := { s.pair with early := s.pair.early ++ [{ d with time := s.time }] } }
      fun h => if s.role = roleStandby then s else s.meetHeld h d)) := by
  rw [execDigest, onUnit_holds _ ⟨hlo, hhi⟩, if_neg (not_eq_true_of hmirror)]
  simp only [hlocal]
  cases s.pair.held.find? fun h => digKey h.dig == digKey d && !h.diverged with
  | none => rfl
  | some h => rfl

/-- The first output that is held for its digest is released: unmatched, or as one whose divergence is known (R587). -/
theorem execOutputHoldTimeout_releases {h : HeldOut} (hrole : s.role ≠ roleStandby)
    (hheld : (s.pair.held.find? fun h => !s.katHolds h.dig.fn) = some h) : execOutputHoldTimeout s =
    .next ((s.releaseHeld (digKey h.dig) (if h.diverged then 2 else 1)).hwSet .TWN_PAIR_EVT 0 256) := by
  rw [execOutputHoldTimeout, if_neg hrole]
  simp only [hheld]

/- Known-answer tests (R588, R589). -/

/-- The first result of a test that runs is kept and sent to the partner (R588). -/
theorem execKnownAnswerTestDone_records {ok : Bool} {failed : List Nat} (hall : (failed.all fun k => decide (k < 64 * 66)) = true)
    (hruns : s.rdF .TWN_PAIR_STATUS 0 13 1 ≠ 0) (hfirst : s.pair.katLocal = none) :
    let t := { s with pair := { s.pair with katLocal := some ok, katFailed := failed } }
    execKnownAnswerTestDone ok failed s = .next ((if ok then t else t.hwSet .TWN_PAIR_EVT 0 4).twinSend 4).settleKat := by
  have hgo : ¬ (decide (s.rdF .TWN_PAIR_STATUS 0 13 1 = 0) || s.pair.katLocal.isSome) = true := by simp [hruns, hfirst]
  rw [execKnownAnswerTestDone, hall, onUnit_true]
  exact congrArg _ (if_neg hgo)

/-- A partner without a result has failed (R588). -/
theorem execKatResultTimeout_settles {ok : Bool} (hruns : s.rdF .TWN_PAIR_STATUS 0 13 1 ≠ 0) (hmine : s.pair.katLocal = some ok) :
    execKatResultTimeout s =
    .next ({ s with pair := { s.pair with katLocal := some ok, katPeer := some (s.pair.katPeer.getD false) } }.settleKat) := by
  rw [execKatResultTimeout, if_neg hruns]
  simp only [hmine, Option.isSome_some, if_true, Option.getD_some]

/- Resynchronisation (R591). -/

/-- The standby writes the pages of a VF, which is then being resynchronised (R591). -/
theorem execResyncBulk_takes {ps : List (Nat × Bool × List Byte)} (hlo : 1 ≤ fn) (hhi : fn ≤ 16) (hmirror : s.pair.mirrored = true)
    (hrole : s.role = roleStandby) (ht : t = s.count .TWN_RESYNC_BYTES 0 ((ps.map fun e => e.2.2.length).sum)) :
    execResyncBulk fn ps false s = .next ((ps.foldl (fun t e => t.takePage fn e) t).setSync fn 1) := by
  have hgo : ¬ (!s.pair.mirrored || (decide (s.role ≠ roleStandby) && decide (s.syncOf fn ≠ 1))) = true := by simp [hmirror, hrole]
  subst ht
  rw [execResyncBulk, onUnit_holds _ ⟨hlo, hhi⟩, if_neg hgo]
  exact congrArg _ (if_pos hrole)

/-- The hold of a VF's step boundary ends SYNCED where at most 1,024 pages are left (R591). -/
theorem execResyncHoldTimeout_syncs (hlo : 1 ≤ fn) (hhi : fn ≤ 16) (hhold : s.pair.stepHold.contains fn = true)
    (hleft : s.resyncPages fn ≤ 1024) : execResyncHoldTimeout fn s = .next (s.synced fn) := by
  rw [execResyncHoldTimeout, onUnit_holds _ ⟨hlo, hhi⟩, if_neg (not_eq_true_of hhold), if_pos hleft]

end PairGroup

/-- Settles O55: each command by its lemma; what has no condition is its own definition. -/
theorem pairMirrorCommands : Obligations.PairMirrorCommands := by
  refine ⟨?status, ?setMode, ?apply, ?takeback, ?resync, ?hello, ?lost, ?input, fun m s => rfl, fun on s => rfl, ?admission, ?early,
    ?held, fun s => rfl, ?timeout, ?kat, ?katTimeout, ?bulk, ?hold⟩
  case status => exact fun fn mbx s hp => State.MailRuns.posted rfl hp
  case setMode => exact fun fn mbx s hp hmode hpaired hfw hstill => execPairSetMode_accepts hp hmode hpaired hfw hstill
  case apply => exact fun m s hnext hcmd hbound => execModeChangeApply_applies hnext hcmd hbound
  case takeback => exact fun fn mbx s hp h => execPairTakeback_stores hp h
  case resync => exact fun fn mbx s hp hpaired => State.MailRuns.posted_eq rfl hp (if_neg (not_eq_true_of hpaired))
  case hello =>
    intro fw serial hash sec s hup hfw
    have hgood : ¬ (!true || !true || decide (fwMajor fw ≠ fwMajor (s.fwSlot s.upd.running).ver)) = true := by simp [hfw]
    exact congrArg _ ((if_neg (not_not_intro hup)).trans (if_neg hgood))
  case lost => exact fun s hpaired => congrArg _ (if_pos hpaired)
  case input => exact fun fn op ws s hfn hlen hmirror hrole => execMirrorInput_queues hfn hlen hmirror hrole
  case admission => exact fun fn l seed res s hlo hhi => onUnit_holds _ ⟨hlo, hhi⟩
  case early =>
    intro d s hlo hhi hmirror hlocal hnone
    refine (execDigest_mirrored d hlo hhi hmirror hlocal).trans ?_
    rw [hnone, Option.elim_none]
  case held =>
    intro d h s hlo hhi hmirror hlocal hheld hrole
    refine (execDigest_mirrored d hlo hhi hmirror hlocal).trans ?_
    rw [hheld, Option.elim_some, if_neg hrole]
  case timeout => exact fun h s hrole hheld => execOutputHoldTimeout_releases hrole hheld
  case kat => exact fun ok failed s hall hruns hfirst => execKnownAnswerTestDone_records hall hruns hfirst
  case katTimeout => exact fun ok s hruns hmine => execKatResultTimeout_settles hruns hmine
  case bulk => exact fun fn ps s t hlo hhi hmirror hrole ht _ => execResyncBulk_takes hlo hhi hmirror hrole ht
  case hold => exact fun fn s hlo hhi hhold hleft => execResyncHoldTimeout_syncs hlo hhi hhold hleft

end Sys2Proof.Machine

/-! SUPPORT. The statements of 10 (partitions): the binding commands, partition resets and ramp limits. -/

namespace Sys2Proof.Machine

open Sys2Proof

section BindingCommands

variable {s : State} {fn mbx : Nat}

/-- Outside the valley state a posted binding command runs its effect (R622). -/
theorem State.partCmd_posted {op : Nat} (f : State → State) (hp : s.posted fn mbx op = true) (hout : s.inValley = false) :
    s.partCmd fn mbx op f = .next (f s) := by
  rw [State.partCmd, State.cmd_posted _ hp, if_neg (Bool.eq_false_iff.mp hout)]

/- One VF (R378, R390). -/

/-- An unbound VF is bound to resources of the table that are free: the pass quota takes the lowest place that fits (R376, R378). -/
theorem execPartBind_scrubs {v q : Nat} {p : Part} (hp : s.posted fn mbx 0x101 = true) (hout : s.inValley = false)
    (hv : s.arg fn mbx 0 = v) (hargs : s.bindArgs fn mbx 1 = p) (hvf : isVf v = true) (htable : p.inTable = true)
    (hramp : rampOk p.ramp = true) (hsound : s.namesFailed p = false) (hunbound : (s.prt v).bound = false)
    (hidle : s.scrubbing v = false) (huntaken : ((s.others [v]).any fun l => l.any p.meets) = false)
    (hquota : lowestQuota p.qcount (s.others [v]).flatten = some q) (hpages : p.npages + p.npool ≤ s.pagesLeft)
    (hcounts : s.countsFit [v] [p] = true) :
    execPartBind fn mbx s = .next ((s.accept fn mbx).startScrub v .bind (some (fn, mbx)) 0 { p with qbase := q }) := by
  have hlimit : ¬ (!isVf v || !p.inTable || !rampOk p.ramp || s.namesFailed p) = true := by simp [hvf, htable, hramp, hsound]
  have hbusy : ¬ ((s.prt v).bound || s.scrubbing v) = true := by simp [hunbound, hidle]
  have hspace : ¬ (decide (s.pagesLeft < p.npages + p.npool) || !s.countsFit [v] [p]) = true := by simp [hpages, hcounts]
  rw [execPartBind, State.partCmd_posted _ hp hout]
  simp only [hv, hargs, if_neg hlimit, if_neg hbusy, huntaken, hquota, if_neg hspace]
  rfl

/-- A bound VF returns all that it holds (R378). -/
theorem execPartUnbind_scrubs {v : Nat} (hp : s.posted fn mbx 0x102 = true) (hout : s.inValley = false) (hv : s.arg fn mbx 0 = v)
    (hvf : isVf v = true) (hidle : s.scrubbing v = false) (hbound : (s.prt v).bound = true) :
    execPartUnbind fn mbx s = .next ((s.accept fn mbx).startScrub v .unbind (some (fn, mbx)) 0 {}) := by
  rw [execPartUnbind, State.partCmd_posted _ hp hout]
  simp only [hv, if_neg (not_eq_true_of hvf), hidle, if_neg (not_eq_true_of hbound)]
  rfl

/-- A bound VF is scrubbed and keeps what it holds (R390). -/
theorem execPartReset_scrubs {v : Nat} (hp : s.posted fn mbx 0x104 = true) (hout : s.inValley = false) (hv : s.ownFn fn mbx = v)
    (hvf : isVf v = true) (hidle : s.scrubbing v = false) (hbound : (s.prt v).bound = true) :
    execPartReset fn mbx s = .next ((s.accept fn mbx).startScrub v .reset (some (fn, mbx)) 0 (s.prt v)) := by
  rw [execPartReset, State.partCmd_posted _ hp hout]
  simp only [hv, if_neg (not_eq_true_of hvf), hidle, if_neg (not_eq_true_of hbound)]
  rfl

/-- The ramp limit of a VF is n, in the layout that is stored too (R237, R374). -/
def State.setRamp (s : State) (v n : Nat) : State :=
  let t := s.setPrt v { s.prt v with ramp := n }
  { t with part := { t.part with stored := tabSet t.part.stored v (t.prt v) } }

/-- A bound VF that is not scrubbed takes a ramp limit (R237). -/
theorem execPartSetRamp_stores {v n : Nat} (hp : s.posted fn mbx 0x105 = true) (hv : s.arg fn mbx 0 = v) (hn : s.arg fn mbx 1 = n)
    (hvf : isVf v = true) (hramp : rampOk n = true) (hidle : s.scrubbing v = false) (hbound : (s.prt v).bound = true) :
    execPartSetRamp fn mbx s = .next ((s.setRamp v n).respond fn mbx rOk []) := by
  have hlimit : ¬ (!isVf v || !rampOk n) = true := by simp [hvf, hramp]
  rw [execPartSetRamp, State.cmd_posted _ hp]
  simp only [hv, hn, if_neg hlimit, hidle, if_neg (not_eq_true_of hbound)]
  rfl

/- Source and target (R378, R379). -/

/-- The operands of a re-bind that moves m from a to b are in range, and neither side is scrubbed (R376, R387). -/
theorem rebind_unrefused {a b : Nat} {m : Part} (ha : a ≤ 16) (hb : b ≤ 16) (hne : a ≠ b) (htable : m.inTable = true)
    (hsound : s.namesFailed m = false) (hidleA : s.scrubbing a = false) (hidleB : s.scrubbing b = false) :
    ¬ (decide (16 < a) || decide (16 < b) || decide (a = b) || !m.inTable || s.namesFailed m) = true ∧
    ¬ (s.scrubbing a || s.scrubbing b) = true := by
  simp [ha, hb, hne, htable, hsound, hidleA, hidleB]

/-- A VF returns resources that it holds to the free pool (R376, R379). -/
theorem execPartRebind_gives {a ab : Nat} {m : Part} (hp : s.posted fn mbx 0x103 = true) (hout : s.inValley = false)
    (ha : s.arg fn mbx 0 = a) (hb : s.arg fn mbx 1 = 0) (hargs : s.bindArgs fn mbx 2 = m) (hlo : 1 ≤ a) (hhi : a ≤ 16)
    (hrun : s.runMoves? a 0 m = some ab) (htable : m.inTable = true) (hsound : s.namesFailed m = false)
    (hidle : s.scrubbing a = false) (hidlePool : s.scrubbing 0 = false) (hhas : (s.prt a).has m = true)
    (hcovers : (s.prt a).covers m = true) (hcounts : s.countsFit [a, 0] [(s.prt a).minus m, {}] = true) :
    execPartRebind fn mbx s = .next ((s.accept fn mbx).startScrub a .give (some (fn, mbx)) 0 ((s.prt a).minus m)) := by
  have hvf : a ≠ 0 := Nat.ne_of_gt hlo
  obtain ⟨hlimit, hbusy⟩ := rebind_unrefused hhi (Nat.zero_le 16) hvf htable hsound hidle hidlePool
  have htaken : ¬ (decide (a ≠ 0) && !(s.prt a).has m ||
      decide (a = 0) && (s.others []).any fun l => l.any m.meets) = true := by
    simp [hvf, hhas]
  have hshort : ¬ (decide (a ≠ 0) && !(s.prt a).covers m) = true := by simp [hcovers]
  have hspace : ¬ (decide (a = 0) && decide (s.pagesLeft < m.npages + m.npool) ||
      !s.countsFit [a, 0] [(s.prt a).minus m, {}]) = true := by
    simp [hvf, hcounts]
  rw [execPartRebind, State.partCmd_posted _ hp hout]
  dsimp only
  rw [ha, hb, hargs, hrun]
  dsimp only
  rw [if_neg hlimit, if_neg hbusy, if_neg htaken, if_neg hshort]
  simp only [if_neg hvf]
  exact congrArg _ (if_neg hspace)

/-- A VF takes free resources from the pool; without pass ids to move, its quota stays where it is (R376, R379). -/
theorem execPartRebind_takes {b ab : Nat} {m : Part} (hp : s.posted fn mbx 0x103 = true) (hout : s.inValley = false)
    (ha : s.arg fn mbx 0 = 0) (hb : s.arg fn mbx 1 = b) (hargs : s.bindArgs fn mbx 2 = m) (hlo : 1 ≤ b) (hhi : b ≤ 16)
    (hrun : s.runMoves? 0 b m = some ab) (htable : m.inTable = true) (hsound : s.namesFailed m = false)
    (hidlePool : s.scrubbing 0 = false) (hidle : s.scrubbing b = false)
    (huntaken : ((s.others []).any fun l => l.any m.meets) = false) (hids : m.qcount = 0)
    (hfits : ((s.prt b).plus m (s.prt b).qbase ab).inTable = true) (hpages : m.npages + m.npool ≤ s.pagesLeft)
    (hcounts : s.countsFit [0, b] [{}, (s.prt b).plus m (s.prt b).qbase ab] = true) :
    execPartRebind fn mbx s =
    .next ((s.accept fn mbx).startScrub b .take (some (fn, mbx)) 0 ((s.prt b).plus m (s.prt b).qbase ab)) := by
  have hvf : b ≠ 0 := Nat.ne_of_gt hlo
  obtain ⟨hlimit, hbusy⟩ := rebind_unrefused (Nat.zero_le 16) hhi hvf.symm htable hsound hidlePool hidle
  have htaken : ¬ (decide (0 ≠ 0) && !(s.prt 0).has m ||
      decide (0 = 0) && (s.others []).any fun l => l.any m.meets) = true := by
    simp [huntaken]
  have hgrown : ¬ (decide (b ≠ 0) && !((s.prt b).plus m (s.prt b).qbase ab).inTable) = true := by simp [hfits]
  have hspace : ¬ (decide (0 = 0) && decide (s.pagesLeft < m.npages + m.npool) ||
      !s.countsFit [0, b] [{}, (s.prt b).plus m (s.prt b).qbase ab]) = true := by
    simp [hpages, hcounts]
  rw [execPartRebind, State.partCmd_posted _ hp hout]
  dsimp only
  rw [ha, hb, hargs, hrun]
  dsimp only
  rw [if_neg hlimit, if_neg hbusy]
  simp only [if_neg hvf, if_pos hids]
  exact congrArg _ ((if_neg htaken).trans ((if_neg hgrown).trans (if_neg hspace)))

end BindingCommands

/-- Settles O40: each command by its lemma. -/
theorem partitionCommands : Obligations.PartitionCommands := by
  refine ⟨?query, ?bind, ?unbind, ?give, ?take, ?reset, ?ramp⟩
  case query => exact fun fn mbx s hp hvf => State.MailRuns.posted_eq rfl hp (if_neg (not_eq_true_of hvf))
  case bind =>
    exact fun fn mbx q s hp hout hvf htable hramp hsound hunbound hidle huntaken hquota hpages hcounts =>
      execPartBind_scrubs hp hout rfl rfl hvf htable hramp hsound hunbound hidle huntaken hquota hpages hcounts
  case unbind => exact fun fn mbx s hp hout hvf hidle hbound => execPartUnbind_scrubs hp hout rfl hvf hidle hbound
  case give =>
    exact fun fn mbx ab s hp hout hlo hhi hpool hrun htable hsound hidle hidlePool hhas hcovers hcounts =>
      execPartRebind_gives hp hout rfl hpool rfl hlo hhi hrun htable hsound hidle hidlePool hhas hcovers hcounts
  case take =>
    intro fn mbx ab q s hp hout hpool hlo hhi hrun htable hsound hidlePool hidle huntaken hids hq hfits hpages hcounts
    subst hq
    exact execPartRebind_takes hp hout hpool rfl rfl hlo hhi hrun htable hsound hidlePool hidle huntaken hids hfits hpages hcounts
  case reset => exact fun fn mbx s hp hout hvf hidle hbound => execPartReset_scrubs hp hout rfl hvf hidle hbound
  case ramp => exact fun fn mbx s hp hvf hramp hidle hbound => execPartSetRamp_stores hp rfl rfl hvf hramp hidle hbound

end Sys2Proof.Machine

/-! SUPPORT. The statements of 11 (host links): held vectors, BAR2, configuration and resets of the host link, IDE and TDISP, the twin link
and its cables, the service port, and the signals of the board. -/

namespace Sys2Proof.Machine

open Sys2Proof

section HostLink

variable {s : State} {fn mbx : Nat}

/- Configuration (R394, R396, R403, R408). -/

/-- A write that changes configuration has its effect where the interface is not locked (R408). -/
theorem State.cfgWrite_unlocked {changes : Bool} (f : State → State) (hchange : changes = true) (hfree : s.cfgLocked fn = false) :
    s.cfgWrite fn changes f = f s := by
  rw [State.cfgWrite, if_neg (not_eq_true_of hchange), if_neg (Bool.eq_false_iff.mp hfree)]

theorem execPasidWrite_stores {value : Nat} (hfn : fn ≤ 16) (hidle : s.hostBusy fn = false) (hfree : s.cfgLocked fn = false)
    (hnew : tabGet s.lnk.pasid 0 fn ≠ value % 2 ^ 20) :
    execPasidWrite fn value s = .next { s with lnk := { s.lnk with pasid := tabSet s.lnk.pasid fn (value % 2 ^ 20) } } := by
  rw [execPasidWrite, onUnit_holds _ hfn, if_neg (Bool.eq_false_iff.mp hidle), State.cfgWrite_unlocked _ (bne_iff_ne.mpr hnew) hfree]

theorem execVfBarResize_stores {size : Nat} (hvf : isVf fn = true) (hsize : ((List.range 10).any fun k => size == 2 ^ (28 + k)) = true)
    (hfree : s.cfgLocked fn = false) (hnew : s.barSize fn ≠ size) :
    execVfBarResize fn size false s = .next { s with lnk := { s.lnk with bar2 := tabSet s.lnk.bar2 fn size } } := by
  rw [execVfBarResize, hvf, onUnit_true, hsize, if_neg (by decide), State.cfgWrite_unlocked _ (bne_iff_ne.mpr hnew) hfree]

/-- While no VF shows on the link, a write of NumVFs takes no VF from it (R394). -/
theorem execNumvfsWrite_stores {n : Nat} (en : Bool) (hn : n = 0 ∨ n = 16) (hoff : s.lnk.vfsOn = false) :
    execNumvfsWrite n en s = .next { s with lnk := { s.lnk with numVfs := n, vfEnable := en } } := by
  rw [execNumvfsWrite]
  simp only [if_pos hn, hoff]
  rfl

/- Held vectors (R399). -/

/-- The vector is masked, or its entry holds address 0 (R399). -/
def State.vecHeld (s : State) (fn vec : Nat) : Prop :=
  (tabGet s.lnk.msix {} (fn * 256 + vec)).masked = true ∨ (tabGet s.lnk.msix {} (fn * 256 + vec)).addr = 0

/-- The PBA shows the vector of key k (R399). -/
def State.pend (s : State) (k : Nat) : State :=
  { s with lnk := { s.lnk with pba := if s.lnk.pba.contains k then s.lnk.pba else k :: s.lnk.pba } }

theorem State.pend_contains (s : State) (k : Nat) : (s.pend k).lnk.pba.contains k = true := by
  by_cases h : s.lnk.pba.contains k = true
  · rw [State.pend, if_pos h, h]
  · rw [State.pend, if_neg h, List.contains_cons, beq_self_eq_true, Bool.true_or]

/-- A vector that pends already stays as it is. -/
theorem State.pend_pend (s : State) (k : Nat) : (s.pend k).pend k = s.pend k := by
  rw [State.pend, if_pos (s.pend_contains k)]

theorem State.raiseVec_held {vec : Nat} (h : s.vecHeld fn vec) : s.raiseVec fn vec = s.pend (fn * 256 + vec) := by
  have hheld : ((tabGet s.lnk.msix {} (fn * 256 + vec)).masked || decide ((tabGet s.lnk.msix {} (fn * 256 + vec)).addr = 0)) = true := by
    rw [Bool.or_eq_true, decide_eq_true_eq]
    exact h
  exact if_pos hheld

/-- However often a held vector is raised, it pends once (R399). -/
theorem State.repeat_raiseVec_held {vec : Nat} (h : s.vecHeld fn vec) (n : Nat) :
    Nat.repeat (fun u : State => u.raiseVec fn vec) (n + 1) s = s.pend (fn * 256 + vec) := by
  induction n with
  | zero => exact State.raiseVec_held h
  | succ n ih =>
    have hstill : (s.pend (fn * 256 + vec)).vecHeld fn vec := h
    rw [Nat.repeat, ih, State.raiseVec_held hstill, State.pend_pend]

/-- An entry of the MSI-X table that names an address and is not masked: the vector of key k, which pended, is sent (R399). -/
def State.sendPending (s : State) (k : Nat) (e : MsixEnt) : State :=
  { s with
    lnk := { s.lnk with msix := tabSet s.lnk.msix k e, pba := s.lnk.pba.filter (· != k) }
    mbx := { s.mbx with sent := tabUpd s.mbx.sent 0 k (· + 1) } }

theorem execMsixUnmask_sends {vec addr data : Nat} (hfn : fn ≤ 16) (hvec : vec < vecCount fn) (hfree : s.cfgLocked fn = false)
    (hnew : tabGet s.lnk.msix {} (fn * 256 + vec) ≠ { addr := addr, data := data, masked := false }) (haddr : addr ≠ 0)
    (hpend : s.lnk.pba.contains (fn * 256 + vec) = true) : execMsixUnmask fn vec addr data s =
    .next (s.sendPending (fn * 256 + vec) { addr := addr, data := data, masked := false }) := by
  rw [execMsixUnmask, decide_eq_true hfn, decide_eq_true hvec, Bool.and_true, onUnit_true]
  exact congrArg _ ((State.cfgWrite_unlocked _ (bne_iff_ne.mpr hnew) hfree).trans (if_pos ⟨haddr, hpend⟩))

theorem State.vecHeld.ne_unmasked {vec addr : Nat} (h : s.vecHeld fn vec) (data : Nat) (haddr : addr ≠ 0) :
    tabGet s.lnk.msix {} (fn * 256 + vec) ≠ { addr := addr, data := data, masked := false } := by
  intro heq
  rw [State.vecHeld, heq] at h
  obtain hmasked | hzero := h
  · exact Bool.false_ne_true hmasked
  · exact haddr hzero

/- BAR2 (R174, R385, R397). -/

theorem execBar2Read_answers {off len : Nat} (hvf : isVf fn = true) (hrun : s.fnState fn ≠ fnScrubbing)
    (hmap : s.barOk fn off len = true) (hgo : s.barWaits fn off len false = false)
    (hgood : s.plainBad fn (barAddrs off len) false = none) :
    execBar2Read fn off len s = .next { s with reply := .bytes (s.barBytes fn off len) } := by
  rw [execBar2Read, hvf, onUnit_true, if_neg hrun, if_neg (not_eq_true_of hmap), if_neg (Bool.eq_false_iff.mp hgo), hgood]

theorem execBar2Read_scrubbing (off len : Nat) (hvf : isVf fn = true) (hscrub : s.fnState fn = fnScrubbing) :
    execBar2Read fn off len s = .next { s with reply := .bytes (List.replicate len 0) } := by
  rw [execBar2Read, hvf, onUnit_true, if_pos hscrub]

theorem execBar2Write_writes {off : Nat} {data : List Byte} (hvf : isVf fn = true) (hrun : s.fnState fn ≠ fnScrubbing)
    (hown : (s.pair.mirrored && s.role != roleStandby) = false) (hmap : s.barOk fn off data.length = true)
    (hgo : s.barWaits fn off data.length true = false) (hgood : s.plainBad fn (barAddrs off data.length) true = none) :
    execBar2Write fn off data s = .next (s.writeBytes fn 0 0 (plainBase + off) false data) := by
  have htakes : ¬ (decide (s.fnState fn = fnScrubbing) || (s.pair.mirrored && s.role != roleStandby)) = true := by simp [hrun, hown]
  rw [execBar2Write, hvf, onUnit_true, if_neg htakes, if_neg (not_eq_true_of hmap), if_neg (Bool.eq_false_iff.mp hgo), hgood]

theorem execBar2Write_scrubbing (off : Nat) (data : List Byte) (hvf : isVf fn = true) (hscrub : s.fnState fn = fnScrubbing) :
    execBar2Write fn off data s = .next ((s.count .FN_BAR2_DROPPED fn 1).hwSet .FN_EVT fn 8) := by
  have hdrop : (decide (s.fnState fn = fnScrubbing) || (s.pair.mirrored && s.role != roleStandby)) = true := by simp [hscrub]
  rw [execBar2Write, hvf, onUnit_true, if_pos hdrop]

/- Translations (R402). -/

/-- An Invalidate Request that nothing in flight meets completes at once: where none waits, it is the first (R402). -/
theorem State.settleInval_only {addr size : Nat} (hinval : s.lnk.inval = [(fn, addr, size)]) (hidle : s.hostRuns fn addr size = false) :
    s.settleInval = { s with lnk := { s.lnk with inval := [] }, reply := .invalidated fn addr size } := by
  have hfirst : (s.lnk.inval.find? fun e => !s.hostRuns e.1 e.2.1 e.2.2) = some (fn, addr, size) := by
    rw [hinval]
    exact List.find?_cons_of_pos (by rw [hidle]; rfl)
  rw [State.settleInval, hfirst]
  simp only [hinval, List.erase_cons_head]

/-- An Invalidate Request of a function with ATS is the only one that waits, and the cache holds nothing of its range (R402). -/
def State.askInval (s : State) (fn addr size : Nat) : State :=
  let atc := s.lnk.atc.filter fun (e : AtcEnt) => !(e.fn == fn && decide (addr < e.page * 4096 + 4096 ∧ e.page * 4096 < addr + size))
  { s with lnk := { s.lnk with atc := atc, inval := [(fn, addr, size)] } }

theorem execAtsInvalidate_completes {addr size : Nat} (hfn : fn ≤ 16) (hnone : s.lnk.inval = []) (hats : s.lnk.ats.contains fn = true)
    (hidle : s.hostRuns fn addr size = false) :
    let atc := s.lnk.atc.filter fun (e : AtcEnt) => !(e.fn == fn && decide (addr < e.page * 4096 + 4096 ∧ e.page * 4096 < addr + size))
    execAtsInvalidate fn addr size s = .next { s with lnk := { s.lnk with atc := atc }, reply := .invalidated fn addr size } := by
  have hasked : (s.askInval fn addr size).hostRuns fn addr size = false := hidle
  rw [execAtsInvalidate, onUnit_holds _ hfn]
  simp only [if_pos hats, hnone, List.nil_append]
  exact congrArg _ (State.settleInval_only rfl hasked)

/- Training (R393, R436). -/

theorem execPcieLinkTrain_trains {rate : Nat} {good worn : List Nat} (rev : Bool) (hrate : 1 ≤ rate)
    (hgood : (good.all fun l => decide (l < 16)) = true) (hworn : (worn.all fun l => decide (l < 16)) = true)
    (hcan : s.hostCanTrain = true) (htrain : s.lnk.train = true) :
    execPcieLinkTrain rate good rev worn s = .next (s.trainHost rate good rev worn) := by
  rw [execPcieLinkTrain, decide_eq_true hrate, hgood, hworn, Bool.and_true, Bool.and_true, onUnit_true, hcan, htrain]
  rfl

/-- The host link has no restoration under way and does not train: its lanes are good again (R436). -/
theorem execLinkRestore_host (up : Bool) (hp : s.posted fn mbx 0x007 = true) (hlink : s.arg fn mbx 0 = 0)
    (hnone : tabFind s.lnk.restore 0 = none) (hstill : s.lnk.train = false) :
    let t := (s.accept fn mbx).wrF .TWN_MAPOUT 0 8 16 0
    let u := { t with lnk := { t.lnk with
      hostLaneFail := onProbation t.lnk.hostLaneFail s.hostOut, restore := tabSet t.lnk.restore 0 (s.lnk.lanes.length, fn, mbx) } }
    execLinkRestore fn mbx up s =
    .next (if up && u.lnk.up then { u with lnk := { u.lnk with train := true } } else u.restoreDone 0 s.lnk.lanes.length) := by
  rw [execLinkRestore, State.cmd_posted _ hp]
  simp only [hlink, hnone, hstill]
  rfl

/-- The twin link has no restoration under way and does not train: its lanes are good again at this end (R435, R436). -/
theorem execLinkRestore_twin (up : Bool) (hp : s.posted fn mbx 0x007 = true) (hlink : s.arg fn mbx 0 = 1)
    (hnone : tabFind s.lnk.restore 1 = none) (hstill : s.twinState ≠ 1) :
    let t := (s.accept fn mbx).wrF .TWN_MAPOUT 0 0 8 0
    let u := { t with lnk := { t.lnk with
      twinLaneFail := onProbation t.lnk.twinLaneFail s.twinOut
      restore := tabSet t.lnk.restore 1 ((maskBits (s.rdF .TWN_STATUS 0 16 8) 8).length, fn, mbx) } }
    execLinkRestore fn mbx up s = .next (if u.twinState = 2 then u.twinRetrain else u.wrF .TWN_STATUS 0 0 2 1) := by
  rw [execLinkRestore, State.cmd_posted _ hp]
  simp only [hlink, hnone, beq_eq_false_iff_ne.mpr hstill]
  rfl

end HostLink

/-- Settles O15: however often it is raised, the vector only pends, so that the unmasking sends it once and takes it from the PBA. -/
theorem maskedVectorsPendAndGoOnce : Obligations.MaskedVectorsPendAndGoOnce := by
  intro fn vec addr data n s hfn hvec hheld hfree haddr
  have hraised := State.repeat_raiseVec_held hheld n
  rw [hraised]
  have hpend := s.pend_contains (fn * 256 + vec)
  refine ⟨_, execMsixUnmask_sends hfn hvec hfree (State.vecHeld.ne_unmasked hheld data haddr) haddr hpend, hpend, rfl, ?sent, ?clear⟩
  case sent => exact tabGet_set_self _ _ _ _
  case clear => simp [State.sendPending]

/-- Settles O42: each command by its lemma; a conventional reset has no condition but its kind. -/
theorem linkAndBar2Commands : Obligations.LinkAndBar2Commands := by
  refine ⟨?reset, ?train, ?read, ?readScrub, ?write, ?writeScrub, ?unmask, ?invalidate, ?pasid, ?resize, ?numvfs, ?restoreTwin,
    ?restoreHost⟩
  case reset => exact fun kind s hkind => onUnit_holds _ hkind
  case train =>
    exact fun rate good worn rev s hrate hgood hworn hcan htrain => execPcieLinkTrain_trains rev hrate hgood hworn hcan htrain
  case read => exact fun fn off len s hvf hrun hmap hgo hgood => execBar2Read_answers hvf hrun hmap hgo hgood
  case readScrub => exact fun fn off len s hvf hscrub => execBar2Read_scrubbing off len hvf hscrub
  case write => exact fun fn off data s hvf hrun hown hmap hgo hgood => execBar2Write_writes hvf hrun hown hmap hgo hgood
  case writeScrub => exact fun fn off data s hvf hscrub => execBar2Write_scrubbing off data hvf hscrub
  case unmask => exact fun fn vec addr data s hfn hvec hfree hnew haddr hpend => execMsixUnmask_sends hfn hvec hfree hnew haddr hpend
  case invalidate => exact fun fn addr size s hfn hnone hats hidle => execAtsInvalidate_completes hfn hnone hats hidle
  case pasid => exact fun fn value s hfn hidle hfree hnew => execPasidWrite_stores hfn hidle hfree hnew
  case resize => exact fun fn size s hvf hsize hfree hnew => execVfBarResize_stores hvf hsize hfree hnew
  case numvfs => exact fun n en s hn hoff => execNumvfsWrite_stores en hn hoff
  case restoreTwin => exact fun fn mbx up s hp hlink hnone hstill => execLinkRestore_twin up hp hlink hnone hstill
  case restoreHost => exact fun fn mbx up s hp hlink hnone hstill => execLinkRestore_host up hp hlink hnone hstill

section Interfaces

variable {s : State} {fn k : Nat}

/- IDE keys (R404). -/

/-- Within an SPDM session over DOE, a key-management operation on a stream of the link has its effect (R404). -/
theorem onUnit_ideSession (t : State) (hk : k < 18) (hsession : (s.sec.sessions.any fun x => x.doe && x.done) = true) :
    onUnit s (decide (k < 18)) (if !(s.sec.sessions.any fun x => x.doe && x.done) then s else t) = .next t := by
  rw [onUnit_holds _ hk, if_neg (not_eq_true_of hsession)]

/- Requests to the interface of a VF (R407 to R410). -/

theorem execLockInterfaceRequest_locks (hvf : isVf fn = true) (hunlocked : s.tdi fn = .unlocked) (hbound : (s.prt fn).bound = true)
    (hready : s.fnState fn = fnReady) (hsecure : (tabGet s.lnk.ide {} (fn + 1)).secure = true) :
    execLockInterfaceRequest fn s = .next { s.setTdi fn .locked with reply := .tdisp .locked } := by
  have hlocks : (s.tdi fn == .unlocked && (s.prt fn).bound && s.fnState fn == fnReady && (tabGet s.lnk.ide {} (fn + 1)).secure) = true := by
    rw [hunlocked, hbound, hready, hsecure]
    rfl
  rw [execLockInterfaceRequest, hvf, onUnit_true, if_pos hlocks]
  rfl

theorem execLockInterfaceRequest_refuses (hvf : isVf fn = true)
    (hmissing : (s.tdi fn == .unlocked && (s.prt fn).bound && s.fnState fn == fnReady && (tabGet s.lnk.ide {} (fn + 1)).secure) = false) :
    execLockInterfaceRequest fn s = .next { s with reply := .tdisp .error } := by
  rw [execLockInterfaceRequest, hvf, onUnit_true, if_neg (Bool.eq_false_iff.mp hmissing)]
  rfl

theorem execGetDeviceInterfaceReport_answers (hvf : isVf fn = true) (hlocked : s.cfgLocked fn = true) :
    execGetDeviceInterfaceReport fn s =
    .next (s.tdisp (.report [(0, 65536), (2, s.barSize fn), (4, 8192)] (s.layoutRecord fn)
      ((s.programDigest fn).getD (List.replicate 32 0)))) := by
  rw [execGetDeviceInterfaceReport, hvf, onUnit_true, if_pos hlocked]

/-- Only a locked interface starts (R385, R407). -/
theorem execStartInterfaceRequest_eq (hvf : isVf fn = true) : execStartInterfaceRequest fn s =
    .next (if s.tdi fn = .locked then (s.setTdi fn .run).tdisp .started else s.tdisp .error) := by
  rw [execStartInterfaceRequest, hvf, onUnit_true]
  simp only [beq_iff_eq]

/-- Outside a scrub the interface is unlocked at once (R409). -/
theorem execStopInterfaceRequest_unlocks (hvf : isVf fn = true) (hidle : tabFind s.part.scrubs fn = none) :
    execStopInterfaceRequest fn s = .next ((s.setTdi fn .unlocked).tdisp .stopped) := by
  have hgo : ¬ (tabFind s.part.scrubs fn).any (·.started) = true := by rw [hidle]; exact Bool.false_ne_true
  rw [execStopInterfaceRequest, hvf, onUnit_true, if_neg hgo]

/-- A request that is off the stream or lacks the T bit is dropped while the interface runs (R410). -/
theorem execTdiUnsecuredRequest_drops {onStream tBit : Bool} (hvf : isVf fn = true) (hrun : s.tdi fn = .run)
    (hbare : (!onStream || !tBit) = true) :
    execTdiUnsecuredRequest fn onStream tBit s = .next { s.dropWr fn with reply := .unsupported } := by
  have hdrop : (s.tdi fn == .run && (!onStream || !tBit)) = true := by rw [hrun, hbare]; rfl
  rw [execTdiUnsecuredRequest, hvf, onUnit_true, if_pos hdrop]

/- The count of dropped writes (R13, R410). -/

/-- A 32-bit register holds every 32-bit number. -/
theorem Reg.fit_w64 {r : Reg} {v : Nat} (hw : r.info.width = 32) (hv : v < 2 ^ 32) : r.fit (w64 v) = w64 v := by
  rw [Reg.fit, if_pos hw]
  apply BitVec.eq_of_toNat_eq
  have hmask : (0xFFFF_FFFF : Word).toNat = 2 ^ 32 - 1 := rfl
  have hwide : v < 2 ^ 64 := Nat.lt_trans hv (by decide)
  rw [BitVec.toNat_and, hmask, Nat.and_two_pow_sub_one_eq_mod, w64, BitVec.toNat_ofNat, Nat.mod_eq_of_lt hwide, Nat.mod_eq_of_lt hv]

/-- A 32-bit counter reads the sum, or the greatest number of its width. -/
theorem State.rdN_count_self {r : Reg} (s : State) (i n : Nat) (hw : r.info.width = 32) :
    (s.count r i n).rdN r i = min (s.rdN r i + n) (2 ^ 32 - 1) := by
  have hfits : min (s.rdN r i + n) (2 ^ 32 - 1) < 2 ^ 32 := by omega
  rw [State.count, State.wrN, State.rdN, State.rd_wr_self, hw, Reg.fit_w64 hw hfits, w64, BitVec.toNat_ofNat]
  exact Nat.mod_eq_of_lt (Nat.lt_trans hfits (by decide))

/-- Hardware that sets bits of a status register changes it and its event counter alone (R547). -/
theorem State.rd_hwSet_other {r q : Reg} (s : State) (i m j : Nat) (hq : q ≠ r) (hc : r.counterOf ≠ some q) :
    (s.hwSet r i m).rd q j = s.rd q j := by
  have hset : (s.wr r i (s.rd r i ||| w64 m)).rd q j = s.rd q j := State.rd_wr_other _ _ _ _ _ _ fun h => hq h.1
  rw [State.hwSet]
  cases hr : r.counterOf with
  | none => exact hset
  | some c =>
    have hne : q ≠ c := fun h => hc (by rw [hr, h])
    exact (State.rd_wr_other _ _ _ _ _ _ fun h => hne h.1).trans hset

@[simp] theorem State.dropWr_lnk (s : State) (fn : Nat) : (s.dropWr fn).lnk = s.lnk := by
  rw [State.dropWr, State.hwSet_lnk, State.count_lnk]

/-- A dropped write of a function of the host link adds 1 to its count (R13). -/
theorem State.rdN_dropWr (s : State) (hfn : fn ≤ 16) :
    (s.dropWr fn).rdN .FN_DROPPED_WR fn = min (s.rdN .FN_DROPPED_WR fn + 1) (2 ^ 32 - 1) := by
  have hport : ¬ fn = 17 := by omega
  rw [← State.rdN_count_self s fn 1 rfl, State.dropWr, if_neg hport]
  exact congrArg BitVec.toNat (State.rd_hwSet_other _ _ _ _ (by decide) (by decide))

end Interfaces

/-- Settles O16: the request is dropped, which is counted and leaves the link's own tables alone. -/
theorem unsecuredTdiRequestsAreRefused : Obligations.UnsecuredTdiRequestsAreRefused := by
  intro fn onStream tBit s hlo hhi hrun hbare
  have hvf : isVf fn = true := decide_eq_true ⟨hlo, hhi⟩
  have hbad : (!onStream || !tBit) = true := by rw [Bool.or_eq_true, Bool.not_eq_true', Bool.not_eq_true']; exact hbare
  refine ⟨_, execTdiUnsecuredRequest_drops hvf hrun hbad, rfl, s.rdN_dropWr hhi, fun f => ?_⟩
  exact congrArg (fun l : Lnk => tabGet l.tdi .unlocked f) (s.dropWr_lnk fn)

/-- Settles O43: the operations on keys share their guard, and so do the answers to a start; what has no condition but its VF is its own
definition. -/
theorem ideAndTdispCommands : Obligations.IdeAndTdispCommands := by
  refine ⟨?program, ?setGo, ?setStop, ?switch, ?fail, ?version, ?capabilities, ?locks, ?lockRefused, ?report, ?state, ?starts,
    ?startRefused, ?stops, ?unsupported, ?violation, ?unsecured⟩
  case program =>
    exact fun k s hk hsession htrng => (onUnit_ideSession _ hk hsession).trans (congrArg _ (if_neg (Bool.eq_false_iff.mp htrng)))
  case setGo =>
    exact fun k s hk hsession hprog hbare => (onUnit_ideSession _ hk hsession).trans (congrArg _ (if_pos (by rw [hprog, hbare]; rfl)))
  case setStop => exact fun k s hk hsession => onUnit_ideSession _ hk hsession
  case switch =>
    exact fun k s hk hsession hprog hsecure => (onUnit_ideSession _ hk hsession).trans (congrArg _ (if_pos (by rw [hprog, hsecure]; rfl)))
  case fail => exact fun k s hk => onUnit_holds _ hk
  case version => exact fun fn s hvf => congrArg _ (if_pos hvf)
  case capabilities => exact fun fn s hvf => congrArg _ (if_pos hvf)
  case locks => exact fun fn s hvf hunlocked hbound hready hsecure => execLockInterfaceRequest_locks hvf hunlocked hbound hready hsecure
  case lockRefused => exact fun fn s hvf hmissing => execLockInterfaceRequest_refuses hvf hmissing
  case report => exact fun fn s hvf hlocked => execGetDeviceInterfaceReport_answers hvf hlocked
  case state => exact fun fn s hvf => congrArg _ (if_pos hvf)
  case starts => exact fun fn s hvf hlocked => (execStartInterfaceRequest_eq hvf).trans (congrArg _ (if_pos hlocked))
  case startRefused => exact fun fn s hvf hother => (execStartInterfaceRequest_eq hvf).trans (congrArg _ (if_neg hother))
  case stops => exact fun fn s hvf hidle => execStopInterfaceRequest_unlocks hvf hidle
  case unsupported => exact fun fn code s hvf => congrArg _ (if_pos hvf)
  case violation => exact fun fn s hvf => congrArg _ (if_pos hvf)
  case unsecured => exact fun fn onStream tBit s hvf hrun hbare => execTdiUnsecuredRequest_drops hvf hrun hbare

section TwinLink

variable {s : State} {seq ack c : Nat}

/- Training and flits (R418 to R422). -/

theorem execTwinTrain_trains {pm inv : Nat} {failed : List Nat} (rev : Bool) (hpm : pm < 256) (hinv : inv < 256)
    (hfailed : (failed.all fun l => decide (l < 8)) = true) (hpow : s.brd.powered = true) (hdown : s.twinState ≠ 2)
    (hclk : bitAt (s.rdN .TIM_CLK_LOCK 0) 16 = true) (hcable : (tabGet s.lnk.cables {} 1).wrong = false) :
    execTwinTrain pm inv rev failed s = .next (s.trainTwin pm inv rev failed) := by
  have hgo : ¬ (!s.brd.powered || decide (s.twinState = 2) || !bitAt (s.rdN .TIM_CLK_LOCK 0) 16 ||
      (tabGet s.lnk.cables {} 1).wrong) = true := by
    simp [hpow, hdown, hclk, hcable]
  rw [execTwinTrain, decide_eq_true ⟨hpm, hinv⟩, hfailed, Bool.and_true, onUnit_true, if_neg hgo]

/-- A flit that reaches a link that is UP over lanes of the link. -/
theorem onUnit_twinFlit {worn : List Nat} (t : State) (hseq : seq < 4096) (hack : ack < 4096)
    (hworn : (worn.all fun l => decide (l < 8)) = true) (hup : s.twinState = 2) :
    onUnit s (decide (seq < 4096 ∧ ack < 4096) && worn.all fun l => decide (l < 8)) (if s.twinState ≠ 2 then s else t) = .next t := by
  rw [decide_eq_true ⟨hseq, hack⟩, hworn, Bool.and_true, onUnit_true, if_neg (not_not_intro hup)]

theorem execTwinFlitReceive_unaligned {worn : List Nat} (sym : Nat) (ackv fec crc : Bool) (hseq : seq < 4096) (hack : ack < 4096)
    (hworn : (worn.all fun l => decide (l < 8)) = true) (hup : s.twinState = 2) :
    execTwinFlitReceive seq ack ackv sym fec crc false worn s = .next s.twinRetrain :=
  onUnit_twinFlit _ hseq hack hworn hup

theorem execTwinFlitReceive_uncorrectable (sym : Nat) (ackv crc : Bool) (hseq : seq < 4096) (hack : ack < 4096) (hup : s.twinState = 2) :
    execTwinFlitReceive seq ack ackv sym false crc true [] s =
    .next (((s.count .TWN_FEC_CORR 0 sym).count .TWN_FEC_UNC 0 1).twinDiscard) :=
  onUnit_twinFlit _ hseq hack rfl hup

theorem execTwinFlitReceive_badCrc (sym : Nat) (ackv : Bool) (hseq : seq < 4096) (hack : ack < 4096) (hup : s.twinState = 2) :
    execTwinFlitReceive seq ack ackv sym true false true [] s =
    .next (((s.count .TWN_FEC_CORR 0 sym).count .TWN_CRC_FAIL 0 1).twinDiscard) :=
  onUnit_twinFlit _ hseq hack rfl hup

theorem execTwinFlitReceive_takes (sym : Nat) (hseq : s.lnk.rxSeq < 4096) (hack : ack < 4096) (hup : s.twinState = 2) :
    execTwinFlitReceive s.lnk.rxSeq ack false sym true true true [] s =
    .next ((s.count .TWN_FEC_CORR 0 sym).twinTake s.lnk.rxSeq) := by
  refine (onUnit_twinFlit _ hseq hack rfl hup).trans ?_
  change Host.Outcome.next (State.wearTwin (if s.lnk.rxSeq = s.lnk.rxSeq then (s.count .TWN_FEC_CORR 0 sym).twinTake s.lnk.rxSeq else _) [])
    = _
  rw [if_pos rfl]
  rfl

/-- A NAK sends again what it does not acknowledge; a flit that was resent 8 times makes the link retrain (R421, R422). -/
theorem execTwinNak_resends (hack : ack < 4096) (hup : s.twinState = 2) :
    let t := (s.twinAck ack).twinResend
    execTwinNak ack s = .next (if t.lnk.unacked.any (fun f => decide (8 ≤ f.resent)) then t.twinRetrain else t) := by
  rw [execTwinNak, onUnit_holds _ hack, if_neg (not_not_intro hup)]

/- Heartbeats (R426, R582). -/

/-- The body of a HEARTBEAT holds a free value as its health flags (R426). -/
theorem execHeartbeatSend_sends (hpow : s.brd.powered = true) : execHeartbeatSend s =
    .next ({ s.free.2 with lnk := { s.free.2.lnk with hbSent := s.free.2.lnk.hbSent + 1 } }.twinMsg 0 0 32
      (s.heartbeatBody s.free.1.toNat)) :=
  congrArg _ (if_neg (not_eq_true_of hpow))

/-- A heartbeat of a partner that was not silent, at a module that claims the line, is only noted (R426). -/
theorem execHeartbeat_notes {time count mode role health lockMv lanes : Nat} (hup : s.twinState = 2)
    (hheard : s.rdF .TWN_STATUS 0 4 1 = 0) (hclaim : s.pair.claiming.isSome = true) :
    let p : Peer := { time := time, count := count, mode := mode, role := role, health := health, lockMv := lockMv, lanes := lanes }
    execHeartbeat time count mode role health lockMv lanes s = .next { s with lnk := { s.lnk with peer := p } } := by
  intro p
  have hquiet : ({ s with lnk := { s.lnk with peer := p } } : State).endSilence = { s with lnk := { s.lnk with peer := p } } :=
    if_pos hheard
  rw [execHeartbeat, if_neg (not_not_intro hup)]
  dsimp only
  rw [hquiet, hclaim, Bool.not_true, Bool.and_false]
  rfl

theorem execPeerSilentLong_unsyncs (hsilent : s.rdF .TWN_STATUS 0 4 1 = 1) (hmirror : s.pair.mirrored = true) :
    execPeerSilentLong s = .next s.unsyncAll.flushHeld := by
  rw [execPeerSilentLong, hsilent, hmirror]
  rfl

/- Cables (R432, R433). -/

theorem execCablePoll_answered {hot : Nat} (eyes : List Nat) (hc : c < 2) (hpresent : (s.cable c).present = true) (hhot : hot ≤ 110) :
    execCablePoll c true hot eyes s =
    .next ((s.setCable c { s.cable c with misses := 0, hot := hot, eye := eyes.foldl min (eyes.headD 0) }).eyeWear c
      ((List.range eyes.length).filter fun l => decide (eyes[l]?.getD 0 < 10))) := by
  rw [execCablePoll, onUnit_holds _ hc]
  simp only [hpresent, if_neg (Nat.not_lt.mpr hhot)]
  rfl

theorem execCablePoll_missed (hot : Nat) (eyes : List Nat) (hc : c < 2) (hpresent : (s.cable c).present = true)
    (hfew : (s.cable c).misses < 2) :
    execCablePoll c false hot eyes s = .next (s.setCable c { s.cable c with misses := (s.cable c).misses + 1 }) := by
  rw [execCablePoll, onUnit_holds _ hc]
  simp only [hpresent, if_neg (Nat.not_le.mpr hfew)]
  rfl

end TwinLink

/-- Settles O44: each command by its lemma; the attachment of a cable has no condition but its operands. -/
theorem twinLinkCommands : Obligations.TwinLinkCommands := by
  refine ⟨?train, ?retry, ?takes, ?uncorrectable, ?badCrc, ?unaligned, ?nak, ?send, ?heartbeat, ?silent, ?silentLong, ?attach, ?hotJoin,
    ?answered, ?missed⟩
  case train =>
    exact fun pm inv rev failed s hpm hinv hfailed hpow hdown hclk hcable =>
      execTwinTrain_trains rev hpm hinv hfailed hpow hdown hclk hcable
  case retry => exact fun s hpow hdown => congrArg _ (if_pos (by rw [hpow, hdown]; rfl))
  case takes => exact fun ack sym s hseq hack hup => ⟨execTwinFlitReceive_takes sym hseq hack hup, rfl⟩
  case uncorrectable => exact fun seq ack sym ackv crc s hseq hack hup => execTwinFlitReceive_uncorrectable sym ackv crc hseq hack hup
  case badCrc => exact fun seq ack sym ackv s hseq hack hup => execTwinFlitReceive_badCrc sym ackv hseq hack hup
  case unaligned =>
    exact fun seq ack sym ackv fec crc worn s hseq hack hworn hup =>
      execTwinFlitReceive_unaligned sym ackv fec crc hseq hack hworn hup
  case nak => exact fun ack s hack hup => execTwinNak_resends hack hup
  case send => exact fun s hpow => execHeartbeatSend_sends hpow
  case heartbeat =>
    exact fun time count mode role health lockMv lanes s hup hheard hclaim => execHeartbeat_notes hup hheard hclaim
  case silent => exact fun s hheard => congrArg _ (if_neg hheard)
  case silentLong => exact fun s hsilent hmirror => execPeerSilentLong_unsyncs hsilent hmirror
  case attach => exact fun c retimers typeOk s hc hretimers => onUnit_holds _ ⟨hc, hretimers⟩
  case hotJoin => exact fun c target s hc htarget => congrArg _ (if_pos (by rw [decide_eq_true hc, htarget]; rfl))
  case answered => exact fun c hot eyes s hc hpresent hhot => execCablePoll_answered eyes hc hpresent hhot
  case missed => exact fun c hot eyes s hc hpresent hfew => execCablePoll_missed hot eyes hc hpresent hfew

section ServicePort

variable {s : State}

/- Frames (R361, R414, R416). -/

/-- A POST frame of another length than 64 words, or for an owned mailbox, is discarded; any other writes the mailbox (R361, R414). -/
theorem execUsbPost_attached {m : Nat} (ws : List Nat) (hm : m < 16) (hon : s.mbx.usbAttached = true) : execUsbPost m ws s =
    .next (if decide (ws.length ≠ 64) || s.owned 17 m then s.usbDiscard
      else (s.setMbxWs 17 m 0 (ws.take 63)).usbHeader m (ws[63]?.getD 0)) := by
  rw [execUsbPost, onUnit_holds _ hm, if_neg (not_eq_true_of hon)]

theorem execUsbStageWrite_stores {off : Nat} {data : List Byte} (hon : s.mbx.usbAttached = true)
    (hfits : off + data.length ≤ stagingBytes) :
    execUsbStageWrite off data s = .next { s with mbx := { s.mbx with staging := memWrite s.mbx.staging off data } } := by
  rw [execUsbStageWrite, if_neg (not_eq_true_of hon), if_neg (Nat.not_lt.mpr hfits)]

theorem execUsbStageRead_answers {off len : Nat} (hon : s.mbx.usbAttached = true) (hlen : len ≤ 0x10_0000)
    (hfits : off + len ≤ stagingBytes) : execUsbStageRead off len s =
    .next { s with mbx := { s.mbx with usbOut := s.mbx.usbOut ++ [.stage off (memRead s.mbx.staging off len)] } } := by
  have hgood : ¬ (0x10_0000 < len ∨ stagingBytes < off + len) := by omega
  rw [execUsbStageRead, if_neg (not_eq_true_of hon), if_neg hgood]

theorem execUsbInTransfer_takes (hnone : s.mbx.usbDropped = 0) :
    execUsbInTransfer s = .next { s with mbx := { s.mbx with usbOut := s.mbx.usbOut.drop 1 } } := by
  rw [execUsbInTransfer]
  simp only [hnone]
  rfl

/-- The staging area of a sound state is in canonical form. -/
theorem State.Inv.staging (h : s.Inv) : s.mbx.staging.wf = true := by
  have hmem := h.mem
  rw [State.memOk, Bool.and_eq_true] at hmem
  exact hmem.2

/- Signals of the board (R634 to R636, R640). -/

/-- Every signal but PULL_WARN_N, ALERT_N and PAIR_LOCK takes the code of its monitor (R635). -/
theorem execSignalLineMonitor_sets {n code : Nat} (hcode : (signalCodes n).contains code = true) (h2 : n ≠ 2) (h3 : n ≠ 3)
    (h4 : n ≠ 4) : execSignalLineMonitor n code s = .next (s.setSignal n code) := by
  unfold execSignalLineMonitor
  rw [hcode, onUnit_true]
  split
  · exact absurd rfl h2
  · exact absurd rfl h3
  · exact absurd rfl h4
  · rfl

/-- PAIR_LOCK takes its codes as line faults (R595, R635). -/
theorem execSignalLineMonitor_lineFault {code : Nat} (h : code = 1 ∨ code = 2 ∨ code = 3) : execSignalLineMonitor 4 code s =
    .next (s.lineFault (if code = 1 then 4 else if code = 2 then 5 else 7) code) := by
  obtain rfl | rfl | rfl := h <;> rfl

theorem execPullWarnArm_arms (hpow : s.brd.powered = true) (hheeded : s.brd.pullIgnored = false) :
    execPullWarnArm s = .next { s with brd := { s.brd with armed := true } } := by
  rw [execPullWarnArm, hpow, hheeded]
  rfl

/-- A line that did not arm while the input was good reads OPEN (R636). -/
theorem execPullWarnOpen_ignores (hpow : s.brd.powered = true) (hunarmed : s.brd.armed = false) (hheeded : s.brd.pullIgnored = false)
    (hlo : 44000 ≤ s.pwr.mv) (hhi : s.pwr.mv ≤ 58000) :
    execPullWarnOpen s = .next ({ s with brd := { s.brd with pullIgnored := true } }.setSignal 2 3) := by
  have hgood : ¬ (s.pwr.mv < 44000 ∨ 58000 < s.pwr.mv) := by omega
  rw [execPullWarnOpen, hpow, hunarmed, hheeded, decide_eq_false hgood]
  rfl

theorem execHoldupBankCheck_low {p : Nat} (hp : p < 80) (hfirst : s.brd.holdupLow = false) : execHoldupBankCheck p s =
    .next ({ s with brd := { s.brd with holdupLow := true } }.log 4 0x11 0 0 0x62 0x1F 0 0 0 0) := by
  rw [execHoldupBankCheck]
  simp only [decide_eq_true hp, hfirst]
  rfl

theorem execHoldupBankCheck_good {p : Nat} (hp : 80 ≤ p) :
    execHoldupBankCheck p s = .next { s with brd := { s.brd with holdupLow := false } } := by
  rw [execHoldupBankCheck]
  simp only [decide_eq_false (Nat.not_lt.mpr hp)]
  rfl

theorem execSidebandAddressAssign_stores {a : Nat} {setdasa : Bool} (ha : a < 128) (hstatic : (setdasa && s.brd.assigned) = false) :
    execSidebandAddressAssign a setdasa s = .next { s with brd := { s.brd with addr := a, assigned := true } } := by
  rw [execSidebandAddressAssign, onUnit_holds _ ha, if_neg (Bool.eq_false_iff.mp hstatic)]

end ServicePort

/-- Settles O12: the frame is stored in the staging area, which a sound state holds in canonical form. -/
theorem stagingAreaFrame : Obligations.StagingAreaFrame := by
  intro off data s hinv hon hfits
  refine ⟨_, execUsbStageWrite_stores hon hfits, rfl, ?inside, ?outside⟩
  case inside => exact memRead_memWrite_self _ off data hinv.staging
  case outside => exact fun a ha => memGet_memWrite_other _ off a data ha

/-- Settles O45: each command by its lemma; what has at most one condition is its own definition. -/
theorem usbAndBoardCommands : Obligations.UsbAndBoardCommands := by
  refine ⟨?attach, fun s => rfl, ?post, ?badPost, ?stageWrite, ?stageRead, ?badFrame, ?inTransfer, ?signal, ?lineFault, fun s => rfl,
    ?arm, ?openLine, ?reverse, ?holdupLow, ?holdupGood, ?address⟩
  case attach => exact fun s hpow => congrArg _ (if_pos hpow)
  case post =>
    intro m ws s hm hon hlen hfree
    have htakes : ¬ (decide (ws.length ≠ 64) || s.owned 17 m) = true := by simp [hlen, hfree]
    exact (execUsbPost_attached ws hm hon).trans (congrArg _ (if_neg htakes))
  case badPost =>
    intro m ws s hm hon hlen
    have hbad : (decide (ws.length ≠ 64) || s.owned 17 m) = true := by simp [hlen]
    exact (execUsbPost_attached ws hm hon).trans (congrArg _ (if_pos hbad))
  case stageWrite => exact fun off data s hon hfits => execUsbStageWrite_stores hon hfits
  case stageRead => exact fun off len s hon hlen hfits => execUsbStageRead_answers hon hlen hfits
  case badFrame => exact fun s hon => congrArg _ (if_pos hon)
  case inTransfer => exact fun s hnone => execUsbInTransfer_takes hnone
  case signal => exact fun n code s hcode h2 h3 h4 => execSignalLineMonitor_sets hcode h2 h3 h4
  case lineFault => exact fun code s hcode => execSignalLineMonitor_lineFault hcode
  case arm => exact fun s hpow hheeded => execPullWarnArm_arms hpow hheeded
  case openLine => exact fun s hpow hunarmed hheeded hlo hhi => execPullWarnOpen_ignores hpow hunarmed hheeded hlo hhi
  case reverse => exact fun s hoff => congrArg _ (if_neg (Bool.eq_false_iff.mp hoff))
  case holdupLow => exact fun p s hp hfirst => execHoldupBankCheck_low hp hfirst
  case holdupGood => exact fun p s hp => execHoldupBankCheck_good hp
  case address => exact fun a setdasa s ha hstatic => execSidebandAddressAssign_stores ha hstatic

end Sys2Proof.Machine

/-! SUPPORT. The statements of 12 (security): reading certificates into host memory, and the SPDM responder. -/

namespace Sys2Proof.Machine

open Sys2Proof

section Certificates

variable {s : State} {fn mbx addr : Nat} {cert l : List Byte}

/-- The host memory that a sound state holds is in canonical form. -/
theorem State.Inv.host (h : s.Inv) : s.host.wf = true := by
  have hmem := h.mem
  rw [State.memOk, Bool.and_eq_true, Bool.and_eq_true] at hmem
  exact hmem.1.2

/-- A function on the host link has its bulk results written to host memory, unless its command was forwarded (R363, R597). -/
theorem State.bulkPut_host (hfn : fn ≤ 16) (hown : s.owned fn 16 = false) (hok : s.hostOk fn = true) :
    s.bulkPut fn addr l = some (s.hostPut fn addr l) := by
  rw [State.bulkPut, if_neg (by omega), if_neg (Bool.eq_false_iff.mp hown), if_pos hok]

/-- Host memory reads back what a function on the host link had written to it. -/
theorem State.memRead_hostPut_self (hinv : s.Inv) (hfn : fn ≤ 16) :
    memRead (s.hostPut fn addr l).host (hostKey fn addr) l.length = l := by
  rw [State.hostPut, if_neg (by omega)]
  exact memRead_memWrite_self _ _ l hinv.host

/-- A chain index above 4 or a buffer that is too short is refused (R444). -/
theorem execSecCertGet_refuses (hp : s.posted fn mbx 0x701 = true) (hbad : 4 < s.arg fn mbx 0 ∨ s.arg fn mbx 3 < cert.length) :
    execSecCertGet fn mbx cert s = .next (s.respond fn mbx rLimit []) := by
  rw [execSecCertGet, State.cmd_posted _ hp, if_pos hbad]

theorem State.respond_host (s : State) (fn mbx result : Nat) (ws : List Nat) : (s.respond fn mbx result ws).host = s.host := by
  rw [respond_sameButMail s fn mbx result ws]

end Certificates

/-- Settles O17: the bulk result is one write of canonical host memory, and a response writes none. -/
theorem certificateReads : Obligations.CertificateReads := by
  refine ⟨?whole, ?refused⟩
  case whole =>
    intro fn mbx cert s hinv hfn hp hok hown hindex hfits
    have hput : s.bulkPut fn (s.arg64 fn mbx 1) cert = some (s.hostPut fn (s.arg64 fn mbx 1) cert) := State.bulkPut_host hfn hown hok
    exact ⟨execSecCertGet_writes hp hindex hfits hput, State.memRead_hostPut_self hinv hfn⟩
  case refused =>
    exact fun fn mbx cert s hp hbad => ⟨execSecCertGet_refuses hp hbad, State.respond_host s fn mbx rLimit []⟩

section Responder

variable {s t : State} {doe : Bool} {r : SpdmReq} {id : Nat} {x : Session}

/- When a request is answered (R451, R459). -/

/-- Only a request that the attestation key answers can lack it (R438). -/
theorem State.aliasLacks_eq_false (hkey : r.needsAlias = true → s.sec.aliasReady = true) : s.aliasLacks r = false := by
  cases hneeds : r.needsAlias with
  | false => unfold State.aliasLacks; rw [hneeds]; rfl
  | true => unfold State.aliasLacks; rw [hneeds, hkey hneeds]; rfl

theorem State.spdmUp_powered (hup : s.spdmUp = true) : s.brd.powered = true :=
  (Bool.and_eq_true_iff.mp hup).1

/-- A module past READY answers a request at once, unless it waits for the attestation key or for a handover window to end (R451, R459). -/
theorem State.takeSpdm_answers (hup : s.spdmUp = true) (hkey : r.needsAlias = true → s.sec.aliasReady = true ∧ s.upd.stage ≠ .window)
    (hnew : ∀ code, r ≠ .respondIfReady code) : s.takeSpdm doe r = s.respondNow doe r := by
  have hready : ¬ (!s.spdmUp || s.aliasLacks r) = true := by
    rw [hup, State.aliasLacks_eq_false fun h => (hkey h).1]
    exact Bool.false_ne_true
  have hnow : ¬ (s.upd.stage == .window && r.needsAlias) = true := by
    rw [Bool.and_eq_true, beq_iff_eq]
    exact fun h => (hkey h.2).2 h.1
  refine (if_neg (not_eq_true_of (State.spdmUp_powered hup))).trans ((if_neg hready).trans ?_)
  cases r with
  | respondIfReady code => exact absurd rfl (hnew code)
  | _ => exact if_neg hnow

/-- Outside a handover window RESPOND_IF_READY has the oldest deferred request of its code answered (R459). -/
theorem State.takeSpdm_respondIfReady {code : Nat} {e : Bool × SpdmReq} (hup : s.spdmUp = true) (hopen : s.upd.stage ≠ .window)
    (hheld : s.sec.deferred.find? (fun e => e.1 == doe && e.2.code == code) = some e) :
    s.takeSpdm doe (.respondIfReady code) =
    ({ s with sec := { s.sec with deferred := s.sec.deferred.erase e } } : State).respondNow doe e.2 := by
  have hready : ¬ (!s.spdmUp || s.aliasLacks (.respondIfReady code)) = true := by
    rw [hup, State.aliasLacks_eq_false (r := .respondIfReady code) nofun]
    exact Bool.false_ne_true
  have hshut : ¬ (s.upd.stage == .window) = true := by rwa [beq_iff_eq]
  refine (if_neg (not_eq_true_of (State.spdmUp_powered hup))).trans ((if_neg hready).trans ?_)
  simp only [State.respondDeferred, hheld]
  exact if_neg hshut

/-- A powered module that is not past READY keeps a DOE request waiting (R451). -/
theorem State.takeSpdm_waits (hpow : s.brd.powered = true) (hdown : s.spdmUp = false) :
    s.takeSpdm true r = s.spdmWait true r := by
  have hearly : (!s.spdmUp || s.aliasLacks r) = true := by
    rw [hdown]
    rfl
  exact (if_neg (not_eq_true_of hpow)).trans (if_pos hearly)

/-- An arriving request that is answered at once gets the answer of a module that has given no other (R451). -/
theorem State.spdm_answers (hup : s.spdmUp = true) (hkey : r.needsAlias = true → s.sec.aliasReady = true ∧ s.upd.stage ≠ .window)
    (hnew : ∀ code, r ≠ .respondIfReady code) (ht : ({ s with sec := { s.sec with resp := [] } } : State).respondNow doe r = t) :
    (.next (s.spdm doe r) : Out) = .next t :=
  congrArg _ ((State.takeSpdm_answers (s := { s with sec := { s.sec with resp := [] } }) hup hkey hnew).trans ht)

/- What a request is answered (R438, R443, R452 to R455). -/

/-- A module that is not in RMA sends a part of slot 0's chain that needs no chunks (R443). -/
theorem State.certPart_answers {off len : Nat} (hid : s.rma = false) (hlen : len ≤ 4096) :
    s.certPart doe 0 off len = s.answer doe (.certificate s.sec.aliasGen s.sec.aliasExt off len) := by
  rw [State.certPart, if_neg (Bool.eq_false_iff.mp hid), if_neg (not_not_intro rfl), if_neg (Nat.not_lt.mpr hlen)]

theorem State.respondNow_challenge (hid : s.rma = false) :
    s.respondNow doe (.challenge 0) = s.answer doe (.challengeAuth s.sec.aliasGen) :=
  (if_neg (Bool.eq_false_iff.mp hid)).trans (if_neg (not_not_intro rfl))

theorem State.respondNow_measurements {index : Nat} {l : List (Nat × List Byte)} (hread : s.measureBlocks index = some l) :
    s.respondNow doe (.measurements index) = s.answer doe (.measurements l s.sec.aliasGen) := by
  simp only [State.respondNow, hread]

/-- A healthy TRNG and a free session let a key exchange open a session (R454, R468). -/
theorem State.respondNow_keyExchange (htrng : s.sec.trngFailed = false) (hroom : s.sec.sessions.length < 4) :
    s.respondNow doe .keyExchange =
    ({ s with sec := { s.sec with nextSession := s.sec.nextSession + 1
                                  sessions := s.sec.sessions ++ [{ id := s.sec.nextSession, doe := doe }] } } : State).answer doe
      (.keyExchange s.sec.nextSession 60 s.sec.aliasGen) :=
  (if_neg (Bool.eq_false_iff.mp htrng)).trans (if_neg (Nat.not_le.mpr hroom))

/-- A finish that verifies completes the handshake of its session (R452). -/
theorem State.finishSession_completes (hx : s.session doe id = some x) (hopen : x.done = false) :
    s.finishSession doe id true = (s.updSession id fun y => { y with done := true }).answer doe (.finished id) := by
  simp only [State.finishSession, hx]
  exact if_neg (Bool.eq_false_iff.mp hopen)

theorem State.inSession_established (f : State → State) (hx : s.session doe id = some x) (hdone : x.done = true) :
    s.inSession doe id f = f s := by
  simp only [State.inSession, hx]
  exact if_pos hdone

theorem State.respondNow_heartbeat (hx : s.session doe id = some x) (hdone : x.done = true) :
    s.respondNow doe (.heartbeat id) = s.answer doe .heartbeatAck := by
  rw [State.respondNow, State.inSession_established _ hx hdone]

theorem State.respondNow_keyUpdate (hx : s.session doe id = some x) (hdone : x.done = true) :
    s.respondNow doe (.keyUpdate id) = (s.updSession id fun y => { y with keyGen := y.keyGen + 1 }).answer doe .keyUpdateAck := by
  rw [State.respondNow, State.inSession_established _ hx hdone]

theorem State.respondNow_endSession (hx : s.session doe id = some x) (hdone : x.done = true) :
    s.respondNow doe (.endSession id) = (s.dropSession id).answer doe .endSessionAck := by
  rw [State.respondNow, State.inSession_established _ hx hdone]

/-- The chunk that is due is taken, and the last one starts the count again (R452). -/
theorem State.chunkIn_due {seq : Nat} {last : Bool} (hdue : seq = tabGet s.sec.chunkIn 0 (b2n doe)) :
    s.chunkIn doe seq last =
    ({ s with sec := { s.sec with chunkIn := tabSet s.sec.chunkIn (b2n doe) (if last then 0 else seq + 1) } } : State).answer doe
      (.chunkAck seq) :=
  if_neg (not_not_intro hdue)

/-- A chunk before the last leaves the large answer waiting (R452). -/
theorem State.chunkOut_middle {slot off len seq : Nat} (hlarge : tabFind s.sec.large (b2n doe) = some (.certificate slot off len))
    (hmore : seq + 1 < ceilDiv len 4096) :
    s.chunkOut doe seq = s.answer doe (.chunk seq (.certificate slot off len)) := by
  have hin : ¬ ceilDiv len 4096 ≤ seq := by omega
  simp only [State.chunkOut, hlarge]
  rw [if_neg hin, if_neg (Nat.ne_of_lt hmore)]

/-- IDE_KM and TDISP are the vendor protocols that DOE carries (R452). -/
theorem State.respondNow_vendor {proto : Nat} (hproto : proto < 2) :
    s.respondNow true (.vendor proto) = s.answer true (.vendor proto) :=
  if_pos (decide_eq_true hproto)

end Responder

/-- Settles O48: whether the module answers the request, then what its answer is. -/
theorem spdmRequests : Obligations.SpdmRequests := by
  refine ⟨?version, ?capabilities, ?algorithms, ?digests, ?certificate, ?challenge, ?measurements, ?keyExchange, ?finish, ?heartbeat,
    ?keyUpdate, ?endSession, ?chunkSend, ?chunkGet, ?respondIfReady, ?vendor, ?unsupported, fun id s => rfl, ?waits⟩
  case version => exact fun doe s hup => State.spdm_answers hup nofun nofun rfl
  case capabilities => exact fun doe s hup => State.spdm_answers hup nofun nofun rfl
  case algorithms => exact fun doe s hup => State.spdm_answers hup nofun nofun rfl
  case digests => exact fun doe s hup hkey hopen => State.spdm_answers hup (fun _ => ⟨hkey, hopen⟩) nofun rfl
  case certificate =>
    exact fun doe off len s hup hkey hopen hid hlen =>
      State.spdm_answers hup (fun _ => ⟨hkey, hopen⟩) nofun (State.certPart_answers hid hlen)
  case challenge =>
    exact fun doe s hup hkey hopen hid =>
      State.spdm_answers hup (fun _ => ⟨hkey, hopen⟩) nofun (State.respondNow_challenge hid)
  case measurements =>
    exact fun doe index l s hup hkey hopen hread =>
      State.spdm_answers hup (fun _ => ⟨hkey, hopen⟩) nofun (State.respondNow_measurements hread)
  case keyExchange =>
    exact fun doe s hup hkey hopen htrng hroom =>
      State.spdm_answers hup (fun _ => ⟨hkey, hopen⟩) nofun (State.respondNow_keyExchange htrng hroom)
  case finish => exact fun doe id x s hup hx hopen => State.spdm_answers hup nofun nofun (State.finishSession_completes hx hopen)
  case heartbeat => exact fun doe id x s hup hx hdone => State.spdm_answers hup nofun nofun (State.respondNow_heartbeat hx hdone)
  case keyUpdate => exact fun doe id x s hup hx hdone => State.spdm_answers hup nofun nofun (State.respondNow_keyUpdate hx hdone)
  case endSession => exact fun doe id x s hup hx hdone => State.spdm_answers hup nofun nofun (State.respondNow_endSession hx hdone)
  case chunkSend => exact fun doe last s hup => State.spdm_answers hup nofun nofun (State.chunkIn_due rfl)
  case chunkGet =>
    exact fun doe slot off len seq s hup hlarge hmore => State.spdm_answers hup nofun nofun (State.chunkOut_middle hlarge hmore)
  case respondIfReady =>
    exact fun doe code e s hup hopen hheld =>
      congrArg _ (State.takeSpdm_respondIfReady (s := { s with sec := { s.sec with resp := [] } }) hup hopen hheld)
  case vendor => exact fun proto s hup hproto => State.spdm_answers hup nofun nofun (State.respondNow_vendor hproto)
  case unsupported => exact fun doe code s hup => State.spdm_answers hup nofun nofun rfl
  case waits => exact fun s hpow hdown => congrArg _ (State.takeSpdm_waits (s := { s with sec := { s.sec with resp := [] } }) hpow hdown)

end Sys2Proof.Machine

/-! SUPPORT. The statements of 13 (firmware update): the bitmap of the received blocks, and the commands that receive, commit, activate,
confirm and roll back an image. -/

namespace Sys2Proof.Machine

open Sys2Proof

section ReceivedBlocks

/-- Bit b of little-endian bytes is bit b mod 8 of byte b div 8 (R12). -/
theorem natLe_bit {n b : Nat} (v : Nat) (hb : b < 8 * n) : ((natLe v n).getD (b / 8) 0).getLsbD (b % 8) = v.testBit b := by
  have hpow : 256 ^ (b / 8) = 2 ^ (8 * (b / 8)) := by rw [Nat.pow_mul]
  rw [natLe_get n v (b / 8) (by omega), BitVec.getLsbD_ofNat, decide_eq_true (Nat.mod_lt b (by decide)), Bool.true_and, hpow,
    Nat.testBit_div_two_pow, Nat.add_comm, Nat.div_add_mod]

/-- Bytes with the bits of a number are that number's little-endian bytes. -/
theorem eq_natLe_of_bits {l : List Byte} {n v : Nat} (hlen : l.length = n)
    (hbits : ∀ b, b < 8 * n → (l.getD (b / 8) 0).getLsbD (b % 8) = v.testBit b) : l = natLe v n := by
  refine List.ext_getElem (by rw [hlen, natLe_len]) fun k hk hk' => BitVec.eq_of_getLsbD_eq fun i hi => ?_
  have hbit : (l.getD k 0).getLsbD i = ((natLe v n).getD k 0).getLsbD i := by
    have hb : 8 * k + i < 8 * n := by omega
    have hbyte : (8 * k + i) / 8 = k := by omega
    have hpos : (8 * k + i) % 8 = i := by omega
    have hsame := (hbits _ hb).trans (natLe_bit v hb).symm
    rwa [hbyte, hpos] at hsame
  rwa [List.getD_eq_getElem _ _ hk, List.getD_eq_getElem _ _ hk'] at hbit

variable {s t : State} {fn mbx : Nat}

/-- The bitmap is written where the host link takes it, and the version is that of the target slot unless the update is IDLE (R477). -/
theorem execUpdateStatus_answers (hp : s.posted fn mbx 0x805 = true)
    (hput : s.bulkPut fn (s.arg64 fn mbx 0) (natLe (maskOf s.upd.blocks) 96) = some t) : execUpdateStatus fn mbx s =
    .next (t.respond fn mbx rOk [s.upd.st.code, s.upd.blocks.length, if s.upd.st == .idle then 0 else (s.fwSlot s.target).ver]) := by
  rw [execUpdateStatus, State.cmd_posted _ hp]
  simp only [hput]

end ReceivedBlocks

/-- Settles O18: the 96 bytes are the mask of the received blocks, whose bits are those blocks. -/
theorem updateStatusBitmap : Obligations.UpdateStatusBitmap := by
  intro fn mbx l s hfn hp hok hown hlen hbits
  have hmap : l = natLe (maskOf s.upd.blocks) 96 :=
    eq_natLe_of_bits hlen fun b hb => (hbits b hb).trans (maskOf_testBit s.upd.blocks b).symm
  subst hmap
  have hanswer := execUpdateStatus_answers hp (State.bulkPut_host hfn hown hok)
  simp only [beq_iff_eq] at hanswer
  exact hanswer

section UpdateCommands

/-- A guard that stops a command in every other stage lets it pass in this one. -/
theorem not_stage_bne_of_eq {a b : ActStage} (h : a = b) : ¬ (a != b) = true :=
  fun hne => bne_iff_ne.mp hne h

variable {s : State} {fn mbx : Nat}

/- Receiving (R475 to R478). -/

/-- No check of R475 refuses a header. -/
theorem State.beginCode_ok {l : List Byte} {len : Nat} (hhdr : s.hdrOk l len = true) (hkey : s.revoked (slotOf l).keyIdx = false)
    (hsvn : s.svnCounter ≤ (slotOf l).svn) : s.beginCode l len true true = rOk := by
  simp only [State.beginCode, hhdr, hkey, if_neg (Nat.not_lt.mpr hsvn)]
  rfl

/-- A header that every check passes begins an update of the slot that does not run (R475). -/
theorem execUpdateBegin_receives {l : List Byte} (hp : s.posted fn mbx 0x800 = true) (hbuf : s.arg fn mbx 3 = 12288)
    (hidle : s.upd.st = .idle) (hrun : (s.sec.recovery || s.upd.confirmed) = true) (hfree : s.updBlocked = none)
    (hcode : s.beginCode l (s.arg fn mbx 0) true true = rOk) :
    let t := (s.setSlot s.target (slotOf l)).setUpd .receiving
    execUpdateBegin fn mbx (some l) true true s =
    .next ({ t with upd := { t.upd with blocks := [] } }.respond fn mbx rOk [s.target, blockCount (s.arg fn mbx 0)]) := by
  have hready : (s.upd.st != .idle || (!s.sec.recovery && !s.upd.confirmed)) = false := by
    rw [hidle, ← Bool.not_or, hrun]
    rfl
  rw [execUpdateBegin, State.cmd_posted _ hp]
  simp only [if_neg (not_not_intro hbuf), hready, hfree, if_neg (not_not_intro hcode)]
  rfl

/-- A block whose tag passes is written into the target slot and counted once; another is refused (R476). -/
theorem execUpdateBlock_fetched (d : List Byte) (tagOk : Bool) (hp : s.posted fn mbx 0x801 = true) (hst : s.notIn .receiving = none)
    (hblock : blockOk (s.arg fn mbx 0) (s.arg fn mbx 1) (s.fwSlot s.target).len = true) :
    let b := s.arg fn mbx 0 / 65536
    let l := if s.upd.blocks.contains b then s.upd.blocks else b :: s.upd.blocks
    let t := s.setSlot s.target ((s.fwSlot s.target).putBlock b ((List.range 4).map fun k => s.arg fn mbx (2 + k)) d)
    execUpdateBlock fn mbx (some d) tagOk s =
    .next (if !tagOk then s.respond fn mbx rBlockTag []
      else { t with upd := { t.upd with blocks := l } }.respond fn mbx rOk [l.length]) := by
  rw [execUpdateBlock, State.cmd_posted _ hp]
  simp only [hst, if_neg (not_eq_true_of hblock)]

/-- An update that no commit or activation holds is given up (R478). -/
theorem execUpdateAbort_idles (hp : s.posted fn mbx 0x804 = true) (hst : s.upd.st = .receiving ∨ s.upd.st = .committed) :
    let t := (s.setSlot s.target {}).setUpd .idle
    let t := { t with upd := { t.upd with blocks := [] }, sec := { t.sec with staged := false } }
    execUpdateAbort fn mbx s = .next (t.respond fn mbx rOk []) := by
  rw [execUpdateAbort, State.cmd_posted _ hp]
  obtain h | h := hst
  · simp only [h]
    rfl
  · simp only [h]
    rfl

/- Commit (R482). -/

/-- A commit of an image that the anti-rollback counter admits runs until it completes (R449, R482). -/
theorem execUpdateCommit_accepts (hp : s.posted fn mbx 0x802 = true) (hst : s.notIn .receiving = none)
    (hsvn : s.svnCounter ≤ (s.fwSlot s.target).svn) :
    let t := (s.accept fn mbx).setUpd .committing
    execUpdateCommit fn mbx s = .next { t with upd := { t.upd with owner := some (fn, mbx) } } := by
  rw [execUpdateCommit, State.cmd_posted _ hp]
  simp only [hst, if_neg (Nat.not_lt.mpr hsvn)]

/-- A commit that nothing holds up ends as its tags and its component rules say (R482). -/
theorem execCommitComplete_verified (tagsOk rulesOk : Bool) (digests : List Nat) (hst : s.upd.st = .committing)
    (htrng : s.sec.trngFailed = false) (hfree : s.updBlocked = none) (hall : s.complete = true) :
    execCommitComplete tagsOk rulesOk digests s =
    .next (if !tagsOk || !rulesOk then
      ((s.setSlot s.target { s.fwSlot s.target with st := 5 }).setUpd .idle).endOwner 0x802 rVerifyFail
    else s.committed digests) := by
  have hruns : ¬ (s.upd.st != .committing || s.sec.trngFailed) = true := by
    rw [hst, htrng]
    exact Bool.false_ne_true
  rw [execCommitComplete, if_neg hruns]
  simp only [hfree, if_neg (not_eq_true_of hall)]

/- Activation (R483 to R486). -/

/-- An image of the running firmware's generation is activated through a handover, which is prepared first (R484, R485). -/
theorem execUpdateActivate_prepares (hp : s.posted fn mbx 0x803 = true) (hst : s.notIn .committed = none)
    (hstill : (s.rdF .TIM_STATUS 0 8 1 = 1 || s.clk.entering || (s.pair.mirrored && s.role == roleActive)) = false)
    (hmajor : fwMajor (s.fwSlot s.target).ver = fwMajor (s.fwSlot s.upd.running).ver) :
    let t := ((s.setSlot s.target { s.fwSlot s.target with st := 3 }).setUpd .activating).accept fn mbx
    execUpdateActivate fn mbx s = .next { t with upd := { t.upd with owner := some (fn, mbx), stage := .preparing } } := by
  rw [execUpdateActivate, State.cmd_posted _ hp]
  simp only [hst, if_neg (Bool.eq_false_iff.mp hstill), if_neg (not_not_intro hmajor)]

theorem execQuiescentPoint_opens (hstage : s.upd.stage = .preparing) (hquiet : s.quiescent = true) :
    execQuiescentPoint s = .next (s.openWindow false) := by
  have hgo : (s.upd.stage == .preparing && s.quiescent) = true := by rw [hstage, hquiet]; rfl
  exact congrArg _ (if_pos hgo)

/-- A handover that finds no quiescent point in time is given up, and the image stays committed (R485). -/
theorem execQuiescentTimeout_returns (hstage : s.upd.stage = .preparing) :
    let t := s.setSlot s.target { s.fwSlot s.target with st := 2 }
    execQuiescentTimeout s =
    .next ({ t with upd := { t.upd with st := .committed, stage := .none } }.endOwner 0x803 rBusy).resumeSteps :=
  congrArg _ (if_neg (not_stage_bne_of_eq hstage))

theorem execHandoverAdoptTimeout_aborts (hstage : s.upd.stage = .window) (hforward : s.upd.reverse = false) :
    execHandoverAdoptTimeout s = .next s.abortWindow := by
  have hgo : (s.upd.stage == .window && !s.upd.reverse) = true := by rw [hstage, hforward]; rfl
  exact congrArg _ (if_pos hgo)

/- Confirmation and rollback (R488, R489). -/

theorem execFwConfirm_confirms (hstage : s.upd.stage = .watching) (halive : s.upd.fatal = false) : execFwConfirm s =
    .next ({ s with upd := { s.upd with
      st := .idle, stage := .none, active := s.upd.running, trial := false, trialBooted := false, confirmed := true
      viaReset := false } }.updEvent 0 rOk) := by
  have hgo : ¬ (s.upd.stage != .watching || s.upd.fatal) = true := by rw [hstage, halive]; exact Bool.false_ne_true
  exact congrArg _ (if_neg hgo)

/-- Firmware that a handover started and that can write its record goes back through a window (R489). -/
theorem execRollbackTimer_reverses (hstage : s.upd.stage = .watching) (hwindow : s.upd.viaReset = false) :
    execRollbackTimer true s = .next (s.openWindow true) := by
  have hback : (!s.upd.viaReset && true) = true := by rw [hwindow]; rfl
  exact congrArg _ ((if_neg (not_stage_bne_of_eq hstage)).trans (if_pos hback))

/-- Firmware that a chip reset started goes back by another, after a dump (R489). -/
theorem execRollbackTimer_resets (recordOk : Bool) (hstage : s.upd.stage = .watching) (hreset : s.upd.viaReset = true)
    (halive : s.upd.fatal = false) :
    let t := s.setSlot s.upd.running { s.fwSlot s.upd.running with st := 5, ok := false }
    let t := { t with upd := { t.upd with st := .idle, stage := .none } }
    execRollbackTimer recordOk s = .next ((t.updEvent 0 rHang).askChipDump 13) := by
  have hcannot : ¬ (!s.upd.viaReset && recordOk) = true := by rw [hreset]; exact Bool.false_ne_true
  rw [execRollbackTimer, if_neg (not_stage_bne_of_eq hstage), if_neg hcannot, halive]
  rfl

/- The anti-rollback counter (R449, R450). -/

/-- The counter burns a step towards the lower SVN of two valid slots while the supply is good (R450). -/
theorem execSvnCounterBurn_steps (hconf : s.upd.confirmed = true) (ha : s.upd.slotA.ok = true) (hb : s.upd.slotB.ok = true)
    (hwarn : s.pwr.warn = false) (hstatus : s.rdF .PWR_STATUS 0 8 1 ≠ 1) (hmv : 48000 ≤ s.pwr.mv)
    (hbelow : s.svnCounter < min s.upd.slotA.svn s.upd.slotB.svn) (hlast : s.svnCounter < 64) :
    execSvnCounterBurn s = .next ((s.wrF .SEC_SVN 0 0 7 (s.svnCounter + 1)).hwSet .SEC_EVT 0 16) := by
  rw [execSvnCounterBurn, hconf, ha, hb, hwarn, decide_eq_false hstatus, decide_eq_false (Nat.not_lt.mpr hmv),
    decide_eq_false (Nat.not_le.mpr hbelow), decide_eq_false (Nat.not_le.mpr hlast)]
  rfl

end UpdateCommands

/-- Settles O49: each command by its lemma; a block is fetched with a good tag or a bad one, and a commit ends verified or refused. -/
theorem firmwareUpdateCommands : Obligations.FirmwareUpdateCommands := by
  refine ⟨?header, ?block, ?badBlock, ?status, ?abort, ?commit, ?committed, ?refused, ?activate, ?quiescent, ?quiescentTimeout,
    ?adoptTimeout, ?confirm, ?rollback, ?rollbackReset, ?burn⟩
  case header =>
    exact fun fn mbx l s hp hbuf hidle hrun hfree hhdr hkey hsvn =>
      execUpdateBegin_receives hp hbuf hidle hrun hfree (State.beginCode_ok hhdr hkey hsvn)
  case block => exact fun fn mbx d s hp hst hblock => execUpdateBlock_fetched d true hp hst hblock
  case badBlock => exact fun fn mbx d s hp hst hblock => execUpdateBlock_fetched d false hp hst hblock
  case status => exact fun fn mbx s t hp hput => execUpdateStatus_answers hp hput
  case abort => exact fun fn mbx s hp hst => execUpdateAbort_idles hp hst
  case commit => exact fun fn mbx s hp hst hsvn => execUpdateCommit_accepts hp hst hsvn
  case committed =>
    exact fun digests s hst htrng hfree hall => execCommitComplete_verified true true digests hst htrng hfree hall
  case refused =>
    exact fun digests rules s hst htrng hfree hall => execCommitComplete_verified false rules digests hst htrng hfree hall
  case activate => exact fun fn mbx s hp hst hstill hmajor => execUpdateActivate_prepares hp hst hstill hmajor
  case quiescent => exact fun s hstage hquiet => execQuiescentPoint_opens hstage hquiet
  case quiescentTimeout => exact fun s hstage => execQuiescentTimeout_returns hstage
  case adoptTimeout => exact fun s hstage hforward => execHandoverAdoptTimeout_aborts hstage hforward
  case confirm => exact fun s hstage halive => execFwConfirm_confirms hstage halive
  case rollback => exact fun s hstage hwindow => execRollbackTimer_reverses hstage hwindow
  case rollbackReset => exact fun ok s hstage hreset halive => execRollbackTimer_resets ok hstage hreset halive
  case burn =>
    exact fun s hconf ha hb hwarn hstatus hmv hbelow hlast =>
      execSvnCounterBurn_steps hconf ha hb hwarn hstatus hmv hbelow hlast

end Sys2Proof.Machine

/-! SUPPORT. The statements of 14 to 17: the actuator, trips and ageing, errors, resets and dumps, the holder of the pair's line, W1C
registers, the idle step, boots, clocks and time sources. -/

namespace Sys2Proof.Machine

open Sys2Proof

/-- A command whose operands pass a check has its effect. -/
theorem onUnit_passes {s : State} {b : Bool} (t : State) (h : b = true) : onUnit s b t = .next t := by
  rw [h, onUnit_true]

/-- A command whose operands lie in their ranges and pass a check has its effect. -/
theorem onUnit_holds_passes {s : State} {p : Prop} [Decidable p] {b : Bool} (t : State) (h : p) (hb : b = true) :
    onUnit s (decide p && b) t = .next t := by
  rw [decide_eq_true h, hb, Bool.and_true, onUnit_true]

section W1cRegisters

variable {s : State} {r c : Reg} {i b : Nat}

/- The registers of R547 and their counters. -/

/-- Every W1C register has an event counter (R547). -/
theorem Reg.counterOf_of_w1c (h : r.info.w1c ≠ 0) : ∃ c, r.counterOf = some c := by
  have hall : (r.info.w1c == 0 || r.counterOf.isSome) = true := by cases r <;> rfl
  rw [beq_eq_false_iff_ne.mpr h, Bool.false_or] at hall
  exact Option.isSome_iff_exists.mp hall

/-- An event counter is a 32-bit register of its own, which starts at 0 (R547). -/
theorem Reg.counterOf_spec (h : r.counterOf = some c) : c ≠ r ∧ c.info.width = 32 ∧ c.resetVal i = 0 := by
  unfold Reg.counterOf at h
  split at h <;> cases h <;> exact ⟨by decide, rfl, rfl⟩

/-- A register has every one of its W1C bits. -/
theorem Reg.fit_w1c (r : Reg) : r.fit r.info.w1c = r.info.w1c := by
  cases r <;> rfl

/-- A write reaches the W1C bits of a register as they are given. -/
theorem Reg.fit_getLsbD_of_w1c (v : Word) (hb : r.info.w1c.getLsbD b = true) : (r.fit v).getLsbD b = v.getLsbD b := by
  have hfit := congrArg (·.getLsbD b) r.fit_w1c
  unfold Reg.fit at hfit ⊢
  split
  · next hw =>
    simp only [if_pos hw, BitVec.getLsbD_and, hb, Bool.true_and] at hfit
    rw [BitVec.getLsbD_and, hfit, Bool.and_true]
  · rfl

/- Reads. -/

/-- In a file whose values fit their registers, a register whose reset value fits reads a value that fits (R15). -/
theorem regGet_fit {f : RegFile} (hreset : r.fit (r.resetVal i) = r.resetVal i)
    (hall : (f.all fun e => e.1.reg.fit e.2 == e.2) = true) : r.fit (regGet f r i) = regGet f r i := by
  induction f with
  | nil => exact hreset
  | cons e t ih =>
    obtain ⟨k, v⟩ := e
    rw [List.all_cons, Bool.and_eq_true, beq_iff_eq] at hall
    obtain ⟨hv, ht⟩ := hall
    by_cases hk : k.reg = r ∧ k.inst = i
    · rw [regGet, if_pos hk, ← hk.1]
      exact hv
    · rw [regGet, if_neg hk]
      exact ih ht

/-- An event counter of a sound state holds 32 bits. -/
theorem State.Inv.fit_counter (hinv : s.Inv) (hc : r.counterOf = some c) : c.fit (s.rd c i) = s.rd c i := by
  obtain ⟨-, hw, hreset⟩ := Reg.counterOf_spec (i := i) hc
  refine regGet_fit ?_ hinv.regs
  rw [hreset, Reg.fit, if_pos hw]
  rfl

/-- A 32-bit register reads back a number that it has room for. -/
theorem State.rdN_wrN_self (s : State) {v : Nat} (hw : r.info.width = 32) (hv : v < 2 ^ 32) : (s.wrN r i v).rdN r i = v := by
  rw [State.wrN, State.rdN, State.rd_wr_self, Reg.fit_w64 hw hv, w64, BitVec.toNat_ofNat]
  exact Nat.mod_eq_of_lt (Nat.lt_trans hv (by decide))

/-- A register reads back a number that it read, where that fits it. -/
theorem State.rdN_wrN_rdN (s t : State) (hfit : r.fit (s.rd r i) = s.rd r i) : (t.wrN r i (s.rdN r i)).rdN r i = s.rdN r i := by
  rw [State.wrN, State.rdN, State.rd_wr_self, w64, State.rdN, BitVec.ofNat_toNat, BitVec.setWidth_eq, hfit]

/- Writes in a cycle in which hardware sets bits. -/

/-- What a W1C register takes from a write of v in a cycle in which hardware sets hw (R547). -/
def State.w1cStatus (s : State) (r : Reg) (i : Nat) (v hw : Word) : Word :=
  (s.rd r i &&& ~~~(s.rd r i &&& v &&& r.info.w1c)) ||| (hw &&& r.info.w1c)

/-- What its event counter c then reads (R547). -/
def State.w1cCount (s : State) (r c : Reg) (i : Nat) (v hw : Word) : Nat :=
  let base := if s.rd r i &&& v &&& r.info.w1c = 0 then s.rdN c i else 0
  if hw &&& r.info.w1c = 0 then base else min (base + 1) 255

theorem State.w1cWrite_eq (s : State) (i : Nat) (v hw : Word) (hc : r.counterOf = some c) :
    s.w1cWrite r i v hw = (s.wr r i (s.w1cStatus r i v hw)).wrN c i (s.w1cCount r c i v hw) := by
  simp only [State.w1cWrite, hc]
  rfl

/-- A W1C bit ends set where hardware sets it, and otherwise keeps its value but where a 1 is written to it (R547). -/
theorem State.w1cStatus_getLsbD (v hw : Word) (hb : r.info.w1c.getLsbD b = true) :
    (s.w1cStatus r i v hw).getLsbD b = (hw.getLsbD b || ((s.rd r i).getLsbD b && !v.getLsbD b)) := by
  have hlt : b < 64 := BitVec.lt_of_getLsbD hb
  simp only [State.w1cStatus, BitVec.getLsbD_or, BitVec.getLsbD_and, BitVec.getLsbD_not, hb, hlt, decide_true, Bool.and_true,
    Bool.true_and]
  cases (s.rd r i).getLsbD b <;> cases hw.getLsbD b <;> simp

/-- Past the counter, a read after a W1C write finds what the register's own write left. -/
theorem State.rd_w1cWrite (v hw : Word) (hc : r.counterOf = some c) {q : Reg} {j : Nat} (hq : ¬(q = c ∧ j = i)) :
    (s.w1cWrite r i v hw).rd q j = (s.wr r i (s.w1cStatus r i v hw)).rd q j := by
  rw [State.w1cWrite_eq s i v hw hc]
  exact State.rd_wr_other _ _ _ _ _ _ hq

/-- A W1C write leaves the counter's own value or a number of its width. -/
theorem State.w1cCount_eq_or_lt (s : State) (r c : Reg) (i : Nat) (v hw : Word) :
    s.w1cCount r c i v hw = s.rdN c i ∨ s.w1cCount r c i v hw < 2 ^ 32 := by
  unfold State.w1cCount
  by_cases hset : hw &&& r.info.w1c = 0
  · simp only [if_pos hset]
    split
    · exact .inl rfl
    · exact .inr (by decide)
  · simp only [if_neg hset]
    exact .inr (Nat.lt_of_le_of_lt (Nat.min_le_right ..) (by decide))

/-- The counter of a sound state reads what a W1C write gives it (R547). -/
theorem State.rdN_w1cWrite_counter (v hw : Word) (hinv : s.Inv) (hc : r.counterOf = some c) :
    (s.w1cWrite r i v hw).rdN c i = s.w1cCount r c i v hw := by
  obtain ⟨-, h32, -⟩ := Reg.counterOf_spec (i := i) hc
  rw [State.w1cWrite_eq s i v hw hc]
  obtain hkept | hlt := s.w1cCount_eq_or_lt r c i v hw
  · rw [hkept]
    exact State.rdN_wrN_rdN s _ (hinv.fit_counter hc)
  · exact State.rdN_wrN_self _ h32 hlt

theorem State.hwSet_eq (s : State) (i m : Nat) (hc : r.counterOf = some c) :
    s.hwSet r i m = (s.wr r i (s.rd r i ||| w64 m)).wrN c i (min (s.rdN c i + 1) 255) := by
  simp only [State.hwSet, hc]

end W1cRegisters

/-- Settles O13: a W1C write by what it leaves in the register, in its counter and elsewhere; hardware alone by its two writes. -/
theorem w1cBitsAndEventCounters : Obligations.W1cBitsAndEventCounters := by
  refine ⟨?write, ?hardware⟩
  case write =>
    intro fn off value hw i r s hinv hfn hoff hr h1c hrun
    obtain ⟨c, hc⟩ := Reg.counterOf_of_w1c h1c
    obtain ⟨hne, -, -⟩ := Reg.counterOf_spec (i := i) hc
    refine ⟨c, _, hc, execW1cClearWrite_clears value hw hfn hoff hr h1c hrun, ?bits, ?count, ?others, ?frame⟩
    case bits =>
      intro b hb
      have hstatus : (s.w1cWrite r i (w64 value) (w64 hw)).rd r i = r.fit (s.w1cStatus r i (w64 value) (w64 hw)) := by
        rw [State.rd_w1cWrite _ _ hc fun h => hne h.1.symm, State.rd_wr_self]
      exact (congrArg (·.getLsbD b) hstatus).trans ((Reg.fit_getLsbD_of_w1c _ hb).trans (State.w1cStatus_getLsbD _ _ hb))
    case count => exact State.rdN_w1cWrite_counter _ _ hinv hc
    case others => exact fun q j hq hqc => (State.rd_w1cWrite _ _ hc hqc).trans (State.rd_wr_other _ _ _ _ _ _ hq)
    case frame =>
      rw [State.w1cWrite_eq s i _ _ hc]
      rfl
  case hardware =>
    intro r c i m s hc
    obtain ⟨hne, h32, -⟩ := Reg.counterOf_spec (i := i) hc
    rw [State.hwSet_eq s i m hc]
    refine ⟨State.rdN_wrN_self _ h32 (by omega), ?_⟩
    exact (State.rd_wr_other _ _ _ _ _ _ fun h => hne h.1.symm).trans (State.rd_wr_self ..)

section IdleStep

variable {s : State}

/-- At most the fabric differs: what passes with clock cycles alone. -/
def SameButFab (s t : State) : Prop := t = { s with fab := t.fab }

theorem State.countBubbles_sameButFab {t : State} (h : SameButFab s t) (i lo : Nat) : SameButFab s (t.countBubbles i lo) := by
  rw [State.countBubbles]
  split
  · exact h
  · exact congrArg (State.updIsl · i _) h

/-- Counting cycles and bubbles changes the fabric alone. -/
theorem State.countCycles_sameButFab (s : State) : SameButFab s s.countCycles :=
  List.foldlRecOn _ _ rfl fun _ h i _ => State.countBubbles_sameButFab h i _

theorem State.relockDue_idle (h : s.clk.relock = []) : s.relockDue = s := by
  simp only [State.relockDue, h, List.find?_nil]

theorem State.closeWindow_idle (h : s.upd.stage ≠ .window) : s.closeWindow = s := by
  rw [State.closeWindow, bne_iff_ne.mpr h, Bool.true_or, if_pos rfl]

theorem State.settleInval_idle (h : s.lnk.inval = []) : s.settleInval = s := by
  simp only [State.settleInval, h, List.find?_nil]

/-- In a powered module that waits for nothing, a nanosecond passes and cycles are counted (R607, R610, R486, R402). -/
theorem tick_powered (hon : s.brd.powered = true) (hlock : s.clk.relock = []) (hstage : s.upd.stage ≠ .window)
    (hinval : s.lnk.inval = []) : tick s = { s with time := (s.time + 1) % 2 ^ 64 }.countCycles := by
  have hfab := State.countCycles_sameButFab { s with time := (s.time + 1) % 2 ^ 64 }
  rw [tick, if_neg (not_eq_true_of hon)]
  generalize State.countCycles { s with time := (s.time + 1) % 2 ^ 64 } = t at hfab ⊢
  have hclk : t.clk.relock = [] := by rw [hfab]; exact hlock
  have hupd : t.upd.stage ≠ .window := by rw [hfab]; exact hstage
  have hlnk : t.lnk.inval = [] := by rw [hfab]; exact hinval
  rw [State.relockDue_idle hclk, State.closeWindow_idle hupd, State.settleInval_idle hlnk]

theorem tick_unpowered (hoff : s.brd.powered = false) : tick s = s := by
  rw [tick, hoff]
  rfl

/-- With no command waiting, a step is a tick. -/
theorem step_of_no_pending (h : s.pending = []) : step s = .next (tick s) := by
  simp only [step, h]

end IdleStep

/-- Settles O2: an idle step is a tick of a powered or of an unpowered module. -/
theorem idleStepPassesOneNanosecond : Obligations.IdleStepPassesOneNanosecond :=
  ⟨fun _ hidle hon hlock hstage hinval => (step_of_no_pending hidle).trans (congrArg _ (tick_powered hon hlock hstage hinval)),
   fun _ hidle hoff => (step_of_no_pending hidle).trans (congrArg _ (tick_unpowered hoff))⟩


section Actuator

variable {s : State}

/- The actuator (R498, R500, R505, R524). -/

/-- Below the current limit, a duty tick adds no bubbles for it: what the tick computes with none is its whole effect (R498, R500). -/
def State.dutyTick (s : State) (draw isl : Nat) (ps : List Nat) (amps : Nat) : State :=
  let t := { s with pwr := { s.pwr with powerI := ps.zipIdx.map fun (e : Nat × Nat) => (e.2, e.1) } }
  let sp := t.split (s.pwr.limit * 1000 - (draw - isl))
  let al := t.allocs sp
  let t := { t with pwr := { t.pwr with
    budget := (List.range 64).map fun i => (i, nextBudget (tabGet s.pwr.budget 0 i) (ps[i]?.getD 0) (tabFind al i)) } }.noteMicro
  let t := sp.foldl (fun (t : State) e => t.wrN .PWR_PH_SHARE e.1 (min 65535 (e.2 / 1000) + (t.prt e.1).budget * 65536)) t
  let t := (List.range 64).foldl (fun t i => t.islandDuty 0 i) t
  let t := (List.range 17).foldl (fun t f => t.countReasons f) t
  let t := (List.range 64).foldl (fun t i => t.endMicro i) t
  ((t.averageDraw draw isl).wrN .PWR_INPUT 0 (min 65535 s.pwr.mv + amps * 65536)).updGuard

theorem execDutyTick_below {draw isl amps : Nat} {ps : List Nat} (hlen : ps.length = 64) (hamps : amps ≤ 3000) :
    execDutyTick draw isl ps amps s = .next (s.dutyTick draw isl ps amps) := by
  have hbelow : ¬ 3000 < amps := by omega
  have hin : amps < 65536 := by omega
  rw [execDutyTick, onUnit_holds _ ⟨hlen, hin⟩]
  simp only [if_neg hbelow]
  rfl

/-- A reason that has been out of force for its time ends with an entry of the throttle ring (R524). -/
theorem execThrottleEndTimeout_ends {fn r : Nat} (hfn : fn ≤ 16) (hlo : 1 ≤ r) (hhi : r ≤ 12)
    (hout : (tabFind s.pwr.outSince (thrKey fn r)).isNone = false) :
    let t := s.thrEntry fn r true (tabGet s.pwr.thrMask 0 (thrKey fn r))
    execThrottleEndTimeout fn r s = .next { t with pwr := { t.pwr with
      outSince := tabDel t.pwr.outSince (thrKey fn r), thrMask := tabDel t.pwr.thrMask (thrKey fn r) } } :=
  (onUnit_holds _ ⟨hfn, hlo, hhi⟩).trans (congrArg _ (if_neg (Bool.eq_false_iff.mp hout)))

/-- A new point that nothing holds back is granted, and the VFs that have the points they asked for take the time of the switch (R503 to
R507). -/
theorem execOpGrantChange_grants {d op : Nat} {x : Nat × Nat} (hd : d < 4) (hop : op < 6) (hslow : s.newSlow d op = some x)
    (hgo : (op = tabGet s.pwr.granted 5 d || s.pdmRuns d ||
      (decide (op < tabGet s.pwr.granted 5 d) && (s.pwr.floor || s.pwr.trip || s.pwr.supply))) = false) :
    let t := if x.1 = (tabGet s.pwr.slow (0, 0) d).1 then s else s.clearHist d
    let t := ({ t with pwr := { t.pwr with slow := tabSet t.pwr.slow d x, preset := tabDel t.pwr.preset d } }.setOp d op).syncMargin
    execOpGrantChange d op s = .next ((t.boundVfs.filter fun v => t.hasActive v && (t.diesOf v).contains d).foldl (fun t v =>
      if (t.diesOf v).all fun d => tabGet t.pwr.granted 5 d == t.requestedOp d then t.wrN .PWR_PH_SWITCH_T v t.time else t) t) := by
  rw [execOpGrantChange, onUnit_holds _ ⟨hd, hop⟩]
  simp only [hslow, if_neg (Bool.eq_false_iff.mp hgo)]

/- Trips and the supply (R517 to R519). -/

theorem execTripExit_ends {failed : List Nat} (hall : (failed.all fun k => decide (k < 64 * 66)) = true) (htrip : s.pwr.trip = true)
    (hlimit : 500 ≤ s.limitNow.1) : execTripExit failed s =
    .next (({ s with pwr := { s.pwr with trip := false } }.wrF .PWR_STATUS 0 5 1 0).tripOver failed) := by
  have hgo : ¬ (!s.pwr.trip || decide (s.limitNow.1 < 500)) = true := by
    rw [htrip, decide_eq_false (Nat.not_lt.mpr hlimit)]
    exact Bool.false_ne_true
  rw [execTripExit, onUnit_passes _ hall, if_neg hgo]

theorem execTripHoldTimeout_trip (hsupply : s.pwr.supply = false) (htrip : s.pwr.trip = true) :
    execTripHoldTimeout s = .next (s.endHeld rThermal) :=
  congrArg _ ((if_neg (Bool.eq_false_iff.mp hsupply)).trans (if_pos htrip))

/-- An input outside its range, where the supply has not yet stopped the module, stops it (R519). -/
theorem execInputOutOfRange_stops {mv : Nat} (hout : mv < 44000 ∨ 60000 < mv) (hmv : mv < 65536) (hsupply : s.pwr.supply = false) :
    execInputOutOfRange mv s = .next (({ s with pwr := { s.pwr with mv := mv } }.wrF .PWR_INPUT 0 0 16 mv).tripNow true) := by
  have hin : mv < 2 ^ 16 := hmv
  have hrange : ¬ (44000 ≤ mv ∧ mv ≤ 60000) := by omega
  rw [execInputOutOfRange, onUnit_holds _ hin, if_neg hrange]
  exact congrArg _ (if_neg (Bool.eq_false_iff.mp hsupply))

/-- A supply stop ends at a good input with no warning and no trip (R517, R519). -/
theorem execSupplyStopExit_ends {mv : Nat} {failed : List Nat} (hall : (failed.all fun k => decide (k < 64 * 66)) = true)
    (hsupply : s.pwr.supply = true) (hlo : 48000 ≤ mv) (hhi : mv ≤ 58000) (hwarn : s.pwr.warn = false) (htrip : s.pwr.trip = false) :
    execSupplyStopExit mv failed s =
    .next ((({ s with pwr := { s.pwr with supply := false, mv := mv } }.wrF .PWR_INPUT 0 0 16 mv).wrF .PWR_STATUS 0 6 1 0).tripOver
      failed) := by
  have hgo : ¬ (!s.pwr.supply || decide (mv < 48000) || decide (58000 < mv) || s.pwr.warn || s.pwr.trip) = true := by
    rw [hsupply, hwarn, htrip, decide_eq_false (Nat.not_lt.mpr hlo), decide_eq_false (Nat.not_lt.mpr hhi)]
    exact Bool.false_ne_true
  rw [execSupplyStopExit, onUnit_passes _ hall, if_neg hgo]

/-- An input of 58 to 60 V is logged (R519). -/
theorem execSupplyExcursion_logs {mv : Nat} (hlo : 58000 < mv) (hhi : mv ≤ 60000) : execSupplyExcursion mv s =
    .next (({ s with pwr := { s.pwr with mv := mv } }.wrF .PWR_INPUT 0 0 16 mv).log 4 0x11 0 0 0x62 0x1F 0 0 mv 0) := by
  have hmv : mv < 2 ^ 16 := by omega
  have hrange : ¬ (mv ≤ 58000 ∨ 60000 < mv) := by omega
  rw [execSupplyExcursion, onUnit_holds _ hmv, if_neg hrange]

end Actuator

/-- Settles O51: each command by its lemma; what has no condition beyond its operands' ranges is its own definition. -/
theorem actuatorAndTripCommands : Obligations.ActuatorAndTripCommands := by
  refine ⟨?tick, ?throttleEnd, ?grant, ?preset, ?scan, ?tripExit, ?tripHold, fun s => rfl, fun s => rfl, fun s => rfl, ?range,
    ?supplyExit, ?excursion, ?margin, fun a b c s => rfl, ?rainflow⟩
  case tick => exact fun draw isl amps ps s hlen hamps => execDutyTick_below hlen hamps
  case throttleEnd => exact fun fn r s hfn hlo hhi hout => execThrottleEndTimeout_ends hfn hlo hhi hout
  case grant => exact fun d op x s hd hop hslow hgo => execOpGrantChange_grants hd hop hslow hgo
  case preset => exact fun d s hd => onUnit_holds _ hd
  case scan => exact fun l hub media s hlen => onUnit_holds _ hlen
  case tripExit => exact fun failed s hall htrip hlimit => execTripExit_ends hall htrip hlimit
  case tripHold => exact fun s hsupply htrip => execTripHoldTimeout_trip hsupply htrip
  case range => exact fun mv s hout hmv hsupply => execInputOutOfRange_stops hout hmv hsupply
  case supplyExit =>
    exact fun mv failed s hall hsupply hlo hhi hwarn htrip => execSupplyStopExit_ends hall hsupply hlo hhi hwarn htrip
  case excursion => exact fun mv s hlo hhi => execSupplyExcursion_logs hlo hhi
  case margin => exact fun d taps s hd hlen htaps => onUnit_holds_passes _ ⟨hd, hlen⟩ htaps
  case rainflow => exact fun l hh s hlen hhot => onUnit_holds_passes _ hlen hhot

section ErrorsAndResets

variable {s : State} {fn mbx : Nat}

/- Reports and watchdogs (R541, R553, R558). -/

/-- A report of a defined source and class reaches the log; an uncorrectable error of hub SRAM asks for a chip reset after a dump (R541,
R558). -/
theorem execErrorReport_reports {r : Rep} (hdie : r.die < 7) (hunit : r.unit ≤ 0x1B) (hinst : r.inst < 256) (hsub : r.sub < 256)
    (hsev : (classSevs r.cls).contains r.sev = true) :
    execErrorReport r s = .next (if r.cls = 0x39 then (s.report r).askChipDump 12 else s.report r) :=
  onUnit_holds_passes _ ⟨hdie, hunit, hinst, hsub⟩ hsev

/-- A running thread of a context that hangs outside a replay resets its context (R553). -/
theorem execCoreProgressWatchdog_stops {g : Nat} {u : State} (hg : g < 32768) (hrun : (s.th g).st = .run)
    (hhangs : s.ctxHangs (s.th g).ctx = true) (hu : u = s.watchdog.logCore (thIsl g) (thCore g % 64) 0x31 2 0 0 (s.th g).ctx)
    (hreplay : u.ras.replaying ≠ some (s.th g).ctx) :
    execCoreProgressWatchdog g s = .next (u.stopCtx (s.th g).ctx .watchdog (some (srcIsland (thIsl g)))) := by
  have hgo : ¬ ((s.th g).st != .run || !s.ctxHangs (s.th g).ctx) = true := by
    rw [hrun, hhangs]
    exact Bool.false_ne_true
  subst hu
  rw [execCoreProgressWatchdog, onUnit_holds _ hg]
  exact congrArg _ ((if_neg hgo).trans (if_neg hreplay))

/-- Outside a handover window and a boot, the MCP's watchdog asks for a chip reset without a dump (R553, R567). -/
theorem execMcpWatchdog_asks (hstage : s.upd.stage ≠ .window) (hup : s.fnState 0 ≠ fnBooting) :
    execMcpWatchdog s = .next ((s.watchdog.log 4 9 0 0 0x32 0x1F 3 0 0 0).askChip 10) := by
  have hgo : ¬ (s.upd.stage == .window || s.fnState 0 == fnBooting) = true := by
    rw [beq_eq_false_iff_ne.mpr hstage, beq_eq_false_iff_ne.mpr hup]
    exact Bool.false_ne_true
  exact congrArg _ (if_neg hgo)

/- Resets and replays (R554, R564, R565). -/

/-- An engine reset that waits for no dump is carried out (R554, R569). -/
theorem execEngineReset_resets {src cause : Nat} {failed : List Nat} (hsrc : isEngine src = true)
    (hall : (failed.all fun k => decide (k < 64 * 66)) = true) (hasked : s.ras.resets.contains (.engine src cause) = true)
    (hfree : (engineCounted cause && s.dumpHolds 1) = false) :
    execEngineReset src cause failed s = .next (s.dueEngine src cause failed) := by
  have hunit : (isEngine src && failed.all fun k => decide (k < 64 * 66)) = true := by rw [hsrc, hall]; rfl
  have hgo : ¬ (!s.ras.resets.contains (.engine src cause) || (engineCounted cause && s.dumpHolds 1)) = true := by
    rw [hasked, hfree]
    exact Bool.false_ne_true
  rw [execEngineReset, onUnit_passes _ hunit, if_neg hgo]

theorem execSuspectReplayStart_starts {c : Nat} {l : List Nat} (hnone : s.ras.replaying = none) (hsuspects : s.ras.suspects = c :: l) :
    execSuspectReplayStart s = .next (s.startReplay c) := by
  simp only [execSuspectReplayStart, hnone, hsuspects]

/-- A suspect that did not hang in its replay is one no more (R564). -/
theorem execSuspectReplayEnd_clears {c : Nat} (hreplay : s.ras.replaying = some c) (hgood : s.ras.replayHung = false) :
    execSuspectReplayEnd s = .next ({ s with ras := { s.ras with
      replaying := none, replayHung := false, suspects := s.ras.suspects.filter (· != c) } }.replaysOver) := by
  simp only [execSuspectReplayEnd, hreplay, hgood, if_neg Bool.false_ne_true]

/- Commands (R558). -/

/-- SELFTEST of one island resets that island and answers the number of its failing cores (R80, R558). -/
theorem execSelftest_tests {i : Nat} {failed : List Nat} (hall : (failed.all fun k => decide (k < 64 * 66)) = true)
    (hp : s.posted fn mbx 0x606 = true) (harg : s.arg fn mbx 0 = i) (hi : i < 64) : execSelftest fn mbx failed s =
    .next (((s.accept fn mbx).engineReset (srcIsland i) 5 true failed).cmdDone fn mbx 0x606 rOk [(failedOn failed i).length]) := by
  have hlimit : ¬ s.badLimit fn mbx 0x606 = true := by
    rw [State.badLimit, harg, decide_eq_false (Nat.not_le.mpr hi)]
    exact Bool.false_ne_true
  have hone : ¬ i = 0xFFFF := by omega
  rw [execSelftest, State.cmd_posted _ hp]
  simp only [if_neg (not_eq_true_of hall), if_neg hlimit, harg, if_neg hone]
  rfl

end ErrorsAndResets

/-- Settles O52: each command by its lemma; a report by whether its class is that of hub SRAM. -/
theorem errorAndResetCommands : Obligations.ErrorAndResetCommands := by
  refine ⟨?report, ?hubSram, fun moved s => rfl, ?core, ?unitStop, ?video, ?mcp, ?engine, ?cycle, ?replayStart, ?replayEnd, ?selftest,
    fun fn mbx s hp => State.MailRuns.posted rfl hp, fun fn mbx s hp => State.MailRuns.posted rfl hp⟩
  case report =>
    intro r s hdie hunit hinst hsub hsev hcls
    exact (execErrorReport_reports hdie hunit hinst hsub hsev).trans (congrArg _ (if_neg hcls))
  case hubSram =>
    intro r s hdie hunit hinst hsub hsev hcls
    have hfatal : (classSevs r.cls).contains r.sev = true := by rw [hcls, hsev]; decide
    exact (execErrorReport_reports hdie hunit hinst hsub hfatal).trans (congrArg _ (if_pos hcls))
  case core => exact fun g s u hg hrun hhangs hu hreplay => execCoreProgressWatchdog_stops hg hrun hhangs hu hreplay
  case unitStop =>
    exact fun src s hsrc hworks => (onUnit_passes _ hsrc).trans (congrArg _ (if_neg (not_eq_true_of hworks)))
  case video => exact fun eng s heng hbusy => (onUnit_holds _ heng).trans (congrArg _ (if_neg (not_eq_true_of hbusy)))
  case mcp => exact fun s hstage hup => execMcpWatchdog_asks hstage hup
  case engine => exact fun src cause failed s hsrc hall hasked hfree => execEngineReset_resets hsrc hall hasked hfree
  case cycle => exact fun s hasked => congrArg _ (if_neg hasked)
  case replayStart => exact fun c l s hnone hsuspects => execSuspectReplayStart_starts hnone hsuspects
  case replayEnd => exact fun c s hreplay hgood => execSuspectReplayEnd_clears hreplay hgood
  case selftest => exact fun fn mbx i failed s hall hp harg hi => execSelftest_tests hall hp harg hi

section LogAndDumps

variable {s t u : State} {fn mbx : Nat}

/- The log, policies and page states (R162, R538, R561). -/

/-- LOG_READ releases the entries before its first, and answers the count of those it writes and the next index (R538). -/
theorem execLogRead_writes (hp : s.posted fn mbx 0x600 = true)
    (ht : t = s.logRelease (logAhead (s.arg fn mbx 0) (s.rdN .RAS_LOG_ACK 0)))
    (hput : t.bulkPut fn (s.arg64 fn mbx 2) ((t.ras.log.take (s.arg fn mbx 1)).flatMap LogEnt.bytes) = some u) :
    let n := (t.ras.log.take (s.arg fn mbx 1)).length
    execLogRead fn mbx s = .next (u.respond fn mbx rOk [n, (u.rdN .RAS_LOG_ACK 0 + n) % 2 ^ 32]) := by
  subst ht
  rw [execLogRead, State.cmd_posted _ hp]
  simp only [hput]

/-- A policy of a rule that has one is stored within its ranges (R561). -/
theorem execRasSetPolicy_stores (hp : s.posted fn mbx 0x604 = true)
    (hrule : [0, 1, 2, 3, 4, 8, 9, 10].contains (s.arg fn mbx 0) = true) (hcountLo : 1 ≤ s.arg fn mbx 1)
    (hcountHi : s.arg fn mbx 1 ≤ 65535) (htimeLo : 1 ≤ s.arg fn mbx 2) (htimeHi : s.arg fn mbx 2 ≤ 604800) :
    execRasSetPolicy fn mbx s =
    .next ({ s with ras := { s.ras with
      policy := tabSet s.ras.policy (s.arg fn mbx 0) (s.arg fn mbx 1, s.arg fn mbx 2) } }.respond fn mbx rOk []) := by
  have hrange : ¬ (!([0, 1, 2, 3, 4, 8, 9, 10].contains (s.arg fn mbx 0)) || decide (s.arg fn mbx 1 = 0) ||
      decide (65535 < s.arg fn mbx 1) || decide (s.arg fn mbx 2 = 0) || decide (604800 < s.arg fn mbx 2)) = true := by
    rw [hrule, decide_eq_false (by omega), decide_eq_false (by omega), decide_eq_false (by omega), decide_eq_false (by omega)]
    exact Bool.false_ne_true
  rw [execRasSetPolicy, State.cmd_posted _ hp]
  exact congrArg _ (if_neg hrange)

/-- PAGE_STATE_READ writes the entries of pages that the plain has (R162). -/
theorem execPageStateRead_writes (hp : s.posted fn mbx 0x605 = true) (hpages : s.arg fn mbx 0 + s.arg fn mbx 1 ≤ 1835008)
    (hput : s.bulkPut fn (s.arg64 fn mbx 2)
      ((List.range (s.arg fn mbx 1)).flatMap fun k => (s.page (s.arg fn mbx 0 + k)).bytes) = some t) :
    execPageStateRead fn mbx s = .next (t.respond fn mbx rOk [s.arg fn mbx 1]) := by
  rw [execPageStateRead, State.cmd_posted _ hp]
  simp only [if_neg (Nat.not_lt.mpr hpages), hput]

/- Dumps (R567 to R570). -/

/-- A reset that waits for its dump gets it outside a handover window (R567). -/
theorem execCrashDumpStart_starts {trigger domain : Nat} (htrigger : trigger < 2 ^ 32) (hlo : 1 ≤ domain) (hhi : domain ≤ 4)
    (hstage : s.upd.stage ≠ .window) (hneeds : s.ras.needDump.contains domain = true) :
    execCrashDumpStart trigger domain s = .next (s.triggerDump trigger domain) := by
  have hdomain : domain ≤ 5 := by omega
  have hreset : ¬ domain = 5 := by omega
  have hgo : ¬ (s.upd.stage == .window) = true := fun h => hstage (beq_iff_eq.mp h)
  rw [execCrashDumpStart, onUnit_holds _ ⟨htrigger, hlo, hdomain⟩, if_neg hgo, if_neg hreset, if_pos hneeds]

/-- A unit that does not answer in time is a section without contents of the dump that is being collected (R568). -/
theorem execDumpUnitTimeout_marks {src k : Nat} (hsrc : src < 2 ^ 24) (hcollect : s.ras.collecting = some k) :
    execDumpUnitTimeout src s =
    .next (s.updDump k fun d => { d with sections := d.sections ++ [(src, 1)], partialDump := true }) := by
  rw [execDumpUnitTimeout, onUnit_holds _ hsrc]
  simp only [hcollect]

theorem execDumpWriteDone_finishes {k : Nat} (hk : k < 4) (hwriting : (tabGet s.ras.dumps {} k).st = 2) :
    execDumpWriteDone k s = .next ((s.updDump k fun d => { d with st := 3 }).hwSet .RAS_EVT 0 512) :=
  (onUnit_holds _ hk).trans (congrArg _ (if_neg (not_not_intro hwriting)))

/-- A complete dump is read up to its length (R363, R570). -/
theorem execDumpRead_writes (hp : s.posted fn mbx 0x602 = true) (hk : s.arg fn mbx 0 < 4)
    (hkept : (tabGet s.ras.dumps {} (s.arg fn mbx 0)).st = 3) (ht : t = s.accept fn mbx)
    (hput : t.bulkPut fn (s.arg64 fn mbx 1) ((List.range (min (s.arg fn mbx 3) (tabGet s.ras.dumps {} (s.arg fn mbx 0)).len)).map
      (tabGet s.ras.dumps {} (s.arg fn mbx 0)).byte) = some u) :
    execDumpRead fn mbx s =
    .next (u.cmdDone fn mbx 0x602 rOk [min (s.arg fn mbx 3) (tabGet s.ras.dumps {} (s.arg fn mbx 0)).len]) := by
  have hfull : ¬ (tabGet s.ras.dumps {} (s.arg fn mbx 0)).st = 0 := by omega
  subst ht
  rw [execDumpRead, State.cmd_posted _ hp]
  simp only [if_neg (Nat.not_le.mpr hk), if_neg hfull, if_neg (not_not_intro hkept), hput]

/-- A complete dump is cleared (R570). -/
theorem execDumpClear_clears (hp : s.posted fn mbx 0x603 = true) (hk : s.arg fn mbx 0 < 4)
    (hkept : (tabGet s.ras.dumps {} (s.arg fn mbx 0)).st = 3) :
    execDumpClear fn mbx s = .next ((s.updDump (s.arg fn mbx 0) fun _ => {}).respond fn mbx rOk []) := by
  have hidle : ¬ ((tabGet s.ras.dumps {} (s.arg fn mbx 0)).st = 1 ∨ (tabGet s.ras.dumps {} (s.arg fn mbx 0)).st = 2) := by omega
  rw [execDumpClear, State.cmd_posted _ hp]
  exact congrArg _ ((if_neg (Nat.not_le.mpr hk)).trans (if_neg hidle))

end LogAndDumps

/-- Settles O53: each command by its lemma. -/
theorem logAndDumpCommands : Obligations.LogAndDumpCommands := by
  refine ⟨?read, fun fn mbx s hp => State.MailRuns.posted rfl hp, ?policy, ?pages, ?start, ?unitTimeout, ?deadline, ?writeDone, ?dumpRead,
    ?dumpClear⟩
  case read => exact fun fn mbx s t u hp ht hput => execLogRead_writes hp ht hput
  case policy =>
    exact fun fn mbx s hp hrule hcountLo hcountHi htimeLo htimeHi =>
      execRasSetPolicy_stores hp hrule hcountLo hcountHi htimeLo htimeHi
  case pages => exact fun fn mbx s t hp hpages hput => execPageStateRead_writes hp hpages hput
  case start =>
    exact fun trigger domain s htrigger hlo hhi hstage hneeds => execCrashDumpStart_starts htrigger hlo hhi hstage hneeds
  case unitTimeout => exact fun src k s hsrc hcollect => execDumpUnitTimeout_marks hsrc hcollect
  case deadline => exact fun left s hleft => onUnit_passes _ hleft
  case writeDone => exact fun k s hk hwriting => execDumpWriteDone_finishes hk hwriting
  case dumpRead => exact fun fn mbx s t u hp hk hkept ht hput => execDumpRead_writes hp hk hkept ht hput
  case dumpClear => exact fun fn mbx s hp hk hkept => execDumpClear_clears hp hk hkept

section PairHolder

variable {s t : State} {fn mbx : Nat}

/- Yielding (R598, R599, R602). -/

/-- A yield that the holder is asked for waits for a step boundary (R598). -/
theorem execYield_request {r : Nat} (keys : List Nat) (hr : r ≤ 8) (hholder : s.pair.holder = true) :
    execYield true r keys s = .next { s with pair := { s.pair with yieldDue := some 2 } } :=
  (onUnit_holds _ hr).trans (congrArg _ ((if_pos rfl).trans (if_pos hholder)))

/-- Without a line fault, a module learns that its partner yielded and leaves the role to the line (R598, R595). -/
theorem execYield_told {r : Nat} {keys : List Nat} (hr : r ≤ 8)
    (ht : t = { s with pair := { s.pair with
      partnerYielded := true, peerKeys := keys, reason := r, failover := true } }.flushHeld.updGuard)
    (hgood : t.pair.fault = false) : execYield false r keys s = .next t := by
  subst ht
  rw [execYield, onUnit_holds _ hr, if_neg Bool.false_ne_true]
  simp only [hgood, Bool.false_and, if_neg Bool.false_ne_true]

/-- The yield that is due is carried out at a step boundary (R598, R599). -/
theorem execHolderYield_yields {r : Nat} (hr : r ≤ 8) (hholder : s.pair.holder = true) (hdue : s.pair.yieldDue = some r)
    (hbound : s.atBoundary = true) :
    execHolderYield r s = .next (((s.releaseLine r).setLine lineFree).settleDrain) := by
  have hgo : (decide (s.pair.yieldDue = some r) && s.atBoundary || decide (r = 3) && s.soloDrain && !s.liveWork) = true := by
    rw [decide_eq_true hdue, hbound]
    rfl
  rw [execHolderYield, onUnit_holds _ hr, if_neg (not_eq_true_of hholder), if_pos hgo]

/- The line (R592 to R596). -/

/-- Three samples in one range are a reading (R593). -/
theorem execPairLockReading_reads {l : List Nat} {r : Nat} (hne : l ≠ []) (hall : (l.all fun v => decide (v < 4096)) = true)
    (hread : readingOf l = some r) :
    execPairLockReading l s = .next (((s.wrF .TWN_LOCK_MV 0 0 12 (l.getLast?.getD 0)).reading r).settleDrain) := by
  have hsamples : (!l.isEmpty && l.all fun v => decide (v < 4096)) = true := by
    rw [List.isEmpty_eq_false_iff.mpr hne, hall]
    rfl
  rw [execPairLockReading, onUnit_passes _ hsamples]
  simp only [hread]

/-- The holder of a line that is not contended takes note of what the probe measures (R594). -/
theorem execPairLockProbe_notes {rise : Nat} (hrise : rise < 4096) (ht : t = s.wrF .TWN_LOCK_MV 0 12 12 rise)
    (hholder : t.pair.holder = true) (hline : t.line ≠ lineContended) : execPairLockProbe rise s = .next t := by
  subst ht
  exact (onUnit_holds _ hrise).trans (congrArg _ ((if_pos hholder).trans (if_pos hline)))

theorem execClaimSettle_holds (hclaim : s.pair.claiming.isNone = false) (hself : s.line = lineSelf) :
    execClaimSettle s = .next s.becomeHolder :=
  congrArg _ ((if_neg (Bool.eq_false_iff.mp hclaim)).trans (if_pos hself))

/-- A healthy primary that is a SYNCED standby asks for the role back (R599). -/
theorem execTakebackTimer_asks (hprimary : s.pair.primary = true) (hrole : s.role = roleStandby) (hmirror : s.pair.mirrored = true)
    (hsynced : s.allSynced = true) (hback : s.rdF .TWN_PAIR_STATUS 0 11 1 = 1) (hwhole : s.degraded = false) (hpaired : s.paired = true)
    (htrip : s.pwr.trip = false) (hsupply : s.pwr.supply = false) (hstays : s.draining = false) (hserves : s.fnState 0 ≠ fnOos) :
    execTakebackTimer s = .next ({ s with pair := { s.pair with reason := 2 } }.twinSend 2) := by
  have hgo : (s.pair.primary && decide (s.role = roleStandby) && s.pair.mirrored && s.allSynced &&
      decide (s.rdF .TWN_PAIR_STATUS 0 11 1 = 1) && !s.degraded && s.paired && !s.pwr.trip && !s.pwr.supply && !s.draining &&
      decide (s.fnState 0 ≠ fnOos)) = true := by
    rw [hprimary, decide_eq_true hrole, hmirror, hsynced, decide_eq_true hback, hwhole, hpaired, htrip, hsupply, hstays,
      decide_eq_true hserves]
    rfl
  exact congrArg _ (if_pos hgo)

/-- Under a line fault with a silent partner the primary takes the role and the secondary gives it up (R595). -/
theorem execLineFaultSilent_decides (hfault : s.pair.fault = true) (hsilent : s.rdF .TWN_STATUS 0 4 1 ≠ 0) : execLineFaultSilent s =
    .next (if s.pair.primary then { s with pair := { s.pair with reason := 5 } }.becomeHolder else s.releaseLine 5) := by
  have hgo : ¬ (!s.pair.fault || decide (s.rdF .TWN_STATUS 0 4 1 = 0)) = true := by
    rw [hfault, decide_eq_false hsilent]
    exact Bool.false_ne_true
  exact congrArg _ (if_neg hgo)

/- Drain, tray pull and power loss (R602 to R604). -/

/-- A drain of a module that is drained is done at once (R602). -/
theorem execModuleDrain_again (hp : s.posted fn mbx 0x002 = true) (hfirst : s.pair.drainCmd = none) (hdrained : s.pair.drained = true) :
    execModuleDrain fn mbx s = .next ((s.accept fn mbx).cmdDone fn mbx 0x002 rOk []) := by
  rw [execModuleDrain, State.cmd_posted _ hp]
  simp only [hfirst, Option.isSome_none, if_neg Bool.false_ne_true, if_pos hdrained]

/-- The module drains: its functions that are READY show it, and it claims no line (R602). -/
def State.beginDrain (s : State) (fn mbx : Nat) : State :=
  let t := s.wrF .TWN_PAIR_STATUS 0 10 1 1
  { t with pair := { t.pair with drainCmd := some (fn, mbx), claiming := none } }.allFns fun t f =>
    if t.fnState f = fnReady then t.setFnState f fnDraining else t

/-- Where a partner takes the work over, the holder is to yield and a module that holds no line is drained at once (R602). -/
theorem execModuleDrain_begins (hp : s.posted fn mbx 0x002 = true) (hfirst : s.pair.drainCmd = none) (hwork : s.pair.drained = false)
    (ht : t = (s.accept fn mbx).beginDrain fn mbx) (hpair : t.soloDrain = false) : execModuleDrain fn mbx s =
    .next (if t.pair.holder then { t with pair := { t.pair with yieldDue := some 3 } }
      else { t with pair := { t.pair with drained := true, drainCmd := none } }.cmdDone fn mbx 0x002 rOk []) := by
  subst ht
  rw [execModuleDrain, State.cmd_posted _ hp]
  simp only [hfirst, Option.isSome_none, if_neg Bool.false_ne_true, hwork]
  exact congrArg _ (if_neg (Bool.eq_false_iff.mp hpair))

/-- The drain ends: its functions run as before, and a yield that waited for it is off (R602). -/
def State.endDrain (s : State) : State :=
  { s.wrF .TWN_PAIR_STATUS 0 10 1 0 with pair := { s.pair with
    drained := false, drainCmd := none, yieldDue := if s.pair.yieldDue = some 3 then none else s.pair.yieldDue } }.allFns fun t f =>
    if t.fnState f = fnDraining then t.setFnState f (t.runState f) else t

/-- A drain whose command has ended is undone, and a standby is resynchronised (R602). -/
theorem execModuleResume_ends (hp : s.posted fn mbx 0x003 = true) (hdrains : s.draining = true) (hdone : s.pair.drainCmd = none)
    (ht : t = s.endDrain) : execModuleResume fn mbx s =
    .next (((if t.role = roleStandby then t.resyncAll else t).respond fn mbx rOk []).resumeSteps) := by
  subst ht
  rw [execModuleResume, State.cmd_posted _ hp]
  simp only [if_neg (not_eq_true_of hdrains), hdone]
  rfl

/-- An armed pull warning makes a mirrored module give up the line and a solo module stop its work (R603). -/
theorem execPullWarnAssert_pulls (harmed : s.brd.armed = true) (hheeds : s.brd.pullIgnored = false) :
    let t := s.hwSet .TWN_PAIR_EVT 0 512
    execPullWarnAssert s = .next (if t.pair.mirrored then t.releaseLine 7 else t.pullSolo) := by
  have hgo : ¬ (!s.brd.armed || s.brd.pullIgnored) = true := by
    rw [harmed, hheeds]
    exact Bool.false_ne_true
  exact congrArg _ (if_neg hgo)

end PairHolder

/-- Settles O56: each command by its lemma. -/
theorem pairHolderCommands : Obligations.PairHolderCommands := by
  refine ⟨?request, ?told, ?yields, ?reading, ?probe, ?claim, ?settle, fun s => rfl, ?takeback, ?silent, ?drained, ?drain, ?idle, ?resume,
    ?pull, ?loss⟩
  case request => exact fun r keys s hr hholder => execYield_request keys hr hholder
  case told => exact fun r keys s t hr ht hgood => execYield_told hr ht hgood
  case yields => exact fun r s hr hholder hdue hbound => execHolderYield_yields hr hholder hdue hbound
  case reading => exact fun l r s hne hall hread => execPairLockReading_reads hne hall hread
  case probe => exact fun rise s t hrise ht hholder hline => execPairLockProbe_notes hrise ht hholder hline
  case claim => exact fun s hmay => congrArg _ (if_pos hmay)
  case settle => exact fun s hclaim hself => execClaimSettle_holds hclaim hself
  case takeback =>
    exact fun s hprimary hrole hmirror hsynced hback hwhole hpaired htrip hsupply hstays hserves =>
      execTakebackTimer_asks hprimary hrole hmirror hsynced hback hwhole hpaired htrip hsupply hstays hserves
  case silent => exact fun s hfault hsilent => execLineFaultSilent_decides hfault hsilent
  case drained => exact fun fn mbx s hp hfirst hdrained => execModuleDrain_again hp hfirst hdrained
  case drain => exact fun fn mbx s t hp hfirst hwork ht hpair => execModuleDrain_begins hp hfirst hwork ht hpair
  case idle =>
    intro fn mbx s hp hruns
    have hgo : (!s.draining) = true := by rw [hruns]; rfl
    exact State.MailRuns.posted_eq rfl hp (if_pos hgo)
  case resume => exact fun fn mbx s t hp hdrains hdone ht => execModuleResume_ends hp hdrains hdone ht
  case pull => exact fun s harmed hheeds => execPullWarnAssert_pulls harmed hheeds
  case loss => exact fun mv s hmv hon => (onUnit_holds _ hmv).trans (congrArg _ (if_neg (not_eq_true_of hon)))

section BootAndClocks

variable {s : State}

/- Boots (R554, R556, R612, R613). -/

theorem execPowerOn_boots {b : BootIn} (hb : bootOk b = true) (hoff : s.brd.powered = false) :
    execPowerOn b s = .next (s.boot b false false 4 (if s.rdF .RAS_OOS 0 0 8 = 5 then 4 else 0)) :=
  (onUnit_passes _ hb).trans (congrArg _ (if_neg (Bool.eq_false_iff.mp hoff)))

/-- A chip reset that no counter stops and that waits for nothing gives up the line of a mirrored pair, stops the work and boots with AON
kept (R554, R556). -/
theorem execChipResetSequence_boots {b : BootIn} {cause : Nat} {l : List Nat} (hb : bootOk b = true) (hcause : s.chipCauses = cause :: l)
    (hon : s.brd.powered = true) (hready : s.chipWaits = false) (hfree : chipCounted cause = false) :
    let t := s.dropReset (.chip cause)
    let t := if t.pair.mirrored then t.releaseLine 1 else t
    let t := (t.stopWork).resetEvent 3 0 cause 0
    execChipResetSequence b s = .next (t.boot b true (cause == 5 && t.rdF .RAS_OOS 0 0 8 == 1) 3 cause) := by
  have hgo : ¬ (!s.brd.powered || s.chipWaits) = true := by
    rw [hon, hready]
    exact Bool.false_ne_true
  rw [execChipResetSequence, onUnit_passes _ hb]
  simp only [hcause, if_neg hgo, hfree, if_neg Bool.false_ne_true]

/- References and PLLs (R609, R610). -/

/-- While REFCLK is there, a window counts the bad ones in a row, and the second loses it (R609). -/
theorem execRefclkWindow_counts (bad : Bool) (hon : s.brd.powered = true) (hthere : s.clk.refLost = false) :
    let n := if bad then s.clk.refBad + 1 else 0
    let t := { s with clk := { s.clk with refBad := n } }
    execRefclkWindow bad s = .next (if n = 2 then { t with clk := { t.clk with refBad := 0 } }.refclkLost else t) := by
  have hgo : ¬ (!s.brd.powered || s.clk.refLost) = true := by
    rw [hon, hthere]
    exact Bool.false_ne_true
  exact congrArg _ (if_neg hgo)

theorem execPllLossOfLock_gates {d : Nat} (hpll : hasPll d = true) (hlocked : bitAt (s.rdN .TIM_CLK_LOCK 0) d = true) :
    execPllLossOfLock d s =
    .next ({ s with clk := { s.clk with relock := s.clk.relock ++ [(d, s.time)] } }.wrF .TIM_CLK_LOCK 0 d 1 0) :=
  (onUnit_passes _ hpll).trans (congrArg _ (if_neg (not_eq_true_of hlocked)))

theorem execPllRelockTimeout_fails {d : Nat} (hpll : hasPll d = true) (hwaits : (s.clk.relock.any fun e => e.1 == d) = true) :
    execPllRelockTimeout d s =
    .next ({ s with clk := { s.clk with relock := s.clk.relock.filter fun e => e.1 != d } }.pllDead d) :=
  (onUnit_passes _ hpll).trans (congrArg _ (if_neg (not_eq_true_of hwaits)))

/- Time sources (R616, R624). -/

/-- The third edge in a row that lies 1 s after the last makes PPS_IN valid (R616). -/
theorem execPpsInEdge_validates {a b c : Nat} (hc : c < 2 ^ 64) (hedges : s.clk.ppsEdges = [a, b]) (hab : ppsApart a b = true)
    (hbc : ppsApart b c = true) :
    let t := ({ s with clk := { s.clk with ppsEdges := [a, b, c] } }.wrI .TIM_PPS_ERR 32 (ppsErr c)).wrF .TIM_STATUS 0 6 1 1
    execPpsInEdge c s = .next (if t.rdF .TIM_STATUS 0 6 1 = 1 then t.timeResult 3 (-(ppsErr c)) else t) := by
  rw [execPpsInEdge, onUnit_holds _ hc, hedges]
  simp only [List.cons_append, List.nil_append, List.length_cons, List.length_nil, Nat.reduceAdd, Nat.reduceSub, List.drop_zero, hab, hbc,
    Bool.and_true, if_true]

end BootAndClocks

/-- Settles O46: each command by its lemma; the window by whether it is the second bad one or a good one. -/
theorem bootAndClockCommands : Obligations.BootAndClockCommands := by
  refine ⟨?powerOn, ?chip, ?badWindow, ?goodWindow, ?refReturn, ?loss, ?timeout, ?ptm, ?partner, ?edge, ?missing⟩
  case powerOn => exact fun b s hb hoff => execPowerOn_boots hb hoff
  case chip => exact fun b cause l s hb hcause hon hready hfree => execChipResetSequence_boots hb hcause hon hready hfree
  case badWindow =>
    intro s hon hthere hbad
    have hsecond : s.clk.refBad + 1 = 2 := by omega
    exact (execRefclkWindow_counts true hon hthere).trans (congrArg _ (if_pos hsecond))
  case goodWindow => exact fun s hon hthere => execRefclkWindow_counts false hon hthere
  case refReturn => exact fun s hlost => congrArg _ (if_neg (not_eq_true_of hlost))
  case loss => exact fun d s hpll hlocked => execPllLossOfLock_gates hpll hlocked
  case timeout => exact fun d s hpll hwaits => execPllRelockTimeout_fails hpll hwaits
  case ptm => exact fun o s hup => congrArg _ (if_neg (not_eq_true_of hup))
  case partner => exact fun o s hlinked => congrArg _ (if_neg (not_not_intro hlinked))
  case edge => exact fun a b c s hc hedges hab hbc => execPpsInEdge_validates hc hedges hab hbc
  case missing => exact fun s hvalid => congrArg _ (if_neg hvalid)

end Sys2Proof.Machine
